-- ==== Sys2Proof/Word.lean ====
section
/-! DEFINITION. The words of the machine (R6, R7) and their plainest views.
Word.lean holds the types and nothing that a rule of the spec could show wrong. -/

namespace Sys2Proof

/-- 8 bits (R7). -/
abbrev Byte := BitVec 8
/-- 16 bits (R7). -/
abbrev Half := BitVec 16
/-- 32 bits (R7). -/
abbrev Word := BitVec 32
/-- 64 bits (R7). -/
abbrev Dbl := BitVec 64

/-- Bytes of a line (R7). -/
abbrev lineBytes : Nat := 128

end Sys2Proof
end

