-- ==== Sys2Proof/Syntax.lean ====
section
/-! DEFINITION. The commands of the block: one constructor of `Instr` for every row of spec/opcode_table.json,
and the data that commands carry. The table gives its rows no operand bits; the operands below are what each
event of the spec needs to be said (which core, which port, which object, which packet). -/

namespace Sys2Proof

/-- The three masters of R416; a session is a privileged master. -/
inductive Master
  | ethercat
  | session (n : Nat)
  | secure
  | unprivileged
deriving DecidableEq, Repr

/-- The engines of a core that own a queue (R49), and the sequencer. -/
inductive Eng
  | ma | mvp | ve | dm | sgu | coll
deriving DecidableEq, Repr

/-- A physical error of one cell during an attempt: `delta` is added to what the cell holds before the drain. For the matrix array
`row` and `col` are a data cell's, counted from the descriptor's first column; row 128 is the check row, columns 128 and 129 the left and
the right half-column (R76, R177, R182). For the MVP `row` is the vector and `col` the weight row, 2048 the check accumulator (R184, R185). -/
structure CellErr where
  row : Nat
  col : Nat
  delta : Int
deriving DecidableEq, Repr

/-- A packet of the tensor fabric (R282): the header's fields, the operation argument and the payload lines.
`bytes` holds the payload, 128 bytes for each of LEN lines. -/
structure Packet where
  cls : Nat
  ver : Nat
  op : Nat
  len : Nat
  h : Nat
  hc : Nat
  order : Nat
  detour : Bool
  ddim : Nat
  ddev : Nat
  dep : Nat
  sdev : Nat
  sep : Nat
  domain : Nat
  jobtag : Nat
  seq : Nat
  poison : Nat
  dval : Nat
  xcopy : Bool
  rsvd : Nat
  arg : Nat
  crc : Nat
  bytes : List Byte
deriving DecidableEq, Repr

/-- How a packet's data words end on a fibre (R362). -/
inductive Trailer
  | endMark | abortMark | bad
deriving DecidableEq, Repr

/-- The common part of every link control word (R363), with what the receiver found of the superframe that carried it. -/
structure CwHead where
  fwd : Bool
  start : Nat
  shared : Nat
  /-- symbol errors of the superframe that carries the word, as (codeword 0 to 3, lane, how many), on lanes that are not erased (R360) -/
  errs : List (Nat × Nat × Nat) := []
deriving DecidableEq, Repr

/-- A message of the SDO-over-UDP service (R401), with the client's address and port it came from. -/
structure SdoMsg where
  addr : List Byte
  port : Nat
  magic : Nat
  ver : Nat
  type : Nat
  session : Nat
  seq : Nat
  index : Nat
  sub : Nat
  flags : Nat
  offset : Nat
  len : Nat
  rsvd : Nat
  data : List Byte
  tag : List Byte
deriving DecidableEq, Repr

/-- One UDP datagram on an E port (R382): the far end's address and UDP port, this end's UDP port, the traffic class and the hop limit, and
the packet it carries. -/
structure Datagram where
  addr : List Byte
  port : Nat
  ownPort : Nat
  dscp : Nat
  hops : Nat
  checksumOk : Bool
  pkt : Packet
deriving DecidableEq, Repr

/-- An IEEE 1588 message as the slave clock of R384 uses it, with the times in ns: a master's data set in the order in which the best
master clock algorithm compares it; Sync with its origin time where the master is one-step, and its arrival time; Follow_Up and
Delay_Resp by the number of the message they complete; a master's silence. -/
inductive PtpMsg
  | announce (domain : Nat) (dataSet : List Nat)
  | sync (domain seq : Nat) (origin : Option Int) (arrival : Int)
  | followUp (domain seq : Nat) (origin : Int)
  | delayResp (domain seq : Nat) (arrival : Int)
  | announceTimeout
deriving DecidableEq, Repr

/-- A non-UDP Ethernet frame on an E port (R380). -/
inductive EFrame
  | neighbourSolicit (target : List Byte)
  | neighbourAdvert (target : List Byte)
  | icmpEcho (target : List Byte) (payload : List Byte)
  | pause
  | fragment
  | extensionHeader
  | ipv4
  | tcp
  | uncorrectable
  | fcsError
  | other
deriving DecidableEq, Repr

/-- A frame as it comes in, with its length in bytes. -/
structure EFrameIn where
  len : Nat
  frame : EFrame
deriving DecidableEq, Repr

/-- A request for SafeOp, with what the master offers the process data (R390, R395): whether its SM3 settings are valid, and the period of
SYNC0 in ns. -/
structure SafeopRequest where
  ack : Bool
  sm3 : Bool
  sync0 : Nat
deriving DecidableEq, Repr

/-- A fibre port and its own monitor readings that have changed, by their index in `monitors` (R386). -/
structure PortLook where
  port : Nat
  own : List (Nat × Int)
deriving DecidableEq, Repr

/-- A direction of a fibre port. -/
structure PortSide where
  port : Nat
  receive : Bool
deriving DecidableEq, Repr

/-- A step of a lane's main sampler, and what its main path shows in corrected bits per second (R244). -/
structure TrackStep where
  up : Bool
  rate : Nat
deriving DecidableEq, Repr

/-- What a self-test of one site found (R461): faults that its own spares cover, or faults that exceed them. -/
structure SiteResult where
  /-- failed VE lane groups, by physical group (R111) -/
  lanes : List Nat
  /-- failed array columns, by physical column (R76) -/
  columns : List Nat
  /-- (layer, row) of failed near-stack rows (R458 kind 4) -/
  nearRows : List (Nat × Nat)
  /-- a fault that no spare of the site covers -/
  hard : Bool
deriving DecidableEq, Repr

/-- What the hardware reports when a start-up step ends (R445, R446). -/
structure StepReport where
  /-- straps as read, one value for each of CD0-CD3, XD0-XD3, MD (from step 4 on) -/
  straps : List Nat
  /-- HBM stacks that failed training (step 6) -/
  stacksFailed : List Nat
  /-- sites tested and what was found, by physical site 44 d + s (step 8) -/
  sites : List (Nat × SiteResult)
  /-- (link, group) pairs of groups with two failed wires (step 9) -/
  badGroups : List (Nat × Nat)
  /-- the start's length in ms so far -/
  ms : Nat
deriving DecidableEq, Repr

/-- Rows of spec/opcode_table.json, in the table's order. `c` is a logical core, `p` a fibre port, `n` an E port,
`h` a long-operation handle, `g` a group record, `m` the master that writes, `data` the bytes of a dictionary write, `own` the port's own
monitor readings that have changed, by their index in `monitors` (R386). -/
inductive Instr
  -- the sequencer's words (R57 to R65): core `c` executes the word at its PC
  | loop (c : Nat)
  | endloop (c : Nat)
  | setvl (c : Nat)
  | wait (c : Nat)
  | waitRelease (c : Nat)
  | waitTimeout (c : Nat)
  | signal (c : Nat)
  | brst (c : Nat)
  | yieldOp (c : Nat)
  | fence (c : Nat)
  | fenceComplete (c : Nat)
  | fenceTimeout (c : Nat)
  | tallyClear (c : Nat)
  | tallyStore (c : Nat)
  | tallyCompare (c : Nat)
  | tallyLoad (c : Nat)
  | halt (c : Nat)
  | illegalOp (c : Nat)
  | launchPeerStop
  -- the matrix array and the matrix-vector path
  | matrix (c : Nat)
  | matrixStart (c : Nat)
  | matrixComplete (c : Nat) (errs : List CellErr) (convDiff : Bool) (parity : Bool)
  | inPlaceRetry (c : Nat) (e : Eng)
  | proxyRetry (c : Nat) (e : Eng)
  | proxyRetryComplete (c : Nat) (e : Eng) (errs : List CellErr) (convDiff : Bool) (parity : Bool)
  | gemv (c : Nat)
  | loadx (c : Nat)
  | mvecStart (c : Nat)
  | gemvComplete (c : Nat) (errs : List CellErr) (parity : Bool)
  | loadxComplete (c : Nat)
  -- the vector engine: core `c` issues the VEC descriptor of that operation
  | add (c : Nat)
  | sub (c : Nat)
  | mul (c : Nat)
  | fma (c : Nat)
  | min (c : Nat)
  | max (c : Nat)
  | abs (c : Nat)
  | neg (c : Nat)
  | cmp (c : Nat)
  | sel (c : Nat)
  | andOp (c : Nat)
  | orOp (c : Nat)
  | xorOp (c : Nat)
  | notOp (c : Nat)
  | shl (c : Nat)
  | shr (c : Nat)
  | sra (c : Nat)
  | popc (c : Nat)
  | cvt (c : Nat)
  | pack (c : Nat)
  | unpkl (c : Nat)
  | unpkh (c : Nat)
  | mov (c : Nat)
  | exp (c : Nat)
  | log (c : Nat)
  | rsqrt (c : Nat)
  | tanh (c : Nat)
  | sigm (c : Nat)
  | erf (c : Nat)
  | rcp (c : Nat)
  | sqrt (c : Nat)
  | rsum (c : Nat)
  | rmax (c : Nat)
  | rmin (c : Nat)
  | rfin (c : Nat)
  | cmpr (c : Nat)
  | cmpri (c : Nat)
  | expd (c : Nat)
  | scani (c : Nat)
  | scanx (c : Nat)
  | smaxi (c : Nat)
  | smini (c : Nat)
  | lrec (c : Nat)
  | vecStart (c : Nat)
  | vecComplete (c : Nat) (errs : List CellErr) (parity : Bool)
  -- the sampler and generator unit
  | rand (c : Nat)
  | sample (c : Nat)
  | sguStart (c : Nat)
  | randComplete (c : Nat) (parity : Bool)
  | sampleComplete (c : Nat) (parity : Bool)
  -- the data mover
  | copy (c : Nat)
  | gather (c : Nat)
  | scatter (c : Nat)
  | panel (c : Nat)
  | rread (c : Nat)
  | rwrite (c : Nat)
  | rwriteAck (c : Nat)
  | moveStart (c : Nat)
  | moveComplete (c : Nat) (parity : Bool)
  -- the collective engine
  | allreduce (c : Nat)
  | reduceScatter (c : Nat)
  | allgather (c : Nat)
  | broadcast (c : Nat)
  | a2a (c : Nat)
  | a2av (c : Nat)
  | dispatch (c : Nat)
  | barrier (c : Nat)
  | collStart (c : Nat)
  | collComplete (c : Nat) (g : Nat) (bucket : Nat)
  | chipEventAdd
  | chipEventVisible
  -- launches and long operations
  | launch (m : Master) (data : List Byte)
  | launchDequeue
  | startBroadcast
  | streamFetchStart
  | streamFetchComplete (c : Nat)
  | launchEnd
  | resumeFrom (m : Master) (data : List Byte)
  | suspend (m : Master) (h : Nat)
  | corePark (c : Nat)
  | suspendRecordsWritten
  | resume (m : Master) (h : Nat)
  | cancel (m : Master) (h : Nat)
  | release (m : Master) (h : Nat)
  | handleLingerExpiry (h : Nat)
  | fwUpdate (m : Master) (data : List Byte)
  | fwUpdateVerified
  | fwUpdateCommitted
  | quote (m : Master) (data : List Byte)
  | quoteComplete (h : Nat)
  | aliasCertReady (produced : Bool)
  | scrub (m : Master) (data : List Byte)
  | scrubComplete (h : Nat)
  | marginHbmTiming (m : Master) (data : List Byte)
  | marginHbmVddq (m : Master) (data : List Byte)
  | marginNearBond (m : Master) (data : List Byte)
  | marginD2dEye (m : Master) (data : List Byte)
  | marginComplete (h : Nat) (results : List Byte)
  | selfTest (m : Master) (data : List Byte)
  | selfTestSiteDone (h : Nat) (site : Nat) (found : SiteResult)
  | calibrate (m : Master) (data : List Byte)
  | calibrationComplete (h : Nat)
  | shadow (m : Master) (data : List Byte)
  | shadowStep (h : Nat)
  | shadowTableReceive (h : Nat) (step : Nat) (table : List Byte)
  | shadowResendTimer (h : Nat)
  | shadowStepLimit (h : Nat)
  | tripRelease (m : Master) (data : List Byte)
  | cautiousAck (m : Master) (data : List Byte)
  -- resets and start-up
  | chipWarmReset (m : Master) (arg : Nat)
  | chipWarmResetFwdKept (m : Master) (arg : Nat)
  | computePlaneReset (m : Master) (arg : Nat)
  | forwardingPlaneReset (m : Master) (arg : Nat)
  | coreReset (m : Master) (arg : Nat)
  | managementReset (m : Master) (arg : Nat)
  | mdWatchdogExpiry
  | powerOn
  | resetNAssert
  | resetNRelease
  -- EtherCAT and the dictionary
  | alRequestInit (ack : Bool)
  | alRequestPreop (ack : Bool)
  | alRequestSafeop (ack : SafeopRequest)
  | alRequestOp (ack : Bool)
  | alRequestBootstrap (ack : Bool)
  | txpdoSample
  | sdoRequest (m : Master) (write complete : Bool) (index sub : Nat) (data : List Byte)
  | counterClear (m : Master) (index sub : Nat) (data : List Byte)
  | storedSettingWriteThrough
  | emcyCoalescedReport
  | foeWrite (name : String) (password : Nat) (data : List Byte)
  | recoveryVerifyDone
  | openSlice (msg : SdoMsg)
  | openReassemblyTimeout (addr : List Byte) (port : Nat)
  | sessionRead (msg : SdoMsg)
  | sessionWrite (msg : SdoMsg)
  | keepalive (msg : SdoMsg)
  | closeSession (msg : SdoMsg)
  | sessionIdleExpiry (n : Nat)
  | windowEntryWrite (m : Master) (data : List Byte)
  | windowRevoke (m : Master) (data : List Byte)
  | groupCreate (m : Master) (g : Nat)
  | groupDelete (m : Master) (g : Nat)
  | groupClearFault (m : Master) (g : Nat)
  | formTimer
  | form (fromE : Bool) (pkt : Packet)
  | membershipWrite (m : Master) (data : List Byte)
  | jobTagWrite (m : Master) (data : List Byte)
  | keySlotWrite (m : Master) (slot : Nat) (data : List Byte)
  | hbmRegionsWrite (m : Master) (region : Nat) (data : List Byte)
  | checkPolicyWrite (m : Master) (sub : Nat) (data : List Byte)
  | controllerKeyWrite (m : Master) (slot : Nat) (data : List Byte)
  | refusedByClear (m : Master) (data : List Byte)
  | enterBrumate (m : Master)
  | leaveBrumate (m : Master)
  | wakeComplete
  | baskEntry
  | testModeEnter (m : Master) (data : List Byte)
  | loopbackPortsWrite (m : Master) (data : List Byte)
  | eLoopbackWrite (m : Master) (data : List Byte)
  | w1cWrite (m : Master) (addr : Nat) (val : Word)
  | registerWrite (m : Master) (addr : Nat) (val : Word)
  -- the fabric
  | packetReceive (p : Nat) (pkt : Packet) (trailer : Trailer) (fecBad : Bool)
  | reorderTimeout (sdev sep cls : Nat)
  | linkStateNotice (pkt : Packet)
  | nullWord (p : Nat) (cw : CwHead)
  | credit (p : Nat) (cw : CwHead) (cls level total : Nat)
  | ident0 (p : Nat) (cw : CwHead) (domain coord : Nat) (ack : Bool)
  | ident1 (p : Nat) (cw : CwHead) (shape port : Nat)
  | cal (p : Nat) (cw : CwHead) (lane corrected : Nat) (power : Int) (own : List (Nat × Int))
  | txmon (p : Nat) (cw : CwHead) (lane stage : Nat) (reading : Int) (own : List (Nat × Int))
  | swap (p : Nat) (cw : CwHead) (lane spare phase : Nat)
  | dropWord (p : Nat) (cw : CwHead) (lane phase : Nat)
  | echo (p : Nat) (cw : CwHead) (time : Nat) (reply : Bool) (turnaround : Nat) (now : Nat)
  | heartbeat (p : Nat) (cw : CwHead) (beat kind label : Nat) (compute leaving : Bool) (epoch : Nat)
  | heartbeatSend
  | croakInterval
  | aggregationWindowEnd (kind label : Nat)
  | disagreeLimit (code device : Nat)
  | read (xd : Nat) (pkt : Packet)
  | write (xd : Nat) (pkt : Packet)
  | writeAck (xd : Nat) (pkt : Packet)
  | targetAccessComplete (xd : Nat) (entry : Nat)
  | readRsp (pkt : Packet)
  | wackRsp (pkt : Packet)
  | refuseBackoffExpiry (c slot : Nat)
  | remoteTimeout (c slot : Nat)
  | grantIssue (g bucket peer level phase first count : Nat)
  | grant (pkt : Packet)
  | data (pkt : Packet)
  | abort (pkt : Packet)
  | token (pkt : Packet)
  | xack (pkt : Packet)
  | xackTimer (g peer : Nat)
  | xdomRtoExpiry (g peer seq : Nat)
  | latecomerTimeout (g : Nat) (rank : Nat)
  | eDatagramReceive (n : Nat) (d : Datagram)
  | ptpMessage (n : Nat) (msg : PtpMsg)
  | calendarSet (time : Nat)
  -- optical ports
  | linkBringupStepDone (p : PortLook) (ok : Bool)
  | fecLinkDown (p : Nat)
  | losDeclared (p : PortLook)
  | probeTimer (p : PortLook)
  | lightDetected (p : PortLook)
  | ringLockLost (p : Nat) (receive : Bool) (lane : Nat)
  | ringRelockTimeout (p : Nat) (receive : Bool) (lane : Nat)
  | fadeWarn (p laser output : Nat)
  | fadeAct (p laser output : Nat)
  | fadeRecover (p laser : Nat)
  | spareLocked (p spare : Nat)
  | spareLockTimeout (p spare : Nat)
  | swapProposeRetry (p : Nat)
  | swapSwitchover (p : PortSide)
  | eLaserReplace (n lane : Nat)
  -- rails, clocks, die-to-die links
  | railGood (r : Nat)
  | railLost (r : Nat)
  | railAbsentTimeout (r : Nat)
  | refclockLost
  | pllLockLost (die : Nat)
  | d2dCrcReplay (link : Nat) (rev : Bool) (group : Nat)
  -- power and temperature
  | powerSample (watts : Nat)
  | capLoopEval
  | slewInterval (busy : Nat)
  | limiterCheck (rise : Nat) (excused : Bool)
  | pwrcapNAssert
  | pinCeilingLapse
  | pwrcapNRelease
  | sensorSample (i : Nat) (temp : Int) (time : Nat)
  | clampEnd
  | warnClear (i : Nat)
  | sampleRateLower (i : Nat)
  | tripPowerDown
  -- memory upkeep
  | refreshBlock (stack : Nat)
  | patrolScrubRead (line : Nat)
  | samplerTrackStep (stack channel lane : Nat) (up : TrackStep)
  | lifetimeWriteThrough
  -- test access
  | extest (cells : Nat)
  | samplePreload (cells : Nat)
  | idcode
  | clampInstruction
  | highz
  | dieSelect (sel : Nat)
  | ijtag
  | bypass (opcode : Nat)
  | tapReset
  | startUpStepDone (r : StepReport)
  | referenceClockReturn
  | badControlWord (p type : Nat)
  | ePortDown (n : Nat) (lane : Nat)
  | ePortUp (n : Nat)
  | eFrameReceive (n : Nat) (f : EFrameIn)
  | biasTrendSample
  | operationSuspendObeyed (h : Nat)
  | operationCancelObeyed (h : Nat)
deriving DecidableEq, Repr

end Sys2Proof
end

