-- ==== Sys2Proof/Decode.lean ====
section
/-! DEFINITION. Commands as words. The block has no instruction encoding: no row of spec/opcode_table.json gives bits,
so no word spells a command. (The words of the SQ stream, R55 to R65, are read by the meanings of their rows.) -/

namespace Sys2Proof

/-- The command that a word of `nbits` bits spells by the table's bits: none, since the table gives no row any bits. -/
def decodeTableWord (_nbits _w : Nat) : Option Instr := none

end Sys2Proof
end

