-- ==== Sys2Proof/Config.lean ====
section
/-! DEFINITION. What one part or one implementation fixes and the spec does not: free values, written as opaque
constants, of which no proof can see the value. Each is named in notes/assumptions. -/

namespace Sys2Proof.Config

/-- A byte the spec leaves unspecified (R52, R142, R252, R266, R341): the `i`-th such byte of a run. -/
opaque freeByte : Nat → Byte

/-- A word the spec leaves unspecified (R142): the `i`-th such word of a run. -/
opaque freeWord : Nat → Word

/-- R127: e^x, ln x, 1/√x, tanh, sigmoid, erf and 1/x are "a fixed function of the input" within an error; which of the words within
the error each input gives, by their number. -/
opaque veExp : Word → Nat
opaque veLog : Word → Nat
opaque veRsqrt : Word → Nat
opaque veTanh : Word → Nat
opaque veSigm : Word → Nat
opaque veErf : Word → Nat
opaque veRcp : Word → Nat

/-- R123: the result of an integer ADD, SUB, ABS or NEG whose exact value does not fit its type, which the spec does not state, by OPC,
type and operands. -/
opaque intOverflow : Nat → Nat → Word → Word → Word

/-- R153: the BEXP of the special that two long partials combine to, by the operands' BEXP. -/
opaque specialBexp : Int → Int → Int

/-- The sign of the zero that a scale of zero makes of a nonzero accumulator: its value m × 2^e and sign, the scale's sign (R150). -/
opaque zeroSign : Bool → Nat → Int → Bool → Bool

/-- What a memory code finds in a unit, by its number and its erroneous symbols, where their count lies beyond what the code detects
(log 126). -/
opaque eccBeyond : Nat → Nat → Nat

/-- Parity symbol of an RS(272,256) codeword, by its payload symbols and its place (R359, log 129). -/
opaque rsParity : List Nat → Nat → Nat

/-- R222 step 3: which word within 2 ulp of its exponential an FP32 word gives. -/
opaque sguExp : Word → Nat

/-- R218: which word within 1 ulp √(−2 ln u1) × cos(2π u2) gives, by u1 × 2^24 − 1 and u2 × 2^24. -/
opaque normalBM : Nat → Nat → Nat

/-- FIPS 205 SLH-DSA-SHAKE-256s verification (18_security): public key, message, signature. -/
opaque slhVerify : List Byte → List Byte → List Byte → Bool

/-- The alias key's signature of a message under alias seeds (R485), 29 792 bytes. -/
opaque aliasSign : List Byte → List Byte → List Byte

/-- FIPS 203 ML-KEM-1024: the encapsulation key of a 64-byte seed, and decapsulation of a ciphertext. -/
opaque kemKey : List Byte → List Byte
opaque kemDecaps : List Byte → List Byte → List Byte

/-- DER of the alias certificate (R484) from the signing unit's key, alias seeds, measurement, svn, fw-version and KEM digest. -/
opaque aliasCert : List Byte → List Byte → List Byte → Nat → Nat → List Byte → List Byte

/-- Fused and factory values of one part: unique device secret, vendor key digest, DeviceID certificate, serial number. -/
opaque uds : List Byte
opaque vendorKeyDigest : List Byte
opaque deviceIdCert : List Byte
opaque serialNumber : Nat

/-- Fused anti-rollback counter at delivery, 0 to 64 (R480), and the image in MRAM at delivery (R478). -/
opaque svnFused : Nat
opaque imageHeader : List Byte
opaque imageFwVersion : Nat
opaque imageSvn : Nat

/-- R459: the factory repair map as fused, 4 096 bytes. -/
opaque factoryMap : List Byte

/-- R372: commissioned optical readings, by port and monitor index (0.01 dBm). -/
opaque commissioned : Nat → Nat → Int

/-- R357: the commissioned bias of laser `j` of port `p`, in 0.05 mA units. -/
opaque commissionedBias : Nat → Nat → Nat

/-- R464: a laser's rated maximum bias less one, in 0.05 mA units, which the spec does not give. -/
opaque ratedBias : Nat

end Sys2Proof.Config
end

