-- ==== Sys2Proof/Machine/Bits.lean ====
section
/-! DEFINITION. Bit fields, byte order, sign extension and sparse tables (R6, R7). -/

namespace Sys2Proof.Machine

/-! ## Fields and bytes -/

/-- Field [lo + w − 1 : lo] of a number. -/
def fld (v lo w : Nat) : Nat := (v >>> lo) % 2 ^ w

/-- Bit `i` of a number. -/
def bitAt (v i : Nat) : Bool := (v >>> i) % 2 == 1

/-- A truth value as a number. -/
def b2n (b : Bool) : Nat := if b then 1 else 0

/-- The `n` little-endian bytes of a number (R6). -/
def leBytes : Nat → Nat → List Byte
  | 0, _ => []
  | n + 1, v => BitVec.ofNat 8 v :: leBytes n (v / 256)

/-- The number that little-endian bytes spell (R6). -/
def ofLE : List Byte → Nat
  | [] => 0
  | b :: r => b.toNat + 256 * ofLE r

/-- The signed number of a `w`-bit two's-complement field. -/
def sx (w v : Nat) : Int := if v % 2 ^ w < 2 ^ (w - 1) then ((v % 2 ^ w : Nat) : Int) else ((v % 2 ^ w : Nat) : Int) - 2 ^ w

/-- The `w`-bit two's-complement field of a signed number. -/
def unsx (w : Nat) (i : Int) : Nat := (i % (2 ^ w : Int)).toNat

/-- Bytes `off` to `off + n − 1` of a list, zeros past its end. -/
def bytesAt (l : List Byte) (off n : Nat) : List Byte :=
  let r := (l.drop off).take n
  r ++ List.replicate (n - r.length) 0

/-- The little-endian number at a byte offset. -/
def numAt (l : List Byte) (off n : Nat) : Nat := ofLE (bytesAt l off n)

/-- A list of bytes with `v` laid over it from `off`. -/
def putAt (l : List Byte) (off : Nat) (v : List Byte) : List Byte :=
  bytesAt l 0 off ++ v ++ l.drop (off + v.length)

/-- Ceiling division. -/
def cdiv (a b : Nat) : Nat := (a + b - 1) / b

/-! ## Sparse tables: keys strictly rising, no entry equal to the default -/

/-- The value at a key; an unlisted key has the default. -/
def lget {α : Type} (d : α) : List (Nat × α) → Nat → α
  | [], _ => d
  | (k', v) :: r, k => if k < k' then d else if k = k' then v else lget d r k

/-- The table with a key set; setting the default removes the entry. -/
def lset {α : Type} [DecidableEq α] (d : α) (k : Nat) (v : α) : List (Nat × α) → List (Nat × α)
  | [] => if v = d then [] else [(k, v)]
  | (k', x) :: r =>
    if k < k' then (if v = d then (k', x) :: r else (k, v) :: (k', x) :: r)
    else if k = k' then (if v = d then r else (k, v) :: r)
    else (k', x) :: lset d k v r

/-- Every key of the table is above `k`. -/
def above {α : Type} (k : Nat) (l : List (Nat × α)) : Bool := l.all fun e => decide (k < e.1)

/-- The canonical form: keys strictly rising, no default listed. -/
def lwf {α : Type} [DecidableEq α] (d : α) : List (Nat × α) → Bool
  | [] => true
  | (k, v) :: r => decide (v ≠ d) && above k r && lwf d r

/-- Insert a key into a strictly rising list of keys. -/
def sinsert (k : Nat) : List Nat → List Nat
  | [] => [k]
  | x :: r => if k < x then k :: x :: r else if k = x then x :: r else x :: sinsert k r

/-- Remove a key. -/
def sremove (k : Nat) (l : List Nat) : List Nat := l.filter fun x => decide (x ≠ k)

/-- Set entry `i` of a table kept as an unsorted association list (small tables whose keys come and go). -/
def aset {α : Type} (k : Nat) (v : α) : List (Nat × α) → List (Nat × α)
  | [] => [(k, v)]
  | (k', x) :: r => if k = k' then (k, v) :: r else (k', x) :: aset k v r

/-- Look up an association list. -/
def aget {α : Type} (k : Nat) (l : List (Nat × α)) : Option α := (l.find? fun e => e.1 == k).map (·.2)

/-- Drop a key from an association list. -/
def adel {α : Type} (k : Nat) (l : List (Nat × α)) : List (Nat × α) := l.filter fun e => !(e.1 == k)

/-- The first natural below `n`, from `i` on, that a test accepts. -/
def firstFrom (p : Nat → Bool) : Nat → Nat → Option Nat
  | 0, _ => none
  | n + 1, i => if p i then some i else firstFrom p n (i + 1)

/-- Insert into a rising list. -/
def insertNat (x : Nat) : List Nat → List Nat
  | [] => [x]
  | y :: r => if x ≤ y then x :: y :: r else y :: insertNat x r

/-- A list in rising order. -/
def sortNat (l : List Nat) : List Nat := l.foldl (fun acc x => insertNat x acc) []

end Sys2Proof.Machine
end

