-- ==== Sys2Proof/Machine/Flags.lean ====
section
/-! DEFINITION. Number formats, exact values, rounding and the flags that rounding sets (R146 to R170), the long
partial (R151 to R155) and the canonical reduction tree (R166, R167). -/

namespace Sys2Proof.Machine

/-! ## Exact values -/

/-- A value as the units compute it: a NaN, a signed infinity, or a signed m × 2^e held exactly. -/
inductive Num
  | nan
  | inf (neg : Bool)
  | fin (neg : Bool) (m : Nat) (e : Int)
deriving DecidableEq, Repr

/-- A floating-point format of R146: mantissa bits, exponent of the smallest subnormal, mantissa and exponent of the
largest finite value, and which specials it has. -/
structure Fmt where
  bits : Nat
  mbits : Nat
  qmin : Int
  maxM : Nat
  maxE : Int
  nan : Nat
  inf : Option Nat
deriving DecidableEq, Repr

def fp32 : Fmt := { bits := 32, mbits := 23, qmin := -149, maxM := 0xFFFFFF, maxE := 104, nan := 0x7FC00000, inf := some 0x7F800000 }
def bf16 : Fmt := { bits := 16, mbits := 7, qmin := -133, maxM := 0xFF, maxE := 120, nan := 0x7FC0, inf := some 0x7F80 }
def e5m2 : Fmt := { bits := 8, mbits := 2, qmin := -16, maxM := 7, maxE := 13, nan := 0x7E, inf := some 0x7C }
def e4m3 : Fmt := { bits := 8, mbits := 3, qmin := -9, maxM := 14, maxE := 5, nan := 0x7F, inf := none }
/-- E2M1 has no NaN: `nan` is unused (R149 turns a special into a NaN block). -/
def e2m1 : Fmt := { bits := 4, mbits := 1, qmin := -1, maxM := 3, maxE := 1, nan := 0, inf := none }

/-- The magnitude code's sign. -/
def Fmt.neg (f : Fmt) (v : Nat) : Bool := bitAt v (f.bits - 1)

/-- Value of a finite magnitude code (R146): no subnormal is flushed (R148). -/
def Fmt.finite (f : Fmt) (g : Bool) (a : Nat) : Num :=
  let ex := a / 2 ^ f.mbits
  let m := a % 2 ^ f.mbits
  if ex = 0 then .fin g m f.qmin else .fin g (2 ^ f.mbits + m) (f.qmin + (ex - 1 : Nat))

/-- Code of the largest finite magnitude. -/
def Fmt.maxCode (f : Fmt) : Nat := ((f.maxE - f.qmin).toNat <<< f.mbits) + f.maxM

/-- Value of a code (R146, R147, R148). -/
def Fmt.decode (f : Fmt) (v : Nat) : Num :=
  let g := f.neg v
  let a := v % 2 ^ (f.bits - 1)
  match f.inf with
  | some i => if a = i then .inf g else if a > i then .nan else f.finite g a
  | none => if f.mbits = 3 ∧ a = 0x7F then .nan else f.finite g a

/-- Sign bit of a code. -/
def Fmt.signBit (f : Fmt) (g : Bool) : Nat := if g then 2 ^ (f.bits - 1) else 0

/-- Bits needed for a number. -/
def bitLen (m : Nat) : Nat := if m = 0 then 0 else Nat.log2 m + 1

/-- Shift a natural number by a signed amount, up exactly or down discarding bits. -/
def shiftN (m : Nat) (s : Int) : Nat := if 0 ≤ s then m <<< s.toNat else m >>> (-s).toNat

/-- Whether a fraction `rem` of a step of 2^k rounds up (R159, R160): nearest with ties to even `odd`, toward zero, or
stochastic with the low 24 bits of the draw. -/
def roundsUp (mode u k rem : Nat) (odd : Bool) : Bool :=
  if mode = 0 then decide (2 ^ (k - 1) < rem) || (decide (rem = 2 ^ (k - 1)) && odd)
  else if mode = 2 then decide (2 ^ 24 ≤ ((rem <<< 24) >>> k) + u % 2 ^ 24)
  else false

/-- m × 2^e as a whole number of steps of 2^q, rounded. -/
def roundSteps (mode u m : Nat) (e q : Int) : Nat :=
  if q ≤ e then m <<< (e - q).toNat
  else
    let k := (q - e).toNat
    let a := m >>> k
    let rem := m % 2 ^ k
    if rem ≠ 0 && roundsUp mode u k rem (a % 2 == 1) then a + 1 else a

/-- The step of a format's rounding of m × 2^e, with no upper limit to the exponent (R162). -/
def Fmt.step (f : Fmt) (m : Nat) (e : Int) : Int :=
  if m = 0 then f.qmin else max f.qmin ((bitLen m : Int) + e - (f.mbits + 1 : Nat))

/-- Round an exact value to a format (R149, R159 to R162): the code and SATURATED. -/
def Fmt.round (f : Fmt) (mode u : Nat) : Num → Nat × Bool
  | .nan => (f.nan, false)
  | .inf g => match f.inf with
    | some i => (f.signBit g + i, false)
    | none => (f.signBit g + f.maxCode, true)
  | .fin g m e =>
    let q := f.step m e
    let k := roundSteps mode u m e q
    if k ≠ 0 ∧ shiftN f.maxM (f.maxE - q) < k then
      (f.signBit g + (match f.inf with
        | some i => if f.mbits = 2 ∨ mode = 1 then f.maxCode else i
        | none => f.maxCode), true)
    else (f.signBit g + ((q - f.qmin).toNat <<< f.mbits) + k, false)

/-- Round to an integer of `w` bits, saturating (R149, R162, R125): the two's-complement code and SATURATED. -/
def roundInt (w : Nat) (signed : Bool) (mode u : Nat) : Num → Nat × Bool
  | .nan => (0, true)
  | .inf g => (lim g, true)
  | .fin g m e =>
    let k := roundSteps mode u m e 0
    let v : Int := if g then -(k : Int) else k
    let lo : Int := if signed then -(2 ^ (w - 1) : Int) else 0
    let hi : Int := if signed then 2 ^ (w - 1) - 1 else 2 ^ w - 1
    if v < lo ∨ hi < v then (lim g, true) else (unsx w v, false)
where
  lim (g : Bool) : Nat := if signed then (if g then 2 ^ (w - 1) else 2 ^ (w - 1) - 1) else if g then 0 else 2 ^ w - 1

/-! ## Arithmetic on exact values -/

/-- A signed number of steps. -/
def sgn (g : Bool) (m : Nat) : Int := if g then -(m : Int) else m

/-- A signed integer times 2^e. -/
def Num.ofInt (v : Int) (e : Int) : Num := .fin (decide (v < 0)) v.natAbs e

def Num.neg : Num → Num
  | .nan => .nan
  | .inf g => .inf (!g)
  | .fin g m e => .fin (!g) m e

def Num.abs : Num → Num
  | .nan => .nan
  | .inf _ => .inf false
  | .fin _ m e => .fin false m e

/-- Exact sum (R149, R150): −0 only when both terms are −0. -/
def Num.add : Num → Num → Num
  | .nan, _ => .nan
  | _, .nan => .nan
  | .inf a, .inf b => if a = b then .inf a else .nan
  | .inf a, .fin _ _ _ => .inf a
  | .fin _ _ _, .inf b => .inf b
  | .fin a m e, .fin b n f =>
    let q := min e f
    let v := sgn a (m <<< (e - q).toNat) + sgn b (n <<< (f - q).toNat)
    if v = 0 then .fin (a && b && decide (m = 0) && decide (n = 0)) 0 q else Num.ofInt v q

/-- Exact product (R149). -/
def Num.mul : Num → Num → Num
  | .nan, _ => .nan
  | _, .nan => .nan
  | .inf a, .inf b => .inf (a != b)
  | .inf a, .fin b n _ => if n = 0 then .nan else .inf (a != b)
  | .fin a m _, .inf b => if m = 0 then .nan else .inf (a != b)
  | .fin a m e, .fin b n f => .fin (a != b) (m * n) (e + f)

/-- Times a power of two. -/
def Num.scale (k : Int) : Num → Num
  | .fin g m e => .fin g m (e + k)
  | x => x

/-- Less, for two values that are not NaN, with −0 equal to +0. -/
def Num.lt : Num → Num → Bool
  | .nan, _ => false
  | _, .nan => false
  | .inf a, .inf b => a && !b
  | .inf a, .fin _ _ _ => a
  | .fin _ _ _, .inf b => !b
  | .fin a m e, .fin b n f =>
    let q := min e f
    decide (sgn a (m <<< (e - q).toNat) < sgn b (n <<< (f - q).toNat))

def Num.isNan : Num → Bool
  | .nan => true
  | _ => false

def Num.isInf : Num → Bool
  | .inf _ => true
  | _ => false

/-- The sign of a value, of a zero too. -/
def Num.sign : Num → Bool
  | .nan => false
  | .inf g => g
  | .fin g _ _ => g

def Num.isZero : Num → Bool
  | .fin _ m _ => m == 0
  | _ => false

/-- IEEE 754 minimum and maximum, −0 below +0 (R126). -/
def Num.min (a b : Num) : Num :=
  if a.isNan || b.isNan then .nan else if a.lt b then a else if b.lt a then b else if a.sign then a else b

def Num.max (a b : Num) : Num :=
  if a.isNan || b.isNan then .nan else if a.lt b then b else if b.lt a then a else if a.sign then b else a

/-- Integer square root by bisection over `n` bits. -/
def isqrtGo (v : Nat) : Nat → Nat → Nat
  | 0, r => r
  | n + 1, r => if (r + 2 ^ n) * (r + 2 ^ n) ≤ v then isqrtGo v n (r + 2 ^ n) else isqrtGo v n r

/-- Square root carried to 60 bits below the point, with an odd last bit when it goes on, so that one later rounding to any
format is correct (R126, R127). -/
def Num.sqrt : Num → Num
  | .nan => .nan
  | .inf g => if g then .nan else .inf false
  | .fin g m e =>
    if m = 0 then .fin g 0 0 else if g then .nan
    else
      let e2 := if e % 2 = 0 then e else e - 1
      let m2 := if e % 2 = 0 then m else 2 * m
      let v := m2 <<< 160
      let r := isqrtGo v 110 0
      let odd := if r * r = v then 0 else 1
      .fin false (2 * r + odd) (e2 / 2 - 81)

/-- Quotient of two positive finite values carried to 80 bits beyond the point of the divisor's size, with an odd last bit when
it goes on (R222 step 6). -/
def Num.divPos : Num → Num → Num
  | .fin _ m e, .fin _ n f =>
    if n = 0 then .nan else
      let v := m <<< 120
      let r := v / n
      let odd := if r * n = v then 0 else 1
      .fin false (2 * r + odd) (e - f - 121)
  | _, _ => .nan

/-! ## FP32 -/

/-- Value of an FP32 word. -/
def f32 (w : Word) : Num := fp32.decode w.toNat

/-- An exact value rounded to nearest even in FP32. -/
def toF32 (x : Num) : Word := BitVec.ofNat 32 (fp32.round 0 0 x).1

/-- One IEEE binary32 addition rounded to nearest even (R170). -/
def addF32 (a b : Word) : Word := toF32 ((f32 a).add (f32 b))

/-- One IEEE binary32 fused multiply-add rounded to nearest even. -/
def fmaF32 (a b c : Word) : Word := toF32 (((f32 a).mul (f32 b)).add (f32 c))

/-- FP32 addition of magnitudes rounded toward +∞ (R180's G). -/
def addUp (a b : Word) : Word :=
  let x := (f32 a).add (f32 b)
  let z := BitVec.ofNat 32 (fp32.round 1 0 x).1
  if (f32 z).lt x then z + 1 else z

/-! ## The canonical tree (R166, R167) -/

/-- One level: neighbours combined, an odd last one kept. -/
def pairUp : List Word → List Word
  | a :: b :: r => addF32 a b :: pairUp r
  | l => l

/-- Levels up to one value; 33 levels cover 2^32 terms. -/
def treeGo : Nat → List Word → Word
  | _, [] => 0
  | _, [a] => a
  | 0, a :: _ => a
  | n + 1, l => treeGo n (pairUp l)

/-- The canonical FP32 sum of terms in order of position; +0 for none. -/
def treeSum (l : List Word) : Word := treeGo 33 l

/-- One binary32 addition rounded to nearest even, and SATURATED. -/
def addF32s (a b : Word) : Word × Bool :=
  let r := fp32.round 0 0 ((f32 a).add (f32 b))
  (BitVec.ofNat 32 r.1, r.2)

/-- Push one term on the subtree sums of `count` terms (R130): entry k is present when bit k of the count is 1. -/
def treePushGo : Nat → Nat → Nat → List Word → Word → Bool → List Word × Bool
  | 0, _, _, ents, _, sat => (ents, sat)
  | n + 1, k, count, ents, x, sat =>
    if bitAt count k then
      let r := addF32s (ents.getD k 0) x
      treePushGo n (k + 1) count (ents.set k 0) r.1 (sat || r.2)
    else (ents.set k x, sat)

def treePush (count : Nat) (ents : List Word) (x : Word) : List Word × Bool := treePushGo 32 0 count ents x false

/-- The sum of an incomplete sequence from its subtree sums, smallest block first, larger blocks on the left (R167). -/
def treeFinish (count : Nat) (ents : List Word) : Word × Bool :=
  let r := (List.range 32).foldl (fun (acc : Option Word × Bool) k =>
    if bitAt count k then
      match acc.1 with
      | none => (some (ents.getD k 0), acc.2)
      | some a =>
        let z := addF32s (ents.getD k 0) a
        (some z.1, acc.2 || z.2)
    else acc) (none, false)
  (r.1.getD 0, r.2)

/-! ## The long partial (R151 to R155) -/

/-- A long partial: value VAL × 2^BEXP, special, INEXACT, domain. -/
structure Long where
  val : Int := 0
  bexp : Int := 0
  special : Nat := 0
  inexact : Bool := false
  domain : Nat := 1
deriving DecidableEq, Repr

/-- The 128 bits of a long partial. -/
def Long.bits (a : Long) : Nat :=
  unsx 96 a.val + (unsx 16 a.bexp <<< 96) + (a.special <<< 112) + (b2n a.inexact <<< 114) + (a.domain <<< 120)

/-- The long partial of 128 bits, or none where they are invalid (R151). -/
def Long.ofBits (v : Nat) : Option Long :=
  let sp := fld v 112 2
  let d := fld v 120 4
  if fld v 115 5 ≠ 0 ∨ fld v 124 4 ≠ 0 ∨ (d ≠ 1 ∧ d ≠ 2) ∨ (sp ≠ 0 ∧ fld v 0 96 ≠ 0) then none
  else some { val := sx 96 v, bexp := sx 16 (fld v 96 16), special := sp, inexact := bitAt v 114, domain := d }

/-- Special codes as values. -/
def Long.num (a : Long) : Num :=
  if a.special = 1 then .nan else if a.special = 2 then .inf false else if a.special = 3 then .inf true
  else Num.ofInt a.val a.bexp

/-- The special code of a value that is not finite. -/
def specialOf : Num → Nat
  | .nan => 1
  | .inf false => 2
  | .inf true => 3
  | .fin _ _ _ => 0

/-- Arithmetic shift right, and whether set bits were lost. -/
def asr (v : Int) (k : Nat) : Int := v / (2 ^ k : Int)
def lost (v : Int) (k : Nat) : Bool := decide (v % (2 ^ k : Int) ≠ 0)

/-- Bring a sum into 96 bits (R153's loop). -/
def normLong : Nat → Int → Int → Bool → Int × Int × Bool
  | 0, s, e, x => (s, e, x)
  | n + 1, s, e, x => if s < -(2 ^ 95) ∨ 2 ^ 95 ≤ s then normLong n (asr s 1) (e + 1) (x || lost s 1) else (s, e, x)

/-- R153; none is "poisoned". The BEXP of a special sum is not stated: a free function of the operands'. -/
def Long.combine (a b : Long) : Option Long :=
  if a.domain ≠ b.domain then none
  else if a.special ≠ 0 ∨ b.special ≠ 0 then
    some { val := 0, bexp := Config.specialBexp a.bexp b.bexp, special := specialOf ((a.num).add (b.num)),
           inexact := a.inexact || b.inexact, domain := a.domain }
  else if a.val = 0 then some { b with inexact := b.inexact || a.inexact }
  else if b.val = 0 then some { a with inexact := a.inexact || b.inexact }
  else
    let e := max a.bexp b.bexp
    let ka := (e - a.bexp).toNat
    let kb := (e - b.bexp).toNat
    let x := a.inexact || b.inexact || lost a.val ka || lost b.val kb
    let (s, e', x') := normLong 4 (asr a.val ka + asr b.val kb) e x
    some { val := s, bexp := e', special := 0, inexact := x', domain := a.domain }

/-- An exact accumulator times the scale of its conversion: exactly zero is +0 whatever the scale's sign (R150), and NaN under a scale
that is not finite (R149). The sign of the zero that a zero scale makes of a nonzero one is not stated: a free value (log 114). -/
def Num.scaled (x s : Num) : Num :=
  match x, s with
  | .fin g m e, .fin h n _ =>
    if m = 0 then .fin false 0 0 else if n = 0 then .fin (Config.zeroSign g m e h) 0 0 else x.mul s
  | _, _ => x.mul s

/-- The value a conversion rounds: VAL × 2^BEXP × s (R155). -/
def Long.scaled (a : Long) (s : Num) : Num := a.num.scaled s

/-! ## MX blocks (R147, R163, R164) -/

/-- Scale of an E8M0 code: none for 0xFF (NaN block). -/
def e8m0 (v : Nat) : Option Int := if v = 0xFF then none else some ((v : Int) - 127)

/-- Element of an MX block. -/
def mxElem (f : Fmt) (scale code : Nat) : Num :=
  match e8m0 scale with
  | none => .nan
  | some k => (f.decode code).scale k

/-- floor(log2 m) of a positive value. -/
def Num.ilog : Num → Int
  | .fin _ m e => (bitLen m : Int) - 1 + e
  | _ => 0

/-- emax_elem of R163. -/
def emaxElem (f : Fmt) : Int := if f.mbits = 1 then 2 else if f.mbits = 3 then 8 else 15

/-- Narrow one block: the scale, the codes, SATURATED (R163). `us` gives each element's draw. -/
def narrowBlock (f : Fmt) (mode : Nat) (xs : List (Num × Nat)) : Nat × List Nat × Bool :=
  if xs.any fun x => x.1.isNan || x.1.isInf then (0xFF, xs.map fun _ => 0, xs.any fun x => x.1.isInf)
  else
    let m : Num := xs.foldl (fun a x => Num.max a x.1.abs) (Num.fin false 0 0)
    if m.isZero then (0x00, xs.map fun x => f.signBit x.1.sign, false)
    else
      let x0 := m.ilog - emaxElem f
      let k := max (-127) (min 127 x0)
      let r := xs.map fun x => f.round mode x.2 (x.1.scale (-k))
      ((k + 127).toNat, r.map (·.1), r.any (·.2))

/-- Widen a value to BF16 or FP32 (R164): exact but at the ends of the range. -/
def widen (f : Fmt) (x : Num) : Nat × Bool := f.round 0 0 x

/-! ## The generator and the tally (R186, R209, R210) -/

def m32 (v : Nat) : Nat := v % 2 ^ 32
def m64 (v : Nat) : Nat := v % 2 ^ 64
def rotl32 (v n : Nat) : Nat := m32 (v <<< n) ||| (m32 v >>> (32 - n))

/-- One round and the key schedule. -/
def wcgRound (x : Nat × Nat × Nat × Nat) (k0 k1 : Nat) : Nat × Nat × Nat × Nat :=
  let p := 0xE35A9B27 * (x.1 ^^^ k0)
  let q := 0xA7C14D63 * (x.2.2.1 ^^^ k1)
  let f := m32 (p >>> 32) + rotl32 (m32 p) 13
  let g := (q >>> 32) ^^^ rotl32 (m32 q) 19
  (x.2.2.2 ^^^ m32 f, x.1, m32 (x.2.1 + g), x.2.2.1)

def wcgGo : Nat → Nat × Nat × Nat × Nat → Nat → Nat → List Nat
  | 0, x, k0, k1 => [m32 (x.1 + k0), x.2.1, m32 (x.2.2.1 + k1), x.2.2.2]
  | n + 1, x, k0, k1 => wcgGo n (wcgRound x k0 k1) (m32 (k0 + 0x6A5D39E3)) (m32 (k1 + 0x8F1BC2D7))

/-- The four words of WCG-4x32-12 at (element index, stream, draw) under a key (R209, R210). -/
def wcg (key idx sid draw : Nat) : List Nat :=
  wcgGo 12 (m32 idx, m32 (idx >>> 32), m32 sid, m32 draw) (m32 key) (m32 (key >>> 32))

/-- The draw of stochastic rounding (R161): the low 24 bits of word 0. -/
def srDraw (key idx srsid : Nat) : Nat := ((wcg key idx srsid 0).getD 0 0) % 2 ^ 24

def fmix (x : Nat) : Nat :=
  let a := m64 ((x ^^^ (x >>> 31)) * 0xB5A36C1E4D279F0B)
  let b := m64 ((a ^^^ (a >>> 29)) * 0x8C6BD3F127E95A4D)
  b ^^^ (b >>> 32)

/-- Tally contribution of an element (R186). -/
def mix (i v : Nat) (wide : Bool) : Nat :=
  let k := fmix (m64 i ^^^ 0x7A3D52C90E61B84F)
  let m := fmix (k ^^^ m64 v)
  if wide then m64 (m + fmix (k ^^^ m64 (v >>> 64) ^^^ 0x2F1E8B47C690D5A3)) else m

/-- Tally of a byte region: double j is an element at index j (R192), starting at index `i0`. -/
def regionTally : Nat → List Byte → Nat
  | _, [] => 0
  | i, b0 :: b1 :: b2 :: b3 :: b4 :: b5 :: b6 :: b7 :: r =>
    m64 (mix i (ofLE [b0, b1, b2, b3, b4, b5, b6, b7]) false + regionTally (i + 1) r)
  | _, _ => 0

end Sys2Proof.Machine
end

