-- ==== Sys2Proof/Machine/NormalTable.lean ====
section
/-! DEFINITION. The normal table of R219: base_k = Φ⁻¹(k ÷ 256) correctly rounded to FP32 for k = 129 to 255, computed to 60 digits from
the definition; the lower half is its mirror image, base_128 is 0, the ends are −3.6 and +3.6. -/

namespace Sys2Proof.Machine

/-- base_129 to base_255. -/
def normalUpper : List Nat :=
  [0x3C206D41, 0x3CA06F39, 0x3CF0ABC2, 0x3D20771A, 0x3D489C46, 0x3D70C660, 0x3D8C7B35, 0x3DA096B0] ++
  [0x3DB4B622, 0x3DC8DA0D, 0x3DDD02F3, 0x3DF13155, 0x3E02B2DC, 0x3E0CD050, 0x3E16F14A, 0x3E21160D] ++
  [0x3E2B3EDE, 0x3E356C01, 0x3E3F9DBD, 0x3E49D458, 0x3E541019, 0x3E5E5149, 0x3E689831, 0x3E72E51C] ++
  [0x3E7D3856, 0x3E83C916, 0x3E88F975, 0x3E8E2D71, 0x3E936532, 0x3E98A0E1, 0x3E9DE0A9, 0x3EA324B3] ++
  [0x3EA86D2C, 0x3EADBA40, 0x3EB30C1D, 0x3EB862F2, 0x3EBDBEEE, 0x3EC32041, 0x3EC8871E, 0x3ECDF3B8] ++
  [0x3ED36644, 0x3ED8DEF7, 0x3EDE5E08, 0x3EE3E3B1, 0x3EE9702C, 0x3EEF03B4, 0x3EF49E88, 0x3EFA40E7] ++
  [0x3EFFEB13, 0x3F02CEA8, 0x3F05ABF1, 0x3F088D8A, 0x3F0B7397, 0x3F0E5E3F, 0x3F114DAA, 0x3F144201] ++
  [0x3F173B6F, 0x3F1A3A21, 0x3F1D3E43, 0x3F204806, 0x3F23579C, 0x3F266D38, 0x3F298910, 0x3F2CAB5C] ++
  [0x3F2FD456, 0x3F33043B, 0x3F363B4A, 0x3F3979C6, 0x3F3CBFF4, 0x3F400E1D, 0x3F43648D, 0x3F46C394] ++
  [0x3F4A2B84, 0x3F4D9CB8, 0x3F51178A, 0x3F549C5C, 0x3F582B96, 0x3F5BC5A3, 0x3F5F6AF7, 0x3F631C09] ++
  [0x3F66D95C, 0x3F6AA375, 0x3F6E7AE7, 0x3F72604A, 0x3F765442, 0x3F7A577E, 0x3F7E6AB8, 0x3F81475C] ++
  [0x3F836229, 0x3F858636, 0x3F87B3FE, 0x3F89EC08, 0x3F8C2EE1, 0x3F8E7D26, 0x3F90D780, 0x3F933EA6] ++
  [0x3F95B360, 0x3F98368A, 0x3F9AC912, 0x3F9D6C03, 0x3FA0207F, 0x3FA2E7CA, 0x3FA5C34B, 0x3FA8B495] ++
  [0x3FABBD69, 0x3FAEDFC4, 0x3FB21DE7, 0x3FB57A60, 0x3FB8F823, 0x3FBC9A96, 0x3FC065AD, 0x3FC45E10] ++
  [0x3FC88940, 0x3FCCEDDA, 0x3FD193E1, 0x3FD68531, 0x3FDBCE22, 0x3FE17E6A, 0x3FE7AA8D, 0x3FEE6DFF] ++
  [0x3FF5EED2, 0x3FFE6409, 0x400410D7, 0x4009D915, 0x401109DC, 0x401AB949, 0x402A3E8C]

/-- base_k for k = 0 to 256 (R219). -/
def normalBase (k : Nat) : Word :=
  if k = 0 then 0xC0666666
  else if k = 128 then 0
  else if 256 ≤ k then 0x40666666
  else if 128 < k then BitVec.ofNat 32 (normalUpper.getD (k - 129) 0)
  else BitVec.ofNat 32 (normalUpper.getD (127 - k) 0 + 0x80000000)

/-- slope_k = base_(k+1) − base_k in FP32, rounded to nearest even (R219). -/
def normalSlope (k : Nat) : Word := toF32 ((f32 (normalBase (k + 1))).add (f32 (normalBase k)).neg)

/-- The 2 048 bytes of 0x2820:01 (R227). -/
def normalTable : List Byte :=
  (List.range 256).flatMap fun k => leBytes 4 (normalBase k).toNat ++ leBytes 4 (normalSlope k).toNat

end Sys2Proof.Machine
end

