-- ==== Sys2Proof/Machine/Crypto.lean ====
section
/-! DEFINITION. The published functions the spec names: SHAKE256 (FIPS 202), KMAC256 (NIST SP 800-185), CRC-32C (R283). -/

namespace Sys2Proof.Machine

/-- The stream rc(t) of FIPS 202: an 8-bit shift register with feedback polynomial x^8 + x^6 + x^5 + x^4 + 1, started at 1.
This is its content before bit t leaves. -/
def lfsrAt : Nat → Nat
  | 0 => 1
  | t + 1 => let v := 2 * lfsrAt t; if v < 256 then v else v ^^^ 0x171

/-- The word iota adds in round `ir`: stream bit j + 7 ir stands at place 2^j - 1. -/
def iotaWord (ir : Nat) : Nat := ((List.range 7).map fun j => lfsrAt (j + 7 * ir) % 2 * 2 ^ (2 ^ j - 1)).sum

/-- A 64-bit lane turned left by `n` places: as a number, the multiple of 2^n that wraps at 2^64. -/
def turnLane (v n : Nat) : Nat := let w := v * 2 ^ (n % 64); w % 2 ^ 64 + w / 2 ^ 64

/-- Theta on lanes listed plane by plane (lane 5 y + x): each lane takes the parity of two neighbour columns. -/
def thetaStep (lanes : List Nat) : List Nat :=
  let parity := fun x => (lanes.zipIdx.filter fun l => l.2 % 5 == x % 5).foldl (fun acc l => acc ^^^ l.1) 0
  let mix := (List.range 5).map fun x => parity (x + 4) ^^^ turnLane (parity (x + 1)) 1
  lanes.zipIdx.map fun l => l.1 ^^^ mix.getD (l.2 % 5) 0

/-- One stop of the walk rho and pi share: from (x, y) it goes to (y, 2 x + 3 y), leaves there the lane it carries, turned by the
t-th triangular number, and picks up the lane that stood there. -/
def walkStep (w : (Nat × Nat) × Nat × List Nat) (t : Nat) : (Nat × Nat) × Nat × List Nat :=
  let stop := (w.1.2, (2 * w.1.1 + 3 * w.1.2) % 5)
  let place := 5 * stop.2 + stop.1
  (stop, w.2.2.getD place 0, w.2.2.set place (turnLane w.2.1 ((t + 1) * (t + 2) / 2)))

/-- Rho and pi: the walk from lane (1, 0) over the 24 lanes that move. -/
def rhoPiStep (lanes : List Nat) : List Nat := ((List.range 24).foldl walkStep ((1, 0), lanes.getD 1 0, lanes)).2.2

/-- Chi on one plane: where the next lane has a 0, the bit of the lane after it is added. -/
def chiPlane (plane : List Nat) : List Nat :=
  (List.range plane.length).map fun x =>
    let next := plane.getD ((x + 1) % 5) 0
    let after := plane.getD ((x + 2) % 5) 0
    plane.getD x 0 ^^^ after ^^^ (next &&& after)

/-- Chi on the five planes. -/
def chiStep (lanes : List Nat) : List Nat := (List.range 5).flatMap fun y => chiPlane ((lanes.drop (5 * y)).take 5)

/-- Keccak-f[1600]: 24 rounds. -/
def keccakF (a : List Nat) : List Nat :=
  (List.range 24).foldl (fun l ir => (chiStep (rhoPiStep (thetaStep l))).modify 0 (· ^^^ iotaWord ir)) a

/-- Absorb blocks of 136 bytes (rate 1 088). -/
def keccakAbsorb : Nat → List Nat → List Byte → List Nat
  | 0, a, _ => a
  | n + 1, a, msg =>
    let blk := (List.range 17).map fun i => numAt msg (8 * i) 8
    let a' := (List.range 25).map fun i => a.getD i 0 ^^^ blk.getD i 0
    keccakAbsorb n (keccakF a') (msg.drop 136)

/-- Squeeze `n` blocks. -/
def keccakSqueeze : Nat → List Nat → List Byte
  | 0, _ => []
  | n + 1, a => (a.take 17).flatMap (leBytes 8) ++ keccakSqueeze n (keccakF a)

/-- The sponge of rate 136 with a domain suffix byte. -/
def sponge (suffix : Nat) (msg : List Byte) (n : Nat) : List Byte :=
  let pad := 136 - msg.length % 136
  let tail := if pad = 1 then [BitVec.ofNat 8 (suffix + 0x80)]
    else BitVec.ofNat 8 suffix :: (List.replicate (pad - 2) 0 ++ [BitVec.ofNat 8 0x80])
  let m := msg ++ tail
  (keccakSqueeze (cdiv n 136) (keccakAbsorb (m.length / 136) (List.replicate 25 0) m)).take n

/-- SHAKE256 with an output of `n` bytes. -/
def shake256 (msg : List Byte) (n : Nat) : List Byte := sponge 0x1F msg n

/-- Big-endian bytes of a number without leading zeros (at least one byte). -/
def beMin (v : Nat) : List Byte :=
  let n := if v < 256 then 1 else if v < 65536 then 2 else if v < 16777216 then 3 else 4
  (leBytes n v).reverse

/-- left_encode and right_encode of SP 800-185. -/
def leftEncode (v : Nat) : List Byte := BitVec.ofNat 8 (beMin v).length :: beMin v
def rightEncode (v : Nat) : List Byte := beMin v ++ [BitVec.ofNat 8 (beMin v).length]

/-- encode_string. -/
def encodeString (s : List Byte) : List Byte := leftEncode (8 * s.length) ++ s

/-- bytepad to the rate. -/
def bytepad (s : List Byte) : List Byte :=
  let t := leftEncode 136 ++ s
  t ++ List.replicate ((136 - t.length % 136) % 136) 0

/-- ASCII bytes of a string. -/
def ascii (s : String) : List Byte := s.toList.map fun c => BitVec.ofNat 8 c.toNat

/-- KMAC256 of key, input, output length in bits, customization string (R483). -/
def kmac256 (key input : List Byte) (bits : Nat) (cust : String) : List Byte :=
  sponge 0x04 (bytepad (encodeString (ascii "KMAC") ++ encodeString (ascii cust)) ++ bytepad (encodeString key) ++ input ++ rightEncode bits)
    (bits / 8)

/-- One byte into a reflected CRC-32C. -/
def crcByte (crc : Nat) (b : Byte) : Nat :=
  (List.range 8).foldl (fun c _ => if c % 2 = 1 then (c >>> 1) ^^^ 0x82F63B78 else c >>> 1) (crc ^^^ b.toNat)

/-- CRC-32C (Castagnoli) of a byte string (R283, R321, R330). -/
def crc32c (l : List Byte) : Nat := (l.foldl crcByte 0xFFFFFFFF) ^^^ 0xFFFFFFFF

end Sys2Proof.Machine
end

