-- ==== Sys2Proof/Machine/State.lean ====
section
/-! DEFINITION. The state of the block as plain data, the reasons a step can stop, and the state right after reset.
A field's default is its value at reset; its comment names the rule that gives the machine that piece of state.
Notes on where a value comes from stand in notes/assumptions. -/

namespace Sys2Proof.Machine

/-- Why the machine stops with a fault. No rule of the spec stops the whole part: errors are codes, poison and reports
held in the state, so no step raises this one; it is kept so that the type is not empty. Safe: nothing raises it. -/
inductive Fault
  | none
deriving DecidableEq, Repr

/-- Why a command has no meaning. -/
inductive Refusal
  /-- An arm of the dispatch table with no meaning yet. Safe: the machine stops. -/
  | notModelled (mnemonic : String)
deriving DecidableEq, Repr

/-! ## Cores -/

/-- One open loop level (R57, R58, R73). -/
structure Loop where
  head : Nat
  fin : Nat
  strip : Bool
  iter : Nat
  remaining : Nat
  eo : Nat
  vl : Nat
  /-- a SETVL has run in this iteration (R58) -/
  set : Bool
deriving DecidableEq, Repr

/-- A descriptor with what the sequencer latched at issue (R51, R129). -/
structure Desc where
  pc : Nat
  words : List Dbl
  /-- i0, i1, ... of the open levels, outermost first -/
  idx : List Nat
  eo : Nat
  vl : Nat
  /-- the reset condition of R119 RST as evaluated at issue (R129) -/
  rst : Bool
deriving DecidableEq, Repr

/-- A byte range of the chip address map that a descriptor touches (R52). -/
structure Span where
  lo : Nat
  len : Nat
  wr : Bool
deriving DecidableEq, Repr

/-- Where a running descriptor stands in its attempts (R198). -/
inductive Phase
  | running
  /-- the attempt ended in a check fault and a further attempt is allowed -/
  | failedTry
  /-- a proxy attempt has been requested or runs on physical site `site` (R201) -/
  | proxyQueued
  | proxyRun (site : Nat)
  /-- it has finished and holds its completion for queue order (R50) -/
  | held
deriving DecidableEq, Repr

/-- A started descriptor (R50, R53, R198). -/
structure Run where
  desc : Desc
  /-- validation's verdict: 0 valid, else FIELD or RANGE or an own code (R510) -/
  vcode : Nat
  attempt : Nat := 0
  phase : Phase := .running
  /-- tiles held: (tile, written) (R53) -/
  tiles : List (Nat × Bool) := []
  spans : List Span := []
  /-- byte ranges another running descriptor accesses with a write on either side (R52) -/
  raced : List Span := []
  /-- verdict, code, flags of a finished attempt whose completion is held -/
  code : Nat := 0
  verdict : Nat := 0
  inexact : Bool := false
  saturated : Bool := false
  row : Nat := 0xFF
  col : Nat := 0xFF
  /-- remote kinds: next line to request, lines outstanding, worst code, poisoned data seen (R262) -/
  nextLine : Nat := 0
  linesLeft : Nat := 0
  remErr : Nat := 0
  remPoison : Bool := false
  issued : Bool := true
  /-- RREAD: the lines that have arrived, by line number (R259, R262) -/
  arrived : List (Nat × List Byte) := []
  /-- RREAD: the lines that arrived poisoned (R230, R305) -/
  badLines : List Nat := []
  /-- remote kinds: which MOVE of the core this is (the model's own) -/
  id : Nat := 0
deriving DecidableEq, Repr

/-- One engine of a core: its queue of at most 8 descriptors and what it runs (R49, R50), and its credit (R424). -/
structure Engine where
  queue : List Desc := []
  run : List Run := []
  /-- in tenths of a core cycle -/
  credit : Int := 0
  /-- the wait of the queue's head on its WEV has been satisfied (R48, R55) -/
  go : Bool := false
deriving DecidableEq, Repr

/-- What the sequencer is doing. -/
inductive SqMode
  | off
  | fetching
  | running
  | waiting
  | fencing
  | parked
  | stopped
deriving DecidableEq, Repr

/-- A FENCE, a HALT or a park in progress (R63, R65, R71, R311). -/
structure FenceWait where
  /-- 0 FENCE, 1 HALT, 2 park at YIELD -/
  kind : Nat
  mask : Nat
  remote : Bool
  limit : Nat
  exit : Nat
  /-- the closed epoch, once every selected queue has completed (R311) -/
  closed : Option Nat
deriving DecidableEq, Repr

/-- A remote request held in a tracking slot (R298, R306). -/
structure Slot where
  wr : Bool
  dev : Nat
  ep : Nat
  win : Nat
  ofs : Nat
  lines : Nat
  fmt : Nat
  gen : Nat
  epoch : Nat
  /-- first line of the MOVE's transfer this request carries -/
  line : Nat
  refusals : Nat := 0
  /-- waiting out a backoff (R308) -/
  backoff : Bool := false
  lastRefused : Bool := false
  /-- the launch was cancelled: the response is discarded (R314) -/
  cancelled : Bool := false
  /-- the MOVE it belongs to, whose source a retry reads again (R308) -/
  run : Nat
  desc : Desc
deriving DecidableEq, Repr

/-- What a fence report says of one destination (R317), gathered per epoch. -/
structure EpochDest where
  epoch : Nat
  dev : Nat
  ep : Nat
  last : Nat := 0
  missing : Nat := 0
  errs : Nat := 0
  refused : Nat := 0
deriving DecidableEq, Repr

/-- A logical core (R54 to R73, R102, R103, R144, R226, R265, R315, R347). -/
structure Core where
  mode : SqMode := .off
  streamAddr : Nat := 0
  streamLen : Nat := 0
  pc : Nat := 0
  loops : List Loop := []
  /-- SQ_VL.VL, reset 0 (R70) -/
  vl : Nat := 0
  /-- SQ_VL.VLMAX, reset 128 (R70, R111) -/
  vlmax : Nat := 128
  /-- SQ_STAT[9:0] (R70) -/
  stat : BitVec 10 := 0
  suspPend : Bool := false
  /-- SQ_STOP (R70) -/
  stopCode : Nat := 0
  exit : Nat := 0
  /-- the core event a blocked WAIT still waits for, and its CLR (R55, R59) -/
  sqWait : Option (Nat × Bool) := none
  /-- SQ_WAIT_LIMIT (R70) -/
  waitLimit : Word := 0
  /-- core events 0 to 63 (R54) -/
  events : BitVec 64 := 0
  ma : Engine := {}
  mvp : Engine := {}
  ve : Engine := {}
  dm : Engine := {}
  sgu : Engine := {}
  coll : Engine := {}
  /-- TA0 to TA7 (R64) -/
  ta : List Dbl := List.replicate 8 0
  /-- tile words that are not 0, by 16384 tile + 128 row + column (R73) -/
  tiles : List (Nat × Word) := []
  tilePoison : BitVec 16 := 0
  /-- X register bytes that are not 0, by 32768 register + element (R103) -/
  xregs : List (Nat × Byte) := []
  xPoison : BitVec 8 := 0
  /-- engine registers 0x40 to 0x97 by offset, where they differ from their default (R102 .. R347) -/
  regs : List (Nat × Nat) := []
  fence : Option FenceWait := none
  /-- DM_FENCE.EPOCH (R315) -/
  epoch : Nat := 0
  slots : List (Nat × Slot) := []
  slotGens : List (Nat × Nat) := []
  epochDests : List EpochDest := []
  /-- remote MOVEs started (the model's own) -/
  moves : Nat := 0
  /-- the last fence report, 256 bytes (R317) -/
  fenceReport : List Byte := []
  /-- 0xFF65 has been sent in this launch (R203) -/
  poisonReported : Bool := false
deriving DecidableEq, Repr

/-! ## Launches and long operations -/

/-- One entry of a plan's core table (R42). -/
structure CoreEntry where
  addr : Nat
  len : Nat
  events : Nat
deriving DecidableEq, Repr

/-- What a shadow comparison holds beside its handle (R472 to R474). -/
structure ShadowOp where
  role : Nat
  ev : Nat
  peer : Nat
  need : Nat
  tallies : Nat
  only : Bool
  table : Nat
  step : Nat := 0
  /-- own tables and the peer's, by step -/
  own : List (Nat × List Byte) := []
  theirs : List (Nat × List Byte) := []
  matched : Nat := 0
  /-- steps whose tables have been compared -/
  judged : List Nat := []
deriving DecidableEq, Repr

/-- Where a launch stands between its validation and its end. -/
inductive LPhase
  | idle
  /-- validated; events and bindings not yet written (R45) -/
  | validated
  /-- start broadcast issued; the start instant is ahead -/
  | broadcast
  | started
deriving DecidableEq, Repr

/-- A long-operation handle 1 to 64 (R411) and what its operation holds. -/
structure Handle where
  kind : Nat := 0
  state : Nat := 0
  result : Nat := 0xFFFF
  progress : Nat := 0
  owner : Nat := 0
  created : Nat := 0
  ended : Nat := 0
  suspendArea : Nat := 0
  suspendNear : Bool := false
  /-- detail, 64 bytes where it is not all zero -/
  detail : List Byte := []
  /-- launch: plan or context address; others: the command's parameter -/
  addr : Nat := 0
  params : List Byte := []
  isResume : Bool := false
  n : Nat := 0
  flags : Nat := 0
  cores : List CoreEntry := []
  events : List (Nat × Nat) := []
  groups : List (Nat × Nat) := []
  /-- key slots latched at validation (R212) -/
  keys : List Dbl := []
  /-- policy digest at validation (R72) -/
  digest : List Byte := []
  phase : LPhase := .idle
  firstStop : Option Nat := none
  peersStopped : Bool := false
  /-- context area that a suspend wrote or a resume reads (R71, R413) -/
  ctx : Nat := 0
  /-- order of creation (R44, R486) -/
  order : Nat := 0
  commit : Bool := false
  shadow : Option ShadowOp := none
  quote : List Byte := []
  /-- self-test: sites done, passed, repaired, failed mask -/
  tested : List Nat := []
  passed : Nat := 0
  repaired : Nat := 0
  failed : List Nat := []
deriving DecidableEq, Repr

/-- A packet that has ejected and awaits its unit: the XD it ejected at, and the E port with source address and UDP port
when it came over the ordinary network (R303, R383). -/
structure Ejected where
  xd : Nat
  fromE : Option (Nat × List Byte × Nat)
  pkt : Packet
  /-- the fibre port it came in at, for REQ and RSP (R284) -/
  port : Option Nat := none
deriving DecidableEq, Repr

/-! ## Collectives -/

/-- A granted segment between this device and one peer (R330, R331). -/
structure GrantRec where
  bucket : Nat
  use : Nat
  peer : Nat
  level : Nat
  phase : Nat
  seg : Nat
  /-- the engine that granted, 0 to 3: DATA goes to its endpoint (R331) -/
  ep : Nat
  /-- packets of the segment already handled (LONG segments take four) -/
  part : Nat := 0
deriving DecidableEq, Repr

/-- A group record beside its dictionary entries (R319 to R326, R344). -/
structure Group where
  /-- 0 ABSENT, 1 FORMING, 2 READY, 3 FAULTED -/
  state : Nat := 0
  /-- 0 IN_STORE, 1 PASS_THROUGH requested, 2 PASS_THROUGH store full -/
  mode : Nat := 0
  reason : Nat := 0
  faultRank : Nat := 0
  rank : Nat := 0
  ranks : Nat := 0
  digest : Nat := 0
  /-- slots reserved on each XD -/
  slots : Nat := 0
  /-- ranks of the level peers whose equal FORM has arrived -/
  formed : List Nat := []
  /-- earlier operations of each bucket, modulo 4 (R341) -/
  uses : List (Nat × Nat) := []
  /-- kept ABORTs (bucket, use, code, rank), up to 64 (R344) -/
  aborts : List (Nat × Nat × Nat × Nat) := []
  /-- 0xFF73 has been sent in this launch (R349) -/
  abortReported : Bool := false
  /-- segments this device granted and has not received yet, oldest first -/
  given : List GrantRec := []
  /-- segments granted to this device and not answered yet, oldest first -/
  asked : List GrantRec := []
  /-- GRANTs and TOKENs of operations not started here yet -/
  early : List Packet := []
deriving DecidableEq, Repr

/-- Data that waits in the store or in scratch (R324, R333): a reduction value of level 0 to 4 from the member of index `src`, a final
value (level 5), a gathered piece of the rank `src` (level 6), a region line from the rank `src` (level 7). -/
structure SegVal where
  level : Nat
  seg : Nat
  src : Nat
  codes : List Nat
  scales : List Nat
  /-- bit i: element i is poisoned -/
  pois : Nat
deriving DecidableEq, Repr

/-- An open collective operation (R341). -/
structure CollOp where
  core : Nat
  g : Nat
  bucket : Nat
  use : Nat
  desc : Desc
  vals : List SegVal := []
  /-- (level, phase, segment, peer) already sent -/
  sent : List (Nat × Nat × Nat × Nat) := []
  /-- (level, phase, segment, peer) already received -/
  got : List (Nat × Nat × Nat × Nat) := []
  /-- lines of the destination written -/
  wrote : List Nat := []
  /-- (level, peer) tokens received, and levels whose tokens have been sent -/
  tokens : List (Nat × Nat) := []
  tokensSent : List Nat := []
  /-- source rows kept for each destination rank, in order, and rows dropped (R338) -/
  kept : List (List Nat) := []
  dropped : List Nat := []
  /-- rows dropped for each destination (R339) -/
  dropsTo : List Nat := []
  /-- the list of counts or destinations was read with poison (R195) -/
  badList : Bool := false
  /-- for a source rank, one more than the last row of its region that is not zero (R339) -/
  rowsMin : List (Nat × Nat) := []
  poison : Bool := false
  saturated : Bool := false
  inexact : Bool := false
  raised : Bool := false
  tally : Nat := 0
  /-- the code it ends with, once it has failed -/
  fin : Option Nat := none
deriving DecidableEq, Repr

/-- A datagram kept until it is acknowledged (R345). -/
structure Unacked where
  seq : Nat
  pkt : Packet
  tries : Nat := 0
  bucket : Nat
  use : Nat
  /-- the E port it leaves by -/
  port : Nat
deriving DecidableEq, Repr

/-- Cross-domain transport state with one peer rank of a group (R345). -/
structure XFlow where
  g : Nat
  peer : Nat
  nextOut : Nat := 0
  unacked : List Unacked := []
  nextIn : Nat := 0
  beyond : List (Nat × Ejected) := []
  sinceAck : Nat := 0
deriving DecidableEq, Repr

/-! ## Fabric -/

/-- The identity a peer sent (R272, R364). -/
structure Ident where
  domain : Nat
  coord : Nat
  shape : Nat
  port : Nat
deriving DecidableEq, Repr

/-- A SWAP or DROP handshake in progress (R378, R379). -/
structure Shake where
  drop : Bool
  lane : Nat
  spare : Nat
  /-- last phase sent or received: 0 propose, 1 accept, 2 commit -/
  phase : Nat
  /-- this end made the proposal -/
  proposer : Bool
  /-- reason byte of 0xFF83 (R387) -/
  why : Nat
deriving DecidableEq, Repr

/-- A fibre port (R272, R286, R287, R295, R357 to R386). -/
structure Port where
  role : Nat := 0
  dim : Nat := 0
  nval : Nat := 0
  copy : Nat := 0
  peerPort : Nat := 0
  peerDev : Nat := 0
  /-- port-state: 0 down, 1 up, 2 up at 19/20, 3 peer forwarding down -/
  pstate : Nat := 0
  downReason : Nat := 0
  delay : Nat := 0
  /-- SAFETY of OPT_PORT_STAT: reset 2 probing -/
  safety : Nat := 2
  /-- next step of R366, 0 when none runs -/
  bring : Nat := 0
  fecLock : Bool := false
  txLanes : BitVec 20 := BitVec.allOnes 20
  rxLanes : BitVec 20 := BitVec.allOnes 20
  sparesUsed : BitVec 4 := 0
  sparesFailed : BitVec 4 := 0
  dropTx : Nat := 0x1F
  dropRx : Nat := 0x1F
  dark : BitVec 20 := 0
  /-- receive lanes whose drop ring has lost lock (R370) -/
  unlocked : BitVec 20 := 0
  /-- start of the last probe, 2 ms of light (R375) -/
  probeAt : Option Nat := none
  id0 : Option (Nat × Nat) := none
  ident : Option Ident := none
  acked : Bool := false
  peerFwd : Bool := false
  echoes : List Nat := []
  /-- fade-state of L0-L19 and S0-S3 (R377) -/
  fade : List Nat := List.replicate 24 0
  /-- the lane each spare serves or warms for -/
  spareLane : List (Nat × Nat) := []
  /-- the swap or drop of a transmit lane, and that of a receive lane (R378, R379) -/
  shake : Option Shake := none
  rxShake : Option Shake := none
  loss : Nat := 0
  /-- own readings by index of `monitors` (R386), 0.01 dBm, where taken -/
  mon : List (Nat × Int) := []
  /-- far-end readings by 32 stage + lane, where received (R364, R373) -/
  far : List (Nat × Int) := []
  corrected : Nat := 0
  uncorrectable : Nat := 0
  erased : Nat := 0
  /-- drive trim in 0.1 dB (R368) by lane, where not 0 -/
  trim : List (Nat × Int) := []
  /-- last corrected-symbol report of the far end, the trim's last step and its time, by lane -/
  lastCorr : List (Nat × Nat) := []
  trimDir : List (Nat × Int) := []
  trimAt : List (Nat × Nat) := []
  /-- peer's running credit totals by 16 class + level, and of shared cells (R287) -/
  credTot : List (Nat × Nat) := []
  sharedTot : Nat := 0
  /-- cells in flight by 16 class + level in reserved parts, and shared by class -/
  credUsed : List (Nat × Nat) := []
  sharedUsed : List (Nat × Nat) := []
  /-- cells of the own receive buffer freed since the link came up, modulo 65 536: by 16 class + level, and shared (R286, R287) -/
  rxFreed : List (Nat × Nat) := []
  rxFreedShared : Nat := 0
  /-- totals as the last CREDIT words carried them, and the part that is asked first (R365) -/
  credSent : List (Nat × Nat) := []
  credNext : Nat := 0
  /-- unplanned bucket and CTL allowance, in 1/1024 cell (R290) -/
  bucket : Nat := 68 * 1024
  ctlRoom : Nat := 17 * 1024
  /-- deficit round-robin: the queue served, 0-7 COL0-COL7 and 8 the bucket, and the cells left to each (R290, R327) -/
  rr : Nat := 0
  deficit : List (Nat × Nat) := []
  /-- data words to send, with those that begin a packet marked (R362, R363) -/
  txWords : List (Bool × Nat) := []
  /-- the superframe last sent, 1 280 bytes (R361) -/
  frame : List Byte := []
  /-- control words to send: TYPE and body fields, oldest first (R365) -/
  cwNext : List (Nat × List Nat) := []
  /-- when the last IDENT1 went, whether IDENT1 is the next, ECHO requests sent, and the CAL and TXMON rotation: the time and the item
  that are due (R365, R366) -/
  identAt : Nat := 0
  identHalf : Bool := false
  echoSent : Nat := 0
  rotAt : Nat := 0
  rot : Nat := 0
  /-- superframes to the switchover of a committed SWAP or DROP, and those after it that carry IDLE words only (R378) -/
  toSwitch : Nat := 0
  idleFrames : Nat := 0
  /-- drops that wait for a handshake to end: of a transmit lane, lane, reason (R379) -/
  dropNext : List (Bool × Nat × Nat) := []
  /-- received superframes whose uncorrectable codewords are not counted (R378) -/
  rxIgnore : Nat := 0
  /-- lane on which the next received symbol lies, as an index of the active lanes (R359) -/
  rxPhase : Nat := 0
  /-- symbols corrected on each lane since its last CAL (R364) -/
  laneCorr : List (Nat × Nat) := []
  /-- a first credit stall has been reported in this launch (R291) -/
  stallReported : Bool := false
  /-- bring-up failed at this many starts running (R458 kind 9) -/
  failedStarts : Nat := 0
  failedThisStart : Bool := false
  loopState : Nat := 0
  loopFail : Nat := 0
  loopUncorr : Nat := 0
  /-- lanes locked in loopback (R508) -/
  loopLanes : Nat := 0
deriving DecidableEq, Repr

/-- A packet held in the device on its way to an egress port (R286 to R290). -/
structure Wait where
  port : Nat
  /-- as it is to be sent: H is one above the level it is held at -/
  pkt : Packet
  /-- ingress port, and whether it holds shared cells there; none for an injected packet -/
  src : Option Nat
  shared : Bool := false
  /-- XD where it is held, ring hops taken, XDs still to cross -/
  xd : Nat
  stage : Nat := 0
  path : List Nat := []
  /-- an injected packet has its place in the injection queue -/
  queued : Bool := true
  /-- its credit stall has been counted (R291) -/
  stalled : Bool := false
deriving DecidableEq, Repr

/-- An ordered flow of COL or CTL packets at this receiver (R285). -/
structure Flow where
  /-- 16 + group record, or the class 10 of CTL -/
  tag : Nat
  sdev : Nat
  sep : Nat
  expected : Nat := 0
  /-- held packets: SEQ, the XD that holds the entry, the packet -/
  held : List (Nat × Nat × Packet) := []
deriving DecidableEq, Repr

/-- The forwarding plane and what a source keeps for the fabric (R267 to R295). -/
structure Fabric where
  /-- `forwarding`: 0 down, 1 up, 2 resetting, 3 refused -/
  fwd : Nat := 0
  shape : Nat := 1
  coord : Nat := 0
  /-- ring hops XDn to XD(n+1) held down (R34) -/
  hopsDown : List Nat := []
  /-- path cursor per destination device (R279) -/
  spray : List (Nat × Nat) := []
  xcopy : Bool := false
  /-- next SEQ by flow key (R285, R298) -/
  seqOut : List (Nat × Nat) := []
  flows : List Flow := []
  /-- link-down map: device to 32 bits, where not 0 (R281) -/
  linkDown : List (Nat × Nat) := []
  /-- packets held on their way to a port, oldest first -/
  wait : List Wait := []
deriving DecidableEq, Repr

/-- A request being served at the target (R303, R304). -/
structure Inbound where
  xd : Nat
  entry : Nat
  req : Packet
  /-- chip address of the access, fixed by the check (R302) -/
  addr : Nat
  fromE : Option (Nat × List Byte × Nat)
deriving DecidableEq, Repr

/-- One entry of the window table (R300) with its first-rejection mark (R318). -/
structure Window where
  base : Nat := 0
  tag : Nat := 0
  length : Nat := 0
  perm : Nat := 0
  ftag : Nat := 0
  rejected : Bool := false
deriving DecidableEq, Repr

/-! ## Management -/

/-- An EtherCAT emergency message (R398). -/
structure Emcy where
  code : Nat
  reg : Nat
  bytes : List Nat
deriving DecidableEq, Repr

/-- An open or free session 1 to 4 (R400 to R403, R488). -/
structure Session where
  isOpen : Bool := false
  slot : Nat := 0
  key : List Byte := []
  addr : List Byte := []
  port : Nat := 0
  high : Nat := 0
  /-- accepted numbers among the 64 below `high` -/
  seen : List Nat := []
  answers : List (Nat × SdoMsg) := []
  snap : Option (Nat × Nat × Nat × List Byte) := none
  snapTime : Nat := 0
  eventSeq : Nat := 0
deriving DecidableEq, Repr

/-- An OPEN request being reassembled (R400, R402). -/
structure Reassembly where
  addr : List Byte
  port : Nat
  slices : List (Nat × List Byte) := []
deriving DecidableEq, Repr

/-- The answer to a dictionary access: the master, an abort code (0 none) and the data read. -/
structure Resp where
  m : Master
  abort : Nat
  data : List Byte
deriving DecidableEq, Repr

/-- MD's mailbox, emergency budget and access services (R203, R389 to R403, R447). -/
structure Mgmt where
  /-- al-state: 1 Init, 2 PreOp, 3 Bootstrap, 4 SafeOp, 8 Op -/
  al : Nat := 1
  alErr : Bool := false
  alCode : Nat := 0
  /-- an obeyed request for Init or Bootstrap that waits for handles to end (R390) -/
  alPending : Option Nat := none
  emcy : List Emcy := []
  emcyTimes : List Nat := []
  /-- events coalesced since the last 0xFF6F -/
  coalesced : Nat := 0
  /-- messages held before PreOp, up to 16 (R447) -/
  heldEmcy : List Emcy := []
  lastEmcy : Option Nat := none
  sm3 : List Byte := []
  /-- the answer of the latest access of each master -/
  resp : List Resp := []
  /-- per master (0 EtherCAT, 1-4 sessions) the handle of its latest command (R409) -/
  issued : List (Nat × Nat) := []
  sessions : List Session := List.replicate 4 {}
  reasm : List Reassembly := []
  reasmTimes : List Nat := []
  udpOut : List SdoMsg := []
  /-- staged image (R399) and whether it was written as a recovery image -/
  staged : Option (List Byte) := none
  /-- FoE's latest answer: 0 acknowledge, 1 busy, else an error code with its text (R399, R481) -/
  foeAnswer : Nat := 0
  foeText : String := ""
  recovering : Bool := false
  regAddr : Nat := 0
  /-- check-log ring, oldest first (R207) -/
  checkLog : List (List Byte) := []
  /-- active launch, launches queued in order of acceptance (R44) -/
  active : Option Nat := none
  opCount : Nat := 0
  launchHandle : Nat := 0
  /-- context areas written by this device and the compute-plane starts counted then (R74) -/
  saves : List (Nat × Nat) := []
deriving DecidableEq, Repr

/-- One temperature sensor (R434 to R436). -/
structure Sensor where
  temp : Int := 0
  rate : Int := 0
  /-- 0 1 kHz, 1 10 kHz, 2 50 kHz -/
  srate : Nat := 0
  /-- earlier samples (time in ns, temperature), newest first, reaching 0.5 ms back -/
  hist : List (Nat × Int) := []
  /-- the last sample stood at or above: warn, act, trip level; warn, act, trip rate -/
  prev : List Bool := List.replicate 6 false
  /-- crossed thresholds in the same order; warn and act stand until they are cleared (R436) -/
  crossed : List Bool := List.replicate 6 false
deriving DecidableEq, Repr

/-- A record of the trip log (R439). -/
structure TripRec where
  time : Nat
  sensor : Nat
  cause : Nat
  pstate : Nat
  temp : Int
  rate : Int
  watts : Nat
  cap : Nat
  theta : Nat
  flags : Nat
  secs : Nat
deriving DecidableEq, Repr

/-- Salamander (R420 to R444). -/
structure Power where
  rails : BitVec 9 := BitVec.ofNat 9 256
  railWasGood : BitVec 9 := BitVec.ofNat 9 256
  samples : List Nat := []
  lastWatts : Nat := 0
  capCeil : Nat := 16
  slewCeil : Nat := 16
  pinCeil : Nat := 16
  /-- an assertion of PWRCAP_N is being obeyed -/
  pin : Bool := false
  clamp : Bool := false
  /-- the clamp was applied for a limiter fault -/
  limiterFault : Bool := false
  cautious : Bool := false
  /-- times of the cap loop's last rise and last fall (R426) -/
  stepUpAt : Option Nat := none
  stepDownAt : Option Nat := none
  /-- sixteenths of busy fraction, and those that ballast adds on idle cores (R429) -/
  demand : Nat := 0
  ballast : Nat := 0
  /-- level of PWRCAP_N: true when low (R427) -/
  pinLow : Bool := false
  /-- 0 Active, 1 Bask, 2 Brumate, 3 waking, 4 tripped -/
  pstate : Nat := 1
  sensors : List Sensor := List.replicate 261 {}
  tripLog : List TripRec := []
  tripped : Bool := false
  /-- the trip's power-down sequence has not finished (R438) -/
  tripping : Bool := false
  /-- sensor, cause and temperature of the declaration that runs -/
  tripBy : Nat × Nat × Int := (0, 0, 0)
  releaseSince : Option Nat := none
  alertN : Bool := false
  thermtripN : Bool := false
  /-- refresh interval in ms of N0-N3, first sample taken, change waiting for the block boundary (R234) -/
  refresh : List Nat := List.replicate 4 8
  refreshNext : List Nat := List.replicate 4 8
  refreshSampled : List Bool := List.replicate 4 false
deriving DecidableEq, Repr

/-- A die (R23 to R26, R39). Dies 0-3 are CD0-CD3, 4-7 XD0-XD3, 8 MD. -/
structure Die where
  strap : Nat
  /-- the straps have been read since the die's own rail became good (R23) -/
  read : Bool := false
  ok : Bool := true
  isolated : Bool := false
  pllLocked : Bool := true
deriving DecidableEq, Repr

/-- A direction of a die-to-die link (R29 to R35). Links 0-3 are CDn-CD(n+1), 4-7 CDn-XDn, 8-11 XDn-XD(n+1). -/
structure D2d where
  /-- replays of the last 1 ms: (time, group) -/
  recent : List (Nat × Nat) := []
  /-- replays counted in all, by group -/
  counts : List (Nat × Nat) := []
  failed : Bool := false
deriving DecidableEq, Repr

/-- A physical core site (R27, R111, R458 to R461, R464). -/
structure Site where
  /-- kept out by the factory map: a defect, or a spare kept back -/
  spare : Bool := false
  bad : Bool := false
  enabled : Bool := false
  passed : Bool := false
  marked : Bool := false
  failedTest : Bool := false
  lostLanes : List Nat := []
  lostCols : List Nat := []
  /-- array columns that the factory map has mapped to spares (R459, R76) -/
  factoryCols : List Nat := []
  /-- the lane map of the last start: physical groups not mapped (R111), and its column map: spare columns in use (R102) -/
  unused : List Nat := [8]
  spareCols : Nat := 0
  lostRows : List (Nat × Nat) := []
  /-- VLMAX of the site: 16 lanes for each of its active groups (R111) -/
  vl : Nat := 128
  withdrawn : Bool := false
  faultTimes : List Nat := []
  firstFaults : Nat := 0
  finalFails : Nat := 0
  marks : Nat := 0
  stFails : Nat := 0
  lastTime : Nat := 0
  nearCorr : Nat := 0
  nearUnc : Nat := 0
  csCorr : Nat := 0
  csUnc : Nat := 0
deriving DecidableEq, Repr

/-- An entry of the soft repair map (R459). -/
structure Repair where
  kind : Nat
  unit : Nat
  index : Nat
  repl : Nat
  source : Nat
  state : Nat
deriving DecidableEq, Repr

/-- What Croak holds of one neighbour device (R466 to R471). -/
structure Neighbour where
  dev : Nat
  misses : Nat := 0
  heard : Bool := true
  /-- 1 alive, 2 lost, 3 departed -/
  st : Nat := 1
  compute : Bool := false
  leaving : Bool := false
  epoch : Nat := 0
  /-- label of each kind, where heard -/
  labels : List (Nat × Nat) := []
  ports : List Nat := []
deriving DecidableEq, Repr

/-- An aggregation window of Croak (R468). -/
structure AggWin where
  kind : Nat
  label : Nat
  count : Nat
  reported : Nat
  lowest : Nat
deriving DecidableEq, Repr

/-- Start-up and reset progress (R445 to R452). -/
structure Startup where
  /-- steps still to complete, the first in progress; empty when no start runs -/
  steps : List Nat := [1, 2, 3, 4, 5, 6, 7, 8, 9, 10, 11]
  cause : Nat := 0
  /-- the kind whose reset runs: 0 power-on, 1-6, 7 RESET_N, 8 trip release -/
  kind : Nat := 0
  /-- steps of a forwarding-plane reset that runs beside -/
  fpSteps : List Nat := []
  mgSteps : List Nat := []
  /-- cause that the start of MD alone reports: 6, or 7 on a tripped device (R449) -/
  mgCause : Nat := 6
  resetLow : Bool := false
  preopReady : Bool := false
  computeUp : Bool := false
  refLost : Bool := false
  /-- data planes stopped by a reference loss: only kind 1 or deeper restarts them (R39) -/
  needFull : Bool := false
  hbmFull : Bool := true
  cpStarts : Nat := 0
  stacksOk : BitVec 12 := 0
  /-- die-to-die links held down at their last training (R35) -/
  heldLinks : List Nat := []
deriving DecidableEq, Repr

/-- The lifetime records as last written to MRAM (R464). -/
structure LifeSnap where
  onSeconds : Nat := 0
  starts : Nat := 0
  cycles : Nat := 0
  trips : Nat := 0
  repairEvents : Nat := 0
  sites : List Site := []
  hbmCorr : List (Nat × Nat) := []
  hbmUnc : List (Nat × Nat) := []
  laserHours : List (Nat × Nat) := []
  laserBias : List (Nat × List Nat) := []
  eLaserHours : List (Nat × Nat) := []
  eLaserBias : List (Nat × List Nat) := []
deriving DecidableEq, Repr

/-- Repair, lifetime and fleet state (R458 to R476). -/
structure Fleet where
  sites : List Site := (List.range 176).map fun i => { spare := decide (40 ≤ i % 44) }
  /-- physical site of each logical core (R27) -/
  coreMap : List Nat := []
  softMap : List Repair := []
  neighbours : List Neighbour := []
  windows : List AggWin := []
  reported : List (Nat × Nat) := []
  members : List Nat := []
  epoch : Nat := 0
  beat : Nat := 0
  leaving : Bool := false
  calBase : Int := 0
  calSource : Nat := 0
  onSeconds : Nat := 0
  starts : Nat := 0
  cycles : Nat := 0
  trips : Nat := 0
  repairEvents : Nat := 0
  peak : Int := 0
  valley : Option Int := none
  hbmCorr : List (Nat × Nat) := []
  hbmUnc : List (Nat × Nat) := []
  /-- laser life by 24 port + laser: on-hours, and the hourly bias samples of the last 1 000 on-hours -/
  laserHours : List (Nat × Nat) := []
  laserBias : List (Nat × List Nat) := []
  eLaserHours : List (Nat × Nat) := []
  eLaserBias : List (Nat × List Nat) := []
  saved : LifeSnap := {}
  suspect : Bool := false
  /-- ring calibration table of each fibre port: the number of the draw that it is, 0 that of delivery (R407, R455) -/
  ringCal : List Nat := List.replicate 32 0
deriving DecidableEq, Repr

/-- Identity, image and key state of MD (R478 to R488). -/
structure Security where
  fused : Nat := Config.svnFused
  header : List Byte := Config.imageHeader
  body : Option (List Byte) := none
  fwVersion : Nat := Config.imageFwVersion
  svn : Nat := Config.imageSvn
  udsLocked : Bool := false
  aliasReady : Bool := false
  aliasSeeds : List Byte := []
  kemSeed : List Byte := []
  cert : List Byte := []
  /-- measurement and svn that the stored certificate is tagged with -/
  certTag : List Byte := []
  keys : List (List Byte) := List.replicate 4 []
  counters : List Nat := List.replicate 4 0
  /-- a loss of power fell into the writing of an image (R481) -/
  torn : Bool := false
deriving DecidableEq, Repr

/-- An E port (R380 to R386). -/
structure EPort where
  up : Bool := false
  spareLane : Option Nat := none
  rx : Nat := 0
  tx : Nat := 0
  fcs : Nat := 0
  unc : Nat := 0
  dropped : Nat := 0
  pause : Nat := 0
  /-- the replaced lane is dark until this time (R381) -/
  darkUntil : Nat := 0
  /-- neighbours whose link address is known, and datagrams that wait for one (R380) -/
  neighbours : List (List Byte) := []
  unresolved : List Datagram := []
deriving DecidableEq, Repr

/-- Test access (R496 to R503). -/
structure Test where
  /-- the instruction in force; IDCODE after a TAP reset -/
  instr : Nat := 0x02
  mode : Bool := false
  cells : Nat := 0
  driven : Bool := false
  dieSel : Nat := 0
  ijtagOpen : Bool := false
deriving DecidableEq, Repr

/-- The IEEE 1588 slave clock (R384). -/
structure Ptp where
  state : Nat := 0
  port : Nat := 0xFF
  offset : Int := 0
  /-- data set of the master in use, in the order of its comparison -/
  master : List Nat := []
  /-- the last Sync: its number, send time once known, arrival time -/
  syncSeq : Nat := 0
  t1 : Option Int := none
  t2 : Int := 0
  /-- the last Delay_Req: its number, and its send time while it is unanswered -/
  delaySeq : Nat := 0
  t3 : Option Int := none
deriving DecidableEq, Repr

/-- The whole part. -/
structure State where
  /-- commands that wait, first in, first out (the model's own field) -/
  pending : List Instr := []
  /-- ns since power-on; a step on an empty queue adds 1 (the model's own field) -/
  now : Nat := 0
  /-- how many free values the model has used (the model's own field) -/
  free : Nat := 0
  cores : List Core := List.replicate 160 {}
  /-- HBM, near slices and core stores by chip physical address (R228); an unlisted byte reads 0, but in a range of `wild` -/
  mem : List Host.Cell := []
  /-- ranges of memory, from the first address to the one past the last, newest first, whose unlisted bytes are unspecified (R266,
  R325, R341), with the first number of their draw (the model's own field) -/
  wild : List (Nat × Nat × Nat) := []
  /-- lines (address / 128), rising, that carry a poison mark (R193) -/
  poison : List Nat := []
  /-- flipped copies, 0 to 3 and where not 0, of the poison bit of a core-store line, which is stored three times (R237) -/
  poisonFlips : List (Nat × Nat) := []
  /-- protected units with an error in memory, by the address of their first double / 8 (an HBM burst, a near-slice line, a
  core-store double): erroneous 8-bit symbols, or bits of a core-store double (R235, R237, R243, R245) -/
  ecc : List (Nat × Nat) := []
  /-- times of corrected reads in the last 1 s, by unit key (R246), and units already reported -/
  corrTimes : List (Nat × List Nat) := []
  corrOver : List Nat := []
  /-- times of the corrected reads of a near-slice line in the last 24 h (R458 kind 4) -/
  nearTimes : List (Nat × List Nat) := []
  /-- HBM lane samplers: position by 32 × 256 × stack + 256 × channel + lane, where not 0; lanes flagged (R244) -/
  lanes : List (Nat × Int) := []
  flagged : List Nat := []
  /-- `margin-results` of the last margin operation (R248, R266) -/
  margin : List Byte := []
  /-- 256 chip events where not 0 (R54) -/
  chipEvents : List (Nat × Nat) := []
  eventIn : List (Nat × Nat) := []
  eventOut : List (Nat × Nat) := []
  /-- COL channel to group record (R326) -/
  chans : List (Nat × Nat) := []
  handles : List Handle := List.replicate 64 {}
  groups : List Group := List.replicate 16 {}
  /-- free reduction-store slots of XD0-XD3 (R322) -/
  slotsFree : List Nat := List.replicate 4 512
  ops : List CollOp := []
  /-- proxy attempts requested and not ended, oldest first: core and engine number (R201) -/
  proxyReqs : List (Nat × Nat) := []
  xflows : List XFlow := []
  ports : List Port := List.replicate 32 {}
  fab : Fabric := {}
  inbound : List Inbound := []
  inbox : List Ejected := []
  windows : List (Nat × Window) := []
  refusedBy : List (Nat × Nat) := []
  /-- packets put on a fibre (port, packet, trailer), and datagrams sent on an E port: outputs, newest first -/
  egress : List (Nat × Packet × Trailer) := []
  eOut : List (Nat × Datagram) := []
  /-- frames answered on an E port (R380): outputs, newest first -/
  frameOut : List (Nat × EFrame) := []
  /-- control words sent (port, 64 bits): outputs, newest first -/
  cwOut : List (Nat × Nat) := []
  /-- Delay_Req messages sent (E port, number): outputs, newest first (R384) -/
  ptpOut : List (Nat × Nat) := []
  /-- dictionary values that differ from their default, by 256 index + subindex, and the MRAM copy of the stored settings -/
  od : List (Nat × Nat) := []
  mram : List (Nat × Nat) := []
  /-- register words of the die blocks that differ from their default, by die × 2^24 + offset (R26, R385, R419, R501) -/
  dieRegs : List (Nat × Nat) := []
  mgmt : Mgmt := {}
  power : Power := {}
  dies : List Die := [{ strap := 0x08 }, { strap := 0x0A }, { strap := 0x0C }, { strap := 0x0E }, { strap := 0x10 },
    { strap := 0x12 }, { strap := 0x14 }, { strap := 0x16 }, { strap := 0x20 }]
  d2d : List D2d := List.replicate 24 {}
  startup : Startup := {}
  fleet : Fleet := {}
  sec : Security := {}
  eports : List EPort := List.replicate 4 {}
  test : Test := {}
  ptp : Ptp := {}
deriving DecidableEq, Repr

/-- The part at power-on: VSTBY has become good with RESET_N high, and start-up step 1 runs (R445). -/
def State.reset : State := {}

end Sys2Proof.Machine
end

