-- ==== Sys2Proof/Machine/Dict.lean ====
section
/-! DEFINITION. The object table: every object of the dictionary with its type, access, default, range and life
(R13 to R15, R404 to R417 and the object tables of every chapter). -/

namespace Sys2Proof.Machine

/-- Access codes of R11 as objects use them. -/
inductive Acc
  | ro | rw | wo | srw | sro
deriving DecidableEq, Repr

/-- Object types of R15: an integer of `n` bytes, a string, or a byte string of stated length (`dom`) or up to it (`var`). -/
inductive Ty
  | bool
  | u (n : Nat)
  | i (n : Nat)
  | vstr
  | dom (n : Nat)
  | var (n : Nat)
deriving DecidableEq, Repr

/-- States in which an object may be written (R389, owning chapters). -/
inductive When
  | any | preop | preopSafeop | special
deriving DecidableEq, Repr

/-- What keeps an object's value (R454, R455). -/
inductive Life
  | none | stored | job | counter
deriving DecidableEq, Repr

/-- A row of the object table: indices `i0` to `i1`, subindices `s0` to `s1`. -/
structure Obj where
  i0 : Nat
  i1 : Nat
  s0 : Nat
  s1 : Nat
  acc : Acc
  ty : Ty
  dflt : Nat := 0
  lo : Int := 0
  hi : Int := 0
  wh : When := .any
  life : Life := .none
deriving DecidableEq, Repr

/-- Bytes of an object of a type of fixed size. -/
def Ty.size : Ty → Nat
  | .bool => 1
  | .u n => n
  | .i n => n
  | .vstr => 0
  | .dom n => n
  | .var n => n

/-- Object with the full range of its unsigned type. -/
def Obj.full (i s : Nat) (n : Nat) (dflt : Nat) (life : Life) (wh : When := .any) : Obj :=
  { i0 := i, i1 := i, s0 := s, s1 := s, acc := .rw, ty := .u n, dflt := dflt, lo := 0, hi := 256 ^ n - 1, wh := wh, life := life }

/-- Object with a stated range. -/
def Obj.rng (i s : Nat) (n : Nat) (dflt : Nat) (lo hi : Int) (life : Life) (wh : When := .any) : Obj :=
  { i0 := i, i1 := i, s0 := s, s1 := s, acc := .rw, ty := .u n, dflt := dflt, lo := lo, hi := hi, wh := wh, life := life }

/-- Read-only object or array of objects; `dflt` is its constant where nothing computes it. -/
def Obj.fixed (i s0 s1 : Nat) (ty : Ty) (dflt : Nat := 0) : Obj :=
  { i0 := i, i1 := i, s0 := s0, s1 := s1, acc := .ro, ty := ty, dflt := dflt }

/-- Counter or array of counters of `n` bytes (R397). -/
def Obj.ctr (i s0 s1 n : Nat) : Obj :=
  { i0 := i, i1 := i, s0 := s0, s1 := s1, acc := .rw, ty := .u n, lo := 0, hi := 256 ^ n - 1, life := .counter }

/-- Truth value. -/
def Obj.flag (i s : Nat) (dflt : Nat) (life : Life) (wh : When := .any) : Obj :=
  { i0 := i, i1 := i, s0 := s, s1 := s, acc := .rw, ty := .bool, dflt := dflt, lo := 0, hi := 1, wh := wh, life := life }

/-- Subindex 00: the highest subindex in use (R13). -/
def Obj.top (i0 i1 v : Nat) : Obj :=
  { i0 := i0, i1 := i1, s0 := 0, s1 := 0, acc := .ro, ty := .u 1, dflt := v }

/-- Write-only command. -/
def Obj.cmd (i s : Nat) (ty : Ty) : Obj :=
  { i0 := i, i1 := i, s0 := s, s1 := s, acc := .wo, ty := ty, lo := 0, hi := 256 ^ 8 - 1, wh := .special }

/-- Communication profile, identity, summary, commands, handles (R405, R406, R407, R411). -/
def objs1 : List Obj := [
  .fixed 0x1000 0 0 (.u 4), .fixed 0x1001 0 0 (.u 1), .fixed 0x1008 0 0 .vstr, .fixed 0x1009 0 0 .vstr,
  .fixed 0x100A 0 0 .vstr, .top 0x1018 0x1018 4, .fixed 0x1018 1 1 (.u 4) 0x0A57, .fixed 0x1018 2 2 (.u 4) 0xA0,
  .fixed 0x1018 3 3 (.u 4) 0x20000, .fixed 0x1018 4 4 (.u 4),
  .top 0x1A00 0x1A00 11,
  { i0 := 0x1A00, i1 := 0x1A00, s0 := 1, s1 := 0x20, acc := .rw, ty := .u 4, lo := 0, hi := 256 ^ 4 - 1, wh := .preop, life := .stored },
  .top 0x1C00 0x1C00 4, .fixed 0x1C00 1 1 (.u 1) 1, .fixed 0x1C00 2 2 (.u 1) 2, .fixed 0x1C00 3 3 (.u 1) 0, .fixed 0x1C00 4 4 (.u 1) 4,
  .fixed 0x1C12 0 0 (.u 1) 0, .top 0x1C13 0x1C13 1, .fixed 0x1C13 1 1 (.u 2) 0x1A00,
  .top 0x1C33 0x1C33 2, .rng 0x1C33 1 2 0 0 2 .stored .preop, .rng 0x1C33 2 4 1000000 250000 10000000 .stored .preop,
  .top 0x2000 0x2000 8, .fixed 0x2000 1 1 .vstr, .fixed 0x2000 2 2 (.u 1) 2, .fixed 0x2000 3 3 .vstr, .fixed 0x2000 4 4 (.u 4),
  .fixed 0x2000 5 7 (.u 2), .fixed 0x2000 8 8 (.u 1), .top 0x2001 0x2001 9, .fixed 0x2001 1 9 (.u 4),
  .top 0x2050 0x2050 0x0B, .fixed 0x2050 1 3 (.u 1), .fixed 0x2050 4 4 (.u 2), .fixed 0x2050 5 6 (.i 2), .fixed 0x2050 7 7 (.u 2),
  .fixed 0x2050 8 8 (.u 1), .fixed 0x2050 9 9 (.u 4), { i0 := 0x2050, i1 := 0x2050, s0 := 0xA, s1 := 0xA, acc := .ro, ty := .u 4, life := .counter }, .fixed 0x2050 0xB 0xB (.u 8),
  .top 0x2100 0x2100 0x0E, .cmd 0x2100 1 (.dom 8), .cmd 0x2100 2 (.dom 8), .cmd 0x2100 3 (.u 1), .cmd 0x2100 4 (.dom 32),
  .cmd 0x2100 5 (.u 4), .cmd 0x2100 6 (.dom 4), .cmd 0x2100 7 (.dom 24), .cmd 0x2100 8 (.u 4), .cmd 0x2100 9 (.dom 16),
  .cmd 0x2100 0xA (.u 1), .cmd 0x2100 0xB (.u 1), .cmd 0x2100 0xC (.u 2), .fixed 0x2100 0xE 0xE (.u 1),
  .top 0x2190 0x2190 3, .ctr 0x2190 1 1 4, .fixed 0x2190 2 2 (.u 4), .ctr 0x2190 3 3 4,
  .top 0x2191 0x2191 2, .rng 0x2191 1 2 50201 49152 65535 .stored .preop, .rng 0x2191 2 4 10 1 600 .stored,
  .top 0x2200 0x2200 2, .fixed 0x2200 1 1 (.u 1), .rng 0x2200 2 4 600 10 86400 .job,
  .top 0x2201 0x2240 0x0B,
  { i0 := 0x2201, i1 := 0x2240, s0 := 1, s1 := 2, acc := .ro, ty := .u 1 },
  { i0 := 0x2201, i1 := 0x2240, s0 := 3, s1 := 3, acc := .wo, ty := .u 1, lo := 0, hi := 255, wh := .special },
  { i0 := 0x2201, i1 := 0x2240, s0 := 4, s1 := 5, acc := .ro, ty := .u 2 },
  { i0 := 0x2201, i1 := 0x2240, s0 := 6, s1 := 6, acc := .ro, ty := .u 1 },
  { i0 := 0x2201, i1 := 0x2240, s0 := 7, s1 := 8, acc := .ro, ty := .u 8 },
  { i0 := 0x2201, i1 := 0x2240, s0 := 9, s1 := 9, acc := .rw, ty := .u 8, lo := 0, hi := 256 ^ 8 - 1, wh := .special },
  { i0 := 0x2201, i1 := 0x2240, s0 := 0xA, s1 := 0xA, acc := .rw, ty := .bool, lo := 0, hi := 1, wh := .special },
  { i0 := 0x2201, i1 := 0x2240, s0 := 0xB, s1 := 0xB, acc := .ro, ty := .dom 64 }]

/-- Job, membership, fabric, windows, collectives (R295, R316, R348, R475). -/
def objs2 : List Obj := [
  .top 0x2300 0x2300 6, .rng 0x2300 1 2 0 0 0xFFF .stored .preop, .full 0x2300 2 2 0 .job,
  { i0 := 0x2300, i1 := 0x2300, s0 := 3, s1 := 3, acc := .rw, ty := .dom 516, life := .job },
  .fixed 0x2300 4 4 (.u 4), .ctr 0x2300 5 5 8, .rng 0x2300 6 4 100 1 10000 .job,
  .top 0x2400 0x2400 5, .rng 0x2400 1 1 1 0 1 .stored .preop, .full 0x2400 2 2 0 .stored .preop, .rng 0x2400 3 1 8 1 64 .job,
  .rng 0x2400 4 4 200 20 10000 .job, .flag 0x2400 5 0 .job,
  .top 0x2401 0x2401 6, .fixed 0x2401 1 5 (.u 1), .fixed 0x2401 6 6 .bool,
  .top 0x2410 0x2412 0x20, .fixed 0x2410 1 0x20 (.u 4), .fixed 0x2411 1 0x20 (.u 1), .fixed 0x2412 1 0x20 (.u 4),
  .top 0x2420 0x2423 0x20, .ctr 0x2420 1 0x20 4, .ctr 0x2421 1 0x20 4, .ctr 0x2422 1 0x20 4, .ctr 0x2423 1 0x20 4,
  .top 0x2430 0x2430 7, .ctr 0x2430 1 1 8, .ctr 0x2430 2 4 4, .ctr 0x2430 5 6 8, .ctr 0x2430 7 7 4,
  .top 0x2440 0x2440 1, .fixed 0x2440 1 1 (.dom 16384),
  .top 0x2450 0x2450 3, .rng 0x2450 1 2 0 0 4095 .job,
  { i0 := 0x2450, i1 := 0x2450, s0 := 2, s1 := 2, acc := .rw, ty := .dom 16, wh := .special },
  { i0 := 0x2450, i1 := 0x2450, s0 := 3, s1 := 3, acc := .wo, ty := .u 2, lo := 1, hi := 65535, wh := .special },
  .top 0x2460 0x2460 3, .rng 0x2460 1 4 500 10 100000 .job, .rng 0x2460 2 4 2000 10 1000000 .job, .rng 0x2460 3 4 2000 250 1000000 .job,
  .top 0x2470 0x2470 0x0A, .ctr 0x2470 1 3 8, .ctr 0x2470 4 4 4, .ctr 0x2470 5 6 8, .ctr 0x2470 7 7 4, .ctr 0x2470 8 9 8, .ctr 0x2470 0xA 0xA 4,
  .top 0x2471 0x2471 2, .fixed 0x2471 1 1 (.dom 16384),
  { i0 := 0x2471, i1 := 0x2471, s0 := 2, s1 := 2, acc := .wo, ty := .bool, lo := 0, hi := 1, wh := .special },
  .top 0x2472 0x2472 0xA0, .fixed 0x2472 1 0xA0 (.dom 256),
  .top 0x2500 0x2500 7, .fixed 0x2500 1 4 (.u 2), .fixed 0x2500 5 5 (.u 1), .ctr 0x2500 6 6 4, .ctr 0x2500 7 7 8,
  .top 0x2510 0x251F 0x13,
  { i0 := 0x2510, i1 := 0x251F, s0 := 1, s1 := 1, acc := .rw, ty := .u 2, lo := 0, hi := 65535, wh := .special, life := .job },
  { i0 := 0x2510, i1 := 0x251F, s0 := 2, s1 := 2, acc := .rw, ty := .u 4, lo := 0, hi := 256 ^ 4 - 1, wh := .special, life := .job },
  { i0 := 0x2510, i1 := 0x251F, s0 := 3, s1 := 3, acc := .rw, ty := .u 1, dflt := 1, lo := 0, hi := 255, wh := .special, life := .job },
  { i0 := 0x2510, i1 := 0x251F, s0 := 4, s1 := 4, acc := .rw, ty := .u 1, lo := 0, hi := 255, wh := .special, life := .job },
  { i0 := 0x2510, i1 := 0x251F, s0 := 5, s1 := 5, acc := .rw, ty := .u 4, dflt := 0x00066445, lo := 0, hi := 256 ^ 4 - 1, wh := .special, life := .job },
  { i0 := 0x2510, i1 := 0x251F, s0 := 6, s1 := 6, acc := .rw, ty := .u 1, dflt := 8, lo := 1, hi := 64, wh := .special, life := .job },
  { i0 := 0x2510, i1 := 0x251F, s0 := 7, s1 := 7, acc := .rw, ty := .u 2, dflt := 64, lo := 0, hi := 512, wh := .special, life := .job },
  { i0 := 0x2510, i1 := 0x251F, s0 := 8, s1 := 8, acc := .rw, ty := .u 4, dflt := 50, lo := 1, hi := 10000, wh := .special, life := .job },
  { i0 := 0x2510, i1 := 0x251F, s0 := 9, s1 := 9, acc := .wo, ty := .u 1, lo := 1, hi := 3, wh := .special },
  { i0 := 0x2510, i1 := 0x251F, s0 := 0xA, s1 := 0xC, acc := .ro, ty := .u 1 },
  { i0 := 0x2510, i1 := 0x251F, s0 := 0xD, s1 := 0xF, acc := .ro, ty := .u 4 },
  { i0 := 0x2510, i1 := 0x251F, s0 := 0x10, s1 := 0x11, acc := .rw, ty := .u 8, lo := 0, hi := 256 ^ 8 - 1, life := .counter },
  { i0 := 0x2510, i1 := 0x251F, s0 := 0x12, s1 := 0x12, acc := .rw, ty := .u 4, lo := 0, hi := 256 ^ 4 - 1, life := .counter },
  { i0 := 0x2510, i1 := 0x251F, s0 := 0x13, s1 := 0x13, acc := .ro, ty := .u 4 },
  .top 0x2520 0x2520 3, .rng 0x2520 1 4 200 20 10000 .job, .rng 0x2520 2 1 8 1 32 .job, .ctr 0x2520 3 3 8,
  .top 0x2530 0x2530 0x40,
  { i0 := 0x2530, i1 := 0x2530, s0 := 1, s1 := 0x40, acc := .rw, ty := .dom 20, life := .job }]

/-- Memory, checking, random numbers, optics (R205, R206, R227, R266, R386). -/
def objs3 : List Obj := [
  .top 0x2600 0x2600 0x40,
  { i0 := 0x2600, i1 := 0x2600, s0 := 1, s1 := 0x40, acc := .rw, ty := .u 1, dflt := 1, lo := 0, hi := 5, wh := .preop, life := .stored },
  .top 0x2601 0x2601 4, .fixed 0x2601 1 4 (.u 1),
  .top 0x2610 0x2611 0xA0, .ctr 0x2610 1 0xA0 4, .ctr 0x2611 1 0xA0 4, .top 0x2612 0x2613 0x0C, .ctr 0x2612 1 0x0C 4, .ctr 0x2613 1 0x0C 4,
  .top 0x2614 0x2614 0xA0, .ctr 0x2614 1 0xA0 4,
  .top 0x2620 0x2620 2, .rng 0x2620 1 4 86400 3600 604800 .stored, .flag 0x2620 2 1 .stored,
  .top 0x2630 0x2630 2, { i0 := 0x2630, i1 := 0x2630, s0 := 1, s1 := 1, acc := .ro, ty := .u 8, life := .counter },
  { i0 := 0x2630, i1 := 0x2630, s0 := 2, s1 := 2, acc := .ro, ty := .u 4, life := .counter }, .top 0x2640 0x2640 1, .fixed 0x2640 1 1 (.var 49152),
  .top 0x2700 0x2700 9, .rng 0x2700 1 1 1 0 3 .stored .preop, .flag 0x2700 2 1 .stored .preop, .rng 0x2700 3 1 0 0 2 .stored .preop,
  .flag 0x2700 4 0 .stored .preop, .flag 0x2700 5 1 .stored .preop, .flag 0x2700 6 1 .stored .preop, .rng 0x2700 7 2 3 1 65535 .stored .preop,
  .rng 0x2700 8 4 86400 60 31536000 .stored .preop, .fixed 0x2700 9 9 (.dom 32),
  .top 0x2710 0x2711 0xA0, .ctr 0x2710 1 0xA0 4, .ctr 0x2711 1 0xA0 4, .top 0x2718 0x2718 6, .ctr 0x2718 1 4 8, .ctr 0x2718 5 6 4,
  .top 0x2720 0x2720 0, .fixed 0x2720 1 0x40 (.dom 16),
  .top 0x2800 0x2800 2, .fixed 0x2800 1 1 (.u 4) 1, .rng 0x2800 2 1 1 1 1 .job .preop,
  .top 0x2810 0x2810 8,
  { i0 := 0x2810, i1 := 0x2810, s0 := 1, s1 := 8, acc := .rw, ty := .u 8, lo := 0, hi := 256 ^ 8 - 1, wh := .special, life := .job },
  .top 0x2820 0x2820 1, .fixed 0x2820 1 1 (.dom 2048), .top 0x2830 0x2830 3, .ctr 0x2830 1 1 8, .ctr 0x2830 2 3 4,
  .top 0x2900 0x2900 4, .rng 0x2900 1 1 80 60 95 .stored .preop, .rng 0x2900 2 1 70 50 90 .stored .preop, .flag 0x2900 3 1 .stored,
  .flag 0x2900 4 1 .stored, .top 0x2901 0x2901 5, .ctr 0x2901 1 5 4,
  .top 0x2910 0x2915 0x20, .fixed 0x2910 1 0x20 (.u 8), .fixed 0x2911 1 0x20 (.dom 24), .fixed 0x2912 1 0x20 (.u 4),
  .fixed 0x2913 1 0x20 (.dom 134),
  { i0 := 0x2914, i1 := 0x2914, s0 := 1, s1 := 0x20, acc := .rw, ty := .dom 24, life := .counter },
  .fixed 0x2915 1 0x20 (.dom 134),
  .top 0x2920 0x2920 4,
  { i0 := 0x2920, i1 := 0x2920, s0 := 1, s1 := 4, acc := .rw, ty := .dom 16, wh := .preopSafeop, life := .stored },
  .top 0x2921 0x2921 3, .rng 0x2921 1 2 50200 49152 65535 .stored, .rng 0x2921 2 1 26 0 63 .stored, .rng 0x2921 3 1 10 0 63 .stored,
  .top 0x2922 0x2922 0x10,
  { i0 := 0x2922, i1 := 0x2922, s0 := 1, s1 := 0x10, acc := .rw, ty := .dom 17, life := .stored },
  .top 0x2923 0x2924 4, .fixed 0x2923 1 4 (.u 1),
  { i0 := 0x2924, i1 := 0x2924, s0 := 1, s1 := 4, acc := .rw, ty := .dom 48, life := .counter },
  .top 0x2930 0x2930 4, .rng 0x2930 1 1 0 0 127 .stored, .fixed 0x2930 2 3 (.u 1), .fixed 0x2930 4 4 (.i 8)]

/-- A warn or act threshold of class `c` (R437, R443): 1 and 2 rates, 4 and 5 levels. -/
def threshRow (c rw ra rt lw la lt rel : Nat) : List Obj :=
  let i := 0x2A10 + c
  [.top i i 7, .rng i 1 2 rw 0 65535 .stored, .rng i 2 2 ra 0 65535 .stored,
   { i0 := i, i1 := i, s0 := 3, s1 := 3, acc := .sro, ty := .u 2, dflt := rt },
   { i0 := i, i1 := i, s0 := 4, s1 := 4, acc := .rw, ty := .i 2, dflt := lw, lo := -32768, hi := 32767, life := .stored },
   { i0 := i, i1 := i, s0 := 5, s1 := 5, acc := .rw, ty := .i 2, dflt := la, lo := -32768, hi := 32767, life := .stored },
   { i0 := i, i1 := i, s0 := 6, s1 := 6, acc := .sro, ty := .i 2, dflt := lt },
   { i0 := i, i1 := i, s0 := 7, s1 := 7, acc := .sro, ty := .i 2, dflt := rel }]

/-- Power, reliability, security, test, register window (R417, R437, R443, R476, R490, R508). -/
def objs4 : List Obj := [
  .top 0x2A00 0x2A00 9, .rng 0x2A00 1 2 1800 600 1800 .stored, .rng 0x2A00 2 2 400 50 800 .stored .preop, .fixed 0x2A00 3 3 (.u 2),
  .fixed 0x2A00 4 4 (.u 1), .fixed 0x2A00 5 8 .bool, .fixed 0x2A00 9 9 (.u 2), .top 0x2A01 0x2A01 1, .fixed 0x2A01 1 1 (.u 2)] ++
  threshRow 0 60 100 250 9500 10000 10500 7000 ++ threshRow 1 50 80 200 9000 9500 9800 6500 ++
  threshRow 2 20 40 100 8500 9000 9500 6500 ++ threshRow 3 20 40 100 8000 8500 9500 6000 ++
  threshRow 4 20 40 100 7000 7500 8500 5500 ++ threshRow 5 50 100 250 9500 10000 11000 7000 ++ [
  .top 0x2A20 0x2A20 2,
  { i0 := 0x2A20, i1 := 0x2A20, s0 := 1, s1 := 1, acc := .rw, ty := .u 1, lo := 0, hi := 2, wh := .special },
  .fixed 0x2A20 2 2 (.u 1), .top 0x2A30 0x2A30 3, .fixed 0x2A30 1 2 (.dom 522), .fixed 0x2A30 3 3 (.dom 261),
  .top 0x2A40 0x2A40 0, .fixed 0x2A40 1 0x40 (.dom 32), .top 0x2A41 0x2A41 2, .fixed 0x2A41 1 1 .bool, .fixed 0x2A41 2 2 (.u 4),
  .top 0x2B00 0x2B00 7, .fixed 0x2B00 1 5 (.u 4), .fixed 0x2B00 6 6 (.u 8), .fixed 0x2B00 7 7 (.u 1),
  .top 0x2B10 0x2B10 8, .fixed 0x2B10 1 1 (.dom 160), .fixed 0x2B10 2 3 (.u 4), .fixed 0x2B10 4 5 (.u 2), .fixed 0x2B10 6 6 (.dom 22),
  { i0 := 0x2B10, i1 := 0x2B10, s0 := 7, s1 := 8, acc := .sro, ty := .dom 4096 },
  .top 0x2B20 0x2B20 3, .fixed 0x2B20 1 1 (.dom 2816), .fixed 0x2B20 2 2 (.dom 192), .fixed 0x2B20 3 3 (.dom 2816),
  .top 0x2B21 0x2B21 0x20, .fixed 0x2B21 1 0x20 (.dom 288), .top 0x2B22 0x2B22 4, .fixed 0x2B22 1 4 (.dom 60),
  .top 0x2B23 0x2B23 1, .fixed 0x2B23 1 1 (.dom 4224),
  .top 0x2B30 0x2B30 4, { i0 := 0x2B30, i1 := 0x2B30, s0 := 1, s1 := 1, acc := .rw, ty := .dom 8, life := .job },
  .rng 0x2B30 2 4 2000 500 20000 .job, .ctr 0x2B30 3 4 4, .top 0x2B31 0x2B31 0x20, .fixed 0x2B31 1 0x20 (.u 4),
  .top 0x2B40 0x2B40 3, .rng 0x2B40 1 4 10000 1 600000 .job, .fixed 0x2B40 2 2 (.u 2), .fixed 0x2B40 3 3 .bool,
  .top 0x2C00 0x2C01 5, .fixed 0x2C00 1 2 (.u 1), .fixed 0x2C00 3 5 (.dom 32), .fixed 0x2C01 1 2 (.var 32768), .fixed 0x2C01 3 3 (.dom 1568),
  .fixed 0x2C01 4 4 .bool, { i0 := 0x2C01, i1 := 0x2C01, s0 := 5, s1 := 5, acc := .sro, ty := .dom 32 },
  .top 0x2C10 0x2C10 0x40, .fixed 0x2C10 1 0x40 (.dom 30048), .top 0x2C20 0x2C21 4,
  { i0 := 0x2C20, i1 := 0x2C20, s0 := 1, s1 := 4, acc := .rw, ty := .dom 64, wh := .special },
  .fixed 0x2C21 1 4 (.u 8), .top 0x2C22 0x2C22 1,
  { i0 := 0x2C22, i1 := 0x2C22, s0 := 1, s1 := 1, acc := .rw, ty := .dom 24, life := .counter },
  .top 0x2D00 0x2D00 3, { i0 := 0x2D00, i1 := 0x2D00, s0 := 1, s1 := 1, acc := .rw, ty := .bool, lo := 0, hi := 1, wh := .special },
  .ctr 0x2D00 2 2 4, .fixed 0x2D00 3 3 (.u 4) 0x2016056F, .top 0x2D01 0x2D01 4,
  { i0 := 0x2D01, i1 := 0x2D01, s0 := 1, s1 := 4, acc := .srw, ty := .u 4, lo := 0, hi := 256 ^ 4 - 1 },
  .top 0x2D10 0x2D10 2, .full 0x2D10 1 4 0 .job .preopSafeop, .rng 0x2D10 2 1 0 0 15 .job, .top 0x2D11 0x2D11 0x20, .fixed 0x2D11 1 0x20 (.u 4),
  .top 0x3000 0x3000 2,
  { i0 := 0x3000, i1 := 0x3000, s0 := 1, s1 := 1, acc := .srw, ty := .u 8, lo := 0, hi := 256 ^ 8 - 1 },
  { i0 := 0x3000, i1 := 0x3000, s0 := 2, s1 := 2, acc := .srw, ty := .u 4, lo := 0, hi := 256 ^ 4 - 1 }]

/-- Every object of the dictionary (R404). -/
def objs : List Obj := objs1 ++ objs2 ++ objs3 ++ objs4

/-- The row of an object, or none when the index or subindex is absent. -/
def findObj (i sub : Nat) : Option Obj :=
  objs.find? fun o => decide (o.i0 ≤ i) && decide (i ≤ o.i1) && decide (o.s0 ≤ sub) && decide (sub ≤ o.s1)

/-- Whether any object has this index (R397: an absent index is told apart from an absent subindex). -/
def hasIndex (i : Nat) : Bool :=
  objs.any fun o => decide (o.i0 ≤ i) && decide (i ≤ o.i1)

/-- Default TxPDO mapping (R393): 0x2050:01 to 0x2050:0B with their lengths. -/
def txpdoDefault : List Nat :=
  [0x20500108, 0x20500208, 0x20500308, 0x20500410, 0x20500510, 0x20500610, 0x20500710, 0x20500808, 0x20500920, 0x20500A20, 0x20500B40]

/-- The value in effect when nothing has been written (R14). -/
def odDefault (i sub : Nat) : Nat :=
  if i = 0x1A00 ∧ sub ≠ 0 then txpdoDefault.getD (sub - 1) 0
  else match findObj i sub with
    | some o => o.dflt
    | none => 0

end Sys2Proof.Machine
end

