-- ==== Sys2Proof/Machine/Ops.lean ====
section
/-! DEFINITION. The named operations that the meanings share: time, cores and their engines, the dictionary's stored values
and counters, emergencies and the check log, the chip address map, memory with poison and ECC marks, stopping a core,
issuing a descriptor, free values. -/

namespace Sys2Proof.Machine

/-- The one form in which a meaning answers. -/
abbrev Out := Host.Outcome State Fault Refusal

/-! ## Time -/

/-- The calendar: IEEE 1588 time in ns (R384). -/
def calendar (s : State) : Nat := ((s.now : Int) + s.fleet.calBase).toNat

/-! ## Cores and engines -/

/-- Logical core `c`. -/
def State.core (s : State) (c : Nat) : Core := s.cores.getD c {}

/-- Replace logical core `c` by a function of it. -/
def State.modCore (s : State) (c : Nat) (f : Core → Core) : State := { s with cores := s.cores.modify c f }

/-- Enabled cores (R27): logical numbers run without gaps. -/
def coreCount (s : State) : Nat := s.fleet.coreMap.length

/-- The compute die that holds logical core `c` (R27). -/
def dieOf (s : State) (c : Nat) : Nat := s.fleet.coreMap.getD c 0 / 44

/-- The engine of a queue (R49). -/
def Core.eng (k : Core) : Eng → Engine
  | .ma => k.ma
  | .mvp => k.mvp
  | .ve => k.ve
  | .dm => k.dm
  | .sgu => k.sgu
  | .coll => k.coll

/-- The core with one engine replaced. -/
def Core.setEng (k : Core) (e : Eng) (g : Engine) : Core :=
  match e with
  | .ma => { k with ma := g }
  | .mvp => { k with mvp := g }
  | .ve => { k with ve := g }
  | .dm => { k with dm := g }
  | .sgu => { k with sgu := g }
  | .coll => { k with coll := g }

/-- The six engines in the order of R55 and R63. -/
def allEngs : List Eng := [.ma, .mvp, .ve, .dm, .sgu, .coll]

/-- Engine number in `SQ_STAT`, in a FENCE mask and in an emergency (R63, R70, R203). -/
def engNum : Eng → Nat
  | .ma => 0
  | .mvp => 1
  | .ve => 2
  | .dm => 3
  | .sgu => 4
  | .coll => 5

/-- An engine is idle: its queue is empty and its last descriptor has completed (R61, R64). -/
def Engine.idle (g : Engine) : Bool := g.queue.isEmpty && g.run.isEmpty

/-- Number of latched open loop levels' index `i[lv]`, if that level is open (R51). -/
def Desc.index (d : Desc) (lv : Nat) : Option Nat := d.idx[lv]?

/-- Double `k` of a descriptor. -/
def Desc.word (d : Desc) (k : Nat) : Nat := (d.words.getD k 0).toNat

/-- An engine register of a core by its offset (R102, R144, R226, R265, R315, R347). -/
def Core.reg (k : Core) (ofs : Nat) : Nat := lget 0 k.regs ofs

/-- Set an engine register. -/
def Core.setReg (k : Core) (ofs v : Nat) : Core := { k with regs := lset 0 ofs v k.regs }

/-- Add one to field [lo + w − 1 : lo] of an engine register, saturating. -/
def Core.bump (k : Core) (ofs lo w : Nat) : Core :=
  let v := k.reg ofs
  let f := fld v lo w
  if f + 1 < 2 ^ w then k.setReg ofs (v + 2 ^ lo) else k

/-- Set bits of `SQ_STAT` (R70). -/
def Core.setStat (k : Core) (bit : Nat) : Core := { k with stat := k.stat ||| BitVec.ofNat 10 (2 ^ bit) }

/-- A core event (R54). -/
def Core.event (k : Core) (e : Nat) : Bool := bitAt k.events.toNat e

/-- Set or clear a core event. -/
def Core.setEvent (k : Core) (e : Nat) (v : Bool) : Core :=
  let m : BitVec 64 := BitVec.ofNat 64 (2 ^ e)
  { k with events := if v then k.events ||| m else k.events &&& ~~~m }

/-- WEV of a descriptor, if valid (R48). -/
def Desc.wev (d : Desc) : Option Nat := if bitAt (d.word 0) 50 then some (fld (d.word 0) 44 6) else none

/-- SEV of a descriptor, if valid (R48). -/
def Desc.sev (d : Desc) : Option Nat := if bitAt (d.word 0) 43 then some (fld (d.word 0) 37 6) else none

/-- WCLR of a descriptor (R48). -/
def Desc.wclr (d : Desc) : Bool := bitAt (d.word 0) 51

/-- One engine's head tests its event at the start of a cycle, `old` being the core as it stood then: a wait that clears finds the
event only if no earlier consumer of the cycle has cleared it (R55). -/
def testHead (old k : Core) (e : Eng) : Core :=
  let g := k.eng e
  match g.queue.head?.bind Desc.wev with
  | some x =>
    if g.go || !old.event x then k
    else if !(g.queue.headD { pc := 0, words := [], idx := [], eo := 0, vl := 0, rst := false }).wclr then k.setEng e { g with go := true }
    else if k.event x then (k.setEng e { g with go := true }).setEvent x false
    else k
  | none => k

/-- The consumers of core events test them in the order of R55, a blocked WAIT of the SQ first: a wait satisfied stays satisfied, and
clears its event at that moment where it asks for it (R48, R55, R59). -/
def Core.settleWaits (k : Core) : Core :=
  let k1 := match k.sqWait with
    | some (x, clr) => if k.event x then (if clr then { k with sqWait := none }.setEvent x false else { k with sqWait := none }) else k
    | none => k
  allEngs.foldl (testHead k) k1

/-! ## Dictionary values and counters -/

/-- Key of an object in the stored values. -/
def odKey (i sub : Nat) : Nat := 256 * i + sub

/-- The value of a stored object, its default where nothing else has been set (R14). -/
def odGet (s : State) (i sub : Nat) : Nat := lget (odDefault i sub) s.od (odKey i sub)

/-- Set a stored object. -/
def odSet (i sub v : Nat) (s : State) : State := { s with od := lset (odDefault i sub) (odKey i sub) v s.od }

/-- Add `k` to a counter of `n` bytes, saturating (R206). -/
def odInc (i sub n k : Nat) (s : State) : State := odSet i sub (min (256 ^ n - 1) (odGet s i sub + k)) s

/-- A die register word (R26, R385, R419, R501) by die and offset; unlisted words are 0. -/
def dieReg (s : State) (d ofs : Nat) : Nat := lget 0 s.dieRegs (d * 2 ^ 24 + ofs)

def setDieReg (d ofs v : Nat) (s : State) : State := { s with dieRegs := lset 0 (d * 2 ^ 24 + ofs) v s.dieRegs }

/-! ## Ports -/

def State.port (s : State) (p : Nat) : Port := s.ports.getD p {}

def State.modPort (s : State) (p : Nat) (f : Port → Port) : State := { s with ports := s.ports.modify p f }

/-- Role LINK (R272): 1. -/
def Port.isLink (p : Port) : Bool := p.role == 1

/-- LINK ports now up (R295). -/
def linksUp (s : State) : Nat := (s.ports.filter fun p => p.isLink && decide (p.pstate = 1 ∨ p.pstate = 2)).length

/-- `links-expected`: 31 at shape 0, 28 at shape 1 (R270, R295). -/
def linksExpected (s : State) : Nat := if s.fab.shape = 0 then 31 else 28

/-! ## Emergencies (R203, R398, R447) -/

/-- A warn, and an act, threshold of a sensor stands crossed: level or rate (R436). -/
def Sensor.warn (x : Sensor) : Bool := x.crossed.getD 0 false || x.crossed.getD 3 false
def Sensor.act (x : Sensor) : Bool := x.crossed.getD 1 false || x.crossed.getD 4 false

/-- 0x1001 `error-register` (R398). -/
def errorRegister (s : State) : Nat :=
  let b3 := s.power.sensors.any fun x => x.warn || x.act
  let b4 := (s.fab.fwd == 1 && decide (linksUp s < linksExpected s)) || s.fab.fwd == 3 || s.eports.any fun e => !e.up
  let b7 := match s.mgmt.lastEmcy with
    | some t => decide (s.now < t + 1000000000)
    | none => false
  b2n (b3 || b4 || b7) + 8 * b2n b3 + 16 * b2n b4 + 128 * b2n b7

/-- Bytes of a message of the SDO-over-UDP service before its tag (R401). -/
def sdoBytes (m : SdoMsg) : List Byte :=
  leBytes 2 m.magic ++ leBytes 1 m.ver ++ leBytes 1 m.type ++ leBytes 4 m.session ++ leBytes 8 m.seq ++ leBytes 2 m.index ++
    leBytes 1 m.sub ++ leBytes 1 m.flags ++ leBytes 4 m.offset ++ leBytes 2 m.len ++ leBytes 2 m.rsvd ++ m.data

/-- The tag of a message under a session key (R401, R489): KMAC256 with a 32-byte output. -/
def sdoTag (key : List Byte) (m : SdoMsg) : List Byte := kmac256 key (sdoBytes m) 256 "ZP160 SDO TAG"

/-- A message from the device to a session's client. -/
def sdoOut (se : Session) (n type seq index sub flags offset : Nat) (data : List Byte) : SdoMsg :=
  let m : SdoMsg := {
    addr := se.addr, port := se.port, magic := 0x505A, ver := 1, type := type, session := n, seq := seq,
    index := index, sub := sub, flags := flags, offset := offset, len := data.length, rsvd := 0, data := data, tag := [] }
  { m with tag := sdoTag se.key m }

/-- The 8-byte emergency message. -/
def emcyBytes (e : Emcy) : List Byte := leBytes 2 e.code ++ leBytes 1 e.reg ++ e.bytes.flatMap (leBytes 1)

/-- One EVENT to each open session (R402, R403). -/
def sendEvents (e : Emcy) (s : State) : State :=
  let data := emcyBytes e ++ leBytes 8 (calendar s)
  let go := fun (acc : List Session × List SdoMsg × Nat) (se : Session) =>
    let n := acc.2.2
    if se.isOpen then
      (acc.1 ++ [{ se with eventSeq := se.eventSeq + 1 }],
       sdoOut se n 7 (2 ^ 63 + se.eventSeq + 1) 0 0 0 0 data :: acc.2.1, n + 1)
    else (acc.1 ++ [se], acc.2.1, n + 1)
  let r := s.mgmt.sessions.foldl go ([], s.mgmt.udpOut, 1)
  { s with mgmt := { s.mgmt with sessions := r.1, udpOut := r.2.1 } }

/-- Emergency messages sent in the last 1 ms (R203's sliding window). -/
def recentEmcy (s : State) : List Nat := s.mgmt.emcyTimes.filter fun t => decide (s.now < t + 1000000)

/-- Put a message on the mailbox now: bit 7 of the register it carries is set by it. -/
def emcyPut (code : Nat) (bytes : List Nat) (s : State) : State :=
  let s1 : State := { s with mgmt := { s.mgmt with lastEmcy := some s.now, emcyTimes := s.now :: recentEmcy s } }
  let e : Emcy := { code := code, reg := errorRegister s1, bytes := (bytes ++ List.replicate 5 0).take 5 }
  sendEvents e { s1 with mgmt := { s1.mgmt with emcy := e :: s1.mgmt.emcy } }

/-- Count an event left without its own message (R203, R206). -/
def emcyCoalesce (s : State) : State :=
  odInc 0x2718 6 4 1 { s with mgmt := { s.mgmt with coalesced := s.mgmt.coalesced + 1 } }

/-- The mailbox is off in Init, and in Bootstrap carries FoE only (R389). -/
def mailboxOff (s : State) : Bool := s.mgmt.al == 1 || s.mgmt.al == 3

/-- Send an emergency (R203, R447): held while the mailbox is off, up to 16; coalesced beyond the budget of 8 in any 1 ms;
a trip message is never coalesced, so it is held beyond the 16 too (DESIGN CHOICE, log 117). -/
def emcySend (trip : Bool) (code : Nat) (bytes : List Nat) (s : State) : State :=
  if mailboxOff s then
    if trip || decide (s.mgmt.heldEmcy.length < 16) then
      { s with mgmt := { s.mgmt with heldEmcy := s.mgmt.heldEmcy ++
        [{ code := code, reg := 0, bytes := (bytes ++ List.replicate 5 0).take 5 }] } }
    else emcyCoalesce s
  else if trip || decide ((recentEmcy s).length < 8) then emcyPut code bytes s
  else emcyCoalesce s

/-- An emergency of an ordinary event. -/
def emcy (code : Nat) (bytes : List Nat) (s : State) : State := emcySend false code bytes s

/-- Send the held messages that the budget allows, in order (R203, R447). -/
def emcyDrain : Nat → State → State
  | 0, s => s
  | n + 1, s =>
    match s.mgmt.heldEmcy with
    | [] => s
    | e :: r =>
      if mailboxOff s || decide (8 ≤ (recentEmcy s).length) then s
      else emcyDrain n (emcyPut e.code e.bytes { s with mgmt := { s.mgmt with heldEmcy := r } })

/-- Add an entry to the check log, a ring of 64 (R207). -/
def logCheck (core engAtt row col code low pc : Nat) (s : State) : State :=
  let e := leBytes 8 (calendar s) ++ leBytes 1 core ++ leBytes 1 engAtt ++ leBytes 1 row ++ leBytes 1 col ++ leBytes 1 code ++
    leBytes 1 low ++ leBytes 2 pc
  let l := s.mgmt.checkLog ++ [e]
  { s with mgmt := { s.mgmt with checkLog := l.drop (l.length - 64) } }

/-! ## The chip address map (R228, R229) -/

def regionSize : Nat := 0x300000000
def hbmTop : Nat := 64 * regionSize
def nearBase : Nat := 0x010000000000
def nearSize : Nat := 0x10000000
def storeBase : Nat := 0x020000000000
def storePitch : Nat := 0x800000
def storeSize : Nat := 0x600000
def coreRegBase : Nat := 0x030000000000
def dieRegBase : Nat := 0x030100000000

/-- What an address names. -/
inductive Place
  | hbm (region : Nat)
  | near (c ofs : Nat)
  | store (c ofs : Nat)
  | coreReg (c ofs : Nat)
  | dieReg (d ofs : Nat)
  | absent
deriving DecidableEq, Repr

/-- Mode of an HBM region (R239, R266). -/
def regionMode (s : State) (r : Nat) : Nat := odGet s 0x2600 (r + 1)

/-- Stacks a mode draws on (R20, R239): all twelve, or the three of one die. -/
def modeStacks (mode : Nat) : List Nat :=
  if mode = 1 then List.range 12
  else if 2 ≤ mode then [(3 * (mode - 2) + 10) % 12, (3 * (mode - 2) + 11) % 12, (3 * (mode - 2)) % 12]
  else []

/-- Die `d` has a valid strap and is not isolated (R25, R39). -/
def dieOk (s : State) (d : Nat) : Bool :=
  let x := s.dies.getD d { strap := 0 }
  x.ok && !x.isolated

/-- The compute die that owns stack `n` (R20). -/
def stackDie (n : Nat) : Nat := (n + 2) / 3 % 4

/-- A region is present when its mode is not absent and every stack it draws on is in use, on a die that is not isolated (R25, R39, R229,
R446). -/
def regionPresent (s : State) (r : Nat) : Bool :=
  decide (r < 64) && decide (regionMode s r ≠ 0) &&
    (modeStacks (regionMode s r)).all fun n => bitAt s.startup.stacksOk.toNat n && dieOk s (stackDie n)

/-- Decode a chip physical address. -/
def place (s : State) (a : Nat) : Place :=
  if a < hbmTop then (if regionPresent s (a / regionSize) then .hbm (a / regionSize) else .absent)
  else if nearBase ≤ a ∧ a < nearBase + coreCount s * nearSize then .near ((a - nearBase) / nearSize) ((a - nearBase) % nearSize)
  else if storeBase ≤ a ∧ a < storeBase + coreCount s * storePitch then
    (if (a - storeBase) % storePitch < storeSize then .store ((a - storeBase) / storePitch) ((a - storeBase) % storePitch) else .absent)
  else if coreRegBase ≤ a ∧ a < coreRegBase + coreCount s * 0x10000 then
    .coreReg ((a - coreRegBase) / 0x10000) ((a - coreRegBase) % 0x10000)
  else if dieRegBase ≤ a ∧ a < dieRegBase + 9 * 0x1000000 then .dieReg ((a - dieRegBase) / 0x1000000) ((a - dieRegBase) % 0x1000000)
  else .absent

/-- A place in memory: HBM, a near slice or a core store. -/
def Place.isMem : Place → Bool
  | .hbm _ => true
  | .near _ _ => true
  | .store _ _ => true
  | _ => false

/-- All of `n` bytes from `a` lie in present memory. Presence is uniform over a 256-byte block, so its blocks are asked. -/
def memSpan (s : State) (a n : Nat) : Bool :=
  n == 0 || ((place s a).isMem && (place s (a + n - 1)).isMem &&
    ((List.range ((n + 255) / 256)).all fun k => (place s (a + 256 * k)).isMem))

/-- All of `n` bytes from `a` lie in present HBM: an address range crosses regions at their boundaries only. -/
def hbmSpan (s : State) (a n : Nat) : Bool :=
  decide (a + n ≤ hbmTop) &&
    (n == 0 || (List.range ((a + n - 1) / regionSize + 1 - a / regionSize)).all fun k => regionPresent s (a / regionSize + k))

/-! ## Ways between the dies (R25, R31, R35, R39) -/

/-- Link `i` < 4 joins CD`i` and CD`i + 1`: both dies are there and the link is not held down. -/
def edgeUp (s : State) (i : Nat) : Bool := dieOk s i && dieOk s ((i + 1) % 4) && !s.startup.heldLinks.contains i

/-- Link 4 + n joins CDn and XDn. -/
def xdLinkUp (s : State) (n : Nat) : Bool := dieOk s n && dieOk s (4 + n) && !s.startup.heldLinks.contains (4 + n)

/-- CD`a` has its fixed way to CD`b`: a shared edge, or the two clockwise edges of a diagonal (R31). -/
def dieReach (s : State) (a b : Nat) : Bool :=
  match (b + 4 - a) % 4 with
  | 0 => true
  | 1 => edgeUp s a
  | 2 => edgeUp s a && edgeUp s ((a + 1) % 4)
  | _ => edgeUp s b

/-- What CD`d` reaches at an address: an HBM region whole, or one core's memory and registers, or a die's registers. -/
def addrReach (s : State) (d a : Nat) : Bool :=
  match place s a with
  | .hbm r => (modeStacks (regionMode s r)).all fun n => dieReach s d (stackDie n)
  | .near c _ => dieReach s d (dieOf s c)
  | .store c _ => dieReach s d (dieOf s c)
  | .coreReg c _ => dieReach s d (dieOf s c)
  | .dieReg k _ => if k < 4 then dieReach s d k else if k < 8 then dieReach s d (k - 4) && xdLinkUp s (k - 4) else true
  | .absent => true

/-- The same of `n` bytes. Regions and slices are no smaller than the pieces asked, and dies hold their cores in a row. What no way leads
to is treated as absent (log 128). -/
def spanReach (s : State) (d a n : Nat) : Bool :=
  n == 0 || (addrReach s d (a + n - 1) && (List.range (n / 2 ^ 28 + 1)).all fun k => addrReach s d (min (a + n - 1) (a + 2 ^ 28 * k)))

/-- Present memory that an engine of CD`d` reaches. -/
def memReach (s : State) (d a n : Nat) : Bool := memSpan s a n && spanReach s d a n

/-- Stack and channel of an HBM line (R240). -/
def hbmStack (s : State) (a : Nat) : Nat :=
  let l := (a % regionSize) / 128
  let mode := regionMode s (a / regionSize)
  if mode = 1 then l % 12 else (modeStacks mode).getD (l % 3) 0

def hbmChannel (s : State) (a : Nat) : Nat :=
  let l := (a % regionSize) / 128
  if regionMode s (a / regionSize) = 1 then (l / 12) % 32 else (l / 3) % 32

/-- Chip address of an offset in a core store, and in a near slice. -/
def storeAddr (c ofs : Nat) : Nat := storeBase + c * storePitch + ofs
def nearAddr (c ofs : Nat) : Nat := nearBase + c * nearSize + ofs

/-! ## Bytes -/

/-- What an unlisted address reads as: 0, or a free byte in a range whose contents are unspecified (R266, R445, R455; DESIGN CHOICE,
logs 5 and 6). -/
def blankByte (wild : List (Nat × Nat × Nat)) (a : Nat) : Byte := match wild.find? fun e => decide (e.1 ≤ a) && decide (a < e.2.1) with
  | some e => Config.freeByte (e.2.2 + (a - e.1))
  | none => 0

/-- One byte of memory. -/
def readByte (s : State) (a : Nat) : Byte := lget (blankByte s.wild a) s.mem a

/-- Bytes `a` to `a + n − 1`. -/
def readBytes (s : State) (a n : Nat) : List Byte :=
  let r := s.mem.filter fun e => decide (a ≤ e.1) && decide (e.1 < a + n)
  (List.range n).map fun i => lget (blankByte s.wild (a + i)) r (a + i)

/-- The listed cells of a run of bytes: those that are not 0. -/
def cellsOf : Nat → List Byte → List (Nat × Byte)
  | _, [] => []
  | a, b :: r => if b = 0 then cellsOf (a + 1) r else (a, b) :: cellsOf (a + 1) r

/-- The cells of a run of bytes: those that differ from what their address reads when unlisted. -/
def memCells (wild : List (Nat × Nat × Nat)) : Nat → List Byte → List Host.Cell
  | _, [] => []
  | a, b :: r => if b = blankByte wild a then memCells wild (a + 1) r else (a, b) :: memCells wild (a + 1) r

/-- Memory with a run of bytes laid over it, in the canonical form. -/
def memPut (wild : List (Nat × Nat × Nat)) (m : List Host.Cell) (a : Nat) (bs : List Byte) : List Host.Cell :=
  (m.filter fun e => decide (e.1 < a)) ++ memCells wild a bs ++ (m.filter fun e => decide (a + bs.length ≤ e.1))

/-- Write bytes; the marks of their lines are settled apart. -/
def writeBytes (a : Nat) (bs : List Byte) (s : State) : State := { s with mem := memPut s.wild s.mem a bs }

/-- The bytes from `lo` up to `hi` become unspecified: each is a free byte of a new draw (DESIGN CHOICE, log 5). -/
def makeWild (lo hi : Nat) (s : State) : State :=
  { s with mem := s.mem.filter fun e => decide (e.1 < lo) || decide (hi ≤ e.1)
           wild := (lo, hi, s.free) :: s.wild.filter fun e => decide (e.1 < lo) || decide (hi < e.2.1)
           free := s.free + (hi - lo) }

/-- Several ranges, as (address, length). -/
def wildAll (l : List (Nat × Nat)) (s : State) : State := l.foldl (fun t x => makeWild x.1 (x.1 + x.2) t) s

/-- A little-endian number in memory (R6). -/
def readNum (s : State) (a n : Nat) : Nat := ofLE (readBytes s a n)

/-! ## ECC and poison (R193 to R196, R235 to R237, R243 to R246) -/

/-- Protected units of a line: two bursts of HBM, the line of a near slice, sixteen doubles of a core store. -/
def eccUnits (s : State) (l : Nat) : List Nat :=
  match place s (128 * l) with
  | .hbm _ => [16 * l, 16 * l + 8]
  | .near _ _ => [16 * l]
  | .store _ _ => (List.range 16).map fun i => 16 * l + i
  | _ => []

/-- Note a corrected read of a unit in its 1 s window and send 0xFF42 when the count first exceeds 1 000, or exceeds it again after the
window before this read had fallen to 1 000 or below (R246). -/
def noteCorrected (key : Nat) (b0 b1 : Nat) (s : State) : State :=
  let l := s.now :: ((aget key s.corrTimes).getD []).filter fun t => decide (s.now < t + 1000000000)
  let s1 : State := { s with corrTimes := aset key l s.corrTimes }
  let told := if l.length ≤ 1001 then s1.corrOver.filter fun k => k != key else s1.corrOver
  if l.length ≤ 1000 then { s1 with corrOver := told }
  else if told.contains key then s1
  else emcy 0xFF42 [b0, b1, 0xFF, 0xFF, 0xFF] { s1 with corrOver := key :: told }

/-- Physical site of logical core `c`. -/
def siteOf (s : State) (c : Nat) : Nat := s.fleet.coreMap.getD c 0

/-- Change the lifetime record of a site. -/
def modSite (i : Nat) (f : Site → Site) (s : State) : State := { s with fleet := { s.fleet with sites := s.fleet.sites.modify i f } }

/-! ## The soft repair map (R458, R459) -/

/-- Manufacturer bytes of 0xFF94 and 0xFF98 (R477). -/
def repairBytes (kind unit index last : Nat) : List Nat := [kind, unit, index % 256, index / 256 % 256, last]

/-- The entry that stands for a repair of this unit: pending, or applied for a kind whose unit is repaired once. -/
def repairKnown (s : State) (kind unit index : Nat) : Bool :=
  s.fleet.softMap.any fun e => e.kind == kind && e.unit == unit && e.index == index && (e.state == 0 || ([2, 3, 4, 7, 8, 9].contains kind && e.state == 1))

/-- Record a repair: 0xFF94, or 0xFF98 where the map of 512 entries is full (R459). -/
def recordRepair (kind unit index repl source state : Nat) (s : State) : State :=
  if repairKnown s kind unit index then s
  else
    let s1 : State := { s with fleet := { s.fleet with repairEvents := s.fleet.repairEvents + 1 } }
    if 512 ≤ s.fleet.softMap.length then emcy 0xFF98 (repairBytes kind unit index 0) s1
    else
      let e : Repair := { kind := kind, unit := unit, index := index, repl := repl, source := source, state := state }
      emcy 0xFF94 (repairBytes kind unit index state) { s1 with fleet := { s1.fleet with softMap := s1.fleet.softMap ++ [e] } }

/-- Record site `i` (44 d + s) for Axolotl, pending: found by a self-test (1) or under the checking policy (2). -/
def recordSite (i source : Nat) (s : State) : State := recordRepair 1 (i / 44) (i % 44) 0xFFFF source 0 s

def incAt (k n : Nat) (l : List (Nat × Nat)) : List (Nat × Nat) := aset k ((aget k l).getD 0 + n) l

/-- Record a row of the near slice of core `c` that needs a spare: the layer of slice offset `o` (R231, R458 kind 4). -/
def recordRow (c o : Nat) (s : State) : State :=
  let i := siteOf s c
  recordRepair 4 (i / 44) (256 * (i % 44) + (o >>> 8) % 8) 0xFFFF 3 0 s

/-- Note a corrected read of a near-slice line; more than 100 within 24 h record its row (R458 kind 4; a row is taken as a line, log 14). -/
def noteNear (l c o : Nat) (s : State) : State :=
  let ts := s.now :: ((aget l s.nearTimes).getD []).filter fun t => decide (s.now < t + 86400000000000)
  let s1 : State := { s with nearTimes := aset l ts s.nearTimes }
  if 100 < ts.length then recordRow c o s1 else s1

/-- Count `n` corrected reads of the line's unit (R245, R266, R464). -/
def countCorrected (l n : Nat) (s : State) : State :=
  if n = 0 then s
  else match place s (128 * l) with
    | .hbm _ =>
      let k := hbmStack s (128 * l)
      let s1 := odInc 0x2612 (k + 1) 4 n { s with fleet := { s.fleet with hbmCorr := incAt k n s.fleet.hbmCorr } }
      (List.range n).foldl (fun t _ => noteCorrected (2000 + k) 2 k t) s1
    | .near c o =>
      noteNear l c o (noteCorrected (1000 + c) 1 c
        (odInc 0x2610 (c + 1) 4 1 (modSite (siteOf s c) (fun x => { x with nearCorr := x.nearCorr + 1 }) s)))
    | .store c _ =>
      let s1 := odInc 0x2614 (c + 1) 4 n (modSite (siteOf s c) (fun x => { x with csCorr := x.csCorr + n }) s)
      (List.range n).foldl (fun t _ => noteCorrected c 0 c t) s1
    | _ => s

/-- Count and report one uncorrectable read; `bursts` says which bursts of an HBM line failed (R245, R246). -/
def countUncorrected (l : Nat) (bursts : List Nat) (s : State) : State :=
  let s1 := odInc 0x2050 0x0A 4 1 s
  match place s (128 * l) with
  | .hbm _ =>
    let k := hbmStack s (128 * l)
    let ch := hbmChannel s (128 * l)
    let pc := if bursts.length = 2 then 2 else bursts.headD 0
    emcy 0xFF41 [2, k, ch, 0, pc] (odInc 0x2613 (k + 1) 4 bursts.length { s1 with fleet := { s1.fleet with hbmUnc := incAt k bursts.length s1.fleet.hbmUnc } })
  | .near c o =>
    recordRow c o (emcy 0xFF41 [1, c, 0, 0, (o >>> 8) % 8]
      (odInc 0x2611 (c + 1) 4 1 (modSite (siteOf s c) (fun x => { x with nearUnc := x.nearUnc + 1 }) s1)))
  | .store c _ => emcy 0xFF41 [0, c, 0, 0, 0] (modSite (siteOf s c) (fun x => { x with csUnc := x.csUnc + 1 }) s1)
  | _ => s1

/-- A line reads poisoned: by its stored pattern, in a core store by the majority of its three bits (R193, R237). -/
def poisoned (s : State) (l : Nat) : Bool := s.poison.contains l != decide (2 ≤ lget 0 s.poisonFlips l)

/-- All three copies of a line's poison bit are written. -/
def settleFlips (l : Nat) (s : State) : State := { s with poisonFlips := s.poisonFlips.filter fun e => e.1 != l }
def setPoison (l : Nat) (s : State) : State := settleFlips l { s with poison := sinsert l s.poison }
def clearPoison (l : Nat) (s : State) : State := settleFlips l { s with poison := sremove l s.poison }

/-- What a code finds in a unit with `n` erroneous symbols: 0 no error, 1 corrected, 2 uncorrectable. Reed–Solomon over a near-slice line
corrects 4 and detects 12; over an HBM burst 1 and 2; SEC-DED over a double 1 and 2 bits (R235, R237, R243). What more errors give is
free (log 126). -/
def codeFinds (correct detect u n : Nat) : Nat :=
  if n = 0 then 0 else if n ≤ correct then 1 else if n ≤ detect then 2 else Config.eccBeyond u n % 3

/-- What a read of unit `u` of line `l` finds; 3 is the poison pattern, met exactly (R235, R243). Errors on top of the pattern leave
every bound of the code (log 126). -/
def unitFinds (s : State) (l u : Nat) : Nat :=
  let n := lget 0 s.ecc u
  match place s (128 * l) with
  | .near _ _ => if poisoned s l then (if n = 0 then 3 else Config.eccBeyond u n % 4) else codeFinds 4 12 u n
  | .hbm _ => if poisoned s l then (if n = 0 then 3 else Config.eccBeyond u n % 4) else codeFinds 1 2 u n
  | _ => codeFinds 1 2 u n

/-- Drop the error marks of a line's units. -/
def clearEcc (l : Nat) (s : State) : State := { s with ecc := s.ecc.filter fun e => decide (e.1 / 16 ≠ l) }

/-- The poison that a read of the units `us` meets: a core-store line has bits of its own, elsewhere the check bytes say it. -/
def meetsPoison (s : State) (l : Nat) (us : List Nat) : Bool :=
  match place s (128 * l) with
  | .near _ _ => us.any fun u => unitFinds s l u == 3
  | .hbm _ => us.any fun u => unitFinds s l u == 3
  | _ => poisoned s l

/-- Read a line for its check: whether it reads poisoned, and the state after the counts (R245). Only the units in `us` are read. An
uncorrectable unit is left poisoned, written so with the data as read (R194, log 126). -/
def readUnits (l : Nat) (us : List Nat) (s : State) : Bool × State :=
  let bad := us.filter fun u => unitFinds s l u == 2
  let s1 := countCorrected l (us.filter fun u => unitFinds s l u == 1).length s
  if bad.isEmpty then (meetsPoison s l us, s1)
  else
    let s2 := countUncorrected l (bad.map fun u => (u % 16) / 8) s1
    (true, setPoison l { s2 with ecc := s2.ecc.filter fun e => !bad.contains e.1 })

/-- Read a whole line. -/
def readLine (l : Nat) (s : State) : Bool × State := readUnits l (eccUnits s l) s

/-- Units of a line that bytes lo to hi − 1 touch. -/
def unitsOf (s : State) (l lo hi : Nat) : List Nat :=
  match place s (128 * l) with
  | .store _ _ => (eccUnits s l).filter fun u => decide (8 * u < hi) && decide (lo < 8 * u + 8)
  | _ => eccUnits s l

/-- Lines that bytes `a` to `a + n − 1` touch. -/
def linesOf (a n : Nat) : List Nat := if n = 0 then [] else (List.range ((a + n - 1) / 128 + 1 - a / 128)).map fun k => a / 128 + k

/-- Keep the first of each. -/
def dedup : List Nat → List Nat → List Nat
  | [], acc => acc.reverse
  | x :: r, acc => dedup r (if acc.contains x then acc else x :: acc)

/-- Read byte ranges for their marks: any poisoned? A line is read once. -/
def touchRead (spans : List (Nat × Nat)) (s : State) : Bool × State :=
  let ls := dedup (spans.flatMap fun x => linesOf x.1 x.2) []
  ls.foldl (fun (acc : Bool × State) l =>
    let mine := spans.filter fun x => decide (0 < x.2) && decide (x.1 < 128 * l + 128) && decide (128 * l < x.1 + x.2)
    let us := dedup (mine.flatMap fun x => unitsOf acc.2 l x.1 (x.1 + x.2)) []
    let r := readUnits l us acc.2
    (acc.1 || r.1, r.2)) (false, s)

/-- Every byte of lo to hi − 1 is among the written pieces. -/
def covered (ps : List (Nat × Nat)) (lo n : Nat) : Bool :=
  (ps.any fun p => decide (p.1 ≤ lo) && decide (lo + n ≤ p.1 + p.2)) ||
    (List.range n).all fun i => ps.any fun p => decide (p.1 ≤ lo + i) && decide (lo + i < p.1 + p.2)

/-- After bytes of a line have been written: whole lines lose their marks, partial ones are read–modify–writes (R196, R236). -/
def settleLine (ps : List (Nat × Nat)) (bad : Bool) (l : Nat) (s : State) : State :=
  if covered ps (128 * l) 128 then
    let s1 := clearEcc l s
    if bad then setPoison l s1 else clearPoison l s1
  else
    let part := match place s (128 * l) with
      | .store _ _ => (eccUnits s l).filter fun u =>
          !covered ps (8 * u) 8 && ps.any fun p => decide (p.1 < 8 * u + 8) && decide (8 * u < p.1 + p.2)
      | _ => eccUnits s l
    let full := match place s (128 * l) with
      | .store _ _ => (eccUnits s l).filter fun u => covered ps (8 * u) 8
      | _ => []
    let r := readUnits l part s
    let s1 : State := { r.2 with ecc := r.2.ecc.filter fun e => !(part.contains e.1 || full.contains e.1) }
    if bad then setPoison l s1 else s1

/-- Write pieces of bytes and settle the marks of every line they touch. -/
def storePieces (ps : List (Nat × List Byte)) (bad : Bool) (s : State) : State :=
  let s1 := ps.foldl (fun t p => writeBytes p.1 p.2 t) s
  let rs := ps.map fun p => (p.1, p.2.length)
  (dedup (rs.flatMap fun p => linesOf p.1 p.2) []).foldl (fun t l => settleLine rs bad l t) s1

/-! ## Free values -/

/-- The next `n` free bytes (log 5). -/
def freeBytes (n : Nat) (s : State) : List Byte × State :=
  ((List.range n).map fun i => Config.freeByte (s.free + i), { s with free := s.free + n })

/-- The next free word. -/
def nextFreeWord (s : State) : Word × State := (Config.freeWord s.free, { s with free := s.free + 1 })

/-! ## Stopping a core (R67, R69) -/

/-- Tiles a running descriptor writes. -/
def Run.writes (r : Run) : List Nat := (r.tiles.filter (·.2)).map (·.1)

/-- Poison bits of tiles. -/
def poisonTiles (ts : List Nat) (k : Core) : Core :=
  { k with tilePoison := ts.foldl (fun b t => b ||| BitVec.ofNat 16 (2 ^ (t % 16))) k.tilePoison }

/-- Discard the descriptors that have not started. -/
def dropQueues (k : Core) : Core :=
  allEngs.foldl (fun k e => k.setEng e { k.eng e with queue := [], go := false }) k

/-- Abandon the running descriptors and poison the tiles they were writing (R69). -/
def abandonRuns (k : Core) : Core :=
  allEngs.foldl (fun k e => (poisonTiles ((k.eng e).run.flatMap Run.writes) k).setEng e { k.eng e with run := [] }) k

/-- The core stops with a code: its SQ issues nothing further and its queues are discarded (R67). -/
def haltCore (code exit : Nat) (k : Core) : Core :=
  dropQueues { k with mode := .stopped, stopCode := code, exit := exit, fence := none, sqWait := none }

/-- The active launch's handle, if any. -/
def State.handle (s : State) (h : Nat) : Handle := s.handles.getD (h - 1) {}

def State.modHandle (s : State) (h : Nat) (f : Handle → Handle) : State := { s with handles := s.handles.modify (h - 1) f }

/-- A core stops with an error: the launch remembers the first (R67, R411). -/
def stopCore (c code : Nat) (s : State) : State :=
  let s1 := s.modCore c (haltCore code 0)
  match s.mgmt.active with
  | some h => s1.modHandle h fun x => if x.firstStop.isNone then { x with firstStop := some c } else x
  | none => s1

/-- CANCEL reaches a core: its running descriptors are abandoned, its DM issues no further requests, the answers to those outstanding
are discarded and no fence will report them; a core that still runs stops with the code (R69, R204, R314). -/
def cancelCore (code : Nat) (k : Core) : Core :=
  if k.mode = .off then k
  else
    let k1 := abandonRuns { k with slots := k.slots.map (fun e => (e.1, { e.2 with cancelled := true })), epochDests := [] }
    if k.mode = .stopped then k1 else haltCore code 0 k1

/-- The stop of a launch's other cores does as CANCEL does to those that have not stopped (R67). -/
def peerStopCore (k : Core) : Core := if k.mode = .stopped then k else cancelCore 0x12 k

/-! ## The stream (R46, R49, R51, R55) -/

/-- Double at index `i` of a core's stream, which was copied to byte 0 of its core store. -/
def streamWord (s : State) (c i : Nat) : Nat := readNum s (storeAddr c (8 * i)) 8

/-- The innermost open loop. -/
def Core.inner (k : Core) : Option Loop := k.loops.getLast?

/-- What the SQ latches with a descriptor: the indices of the open levels, EO of the innermost strip loop, VL (R51). -/
def Core.latch (k : Core) (pc : Nat) (words : List Dbl) (rst : Bool) : Desc :=
  let strip := k.loops.reverse.find? (·.strip)
  { pc := pc, words := words, idx := k.loops.map (·.iter), eo := match strip with | some l => l.eo | none => 0, vl := k.vl, rst := rst }

/-- Put a descriptor at the end of an engine's queue; at its head it begins to wait on its WEV. -/
def Core.enqueue (k : Core) (e : Eng) (d : Desc) : Core := (k.setEng e { k.eng e with queue := (k.eng e).queue ++ [d] }).settleWaits

/-! ## Handles -/

/-- A requested Init or Bootstrap is reached once every handle has ended (R390). -/
def settleAl (s : State) : State :=
  match s.mgmt.alPending with
  | some t =>
    if s.handles.any fun x => [1, 2, 3, 4, 5, 6].contains x.state then s
    else { s with mgmt := { s.mgmt with al := t, alPending := none } }
  | none => s

/-- Set the state of a handle; reaching suspended, done, failed or cancelled sends 0xFF11 (R398, R411, R412). -/
def setHandle (h st result : Nat) (s : State) : State :=
  let term := decide (st = 7 ∨ st = 8 ∨ st = 9)
  let s1 := s.modHandle h fun x =>
    { x with state := st, result := if st = 7 ∨ st = 8 then result else 0xFFFF, ended := if term then calendar s else x.ended }
  if term || st == 4 then
    let r := (s1.handle h).result
    settleAl (emcy 0xFF11 [h, (s1.handle h).kind, st, r % 256, r / 256] s1)
  else s1

end Sys2Proof.Machine
end

