-- ==== Sys2Proof/Machine/Engines.lean ====
section
/-! DEFINITION. What the six engine queues of a core share: issue by the SQ, the wait on WEV, the tile guard, unordered
accesses, the end of an attempt with its retries and reports, and completion with SEV and `SQ_STAT` (R46 to R53, R67, R68,
R193 to R203, R424, R510). -/

namespace Sys2Proof.Machine

/-! ## Issue -/

/-- The SQ executes a word of operation `op` with `xw` extension doubles: a PC or an extension double beyond stream-len stops the
core with STREAM_END, another XW with BAD_XW (R46, R47, R67). A word of another operation, or a core whose SQ does not run, leaves
the state as it is. BAD_XW is told before STREAM_END (log 123). -/
def withWord (op xw c : Nat) (s : State) (body : Nat → State) : State :=
  let k := s.core c
  if k.mode ≠ .running then s
  else if k.streamLen ≤ k.pc then stopCore c 0x06 s
  else
    let w := streamWord s c k.pc
    if fld w 56 8 ≠ op then s
    else if fld w 52 4 ≠ xw then stopCore c 0x02 s
    else if k.streamLen ≤ k.pc + xw then stopCore c 0x06 s
    else body w

/-- Whether the condition of RST holds at issue: 1 always, 2 when EO = 0, 3 when the index at level RLV is 0 (R119, R129). -/
def rstHolds (d : Desc) (w : Nat) : Bool :=
  let m := fld w 2 2
  m == 1 || (m == 2 && d.eo == 0) || (m == 3 && d.index (fld w 0 2) == some 0)

/-- The SQ issues an engine descriptor whose first double `p` accepts (R49, R51). A full queue stalls the SQ; a VEC descriptor
outside every strip loop stops the core with VEC_CONTEXT (R58). -/
def issue (e : Eng) (op xw : Nat) (p : Nat → Bool) (c : Nat) (s : State) : State :=
  withWord op xw c s fun w =>
    let k := s.core c
    if !p w then s
    else if op = 0x12 && !(k.loops.any (·.strip)) then stopCore c 0x0E s
    else if 8 ≤ (k.eng e).queue.length then s
    else
      let words := (List.range (xw + 1)).map fun i => BitVec.ofNat 64 (streamWord s c (k.pc + i))
      let d := k.latch k.pc words false
      s.modCore c fun k => { k.enqueue e { d with rst := op == 0x12 && rstHolds d w } with pc := k.pc + 1 + xw }

/-! ## Start -/

/-- The throttle level in sixteenths: the lowest ceiling (R424). -/
def theta (s : State) : Nat :=
  min (min s.power.capCeil s.power.slewCeil) (min (if s.power.clamp then 8 else 16) s.power.pinCeil)

/-- Credit of one engine after 1 ns, in tenths of a core cycle: it gains θ and loses what running takes, to a cap of 4 096 cycles
(R424; 1 ns is 1.6 core cycles). -/
def creditTick (th : Nat) (g : Engine) : Engine :=
  { g with credit := min 40960 (g.credit + th - (if g.run.isEmpty then 0 else 16)) }

def coreTick (th : Nat) (k : Core) : Core :=
  { k with ma := creditTick th k.ma, mvp := creditTick th k.mvp, ve := creditTick th k.ve, sgu := creditTick th k.sgu,
           dm := creditTick th k.dm }

/-- Reserved bits [36:32] of the first double (R48). -/
def Desc.chainRsvd (d : Desc) : Bool := fld (d.word 0) 32 5 != 0

/-- The head of an engine's queue, when its WEV is satisfied, its credit is not negative and no trip stops starts
(R50, R424, R438). -/
def ready (e : Eng) (c : Nat) (s : State) : Option Desc :=
  let k := s.core c
  match (k.eng e).queue with
  | [] => none
  | d :: _ =>
    if (d.wev.isNone || (k.eng e).go) && decide (0 ≤ (k.eng e).credit) && !s.power.tripping && !s.power.tripped && k.mode != .off then some d else none

/-- The head leaves the queue, and the next descriptor begins to wait on its WEV (R48, R50). -/
def takeHead (e : Eng) (k : Core) : Core :=
  (k.setEng e { k.eng e with queue := (k.eng e).queue.tail, go := false }).settleWaits

/-- A tile of `ts` is held by another engine's running descriptor, and one of the two writes it (R53). -/
def tileHazard (e : Eng) (ts : List (Nat × Bool)) (k : Core) : Bool :=
  allEngs.any fun f => f != e && ((k.eng f).run.any fun r =>
    r.vcode == 0 && r.tiles.any fun h => ts.any fun t => h.1 == t.1 && (h.2 || t.2))

/-- Overlap of two spans where at least one writes. -/
def clash (a b : Span) : Option Span :=
  let lo := max a.lo b.lo
  let hi := min (a.lo + a.len) (b.lo + b.len)
  if (a.wr || b.wr) && decide (lo < hi) then some { lo := lo, len := hi - lo, wr := true } else none

/-- The parts of a descriptor's reads that another one's accesses race with (R52). -/
def racesOf (mine theirs : List Span) : List Span :=
  (mine.filter fun a => !a.wr).flatMap fun a => theirs.filterMap fun b => clash a b

/-- All the running descriptors of all cores note the races with a starting one. -/
def noteRaces (spans : List Span) (s : State) : State :=
  if spans.isEmpty then s else
  { s with cores := s.cores.map fun k => allEngs.foldl (fun k e =>
      let g := k.eng e
      if g.run.isEmpty then k
      else k.setEng e { g with run := g.run.map fun r => { r with raced := r.raced ++ racesOf r.spans spans } }) k }

/-- Spans that running descriptors access. -/
def liveSpans (s : State) : List Span :=
  s.cores.flatMap fun k => allEngs.flatMap fun e => (k.eng e).run.flatMap (·.spans)

/-- Start the head of a queue as a running descriptor. One that fails validation holds no tile and touches nothing (R53, R510);
one that meets a held tile stops the core with TILE_HAZARD. -/
def startRun (e : Eng) (c : Nat) (d : Desc) (vcode : Nat) (ts : List (Nat × Bool)) (spans : List Span) (s : State) : State :=
  let s1 := s.modCore c (takeHead e)
  if vcode ≠ 0 then s1.modCore c fun k => k.setEng e { k.eng e with run := (k.eng e).run ++ [{ desc := d, vcode := vcode }] }
  else if tileHazard e ts (s.core c) then stopCore c 0x0D s1
  else
    let r : Run := { desc := d, vcode := 0, tiles := ts, spans := spans, raced := racesOf spans (liveSpans s) }
    (noteRaces spans s1).modCore c fun k => k.setEng e { k.eng e with run := (k.eng e).run ++ [r] }

/-- The state with byte ranges replaced by free bytes. -/
def viewRaced (l : List Span) (s : State) : State :=
  l.foldl (fun t x =>
    let f := freeBytes x.len t
    writeBytes x.lo f.1 f.2) s

/-- The state with the raced bytes of a descriptor replaced by free bytes: what the descriptor reads (R52). -/
def raceView (r : Run) (s : State) : State := viewRaced r.raced s

/-- What an access that is no descriptor of an engine reads while descriptors run: bytes that one of them may be writing are free
(R52). -/
def readView (rs : List (Nat × Nat)) (s : State) : State :=
  viewRaced (racesOf (rs.map fun x => { lo := x.1, len := x.2, wr := false }) (liveSpans s)) s

/-- An access that is no descriptor of an engine writes bytes that running descriptors may be reading (R52). -/
def noteWrites (ps : List (Nat × Nat)) (s : State) : State := noteRaces (ps.map fun x => { lo := x.1, len := x.2, wr := true }) s

/-! ## The end of an attempt (R198 to R203) -/

/-- The first running descriptor of an engine. -/
def headRun (e : Eng) (c : Nat) (s : State) : Option Run := ((s.core c).eng e).run.head?

def setHeadRun (e : Eng) (r : Run) (k : Core) : Core :=
  k.setEng e { k.eng e with run := r :: (k.eng e).run.tail }

def popRun (e : Eng) (k : Core) : Core := k.setEng e { k.eng e with run := (k.eng e).run.tail }

/-- Emergency and check-log byte 1: engine and attempt (R203). -/
def attemptByte (e : Eng) (r : Run) : Nat :=
  engNum e + 16 * (match r.phase with
    | .proxyRun _ => 4
    | _ => r.attempt)

/-- Report one event of R203: an emergency and a check-log entry. -/
def reportCheck (low c : Nat) (e : Eng) (r : Run) (row col code : Nat) (s : State) : State :=
  logCheck c (attemptByte e r) row col code low r.desc.pc (emcy (0xFF00 + low) [c, attemptByte e r, row, col, code] s)

/-- Mark a core's site for self-test, once between compute-plane starts, and record it (R202, R458, R459). -/
def markSite (c : Nat) (e : Eng) (r : Run) (row col code : Nat) (s : State) : State :=
  let i := siteOf s c
  if (s.fleet.sites.getD i {}).marked then s
  else
    recordSite i 2 (reportCheck 0x64 c e r row col code
      (odInc 0x2718 5 4 1 (modSite i (fun x => { x with marked := true, marks := x.marks + 1 }) s)))

/-- Note a first-attempt check fault and mark the site when `fail-limit` is reached within `fail-window` (R202). -/
def noteFirstFault (c : Nat) (e : Eng) (r : Run) (row col code : Nat) (s : State) : State :=
  let i := siteOf s c
  let win := odGet s 0x2700 8 * 1000000000
  let s1 := modSite i (fun x =>
    let x1 : Site := { x with firstFaults := x.firstFaults + 1, lastTime := calendar s }
    { x1 with faultTimes := s.now :: x.faultTimes.filter fun t => decide (s.now < t + win) }) s
  if odGet s 0x2700 7 ≤ (s1.fleet.sites.getD i {}).faultTimes.length then markSite c e r row col code s1 else s1

/-- Proxy sites of a die: not enabled, not marked, passed self-test at the last compute-plane start, not withdrawn (R201). -/
def proxySite (s : State) (die : Nat) : Option Nat :=
  ((List.range 44).map fun i => 44 * die + i).find? fun i =>
    let x := s.fleet.sites.getD i {}
    !x.enabled && !x.marked && x.passed && !x.withdrawn && !x.bad && !x.failedTest

/-- A code that is a check fault of the MA, the MVP or the VE (R198). -/
def isCheckFault (code : Nat) : Bool := code == 1 || code == 3

/-- Count a failed attempt and report it (R203, R206). -/
def failAttempt (c : Nat) (e : Eng) (r : Run) (row col code : Nat) (s : State) : State :=
  let s1 := reportCheck 0x61 c e r row col code (odInc 0x2718 1 8 1 (odInc 0x2710 (c + 1) 4 1 s))
  match r.phase with
  | .proxyRun site => recordSite site 2 (modSite site (fun x => { x with withdrawn := true }) s1)
  | _ => if r.attempt = 0 then noteFirstFault c e r row col code s1 else s1

/-- Drop a core's proxy request. -/
def dropProxy (c : Nat) (e : Eng) (s : State) : State :=
  { s with proxyReqs := s.proxyReqs.filter fun q => !(q.1 == c && q.2 == engNum e) }

/-- What follows a failed attempt: an in-place retry, a proxy attempt, or none (R198). -/
inductive NextTry
  | inPlace
  | proxy
  | none
deriving DecidableEq, Repr

def nextTry (c : Nat) (e : Eng) (r : Run) (eligible : Bool) (s : State) : NextTry :=
  match r.phase with
  | .proxyRun _ => .none
  | _ =>
    if eligible && decide (r.attempt < odGet s 0x2700 1) then .inPlace
    else if eligible && (e == .ma || e == .mvp) && odGet s 0x2700 2 == 1 && (proxySite s (dieOf s c)).isSome then .proxy
    else .none

/-- The core stops or goes on after the last attempt was a check fault (R202). A core already stopped takes the code ENGINE_FAULT
(log 123). -/
def finalAction (c : Nat) (e : Eng) (r : Run) (row col code : Nat) (s : State) : State :=
  let a := odGet s 0x2700 3
  if a = 0 then stopCore c 0x0F (markSite c e r row col code s)
  else if a = 1 then stopCore c 0x0F s
  else s

/-- Selected queues have all completed (R63). -/
def maskIdle (mask : Nat) (k : Core) : Bool := allEngs.all fun e => !bitAt mask (engNum e) || (k.eng e).idle

/-- A fence with REMOTE closes the open epoch at the moment when every selected queue has completed (R311). -/
def fenceClose (k : Core) : Core :=
  match k.fence with
  | some f =>
    if f.remote && f.closed.isNone && maskIdle f.mask k then
      { k with fence := some { f with closed := some k.epoch }, epoch := (k.epoch + 1) % 4 }
    else k
  | none => k

/-- Completion of the first running descriptor: it leaves the engine, its SEV is set, `SQ_STAT` takes the error, POISON and
INEXACT bits, and POISON_IN is counted and first reported once in a launch (R50, R68, R101, R203). -/
def complete (e : Eng) (c : Nat) (r : Run) (code : Nat) (inexact : Bool) (s : State) : State :=
  let s1 := s.modCore c fun k =>
    let k1 := popRun e k
    let k2 := match r.desc.sev with
      | some x => (k1.setEvent x true).settleWaits
      | none => k1
    let k3 := if code ≠ 0 then k2.setStat (engNum e) else k2
    let k4 := if inexact then k3.setStat 6 else k3
    fenceClose (if code = 2 then { k4.setStat 7 with poisonReported := true } else k4)
  if code = 2 then
    let s2 := odInc 0x2711 (c + 1) 4 1 s1
    if (s.core c).poisonReported then s2
    else reportCheck 0x65 c e { r with attempt := 0, phase := .running } 0xFF 0xFF 2 s2
  else s1

/-- No further attempt is allowed: the descriptor completes with its last attempt's check fault, through `done`, which writes the
engine's status registers (R202, R203). -/
def endFailed (e : Eng) (c : Nat) (r : Run) (done : State → State) (s : State) : State :=
  let s1 := reportCheck 0x63 c e r r.row r.col r.code (odInc 0x2718 4 8 1
    (modSite (siteOf s c) (fun x => { x with finalFails := x.finalFails + 1 }) s))
  finalAction c e r r.row r.col r.code (done (complete e c r r.code r.inexact (dropProxy c e s1)))

/-- A retry that passed is counted and reported; one that ends with another code has not recovered the descriptor (R203, R206). -/
def noteRecovery (e : Eng) (c : Nat) (r : Run) (code : Nat) (s : State) : State :=
  if code ≠ 0 then s
  else match r.phase with
    | .proxyRun _ => reportCheck 0x62 c e r 0xFF 0xFF code (odInc 0x2718 3 8 1 s)
    | _ => if 0 < r.attempt then reportCheck 0x62 c e r 0xFF 0xFF code (odInc 0x2718 2 8 1 s) else s

/-- The end of an attempt of the MA, the MVP or the VE whose outputs have been written: `a` is its descriptor with what the attempt
left. It is retried, or the descriptor completes through `done`. -/
def endAttempt (e : Eng) (c : Nat) (a : Run) (eligible : Bool) (done : State → State) (s : State) : State :=
  if isCheckFault a.code then
    let s1 := failAttempt c e a a.row a.col a.code s
    match nextTry c e a eligible s with
    | .inPlace => s1.modCore c (setHeadRun e { a with phase := .failedTry })
    | .proxy =>
      let s2 := s1.modCore c (setHeadRun e { a with phase := .proxyQueued })
      { s2 with proxyReqs := s2.proxyReqs ++ [(c, engNum e)] }
    | .none => endFailed e c a done s1
  else done (complete e c a a.code a.inexact (dropProxy c e (noteRecovery e c a a.code s)))

/-- An attempt of this descriptor is running (its end is awaited). -/
def Run.active (r : Run) : Bool :=
  match r.phase with
  | .running => true
  | .proxyRun _ => true
  | _ => false

/-- Clamps and trips let an engine of a core start an attempt (R95, R204, R424, R438). -/
def mayStartAttempt (e : Eng) (c : Nat) (s : State) : Bool :=
  decide (0 ≤ ((s.core c).eng e).credit) && !s.power.tripping && !s.power.tripped

/-- IN_PLACE_RETRY: the failed descriptor begins its next attempt with the same latched values (R200). -/
def retryInPlace (c : Nat) (e : Eng) (s : State) : State :=
  match headRun e c s with
  | some r =>
    if r.phase = .failedTry ∧ mayStartAttempt e c s = true then
      s.modCore c (setHeadRun e { r with phase := .running, attempt := r.attempt + 1 })
    else s
  | none => s

/-- PROXY_RETRY: the die's proxy site takes the oldest request of the die; with no site left the attempt is skipped, and the descriptor
completes through `done` (R201). -/
def retryProxy (c : Nat) (e : Eng) (done : Run → State → State) (s : State) : State :=
  match headRun e c s with
  | some r =>
    let d := dieOf s c
    let first := s.proxyReqs.find? fun q => dieOf s q.1 == d
    if r.phase ≠ .proxyQueued then s
    else match proxySite s d with
      | some site =>
        if first = some (c, engNum e) ∧ mayStartAttempt e c s = true then s.modCore c (setHeadRun e { r with phase := .proxyRun site }) else s
      | none => endFailed e c r (done r) s
  | none => s

/-! ## Tiles -/

/-- Word (row, column) of a tile (R73). -/
def Core.tile (k : Core) (t row col : Nat) : Word := lget 0 k.tiles (16384 * t + 128 * row + col)

def Core.setTile (k : Core) (t row col : Nat) (w : Word) : Core := { k with tiles := lset 0 (16384 * t + 128 * row + col) w k.tiles }

/-- Poison bit of a tile (R193). -/
def Core.tilePois (k : Core) (t : Nat) : Bool := bitAt k.tilePoison.toNat t

def Core.setTilePois (k : Core) (t : Nat) (v : Bool) : Core :=
  let m : BitVec 16 := BitVec.ofNat 16 (2 ^ t)
  { k with tilePoison := if v then k.tilePoison ||| m else k.tilePoison &&& ~~~m }

/-- Write words to tiles. -/
def writeTiles (ws : List (Nat × Nat × Nat × Word)) (k : Core) : Core :=
  ws.foldl (fun k w => k.setTile w.1 w.2.1 w.2.2.1 w.2.2.2) k

/-- Element bytes of an X register (R103). -/
def Core.xByte (k : Core) (x i : Nat) : Byte := lget 0 k.xregs (32768 * x + i)

/-- Sum of a register's latched level: signed or unsigned advance by i[lv] (R90, R217, R250). -/
def Desc.adv (d : Desc) (en : Bool) (lv : Nat) (str : Int) : Int :=
  if en then str * ((d.index lv).getD 0 : Nat) else 0

/-- An enabled advance names a level not open at issue. -/
def Desc.badLevel (d : Desc) (en : Bool) (lv : Nat) : Bool := en && (d.index lv).isNone

/-- Bits of a double that lie outside the named fields: any set? `used` lists (low bit, width). -/
def strayBits (w : Nat) (used : List (Nat × Nat)) : Bool :=
  let m := used.foldl (fun m f => m ||| ((2 ^ f.2 - 1) <<< f.1)) 0
  (w &&& (2 ^ 64 - 1 - m)) != 0

end Sys2Proof.Machine
end

