-- ==== Sys2Proof/Machine/Framing.lean ====
section
/-! DEFINITION. The framing of a fibre: header bits (R282), data words and trailers (R362), link control words (R363, R364, R466), the
superframe (R361), its codewords and their striping over lanes (R359), and what a receiver can correct (R360). -/

namespace Sys2Proof.Machine

/-! ## Packets as data words (R282, R362) -/

/-- Header bits [223:0] with H and HC as given. -/
def headerNat (p : Packet) (h hc : Nat) : Nat :=
  p.cls + p.ver * 2 ^ 4 + p.op * 2 ^ 8 + p.len * 2 ^ 16 + h * 2 ^ 21 + p.order * 2 ^ 24 + b2n p.detour * 2 ^ 29 + p.ddim * 2 ^ 30 +
  p.ddev * 2 ^ 32 + p.dep * 2 ^ 44 + p.sdev * 2 ^ 52 + p.sep * 2 ^ 64 + p.domain * 2 ^ 72 + p.jobtag * 2 ^ 88 + p.seq * 2 ^ 104 +
  p.poison * 2 ^ 128 + p.dval * 2 ^ 144 + b2n p.xcopy * 2 ^ 147 + hc * 2 ^ 148 + p.rsvd * 2 ^ 151 + p.arg * 2 ^ 160

/-- The packet that a header's 256 bits and its lines spell. -/
def packetOf (v : Nat) (bytes : List Byte) : Packet :=
  { cls := fld v 0 4, ver := fld v 4 4, op := fld v 8 8, len := fld v 16 5, h := fld v 21 3, order := fld v 24 5, detour := bitAt v 29,
    ddim := fld v 30 2, ddev := fld v 32 12, dep := fld v 44 8, sdev := fld v 52 12, sep := fld v 64 8, domain := fld v 72 16,
    jobtag := fld v 88 16, seq := fld v 104 24, poison := fld v 128 16, dval := fld v 144 3, xcopy := bitAt v 147, hc := fld v 148 3,
    rsvd := fld v 151 9, arg := fld v 160 64, crc := fld v 224 32, bytes := bytes }

/-- The 64-bit words of a run of bytes, and back. -/
def wordsOf (b : List Byte) : List Nat := (List.range (b.length / 8)).map fun i => numAt b (8 * i) 8
def wordBytes (l : List Nat) : List Byte := l.flatMap (leBytes 8)

/-- A trailer word: END or ABORT; any other value is a bad one (R362). -/
def trailerWord : Trailer → Nat
  | .endMark => 0xE0
  | .abortMark => 0xAB
  | .bad => 0

def trailerOf (w : Nat) : Trailer := if w = 0xE0 then .endMark else if w = 0xAB then .abortMark else .bad

/-- Data words of a packet: header, lines, trailer. -/
def packetWords (p : Packet) (t : Trailer) : List Nat :=
  wordsOf (leBytes 32 (headerNat p p.h p.hc + p.crc * 2 ^ 224) ++ p.bytes) ++ [trailerWord t]

/-- How many they are. -/
def wordCount (p : Packet) : Nat := 5 + 16 * p.len

/-- The packet at the head of the data words with its trailer, and the words that follow; none where it is not whole yet. -/
def readPacket (l : List Nat) : Option (Packet × Trailer × List Nat) :=
  let v := ofLE (wordBytes (l.take 4))
  let n := 16 * fld v 16 5
  if l.length < 5 + n then none
  else some (packetOf v (wordBytes ((l.drop 4).take n)), trailerOf (l.getD (4 + n) 0), l.drop (5 + n))

/-- The whole packets of a stream of data words, IDLE words between them left out, and what has come of the next. -/
def readStream : Nat → List Nat → List (Packet × Trailer) × List Nat
  | 0, l => ([], l)
  | _, [] => ([], [])
  | n + 1, w :: r =>
    if w = 0 then readStream n r
    else match readPacket (w :: r) with
      | none => ([], w :: r)
      | some (p, t, rest) => let x := readStream n rest; ((p, t) :: x.1, x.2)

/-! ## Link control words (R363, R364, R466) -/

/-- A link control word: the common part and the body's fields, in the order in which R364 and R466 list them. -/
structure CtlWord where
  type : Nat
  fwd : Bool
  start : Nat
  shared : Nat
  body : List Nat
deriving DecidableEq, Repr

/-- Lowest bit and width of the body fields of a TYPE. -/
def bodyFields : Nat → List (Nat × Nat)
  | 1 => [(30, 4), (34, 3), (37, 16)]
  | 2 => [(30, 16), (46, 12), (58, 1)]
  | 3 => [(30, 1), (31, 5)]
  | 4 => [(30, 5), (35, 16), (51, 12)]
  | 5 => [(30, 5), (35, 3), (38, 12)]
  | 6 => [(30, 5), (35, 2), (37, 2)]
  | 7 => [(30, 5), (37, 2)]
  | 8 => [(30, 24), (54, 1), (55, 7)]
  | 9 => [(30, 8), (38, 2), (40, 16), (56, 1), (57, 1), (58, 6)]
  | _ => []

/-- The body's fields in their places; a field holds no more than its width. -/
def bodyBits (type : Nat) (body : List Nat) : Nat := ((bodyFields type).zip body).foldl (fun v e => v + e.2 % 2 ^ e.1.2 * 2 ^ e.1.1) 0

/-- The 64 bits of a control word. -/
def encodeCtl (w : CtlWord) : Nat := w.type % 16 + 2 ^ 4 * b2n w.fwd + 2 ^ 6 * (w.start % 256) + 2 ^ 14 * (w.shared % 65536) + bodyBits w.type w.body

/-- The control word that 64 bits spell; none of a reserved TYPE (R364). -/
def decodeCtl (v : Nat) : Option CtlWord :=
  let t := fld v 0 4
  if 9 < t then none
  else some { type := t, fwd := bitAt v 4, start := fld v 6 8, shared := fld v 14 16, body := (bodyFields t).map fun f => fld v f.1 f.2 }

/-- The command that a received control word is, with what only its receiver knows: the rest of its superframe, its own readings and the
time in fabric cycles. Of a word with a reserved TYPE the TYPE: it is BAD_CONTROL_WORD. -/
def ctlCommand (p v : Nat) (errs : List (Nat × Nat × Nat)) (own : List (Nat × Int)) (now : Nat) : Except Nat Instr :=
  match decodeCtl v with
  | none => .error (fld v 0 4)
  | some w =>
    let cw : CwHead := { fwd := w.fwd, start := w.start, shared := w.shared, errs := errs }
    .ok <| match w.type, w.body with
    | 1, [k, l, n] => .credit p cw k l n
    | 2, [d, k, a] => .ident0 p cw d k (a == 1)
    | 3, [h, q] => .ident1 p cw h q
    | 4, [l, k, x] => .cal p cw l k (sx 12 x) own
    | 5, [l, g, x] => .txmon p cw l g (sx 12 x) own
    | 6, [l, k, f] => .swap p cw l k f
    | 7, [l, f] => .dropWord p cw l f
    | 8, [t, r, a] => .echo p cw t (r == 1) a now
    | 9, [b, k, l, c, v, e] => .heartbeat p cw b k l (c == 1) (v == 1) e
    | _, _ => .nullWord p cw

/-! ## Superframes (R361) -/

/-- Data words of a superframe. -/
def frameWords : Nat := 159

/-- A superframe's 1 280 bytes: the control word, then data words, IDLE where none is left. -/
def superframe (ctl : Nat) (data : List Nat) : List Byte :=
  leBytes 8 ctl ++ wordBytes ((data ++ List.replicate (frameWords - data.length) 0).take frameWords)

/-- Its control word and its data words. -/
def frameParts (b : List Byte) : Nat × List Nat := (numAt b 0 8, (List.range frameWords).map fun i => numAt b (8 + 8 * i) 8)

/-- START: the first data word that begins a packet (R363). -/
def startIndex (l : List (Bool × Nat)) : Nat := (l.findIdx? (·.1)).getD 0xFF

/-- The commands that the data words of a received superframe are, after those that wait for the end of their packet: the packets that it
completes, each with whether a codeword that carried it was uncorrectable. -/
def frameCommands (p : Nat) (b : List Byte) (before : List Nat) (fecBad : Bool) : List Instr :=
  let d := before ++ (frameParts b).2
  (readStream d.length d).1.map fun x => .packetReceive p x.1 x.2 fecBad

/-! ## Codewords and lanes (R359, R360) -/

/-- The 256 payload symbols of a codeword's 320 bytes, least significant bits first (log 129). -/
def symbolsOf (b : List Byte) : List Nat := (List.range 256).map fun i => ofLE b / 1024 ^ i % 1024

/-- RS(272,256): the payload symbols and 16 more, whose rule the spec does not give (log 129). -/
def codeword (b : List Byte) : List Nat := symbolsOf b ++ (List.range 16).map fun i => Config.rsParity (symbolsOf b) i % 1024

/-- A superframe as its four codewords, one after the other. -/
def symbolStream (b : List Byte) : List Nat := (List.range 4).flatMap fun i => codeword (bytesAt b (320 * i) 320)

/-- The symbols of a stream that go to one of the active lanes, in ascending order of λ: symbol `j`, counted from `phase`, to lane
`j mod A` (R359). -/
def laneSymbols (active : List Nat) (phase lane : Nat) (stream : List Nat) : List Nat :=
  (stream.zipIdx.filter fun x => active.getD ((phase + x.2) % active.length) 32 == lane).map (·.1)

/-- Symbols of a codeword whose first symbol is number `phase` that fall on these lanes. -/
def symbolsOn (active : List Nat) (phase : Nat) (lanes : List Nat) : Nat :=
  ((List.range 272).filter fun j => lanes.contains (active.getD ((phase + j) % active.length) 32)).length

/-- `e` erasures and `t` errors can be corrected (R360). -/
def correctable (e t : Nat) : Bool := decide (2 * t + e ≤ 16)

end Sys2Proof.Machine
end

