-- ==== Sys2Proof/Machine/Fabric.lean ====
section
/-! DEFINITION. The tensor fabric (chapter 09): addresses and links, roles, routes, packets and their checks, credits, order at the
destination, and what a source does to send (R267 to R296). -/

namespace Sys2Proof.Machine

/-! ## Addresses and links (R267 to R271) -/

/-- Coordinate of a device in dimension `d` (X 0, Y 1, Z 2, W 3). -/
def coordOf (dev d : Nat) : Nat := fld dev (3 * d) 3

/-- The device with one coordinate replaced. -/
def withCoord (dev d v : Nat) : Nat := dev - coordOf dev d * 8 ^ d + v * 8 ^ d

/-- Extent of a dimension: W has 4 values in shape A (0), all others 8 (R270). -/
def extent (shape d : Nat) : Nat := if shape = 0 ∧ d = 3 then 4 else 8

/-- A device coordinate inside the shape's ranges (R270). -/
def inRange (shape dev : Nat) : Bool := (List.range 4).all fun d => decide (coordOf dev d < extent shape d)

/-- Link index of the link to value `v` in dimension `d` of a device whose own value is `a` (R271). -/
def linkIndex (shape a d v copy : Nat) : Nat :=
  let j := if v < a then v else v - 1
  if shape = 0 then (if d = 0 then j + 7 * copy else 7 + 7 * d + j) else 7 * d + j

/-- Designated port of a link index (R271). -/
def designated (l : Nat) : Nat := 8 * (l % 4) + l / 4

/-- Copies of a link (R270). -/
def copies (shape d : Nat) : Nat := if shape = 0 ∧ d = 0 then 2 else 1

/-- A core endpoint, an engine, the mover pool, management, forwarding-plane control (R268). -/
def endpointValid (e : Nat) : Bool := decide (e < 0xA0) || [0xF0, 0xF1, 0xF2, 0xF3, 0xF4, 0xF8, 0xFC].contains e

/-- A port carries packets. -/
def Port.carries (p : Port) : Bool := p.isLink && (p.pstate == 1 || p.pstate == 2)

/-- The port that holds the link (d, v, copy) (R272). -/
def holder (s : State) (d v copy : Nat) : Option Nat :=
  firstFrom (fun i => let p := s.port i; p.isLink && p.dim == d && p.nval == v && (copies s.fab.shape d == 1 || p.copy == copy)) 32 0

/-- Own device coordinate and domain in force. -/
def own (s : State) : Nat := s.fab.coord
def ownDomain (s : State) : Nat := odGet s 0x2400 2

/-! ## Routes (R277 to R281) -/

/-- The permutations of the dimensions in lexicographic order (R277). -/
def orders : List (List Nat) :=
  (List.range 4).flatMap fun a => ((List.range 4).filter fun b => b != a).flatMap fun b =>
    ((List.range 4).filter fun c => c != a && c != b).map fun c => [a, b, c, 6 - a - b - c]

/-- A detour through value `v` of dimension `d`, if any. -/
abbrev Detour := Option (Nat × Nat)

/-- The next hop: dimension and value, or none to eject (R278). -/
def nextHop (at_ ddev order : Nat) (det : Detour) : Option (Nat × Nat) :=
  if at_ = ddev then none
  else match (orders.getD order []).find? fun d => coordOf at_ d != coordOf ddev d with
    | none => none
    | some d => match det with
      | some (dd, v) => if d = dd ∧ coordOf at_ d ≠ v then some (d, v) else some (d, coordOf ddev d)
      | none => some (d, coordOf ddev d)

/-- The hops of a path: device, dimension, value. `visited` keeps a detour from being taken twice. -/
def hops : Nat → Nat → Nat → Nat → Detour → List (Nat × Nat × Nat)
  | 0, _, _, _, _ => []
  | n + 1, at_, ddev, order, det =>
    match nextHop at_ ddev order det with
    | none => []
    | some (d, v) => (at_, d, v) :: hops n (withCoord at_ d v) ddev order det

/-- Bit L of device u in the link-down map (R281). -/
def markedDown (s : State) (u l : Nat) : Bool := bitAt (lget 0 s.fab.linkDown u) l

/-- Neither end has marked the link down (R281). -/
def linkFree (s : State) (u d v copy : Nat) : Bool :=
  let a := coordOf u d
  !markedDown s u (linkIndex s.fab.shape a d v copy) && !markedDown s (withCoord u d v) (linkIndex s.fab.shape v d a copy)

/-- A hop is usable with this X copy; the first hop also needs a port that carries packets. -/
def hopUsable (s : State) (x : Nat) (h : Nat × Nat × Nat) : Bool :=
  let copy := if h.2.1 = 0 ∧ s.fab.shape = 0 then x else 0
  linkFree s h.1 h.2.1 h.2.2 copy &&
    (h.1 != own s || match holder s h.2.1 h.2.2 copy with
      | some p => (s.port p).carries && ownDomain s != 0
      | none => false)

/-- The X copy with which a path is usable, the preferred one first. -/
def usableCopy (s : State) (prefer : Nat) (path : List (Nat × Nat × Nat)) : Option Nat :=
  let ok := fun x => path.all (hopUsable s x)
  if ok prefer then some prefer else if s.fab.shape = 0 && ok (1 - prefer) then some (1 - prefer) else none

/-- A candidate route: order, detour. -/
structure Route where
  order : Nat
  det : Detour
deriving DecidableEq, Repr

/-- Keep candidates whose hops no earlier candidate has (R279). -/
def distinctRoutes (a b : Nat) (l : List Route) : List Route :=
  (l.foldl (fun (acc : List (Route × List (Nat × Nat × Nat))) r =>
    let h := hops 6 a b r.order r.det
    if acc.any fun x => x.2 == h then acc else acc ++ [(r, h)]) []).map (·.1)

/-- The distinct minimal paths in ascending order index (R279). -/
def minimalRoutes (a b : Nat) : List Route := distinctRoutes a b ((List.range 24).map fun o => { order := o, det := none })

/-- The distinct detour paths: order, then dimension, then DVAL ascending (R280). -/
def detourRoutes (shape a b : Nat) : List Route :=
  distinctRoutes a b ((List.range 24).flatMap fun o => ((List.range 4).filter fun d => coordOf a d != coordOf b d).flatMap fun d =>
    ((List.range (extent shape d)).filter fun v => v != coordOf a d && v != coordOf b d).map fun v => { order := o, det := some (d, v) })

/-- The next usable candidate from the cursor on, cyclically: its index, route and X copy. -/
def pickRoute (s : State) (b prefer cursor : Nat) (l : List Route) : Option (Nat × Route × Nat) :=
  let us := l.zipIdx.filterMap fun r => (usableCopy s prefer (hops 6 (own s) b r.1.order r.1.det)).map fun x => (r.2, r.1, x)
  match us.find? fun u => decide (cursor ≤ u.1) with
  | some u => some u
  | none => us.head?

/-- Choose the path of a packet to device `b` (R279, R280): the route, its copy, and the state with cursors and counts moved. -/
def chooseRoute (s : State) (b : Nat) (permit : Bool) : Option (Route × Nat) × State :=
  let prefer := b2n s.fab.xcopy
  let mn := pickRoute s b prefer (lget 0 s.fab.spray b) (minimalRoutes (own s) b)
  let useDet := mn.isNone || (permit && odGet s 0x2400 5 == 1)
  let dt := if useDet then pickRoute s b prefer (lget 0 s.fab.spray (4096 + b)) (detourRoutes s.fab.shape (own s) b) else none
  let fin := fun (key : Nat) (u : Nat × Route × Nat) (s : State) =>
    let takesX := (hops 6 (own s) b u.2.1.order u.2.1.det).any fun h => h.2.1 == 0
    { s with fab := { s.fab with spray := lset 0 key (u.1 + 1) s.fab.spray,
                                 xcopy := if s.fab.shape == 0 && takesX then u.2.2 == 0 else s.fab.xcopy } }
  match dt, mn with
  | some u, none => (some (u.2.1, u.2.2), fin (4096 + b) u (odInc 0x2430 6 8 1 s))
  | some u, some _ => (some (u.2.1, u.2.2), fin (4096 + b) u s)
  | none, some u => (some (u.2.1, u.2.2), fin b u s)
  | none, none => (none, odInc 0x2430 5 8 1 s)

/-! ## Packets (R282 to R284) -/

/-- The CRC of a packet (R283). -/
def packetCrc (p : Packet) : Nat := crc32c (leBytes 28 (headerNat p 0 0) ++ p.bytes)

/-- Class, OP and LEN agree (R282, R297, R329, R473). -/
def opOk (p : Packet) : Bool :=
  let col := decide (2 ≤ p.cls) && decide (p.cls ≤ 9)
  match p.op with
  | 0x00 => p.cls == 0 && p.len == 0
  | 0x01 => p.cls == 0 && decide (1 ≤ p.len)
  | 0x02 => p.cls == 0 && decide (1 ≤ p.len)
  | 0x08 => p.cls == 1 && (p.len == 0) == (fld p.arg 0 8 != 0)
  | 0x09 => p.cls == 1 && p.len == 0
  | 0x10 => col && decide (1 ≤ p.len)
  | 0x11 => col && p.len == 0
  | 0x12 => col && p.len == 0
  | 0x13 => col && p.len == 0
  | 0x1F => p.cls == 10 && p.len == 0
  | 0x40 => p.cls == 10 && p.len == 0
  | 0x41 => p.cls == 10
  | _ => false

/-- The header is valid for a fibre (R284 FORMAT). -/
def formatOk (p : Packet) : Bool :=
  decide (p.cls ≤ 10) && p.ver == 1 && opOk p && decide (p.len ≤ 16) && endpointValid p.dep && endpointValid p.sep && p.rsvd == 0

/-- ORDER, DDIM and DVAL are consistent with R278 and R280, and a packet at H = 5 has arrived. -/
def hopsOk (s : State) (p : Packet) : Bool :=
  !(p.h == 5 && p.ddev != own s) && decide (p.h ≤ 5) && decide (p.order < 24) &&
  (!p.detour || (p.dval != coordOf p.sdev p.ddim && p.dval != coordOf p.ddev p.ddim && coordOf p.sdev p.ddim != coordOf p.ddev p.ddim &&
    decide (p.dval < extent s.fab.shape p.ddim)))

/-- Count a discard of R284 at a port. -/
def routeDiscard (p : Nat) (s : State) : State := odInc 0x2421 (p + 1) 4 1 s
def crcDiscard (p : Nat) (s : State) : State := odInc 0x2420 (p + 1) 4 1 s

/-! ## The XD ring (R25, R32, R288, R294) -/

/-- XD of an endpoint's own link to the ring; the pool and MD have none named. -/
def unitXd (s : State) (e : Nat) : Option Nat :=
  if e < 0xA0 then some (dieOf s e) else if 0xF0 ≤ e ∧ e ≤ 0xF3 then some (e - 0xF0) else none

/-- An endpoint's way to the ring is there: its XD is not isolated, and for a core neither is its die, nor is their link held down (R25,
R32, R35, R39). -/
def attached (s : State) (e : Nat) : Bool :=
  (unitXd s e).all fun x => if e < 0xA0 then xdLinkUp s x else dieOk s (4 + x)

/-- Hop `i` joins XD`i` and XD`i + 1`. -/
def hopUp (s : State) (i : Nat) : Bool := !s.fab.hopsDown.contains i

/-- A way from XD `a` to XD `b`, clockwise or not: the XDs crossed to, each over a hop that is up and not isolated. -/
def ringWay (s : State) (clockwise : Bool) (a b : Nat) : Option (List Nat) :=
  let n := if clockwise then (b + 4 - a) % 4 else (a + 4 - b) % 4
  let xs := (List.range n).map fun i => if clockwise then (a + i + 1) % 4 else (a + 3 - i) % 4
  let hops := (List.range n).map fun i => if clockwise then (a + i) % 4 else (a + 3 - i) % 4
  if hops.all (hopUp s) && xs.all fun x => dieOk s (4 + x) then some xs else none

/-- The fixed way of a packet round the ring: the shorter one, clockwise where both take two hops, and the other where that is broken
(R276, R288, R294; log 130). -/
def ringPath (s : State) (a b : Nat) : Option (List Nat) :=
  let cw := decide ((b + 4 - a) % 4 ≤ 2)
  (ringWay s cw a b).or (ringWay s (!cw) a b)

/-- The ring leads from XD `a` to XD `b`. -/
def ringJoins (s : State) (a b : Nat) : Bool := (ringPath s a b).isSome

/-- No hop is down and no XD isolated: `ring-intact` (R294). -/
def ringIntact (s : State) : Bool := s.fab.hopsDown.isEmpty && (List.range 4).all fun x => dieOk s (4 + x)

/-! ## Credits (R286, R287) -/

/-- Cells of a packet (R286). -/
def cells (p : Packet) : Nat := p.len + 1

/-- Cap on shared cells of a class (R286). -/
def sharedCap (cls : Nat) : Nat := if cls ≤ 1 then 1024 else if cls = 10 then 64 else 7257

def sharedInUse (q : Port) : Nat := (q.sharedUsed.map (·.2)).sum
def sharedOf (q : Port) (cls : Nat) : Nat := ((q.sharedUsed.filter fun e => e.1 == cls).map (·.2)).sum

/-- The port with the packet's cells taken, shared first, else reserved; none where neither is free (R287). -/
def takeCells (q : Port) (p : Packet) : Option Port :=
  let n := cells p
  let key := 16 * p.cls + p.h
  let used := (aget key q.credUsed).getD 0
  if sharedInUse q + n ≤ 7257 ∧ sharedOf q p.cls + n ≤ sharedCap p.cls then some { q with sharedUsed := q.sharedUsed ++ [(p.cls, n)] }
  else if used + n ≤ 17 then some { q with credUsed := aset key (used + n) q.credUsed }
  else none

/-- Remove `n` freed cells from the shared cells in flight, oldest first. -/
def freeShared : Nat → List (Nat × Nat) → List (Nat × Nat)
  | _, [] => []
  | n, (c, k) :: r => if k ≤ n then freeShared (n - k) r else (c, k - n) :: r

/-! ## The own buffers (R286, R288) -/

/-- Cells of the packets held that a test accepts. -/
def heldCells (l : List Wait) (f : Wait → Bool) : Nat := ((l.filter f).map fun w => cells w.pkt).sum

/-- A packet of a class that comes in at port `p` takes shared cells there when enough are free and its class is under its cap (R286; log
130): its sender does not say which it took. -/
def landsShared (s : State) (p : Nat) (k : Packet) : Bool :=
  let here := fun (w : Wait) => w.src == some p && w.stage == 0 && w.shared
  decide (heldCells s.fab.wait here + cells k ≤ 7257) &&
    decide (heldCells s.fab.wait (fun w => here w && w.pkt.cls == k.cls) + cells k ≤ sharedCap k.cls)

/-- Cells of the receive buffer of port `p` come free: the running totals that its control words return (R287). -/
def freeCells (p : Nat) (shared : Bool) (cls level n : Nat) (s : State) : State :=
  s.modPort p fun q =>
    let key := 16 * cls + level
    if shared then { q with rxFreedShared := (q.rxFreedShared + n) % 65536 }
    else { q with rxFreed := aset key (((aget key q.rxFreed).getD 0 + n) % 65536) q.rxFreed }

/-- A packet that came in at port `p` stays in no buffer there: it is ejected, discarded or sent on at once. -/
def passCells (p : Nat) (k : Packet) (s : State) : State := freeCells p (landsShared s p k) k.cls k.h (cells k) s

/-- A held packet leaves the receive buffer it came in by, if that holds it still. -/
def leaveRx (w : Wait) (s : State) : State :=
  match w.src with
  | some p => if w.stage = 0 then freeCells p w.shared w.pkt.cls (w.pkt.h - 1) (cells w.pkt) s else s
  | none => s

/-- Cross to the next XDs while their buffers for this class, level and count of hops have room for it; each holds one largest packet
(R288). -/
def crossRing (others : List Wait) : List Nat → Wait → Wait
  | [], w => { w with path := [] }
  | x :: r, w =>
    let here := fun (o : Wait) => o.xd == x && o.stage == w.stage + 1 && o.pkt.cls == w.pkt.cls && o.pkt.h == w.pkt.h
    if heldCells others here + cells w.pkt ≤ 17 then crossRing others r { w with xd := x, stage := w.stage + 1 } else { w with path := x :: r }

/-- Every held packet goes as far round the ring as it can, the oldest first. -/
def crossAll : List Wait → List Wait → State → List Wait × State
  | done, [], s => (done, s)
  | done, w :: r, s =>
    let v := crossRing (done ++ r) w.path w
    crossAll (done ++ [v]) r (if w.stage = 0 ∧ v.stage ≠ 0 then leaveRx w s else s)

def settleRing (s : State) : State :=
  let r := crossAll [] s.fab.wait s
  { r.2 with fab := { r.2.fab with wait := r.1 } }

/-- Injected packets of a class take their places in the port's injection queue of 17 cells, the oldest first (R286; log 130). -/
def queueUp : List Wait → List Wait → List Wait
  | done, [] => done
  | done, w :: r =>
    let mine := fun (o : Wait) => o.src.isNone && o.queued && o.port == w.port && o.pkt.cls == w.pkt.cls
    let before := done.any fun o => o.src.isNone && !o.queued && o.port == w.port && o.pkt.cls == w.pkt.cls
    let ok := w.queued || (!before && decide (heldCells (done ++ r) mine + cells w.pkt ≤ 17))
    queueUp (done ++ [{ w with queued := ok }]) r

/-- Packets move into the buffers that have room for them. -/
def settleBuffers (s : State) : State := settleRing { s with fab := { s.fab with wait := queueUp [] s.fab.wait } }

/-! ## Egress (R269, R287, R290, R291, R327, R378) -/

/-- A port carries packets: never while domain 0 is configured (R269). -/
def portCarries (s : State) (p : Nat) : Bool := (s.port p).carries && ownDomain s != 0

/-- The port may start a packet now: the superframe in hand has room, none of its bytes would reach into the superframes after a switchover
(R378). -/
def mayStart (q : Port) (p : Packet) : Bool :=
  decide (q.txWords.length < frameWords) && q.idleFrames == 0 &&
    (q.toSwitch == 0 || decide (q.txWords.length + wordCount p ≤ frameWords * q.toSwitch))

/-- Its share of the rate allows it: CTL its 1/64, REQ and RSP the bucket's tokens (R290). -/
def mayRate (q : Port) (p : Packet) : Bool :=
  if p.cls = 10 then decide (1024 * cells p ≤ q.ctlRoom) else p.cls != 0 && p.cls != 1 || decide (1024 * cells p ≤ q.bucket)

/-- The port with a packet's cells, tokens and data words taken. -/
def chargePort (q : Port) (p : Packet) (t : Trailer) : Option Port :=
  (takeCells q p).map fun q =>
    { q with ctlRoom := if p.cls = 10 then q.ctlRoom - 1024 * cells p else q.ctlRoom,
             bucket := if p.cls ≤ 1 then q.bucket - 1024 * cells p else q.bucket,
             txWords := q.txWords ++ (packetWords p t).zipIdx.map fun w => (w.2 == 0, w.1) }

/-- A packet leaves on a fibre. -/
def leavePort (port : Nat) (q : Port) (p : Packet) (t : Trailer) (s : State) : State :=
  { s.modPort port (fun _ => q) with egress := (port, p, t) :: s.egress }

/-- Queue `k` of the round-robin: COL0 to COL7, and 8 the unplanned bucket. -/
def inQueue (k : Nat) (w : Wait) : Bool := if k < 8 then w.pkt.cls == k + 2 else decide (w.pkt.cls ≤ 1)

/-- Cells a queue receives in a round: 17 × `weight` of the group bound to the channel, 8 where none is (R327). -/
def quantum (s : State) (k : Nat) : Nat :=
  if k < 8 then 17 * (match aget k s.chans with
    | some g => odGet s (0x2510 + g) 6
    | none => 8)
  else 17

/-- The round-robin comes to the next queue. -/
def nextQueue (s : State) (mine : List Wait) (q : Port) : Port :=
  let k := (q.rr + 1) % 9
  let d := if mine.any (inQueue q.rr) then q.deficit else lset 0 q.rr 0 q.deficit
  { q with rr := k, deficit := if mine.any (inQueue k) then lset 0 k (lget 0 d k + quantum s k) d else d }

/-- The packet that deficit round-robin sends next, and the port after it: of a queue, the oldest one that has its credits and tokens
(R289, R290, R327). -/
def roundRobin (s : State) (mine : List Wait) : Nat → Port → Option (Wait × Port)
  | 0, _ => none
  | n + 1, q =>
    match mine.find? fun w => inQueue q.rr w && mayStart q w.pkt && mayRate q w.pkt && (takeCells q w.pkt).isSome with
    | some w =>
      if cells w.pkt ≤ lget 0 q.deficit q.rr then some (w, { q with deficit := lset 0 q.rr (lget 0 q.deficit q.rr - cells w.pkt) q.deficit })
      else roundRobin s mine n (nextQueue s mine q)
    | none => roundRobin s mine n (nextQueue s mine q)

/-- The packets that port `p` may send: round the ring, or in the injection queue. -/
def atPort (s : State) (p : Nat) : List Wait := s.fab.wait.filter fun w => w.port == p && w.queued && w.path.isEmpty

/-- The next packet of a port: CTL before all others (R290). -/
def nextOut (s : State) (p : Nat) : Option (Wait × Port) :=
  let q := s.port p
  let mine := atPort s p
  if !portCarries s p then none
  else match mine.find? fun w => w.pkt.cls == 10 && mayStart q w.pkt && mayRate q w.pkt && (takeCells q w.pkt).isSome with
    | some w => some (w, q)
    | none => roundRobin s (mine.filter fun w => w.pkt.cls != 10) 11 q

/-- Send what a port can send now, at most `n` packets. -/
def sendOut (p : Nat) : Nat → State → State
  | 0, s => s
  | n + 1, s => match nextOut s p with
    | none => s
    | some (w, q) => match chargePort q w.pkt .endMark with
      | none => s
      | some q' =>
        let s1 : State := { s with fab := { s.fab with wait := s.fab.wait.erase w } }
        sendOut p n (settleBuffers (leaveRx w (leavePort p q' w.pkt .endMark s1)))

/-- A packet that waits for credits: a stall, counted once, and reported once in a launch (R287, R291). -/
def noteStall (s : State) (w : Wait) : State :=
  let q := s.port w.port
  if w.stalled || (takeCells q w.pkt).isSome then s
  else
    let mark := fun (o : Wait) => if o == w then { o with stalled := true } else o
    let s1 := odInc 0x2422 (w.port + 1) 4 1
      ({ s with fab := { s.fab with wait := s.fab.wait.map mark } }.modPort w.port fun q => { q with stallReported := true })
    if q.stallReported then s1 else emcy 0xFF51 [w.port, q.peerDev % 256, q.peerDev / 256, w.pkt.cls, q.peerPort] s1

/-- Serve a port: buffers fill up, packets leave, stalls are counted. -/
def drainPort (p : Nat) (s : State) : State :=
  let s1 := sendOut p s.fab.wait.length (settleBuffers s)
  (atPort s1 p).foldl noteStall s1

/-- A packet for a port, come from `src`, goes at once where nothing is held and nothing hinders it, and is held otherwise. `p.h` is the hop
index it arrives with. -/
def emit (port : Nat) (p : Packet) (src : Option Nat) (xd : Nat) (way : List Nat) (s : State) : State :=
  let q := s.port port
  let w : Wait := { port := port, pkt := p, src := src, shared := src.any fun i => landsShared s i { p with h := p.h - 1 }, xd := xd,
                    path := if src.isSome then way else [], queued := false }
  match (if s.fab.wait.isEmpty && portCarries s port && mayStart q p && mayRate q p then chargePort q p .endMark else none) with
  | some q' => leaveRx w (leavePort port q' p .endMark s)
  | none => drainPort port { s with fab := { s.fab with wait := s.fab.wait ++ [{ w with queued := src.isSome }] } }

/-! ## Sending -/

/-- The group bound to a COL class (R326). -/
def boundGroup (s : State) (cls : Nat) : Option Nat := if 2 ≤ cls ∧ cls ≤ 9 then aget (cls - 2) s.chans else none

/-- What a class's flows belong to: the class, or for a COL class its group (R285). -/
def flowTag (s : State) (cls : Nat) : Nat :=
  match boundGroup s cls with
  | some g => 16 + g
  | none => cls

/-- Key of a flow at its source (R285, R298). -/
def flowKey (s : State) (p : Packet) : Nat := flowTag s p.cls * 2 ^ 20 + (if p.cls = 10 then 0 else p.sep) * 2 ^ 12 + p.ddev

/-- A packet with the fields that its sender fills: domain, source, SEQ. -/
def stamp (s : State) (p : Packet) : Packet :=
  { p with ver := 1, sdev := own s, domain := ownDomain s, seq := lget 0 s.fab.seqOut (flowKey s p) }

/-- Advance a flow's number modulo 2^24. -/
def nextSeq (p : Packet) (s : State) : State :=
  { s with fab := { s.fab with seqOut := lset 0 (flowKey s p) ((p.seq + 1) % 2 ^ 24) s.fab.seqOut } }

def withCrc (p : Packet) : Packet := { p with crc := packetCrc p }

/-- A blank packet of a class and operation. -/
def blank (cls op len dep sep ddev arg : Nat) (poison : Nat) (bytes : List Byte) : Packet :=
  { cls := cls, ver := 1, op := op, len := len, h := 0, hc := 7, order := 0, detour := false, ddim := 0, ddev := ddev, dep := dep, sdev := 0,
    sep := sep, domain := 0, jobtag := 0, seq := 0, poison := poison, dval := 0, xcopy := false, rsvd := 0, arg := arg, crc := 0, bytes := bytes }

/-! ## Order at the destination (R285) -/

/-- XD at which a packet ejects (R303): that of the core's die, of the engine, else of its ingress port. Where that XD is isolated, the
endpoint is absent, and the ingress XD answers for it (R25). -/
def ejectXd (s : State) (p : Packet) (ingress : Nat) : Nat := ((unitXd s p.dep).filter fun x => dieOk s (4 + x)).getD ingress

/-- An ejected packet waits for its unit; of a REQ or RSP the fibre port it came in at is kept. -/
def deliver (port : Option Nat) (xd : Nat) (p : Packet) (s : State) : State :=
  { s with inbox := s.inbox ++ [{ xd := xd, fromE := none, pkt := p, port := port }] }

/-- Reorder entries in use, on one XD and on the chip (R285, R306). -/
def heldOn (s : State) (xd : Nat) : Nat := (s.fab.flows.map fun f => (f.held.filter fun e => e.2.1 == xd).length).sum
def heldEntries (s : State) : Nat := (s.fab.flows.map fun f => f.held.length).sum

/-- The flow of a packet at this receiver: by group, source device and endpoint, or by source device for CTL. -/
def flowOf (s : State) (cls sdev sep : Nat) : Flow :=
  let t := flowTag s cls
  (s.fab.flows.find? fun f => f.tag == t && f.sdev == sdev && f.sep == sep).getD { tag := t, sdev := sdev, sep := sep }

def setFlow (f : Flow) (s : State) : State :=
  { s with fab := { s.fab with flows := f :: s.fab.flows.filter fun g => !(g.tag == f.tag && g.sdev == f.sdev && g.sep == f.sep) } }

/-- Deliver the held packets that are now expected, in order. -/
def releaseHeld : Nat → Flow → State → State
  | 0, f, s => setFlow f s
  | n + 1, f, s =>
    match aget f.expected f.held with
    | some (xd, p) => releaseHeld n { f with expected := (f.expected + 1) % 2 ^ 24, held := adel f.expected f.held } (deliver none xd p s)
    | none => setFlow f s

/-- An arrival of an ordered flow (R285); each XD has 65 536 reorder entries (R306). -/
def reorder (xd : Nat) (p : Packet) (s : State) : State :=
  let f := flowOf s p.cls p.sdev (if p.cls = 10 then 0 else p.sep)
  let ahead := (p.seq + 2 ^ 24 - f.expected) % 2 ^ 24
  if ahead = 0 then
    let f1 := { f with expected := (f.expected + 1) % 2 ^ 24 }
    releaseHeld f1.held.length f1 (deliver none xd p s)
  else if 2 ^ 23 ≤ ahead then odInc 0x2430 3 4 1 s
  else if 65536 ≤ heldOn s xd then odInc 0x2430 2 4 1 s
  else
    let s1 := setFlow { f with held := f.held.filter (fun e => e.1 != p.seq) ++ [(p.seq, xd, p)] } s
    odSet 0x2430 4 (max (odGet s1 0x2430 4) (heldEntries s1)) s1

/-- Numbers from `a`, `n` of them, modulo 2^24. -/
def seqRun (a n : Nat) : List Nat := (List.range n).map fun i => (a + i) % 2 ^ 24

/-- The oldest held packet of a flow has waited `reorder-limit`: the numbers declared lost, and the state after delivery (R285). -/
def declareLost (f : Flow) (s : State) : List Nat × State :=
  match f.held with
  | [] => ([], s)
  | (q, _, _) :: _ =>
    let run := seqRun f.expected ((q + 2 ^ 24 - f.expected) % 2 ^ 24)
    let lost := run.filter fun i => (aget i f.held).isNone
    let s1 := odInc 0x2430 1 8 lost.length s
    let s2 := run.foldl (fun t i => match aget i f.held with
      | some (xd, p) => deliver none xd p t
      | none => t) s1
    let f1 : Flow := { f with expected := q, held := f.held.filter fun e => !run.contains e.1 }
    (lost, releaseHeld f1.held.length f1 s2)

/-! ## Ejection and membership (R284, R326, R470) -/

/-- The device's bit in the member set (R469). -/
def isMember (s : State) (dev : Nat) : Bool := s.fleet.members.contains dev

/-- A device admitted as the peer of a running shadow comparison (R472). -/
def isShadowPeer (s : State) (dev : Nat) : Bool :=
  s.handles.any fun h => h.state == 2 && match h.shadow with
    | some x => x.peer == dev
    | none => false

/-- Kind 2 runs: the engines, the pool and MD are stopped (R453). -/
def kind2Runs (s : State) : Bool := s.startup.kind == 2 && !s.startup.steps.isEmpty

/-- The endpoint is present, its plane runs, and no isolated die cuts it off (R25, R268, R284, R453). -/
def endpointUp (s : State) (e : Nat) : Bool :=
  attached s e &&
    (if e < 0xA0 then decide (e < coreCount s) && s.startup.computeUp && dieOk s (dieOf s e)
    else if e = 0xFC then true
    else if e = 0xF8 then !kind2Runs s && s.startup.mgSteps.isEmpty
    else !kind2Runs s)

/-- A packet ejects. Discards for its endpoint are counted at ingress port `port`, if it came over a fibre. -/
def eject (port : Option Nat) (p : Packet) (s : State) : State :=
  let xd := ejectXd s p (port.getD 0 / 8)
  let col := decide (2 ≤ p.cls) && decide (p.cls ≤ 9)
  if s.fleet.epoch ≠ 0 ∧ isMember s p.sdev = false ∧ isShadowPeer s p.sdev = false then odInc 0x2300 5 8 1 s
  else if p.cls ≠ 0 ∧ endpointUp s p.dep = false then
    match port with
    | some i => routeDiscard i s
    | none => s
  else if p.cls = 0 ∨ p.cls = 1 then deliver port xd p s
  else if col && ((boundGroup s p.cls).isNone || p.jobtag != odGet s 0x2300 2) then odInc 0x2500 6 4 1 s
  else reorder xd p s

/-- XD at which a packet of this device enters the ring: that of its unit. An XD's remote engines inject a response, and where the XD of
the endpoint that was asked is isolated, another's do (R303). -/
def injectXd (s : State) (p : Packet) (other : Nat) : Nat := ((unitXd s p.sep).filter fun x => dieOk s (4 + x)).getD other

/-- A unit whose way to the ring is absent sends nothing. -/
def cutOff (s : State) (p : Packet) : Bool := p.cls != 1 && !attached s p.sep

/-- Put a packet of this device on a fibre, through the injection queue of its port; where the ring does not lead from its unit to the
port, it is lost (LINK_DOWN, R34, R284). -/
def inject (port : Nat) (p : Packet) (s : State) : State :=
  if ringJoins s (injectXd s p (port / 8)) (port / 8) then emit port p none (port / 8) [] s else routeDiscard port s

/-- The ring leads from a packet's unit to the endpoint of this device that it names. -/
def ringWithin (s : State) (p : Packet) : Bool := ringJoins s (injectXd s p (ejectXd s p 0)) (ejectXd s p (injectXd s p 0))

/-- Send a packet from this device with its job tag as given (R278 to R280): false where no route is usable. A packet to this device
crosses the ring. -/
def sendRaw (permit : Bool) (p0 : Packet) (s : State) : Bool × State :=
  let p := stamp s p0
  if s.fab.fwd ≠ 1 ∨ cutOff s p = true then (false, odInc 0x2430 5 8 1 s)
  else if p.ddev = own s then (true, if ringWithin s p then eject none (withCrc p) (nextSeq p s) else nextSeq p s)
  else match chooseRoute s p.ddev permit with
    | (none, s1) => (false, s1)
    | (some (r, x), s1) =>
      let q := withCrc { p with order := r.order, detour := r.det.isSome, ddim := (r.det.getD (0, 0)).1, dval := (r.det.getD (0, 0)).2,
                                xcopy := x == 1, h := 1, hc := 6 }
      match nextHop (own s) p.ddev r.order r.det with
      | none => (false, s1)
      | some (d, v) => match holder s1 d v x with
        | some port => (true, inject port q (nextSeq p s1))
        | none => (false, s1)

/-- Send a packet that carries the device's job tag (R298). -/
def send (permit : Bool) (p : Packet) (s : State) : Bool × State := sendRaw permit { p with jobtag := odGet s 0x2300 2 } s

/-! ## Link state (R281, R292, R296) -/

/-- Own link index of a port's link. -/
def portLink (s : State) (q : Port) : Nat := linkIndex s.fab.shape (coordOf (own s) q.dim) q.dim q.nval q.copy

/-- ARG of a link-state notice, the model's own layout: [31:0] the origin's 32 bits, [43:32] the origin, [47:44] dimensions to relay. -/
def noticeArg (bits origin dims : Nat) : Nat := bits + origin * 2 ^ 32 + dims * 2 ^ 44

/-- Pass a notice to every neighbour in the dimensions of a set, each with the dimensions above it (R281). -/
def relayNotice (bits origin dims : Nat) (s : State) : State :=
  ((List.range 4).filter (bitAt dims)).foldl (fun t d =>
    ((List.range (extent s.fab.shape d)).filter fun v => v != coordOf (own s) d).foldl (fun u v =>
      (send false (blank 10 0x40 0 0xFC 0xFC (withCoord (own s) d v) (noticeArg bits origin (16 - 2 ^ (d + 1))) 0 []) u).2) t) s

/-- Issue a notice of this device's own links. -/
def issueNotice (s : State) : State :=
  if s.fab.fwd ≠ 1 then s
  else relayNotice (lget 0 s.fab.linkDown (own s)) (own s) 15 (odInc 0x2430 7 4 1 s)

/-- Mark an own link in the map. -/
def markLink (l : Nat) (down : Bool) (s : State) : State :=
  let v := lget 0 s.fab.linkDown (own s)
  let m := 2 ^ l
  { s with fab := { s.fab with linkDown := lset 0 (own s) (if down then v ||| m else v &&& (2 ^ 32 - 1 - m)) s.fab.linkDown } }

/-- Bytes of a fabric event (R296). -/
def linkBytes (p : Nat) (q : Port) (b3 : Nat) : List Nat := [p, q.peerDev % 256, q.peerDev / 256, b3, q.peerPort]

/-- Discard what a port has queued (LINK_DOWN, R284), and forget the credits of its peer. -/
def flushPort (p : Nat) (s : State) : State :=
  let mine := s.fab.wait.filter fun w => w.port == p
  let s1 : State := { s with fab := { s.fab with wait := s.fab.wait.filter fun w => w.port != p } }
  odInc 0x2421 (p + 1) 4 mine.length
    ((mine.foldl (fun t w => leaveRx w t) s1).modPort p fun q => { q with credUsed := [], sharedUsed := [], txWords := [] })

/-- The next XD of a way and all after it are there, over hops that are up. -/
def wayUp (s : State) : Nat → List Nat → Bool
  | _, [] => true
  | a, b :: r => hopUp s (if b = (a + 1) % 4 then a else b) && dieOk s (4 + a) && dieOk s (4 + b) && wayUp s b r

/-- The ring has lost a hop or an XD: packets that stand between XDs with it before them are lost (LINK_DOWN, R34, R284); those that have
not begun to cross take the way that is left. -/
def mendRing (s : State) : State :=
  let broken := fun (w : Wait) => !wayUp s w.xd w.path
  let lost := fun (w : Wait) => broken w && (w.stage != 0 || !dieOk s (4 + w.xd) || !ringJoins s w.xd (w.port / 8))
  let turn := fun (w : Wait) => if broken w then { w with path := (ringPath s w.xd (w.port / 8)).getD [] } else w
  let s1 : State := { s with fab := { s.fab with wait := (s.fab.wait.filter fun w => !lost w).map turn } }
  (s.fab.wait.filter lost).foldl (fun t w => routeDiscard w.port (leaveRx w t)) s1

/-- A hop of the ring goes down. -/
def cutHop (hop : Nat) (s : State) : State :=
  mendRing { s with fab := { s.fab with hopsDown := if s.fab.hopsDown.contains hop then s.fab.hopsDown else s.fab.hopsDown ++ [hop] } }

/-- A LINK port goes down: its state, the map, 0xFF52 and a notice. A port that was not up only takes the state. -/
def linkDownAs (p reason st : Nat) (s : State) : State :=
  let q := s.port p
  if q.carries then
    let s1 := (flushPort p s).modPort p fun x => { x with pstate := st, downReason := reason }
    issueNotice (markLink (portLink s q) true (emcy 0xFF52 (linkBytes p q reason) s1))
  else s.modPort p fun x => { x with pstate := st }

/-- A LINK port comes up: at 19/20 where a lane is dropped (R274). -/
def linkUp (p : Nat) (s : State) : State :=
  let q := s.port p
  if q.isLink && !q.carries then
    let st := if ones20 q.txLanes = 20 ∧ ones20 q.rxLanes = 20 then 1 else 2
    let s1 := s.modPort p fun x =>
      { x with pstate := st, downReason := 0, sharedTot := 0, credTot := [], rxFreed := [], rxFreedShared := 0, credSent := [] }
    issueNotice (markLink (portLink s q) false (emcy 0xFF53 (linkBytes p q 0) s1))
  else s
where
  ones20 (v : BitVec 20) : Nat := ((List.range 20).filter fun i => bitAt v.toNat i).length

/-! ## Roles (R271 to R273) -/

/-- The link that a peer's identity offers: dimension and neighbour value, or none (MISMATCH). -/
def linkOffered (s : State) (i : Ident) : Option (Nat × Nat) :=
  let ds := (List.range 4).filter fun d => coordOf i.coord d != coordOf (own s) d
  if i.domain = ownDomain s ∧ i.shape = s.fab.shape ∧ inRange s.fab.shape i.coord then
    match ds with
    | [d] => some (d, coordOf i.coord d)
    | _ => none
  else none

/-- Port `p` is designated for some copy of this link. -/
def isDesignated (s : State) (p d v : Nat) : Bool :=
  (List.range (copies s.fab.shape d)).any fun c => designated (linkIndex s.fab.shape (coordOf (own s) d) d v c) == p

/-- Port number of a cable at the device with the lower x (R272). -/
def lowerPort (s : State) (p : Nat) : Nat :=
  match (s.port p).ident with
  | some i => if coordOf (own s) 0 < coordOf i.coord 0 then p else i.port
  | none => p

/-- Give a port a role. A STANDBY port that is lit is up; any other comes up as a LINK does (R272, R295, R296). -/
def setRole (p role d v copy : Nat) (s : State) : State :=
  s.modPort p fun q =>
    let i := q.ident.getD { domain := 0, coord := 0, shape := 0, port := 0 }
    { q with role := role, dim := d, nval := v, copy := copy, peerPort := i.port, peerDev := i.coord,
             pstate := if role = 2 ∧ q.safety = 0 then 1 else 0 }

/-- 0xFF54 (R273, R296). -/
def roleEvent (p : Nat) (s : State) : State :=
  let q := s.port p
  emcy 0xFF54 (linkBytes p q q.role) s

/-- Copy of an X link that a cable is, beside the one that another port holds already: 0 for the lower port number at the device with the
lower x (R272). -/
def lateCopy (s : State) (p d v : Nat) : Nat :=
  if copies s.fab.shape d = 1 then 0
  else match (holder s d v 0).or (holder s d v 1) with
    | some q => if lowerPort s p < lowerPort s q then 0 else 1
    | none => 0

/-- Role of a port whose exchange completes with the plane running: a copy not yet held makes it a LINK (R272, R273); none while domain 0 is
configured (R269). -/
def roleLate (p : Nat) (s : State) : State :=
  match (s.port p).ident with
  | none => s
  | some i =>
    if ownDomain s = 0 then s
    else match linkOffered s i with
      | none => roleEvent p (setRole p 3 0 0 0 s)
      | some (d, v) =>
        let c := lateCopy s p d v
        if (holder s d v c).isNone then setRole p 1 d v c s else setRole p 2 d v 0 s

/-- Take `n` of a list of ports for one link, lower cable first (R272). -/
def takeLinks (s : State) (d v : Nat) (cands : List Nat) : List (Nat × Nat) :=
  let n := copies s.fab.shape d
  let l := (cands.filter fun p => isDesignated s p d v) ++ (cands.filter fun p => !isDesignated s p d v)
  let got := l.take n
  match got with
  | [a, b] => if lowerPort s a ≤ lowerPort s b then [(a, 0), (b, 1)] else [(b, 0), (a, 1)]
  | _ => got.map (·, 0)

/-- The record of a fibre port retired by kind 9, in force from the forwarding-plane start that applied it (R458). -/
def portRetired (s : State) (p : Nat) : Bool :=
  s.fleet.softMap.any fun e => e.kind == 9 && e.state == 1 && e.index / 32 == p

/-- Links of the shape: dimension, neighbour value, copy. -/
def shapeLinks (s : State) : List (Nat × Nat × Nat) :=
  (List.range 4).flatMap fun d => ((List.range (extent s.fab.shape d)).filter fun v => v != coordOf (own s) d).flatMap fun v =>
    (List.range (copies s.fab.shape d)).map fun c => (d, v, c)

/-- Designated ports left NONE whose link no port holds are reported (R273, R296). -/
def reportMissing (s : State) : State :=
  (shapeLinks s).foldl (fun t l =>
    let p := designated (linkIndex t.fab.shape (coordOf (own t) l.1) l.1 l.2.1 l.2.2)
    if (holder t l.1 l.2.1 l.2.2).isNone && (t.port p).role == 0 then roleEvent p t else t) s

/-- The port has completed the exchange: each end has the other's identity (R272, R366). -/
def exchanged (s : State) (p : Nat) : Bool := (s.port p).ident.isSome && (s.port p).acked

/-- Delay limit of a dimension in ps (R275). -/
def delayLimit (d : Nat) : Nat := [5000, 25000, 250000, 2500000].getD d 0

/-- A LINK whose fibre is longer than its dimension's reach is reported (R275, R296). -/
def reportDelay (p : Nat) (s : State) : State :=
  let q := s.port p
  if q.isLink && decide (delayLimit q.dim < q.delay) then emcy 0xFF56 (linkBytes p q q.dim) s else s

/-- All roles at a forwarding-plane start (R272). -/
def assignRoles (s : State) : State :=
  let lit := (List.range 32).filter fun p => exchanged s p && !portRetired s p
  let offer := fun p => match (s.port p).ident with
    | some i => linkOffered s i
    | none => none
  let s0 := (List.range 32).foldl (fun t p => setRole p 0 0 0 0 t) s
  let s1 := (lit.filter fun p => (offer p).isNone).foldl (fun t p => roleEvent p (setRole p 3 0 0 0 t)) s0
  reportMissing <| (List.range 4).foldl (fun t d => (List.range 8).foldl (fun t v =>
    let cands := lit.filter fun p => offer p == some (d, v)
    let got := takeLinks s d v cands
    cands.foldl (fun t p => match got.find? fun g => g.1 == p with
      | some g => reportDelay p (setRole p 1 d v g.2 t)
      | none => setRole p 2 d v 0 t) t) t) s1

/-! ## The receiver of a packet (R283, R284) -/

/-- Where a transit packet goes next: its port, the way round the ring from XD `xd`, and the packet as it leaves (R278); else the port whose
link is down (LINK_DOWN, R284). -/
def onward (xd : Nat) (p : Packet) (s : State) : Except Nat (Nat × List Nat × Packet) :=
  let det : Detour := if p.detour then some (p.ddim, p.dval) else none
  match nextHop (own s) p.ddev p.order det with
  | none => .error 0
  | some (d, v) =>
    let copy := if d = 0 ∧ s.fab.shape = 0 then b2n p.xcopy else 0
    match holder s d v copy with
    | none => .error (designated (linkIndex s.fab.shape (coordOf (own s) d) d v copy))
    | some port => match ringPath s xd (port / 8) with
      | some way => if portCarries s port then .ok (port, way, { p with h := p.h + 1, hc := 7 - (p.h + 1) }) else .error port
      | none => .error port

/-- Forward a packet that came in at port `p` (R278, R284, R294). -/
def forward (p : Nat) (pkt : Packet) (s : State) : State :=
  match onward (p / 8) pkt s with
  | .ok (port, way, k) => emit port k (some p) (p / 8) way s
  | .error port => routeDiscard port (passCells p pkt s)

/-- A packet with lines is forwarded as its header arrives. Where its CRC or its trailer then turns out wrong, what has gone out ends with
ABORT (R283, R362); a packet that would have had to wait has not gone out. -/
def forwardBroken (p : Nat) (pkt : Packet) (s : State) : State :=
  match (if pkt.len = 0 ∨ pkt.ddev = own s ∨ !s.fab.wait.isEmpty then .error 0 else onward (p / 8) pkt s) with
  | .error _ => s
  | .ok (port, _, k) =>
    let q := s.port port
    match (if mayStart q k && mayRate q k then chargePort q k .abortMark else none) with
    | some q' => leavePort port q' k .abortMark s
    | none => s

/-- The header's fields are valid at this device (R284). -/
def headerOk (s : State) (k : Packet) : Bool := formatOk k && k.domain == ownDomain s && hopsOk s k

/-- A whole packet has arrived at port `p`. -/
def arrive (p : Nat) (pkt : Packet) (trailer : Trailer) (fecBad : Bool) (s : State) : State :=
  let gone := passCells p pkt s
  if !portCarries s p || s.fab.fwd != 1 then s
  else if fecBad then crcDiscard p gone
  else if trailer = .abortMark then gone
  else if pkt.h + pkt.hc ≠ 7 then crcDiscard p gone
  else if trailer = .bad ∨ pkt.crc ≠ packetCrc pkt then crcDiscard p (if headerOk s pkt then forwardBroken p pkt gone else gone)
  else if !headerOk s pkt then routeDiscard p gone
  else if pkt.ddev = own s then (if ringJoins s (p / 8) (ejectXd s pkt (p / 8)) then eject (some p) pkt gone else routeDiscard p gone)
  else forward p pkt s

/-- PACKET_RECEIVE. -/
def execPacketReceive (p : Nat) (pkt : Packet) (trailer : Trailer) (fecBad : Bool) (s : State) : Out :=
  .next (arrive p pkt trailer fecBad s)

/-- LINK_STATE_NOTICE: the ejected notice at 0xFC updates the map and is relayed over the dimensions it was handed (R281). -/
def execLinkStateNotice (pkt : Packet) (s : State) : Out :=
  match s.inbox.find? fun e => e.pkt == pkt with
  | some e =>
    if pkt.op = 0x40 ∧ pkt.dep = 0xFC then
      let s1 : State := { s with inbox := s.inbox.erase e }
      let origin := fld pkt.arg 32 12
      let bits := fld pkt.arg 0 32
      let s2 : State := if origin = own s then s1 else { s1 with fab := { s1.fab with linkDown := lset 0 origin bits s1.fab.linkDown } }
      .next (relayNotice bits origin (fld pkt.arg 44 4) s2)
    else .next s
  | none => .next s

end Sys2Proof.Machine
end

