-- ==== Sys2Proof/Machine/Operands.lean ====
section
/-! DEFINITION. Operand forms: the panels and scale arrays of the matrix array (R79, R80), the weight units and vectors of the
matrix-vector path (R103, R104), virtual columns and operand modes of the vector engine (R115, R116, R122), the exact cells that the
two matrix engines accumulate in (R81 to R83, R107). -/

namespace Sys2Proof.Machine

/-- Byte `i` of a list. -/
def byteAt (l : List Byte) (i : Nat) : Nat := (l.getD i 0).toNat

/-- FP4 code `i` of a packed list, the even element in bits [3:0] (R79). -/
def nibAt (l : List Byte) (i : Nat) : Nat := if i % 2 = 0 then byteAt l (i / 2) % 16 else byteAt l (i / 2) / 16

/-- Signed value of an 8-bit integer. -/
def int8 (v : Nat) : Int := sx 8 v

/-- Twice the value of an FP4 code: a whole number from −12 to 12 (R147). -/
def fp4x2 (v : Nat) : Int :=
  let m : Int := match v % 8 with
    | 0 => 0
    | 1 => 1
    | 2 => 2
    | 3 => 3
    | 4 => 4
    | 5 => 6
    | 6 => 8
    | _ => 12
  if v / 8 % 2 = 1 then -m else m

/-- Element (m, k) of a K-major panel with `pitch` bytes per step (R79): the code. -/
def panelCode (bytes : Nat) (kpc pitch : Nat) (l : List Byte) (m k : Nat) : Nat :=
  let base := pitch * (k / kpc)
  if kpc = 4 then nibAt l (2 * base + kpc * m + k % kpc)
  else if bytes = 2 then byteAt l (base + 2 * (kpc * m + k % kpc)) + 256 * byteAt l (base + 2 * (kpc * m + k % kpc) + 1)
  else byteAt l (base + kpc * m + k % kpc)

/-! ## Exact cells -/

/-- What an exact cell holds when its products are in (R81, R82): VAL in units of 2^bexp, its special flag's value, discarded
bits, and emax where the frame floats. -/
structure Cell where
  val : Int := 0
  bexp : Int := 0
  special : Option Num := none
  lost : Bool := false
  emax : Option Int := none
deriving DecidableEq, Repr

/-- Add a special product to a cell's note (R149). -/
def Cell.note (c : Cell) (x : Num) : Cell :=
  { c with special := some (match c.special with
      | some y => y.add x
      | none => x) }

/-- A finite value in units of 2^q, q at or below its exponent. -/
def unitsOfNum (q : Int) : Num → Int
  | .fin g m e => sgn g (m <<< (e - q).toNat)
  | _ => 0

/-- One product into a cell whose bit 0 has a fixed weight 2^bexp at or below the product's (R81). -/
def prodStep (c : Cell) (x y : Num) : Cell :=
  if x.isNan || x.isInf || y.isNan || y.isInf then c.note (x.mul y)
  else { c with val := c.val + unitsOfNum c.bexp (x.mul y) }

/-- A block's sum of products, `p` in units of 2^q, into a floating cell whose bit 0 weighs 2^(emax − w); `e` is the block's combined
exponent (R82). -/
def blockStepAt (w : Nat) (c : Cell) (e q p : Int) : Cell :=
  let c1 : Cell := match c.emax with
    | none => { c with emax := some e }
    | some m => if m < e then { c with emax := some e, val := asr c.val (e - m).toNat, lost := c.lost || Machine.lost c.val (e - m).toNat }
      else c
  let sh := q - (c1.emax.getD e - w)
  if 0 ≤ sh then { c1 with val := c1.val + p * 2 ^ sh.toNat }
  else { c1 with val := c1.val + asr p (-sh).toNat, lost := c1.lost || Machine.lost p (-sh).toNat }

/-- A block's sum in units of 2^(e − 2), as FP4 products give it (R82, R107). -/
def blockStep (w : Nat) (c : Cell) (e p : Int) : Cell := blockStepAt w c e (e - 2) p

/-- The exact value of a finished cell. -/
def Cell.num (c : Cell) : Num :=
  match c.special with
  | some x => x
  | none => if c.val = 0 then .fin false 0 0 else Num.ofInt c.val c.bexp

/-- The long partial of a finished cell (R151, R152). -/
def Cell.long (c : Cell) (domain : Nat) : Long :=
  match c.special with
  | some x => { val := 0, bexp := c.bexp, special := specialOf x, inexact := c.lost, domain := domain }
  | none => { val := c.val, bexp := c.bexp, special := 0, inexact := c.lost, domain := domain }

/-! ## Vector-engine operands (R115, R122) -/

/-- Tile and column of a virtual column from a base tile: none beyond T15 (R115, R117). -/
def vcol (t v : Nat) : Option (Nat × Nat) := if t + v / 128 ≤ 15 then some (t + v / 128, v % 128) else none

/-- Word at a row and a virtual column. -/
def Core.vword (k : Core) (t row v : Nat) : Word := k.tile (t + v / 128) row (v % 128)

/-- An operand of a VEC descriptor: base tile, row, virtual column and mode (R115). -/
structure Opnd where
  t : Nat
  row : Nat
  col : Nat
  mode : Nat
deriving DecidableEq, Repr

/-- Row and virtual column of element (i, j) (R115); nothing for SCALAR. -/
def Opnd.at (o : Opnd) (eo i j : Nat) : Nat × Nat :=
  match o.mode with
  | 0 => (o.row + i, o.col + eo + j)
  | 1 => (o.row + i, o.col + j)
  | 2 => (o.row, o.col + eo + j)
  | 3 => (o.row, o.col + j)
  | _ => (o.row + i, o.col)

/-- Value of a word's bits under a type (R122), `h` the half for BF16P. -/
def veNum (ty : Nat) (h : Nat) (w : Word) : Num :=
  let v := w.toNat
  match ty with
  | 0 => fp32.decode v
  | 1 => bf16.decode (v % 65536)
  | 2 => bf16.decode (if h = 0 then v % 65536 else v / 65536)
  | 3 => Num.ofInt (sx 32 v) 0
  | 4 => .fin false v 0
  | 5 => Num.ofInt (sx 8 v) 0
  | 6 => e4m3.decode (v % 256)
  | _ => e5m2.decode (v % 256)

/-- Round a value to a type's code as a word holds it (R122, R125): the word and SATURATED. For BF16P the half's 16 bits. -/
def veRound (ty rnd u : Nat) (x : Num) : Nat × Bool :=
  match ty with
  | 0 => fp32.round rnd u x
  | 1 => bf16.round rnd u x
  | 2 => bf16.round rnd u x
  | 3 => roundInt 32 true rnd u x
  | 4 => roundInt 32 false rnd u x
  | 5 =>
    let r := roundInt 8 true rnd u x
    (unsx 32 (sx 8 r.1), r.2)
  | 6 => e4m3.round rnd u x
  | _ => e5m2.round rnd u x

/-- The generator key that a launch latched for a slot (R212); with no launch, the slot itself. -/
def launchKey (s : State) (i : Nat) : Nat :=
  match s.mgmt.active with
  | some h => ((s.handle h).keys.getD i 0).toNat
  | none => odGet s 0x2810 (i + 1)

end Sys2Proof.Machine
end

