-- ==== Sys2Proof/Machine/Regs.lean ====
section
/-! DEFINITION. The register blocks of cores and dies (R10 to R12, R26, R70, R102, R144, R226, R265, R315, R347, R385, R418, R419, R501):
reading a word, and writing it under its access code as the unprivileged master (R230, R416). -/

namespace Sys2Proof.Machine

/-- Slots held by one epoch of a core (R312). -/
def Core.epochSlots (k : Core) (e : Nat) : Nat := (k.slots.filter fun x => x.2.epoch == e).length

/-- A word of a core's register block. `secure` is the master's right to secure-only words. -/
def coreRegRead (s : State) (secure : Bool) (c ofs : Nat) : Nat :=
  let k := s.core c
  let site := s.fleet.sites.getD (siteOf s c) {}
  match ofs with
  | 0x00 => k.stat.toNat + 65536 * b2n k.suspPend + 131072 * b2n (k.mode == .parked) + 262144 * b2n (k.mode == .stopped)
  | 0x04 => k.stopCode + 65536 * k.exit
  | 0x08 => k.pc % 32768 + 65536 * k.loops.length
  | 0x0C => k.vl + 256 * k.vlmax
  | 0x10 => k.waitLimit.toNat
  | 0x4C => if secure then site.spareCols else 0
  | 0x58 =>
    if secure then
      site.unused.headD 8 + 16 * site.unused.getD 1 15 + 256 * (k.vlmax / 16)
    else 0
  | 0x78 => k.slots.length + 65536 * fld (k.reg 0x78) 16 13
  | 0x80 =>
    match k.fence with
    | some { closed := some e, .. } => k.epoch + 4 + 65536 * k.epochSlots e
    | _ => k.epoch
  | _ => if [0x40, 0x44, 0x48, 0x50, 0x54, 0x60, 0x64, 0x70, 0x74, 0x7C, 0x84, 0x90, 0x94].contains ofs then k.reg ofs else 0

/-- Bits of a core's register that every master may write. -/
def coreRwMask (ofs : Nat) : Nat :=
  match ofs with
  | 0x44 => 0xFFFFFFFF
  | 0x54 => 0xFFFFFFFF
  | 0x64 => 0x00FFFFFF
  | 0x74 => 0xFFFFFFFF
  | 0x78 => 0x1FFF0000
  | 0x7C => 0xFFFFFFFF
  | 0x94 => 0xFFFFFFFF
  | _ => 0

/-- Write a word of a core's register block (R11): W1C bits of `SQ_STAT`, RW fields, nothing else. -/
def coreRegWrite (c ofs v : Nat) (s : State) : State :=
  if ofs = 0 then s.modCore c fun k => { k with stat := k.stat &&& ~~~(BitVec.ofNat 10 v) }
  else if ofs = 0x10 then s.modCore c fun k => { k with waitLimit := BitVec.ofNat 32 v }
  else
    let m := coreRwMask ofs
    if m = 0 then s else s.modCore c fun k => k.setReg ofs ((k.reg ofs &&& (0xFFFFFFFF - m)) ||| (v &&& m))

/-- `DIE_ID` (R26). -/
def dieId (s : State) (d : Nat) : Nat :=
  let x := s.dies.getD d { strap := 0 }
  let mask := if d < 4 then 0xC1 else if d < 8 then 0xD1 else 0xE1
  x.strap + 256 * fld x.strap 3 3 + 4096 * fld x.strap 1 2 + 16384 * fld x.strap 0 1 + 32768 * b2n x.ok + 65536 * 2 + 16777216 * mask

/-- Secure-only words that a write may change: SRW words of an XD (R385) and of MD (R501). -/
def dieSrw (d ofs : Nat) : Bool :=
  if d = 8 then decide (0x100 ≤ ofs) && decide (ofs < 0x110)
  else decide (4 ≤ d) && ((decide (0x1000 ≤ ofs) && decide (ofs < 0x1020)) ||
    (decide (0x1100 ≤ ofs) && decide (ofs < 0x1500) && decide ((ofs - 0x1100) % 0x80 < 96)))

/-- Reset value of an SRW word. -/
def dieDefault (d ofs : Nat) : Nat := if 4 ≤ d ∧ d < 8 ∧ 0x1000 ≤ ofs ∧ ofs < 0x1020 then 0x6401 else 0

/-- Stored value of an SRW word: what is kept is its difference from the reset value. -/
def dieWord (s : State) (d ofs : Nat) : Nat := dieReg s d ofs ^^^ dieDefault d ofs

def setDieWord (d ofs v : Nat) (s : State) : State := setDieReg d ofs (v ^^^ dieDefault d ofs) s

/-- Count of set bits. -/
def ones (n v : Nat) : Nat := ((List.range n).filter fun i => bitAt v i).length

/-- `OPT_PORT_STAT[p]` (R385). -/
def portStat (p : Port) : Nat :=
  p.safety + 8 * b2n p.fecLock + 16 * ones 20 p.txLanes.toNat + 512 * ones 20 p.rxLanes.toNat + 16384 * p.sparesUsed.toNat +
  262144 * p.dropTx + 8388608 * p.dropRx + 268435456 * b2n (p.dark != 0)

/-- A word of a die's register block. -/
def dieRegRead (s : State) (secure : Bool) (d ofs : Nat) : Nat :=
  if ofs = 0 then dieId s d
  else if ofs = 4 then dieReg s d 4
  else if dieSrw d ofs then (if secure then dieWord s d ofs else 0)
  else if 4 ≤ d ∧ d < 8 ∧ 0x1020 ≤ ofs ∧ ofs < 0x1040 ∧ ofs % 4 = 0 then portStat (s.port (8 * (d - 4) + (ofs - 0x1020) / 4))
  else 0

/-- An unprivileged write that is ignored and counted (R11, R419). -/
def countDenied (d : Nat) (s : State) : State := setDieReg d 4 (min 65535 (dieReg s d 4 + 1)) s

/-- Write a word of a die's register block as the unprivileged master: no word of a die is plain RW. -/
def dieRegWrite (d ofs : Nat) (s : State) : State := if dieSrw d ofs then countDenied d s else s

/-- Read a register word by its chip address; anything else reads zero (R12). -/
def regRead (s : State) (secure : Bool) (a : Nat) : Nat :=
  match place s a with
  | .coreReg c o => coreRegRead s secure c o
  | .dieReg d o => dieRegRead s secure d o
  | _ => 0

/-- Write a register word as the unprivileged master (R230). -/
def regWrite (a v : Nat) (s : State) : State :=
  match place s a with
  | .coreReg c o => coreRegWrite c o v s
  | .dieReg d o => dieRegWrite d o s
  | _ => s

/-- Sum of `REG_DENIED` over all dies (R407). -/
def regDenied (s : State) : Nat := ((List.range 9).map fun d => dieReg s d 4).sum

/-- All of a run of bytes lies in register blocks, in whole words. -/
def regSpan (s : State) (a n : Nat) : Bool :=
  a % 4 == 0 && n % 4 == 0 && (List.range (n / 4)).all fun i => match place s (a + 4 * i) with
    | .coreReg _ _ => true
    | .dieReg _ _ => true
    | _ => false

end Sys2Proof.Machine
end

