-- ==== Sys2Proof/Machine/Approx.lean ====
section
/-! DEFINITION. The functions whose bits R127 and R218 leave open within an error: their exact values to far more bits than FP32 holds,
by series in fixed point, and the words that lie within the error. Config chooses among those words and nothing else is free. -/

namespace Sys2Proof.Machine

/-! ## Fixed point: integers in units of 2^−320 -/

def fxBits : Nat := 320
def fxOne : Int := 2 ^ fxBits
def fxMul (a b : Int) : Int := a * b / fxOne
def fxDiv (a b : Int) : Int := a * fxOne / b
/-- The root of a value that is not negative and below 2^10. -/
def fxSqrt (a : Int) : Int := (isqrtGo (a * fxOne).toNat 326 0 : Nat)

/-- A finite value in fixed point. -/
def fxOf : Num → Int
  | .fin g m e => sgn g (shiftN m (e + fxBits))
  | _ => 0

/-- A fixed-point value times 2^k. -/
def fxNum (v k : Int) : Num := Num.ofInt v (k - fxBits)

/-- Σ tⁱ ÷ (2i + 1) over i < n, then `acc` for the rest: atanh z is z times it at z², atan z at −z². -/
def oddSeries (t : Int) : Nat → Int → Int
  | 0, acc => acc
  | n + 1, acc => oddSeries t n (fxOne / (2 * n + 1 : Nat) + fxMul t acc)

def fxLn2 : Int := 2 * oddSeries (fxOne / 9) 105 0 / 3
def fxPi : Int := 16 * oddSeries (-(fxOne / 25)) 105 0 / 5 - 4 * oddSeries (-(fxOne / 57121)) 105 0 / 239

/-- Σ rⁱ ÷ i! over i ≤ n by Horner's rule. -/
def expSeries (r : Int) : Nat → Int → Int
  | 0, acc => acc
  | n + 1, acc => expSeries r n (fxOne + fxMul r acc / (n + 1 : Nat))

/-- e^x: a fixed-point value in [1, 2) and a power of two. -/
def fxExp (x : Int) : Int × Int := (expSeries (x % fxLn2) 90 fxOne, x / fxLn2)

/-- e^x in fixed point. -/
def fxExpFlat (x : Int) : Int :=
  let r := fxExp x
  if 0 ≤ r.2 then r.1 * 2 ^ r.2.toNat else r.1 / 2 ^ (-r.2).toNat

/-- ln of m × 2^e, m > 0. -/
def fxLn (m : Nat) (e : Int) : Int :=
  let l := bitLen m - 1
  let f : Int := (m * 2 ^ (fxBits - l) : Nat)
  let z := fxDiv (f - fxOne) (f + fxOne)
  (e + l) * fxLn2 + 2 * fxMul z (oddSeries (fxMul z z) 105 0)

/-- Σ (−t)ⁱ ÷ (i! (2i + 1)) from term `i`, whose (−t)ⁱ ÷ i! is `c`. -/
def erfSeries (t : Int) : Nat → Nat → Int → Int → Int
  | 0, _, _, acc => acc
  | n + 1, i, c, acc => erfSeries t n (i + 1) (-(fxMul t c) / (i + 1 : Nat)) (acc + c / (2 * i + 1 : Nat))

/-- Σ (−t)ⁱ ÷ (2i)!: the cosine of √t. -/
def cosSeries (t : Int) : Nat → Nat → Int → Int → Int
  | 0, _, _, acc => acc
  | n + 1, i, c, acc => cosSeries t n (i + 1) (-(fxMul t c) / ((2 * i + 1) * (2 * i + 2) : Nat)) (acc + c)

/-! ## The functions -/

/-- e^x, ln x, 1/√x, tanh, sigmoid, erf, 1/x of a finite FP32 value inside the edges of R127, by OPC. -/
def transExact (opc : Nat) (x : Num) : Num :=
  match x with
  | .fin g m e =>
    match opc with
    | 0x30 =>
      let r := fxExp (fxOf x)
      fxNum r.1 r.2
    | 0x31 => fxNum (fxLn m e) 0
    | 0x32 =>
      let o := (e % 2).toNat
      Num.fin false (isqrtGo (2 ^ 400 / (m * 2 ^ o)) 201 0) (-200 - (e - o) / 2)
    | 0x33 =>
      let y := fxExpFlat (2 * fxOf x.abs)
      fxNum (sgn g (fxDiv (y - fxOne) (y + fxOne)).toNat) 0
    | 0x34 =>
      let y := fxExpFlat (fxOf x)
      fxNum (fxDiv y (fxOne + y)) 0
    | 0x35 =>
      let t := fxOf x
      x.mul (fxNum (fxDiv (2 * erfSeries (fxMul t t) 170 0 fxOne 0) (fxSqrt fxPi)) 0)
    | _ => .fin g (2 ^ 200 / m) (-200 - e)
  | x => x

/-- √(−2 ln u1) × cos(2π u2) with u1 = (a + 1) × 2^−24 and u2 = b × 2^−24 (R218). -/
def normalExact (a b : Nat) : Num :=
  if b % 2 ^ 23 = 2 ^ 22 then .fin false 0 0
  else
    let t := 2 * fxPi * b / 2 ^ 24
    fxNum (fxMul (fxSqrt (-2 * fxLn (a + 1) (-24))) (cosSeries (fxMul t t) 90 0 fxOne 0)) 0

/-! ## The words within an error -/

/-- Two values at most `t` apart. -/
def Num.near (a b t : Num) : Bool := !(t.lt ((a.add b.neg).abs))

/-- The finite FP32 words within `n` ulp of a value, an ulp being the step of the value's binade. -/
def nearWords (n : Nat) (y : Num) : List Word :=
  match y with
  | .fin g m e =>
    let q := fp32.step m e
    let c : Int := shiftN m (e - (q - 1))
    (List.range (4 * n + 4)).flatMap fun (i : Nat) =>
      let v := c + (i : Int) - (2 * n + 1 : Nat)
      let x := Num.ofInt (if g then -v else v) (q - 1)
      let w := toF32 x
      if !(f32 w).near x (.fin false 0 0) || (f32 w).isInf || !x.near y (.fin false n q) then []
      else if v = 0 then [0, 0x80000000] else [w]
  | _ => []

/-- The word that `choice` takes of a list, `r` of none. -/
def takeWord (l : List Word) (choice : Nat) (r : Word) : Word := l.getD (choice % l.length) r

/-- A word within `n` ulp of the exact value; a value beyond FP32's range is an infinity. -/
def nearFree (n choice : Nat) (y : Num) : Word :=
  let r := toF32 y
  if (f32 r).isInf then r else takeWord (nearWords n y) choice r

/-- z of NORMAL_BM: within 1 ulp of the expression correctly rounded, in magnitude at most √(48 ln 2) (R218). -/
def normalFree (choice a b : Nat) : Word :=
  let r := toF32 (normalExact a b)
  let within := fun (w : Word) => !(fxNum (48 * fxLn2) 0).lt ((f32 w).mul (f32 w))
  takeWord ((nearWords 1 (f32 r)).filter within) choice r

end Sys2Proof.Machine
end

