-- ==== Sys2Proof/Machine/Vector.lean ====
section
/-! DEFINITION. The vector engine's elementwise operations: VEC descriptors (R119 to R121), operand words (R115, R116, R122), the
functions of R123 to R127, and what a descriptor reads and writes (R117, R118, R128, R134 to R137). -/

namespace Sys2Proof.Machine

/-- The fields of a VEC descriptor (R119, R120) with what was latched at issue. -/
structure Vec where
  opc : Nat
  dt : Nat
  ot : Nat
  rnd : Nat
  pair : Bool
  axis : Nat
  nr : Nat
  cond : Nat
  rstm : Nat
  rlv : Nat
  d : Opnd
  a : Opnd
  b : Opnd
  c : Opnd
  imm : Nat
  srsid : Nat
  idx0 : Nat
  ipitch : Nat
  eo : Nat
  vl : Nat
  rst : Bool
deriving DecidableEq, Repr

def vecOf (x : Desc) : Vec :=
  let w := x.word 0
  let w1 := x.word 1
  let w2 := x.word 2
  { opc := fld w 24 8, dt := fld w 21 3, ot := fld w 18 3, rnd := fld w 16 2, pair := bitAt w 15, axis := fld w 14 1, nr := fld w 7 7 + 1,
    cond := fld w 4 3, rstm := fld w 2 2, rlv := fld w 0 2,
    d := { t := fld w1 0 4, row := fld w1 4 7, col := fld w1 11 11, mode := fld w1 22 1 },
    a := { t := fld w1 24 4, row := fld w1 28 7, col := fld w1 35 11, mode := fld w1 46 3 },
    b := { t := fld w2 0 4, row := fld w2 4 7, col := fld w2 11 11, mode := fld w2 22 3 },
    c := { t := fld w2 32 4, row := fld w2 36 7, col := fld w2 43 11, mode := fld w2 54 3 },
    imm := fld (x.word 3) 0 32, srsid := fld (x.word 3) 32 32, idx0 := fld (x.word 4) 0 48, ipitch := fld (x.word 5) 0 32,
    eo := x.eo, vl := x.vl, rst := x.rst }

/-! ## Classes of operations -/

def Vec.isRed (v : Vec) : Bool := v.opc == 0x40 || v.opc == 0x41 || v.opc == 0x42
def Vec.isFin (v : Vec) : Bool := v.opc == 0x43
def Vec.isCmpr (v : Vec) : Bool := v.opc == 0x50 || v.opc == 0x51
def Vec.isExpd (v : Vec) : Bool := v.opc == 0x52
def Vec.isScan (v : Vec) : Bool := decide (0x60 ≤ v.opc) && decide (v.opc ≤ 0x63)
def Vec.isRec (v : Vec) : Bool := v.opc == 0x64
/-- Operations with state (R121). -/
def Vec.hasState (v : Vec) : Bool := v.isRed || v.isCmpr || v.isExpd || v.isScan || v.isRec
/-- Operations that rewrite C (R134 to R137). -/
def Vec.carries (v : Vec) : Bool := v.isCmpr || v.isExpd || v.isScan || v.isRec

/-- Operations that take B, and C (R123). -/
def Vec.usesB (v : Vec) : Bool :=
  [0x01, 0x02, 0x03, 0x04, 0x05, 0x06, 0x10, 0x11, 0x18, 0x19, 0x1A, 0x1C, 0x1D, 0x1E, 0x21].contains v.opc || v.carries
def Vec.usesC (v : Vec) : Bool := v.opc == 0x04 || v.opc == 0x11 || v.carries

/-- A floating-point type of R123, and an integer one. -/
def isFP (t : Nat) : Bool := decide (t ≤ 2)
def isInt (t : Nat) : Bool := t == 3 || t == 4

/-- DT and OT are allowed for the operation (R123, R132); a reserved OPC allows none. -/
def Vec.typesOk (v : Vec) : Bool :=
  let same := v.ot == v.dt
  match v.opc with
  | 0x01 | 0x02 | 0x03 | 0x05 | 0x06 | 0x41 | 0x42 | 0x60 | 0x61 | 0x62 | 0x63 => (isFP v.dt || isInt v.dt) && same
  | 0x04 | 0x30 | 0x31 | 0x32 | 0x33 | 0x34 | 0x35 | 0x36 | 0x37 | 0x64 => isFP v.dt && same
  | 0x07 | 0x08 => (isFP v.dt || v.dt == 3) && same
  | 0x10 => (isFP v.dt || isInt v.dt) && v.ot == 4
  | 0x11 | 0x24 => same
  | 0x18 | 0x19 | 0x1A | 0x1B | 0x1C | 0x1D => isInt v.dt && same
  | 0x1E => v.dt == 3 && same
  | 0x1F => isInt v.dt && v.ot == 4
  | 0x20 => v.dt != 2 && v.ot != 2
  | 0x21 => v.dt == 0 && v.ot == 2
  | 0x22 | 0x23 => v.dt == 2 && v.ot == 0
  | 0x40 => (isFP v.dt || isInt v.dt || v.dt == 5) && same
  | 0x43 => (isFP v.dt && decide (v.ot ≤ 1)) || ((v.dt == 3 || v.dt == 5) && v.ot == 3) || (v.dt == 4 && v.ot == 4)
  | 0x50 | 0x52 => v.dt != 2 && same
  | 0x51 => v.dt != 2 && v.ot == 4
  | _ => false

/-- Modes allowed for the roles (R115, R121, R128, R132, R134 to R137). -/
def Vec.modesOk (v : Vec) : Bool :=
  let src := fun (o : Opnd) => decide (o.mode ≤ 5)
  let zero := fun (o : Opnd) => o.t == 0 && o.row == 0 && o.col == 0 && o.mode == 0
  (if v.isFin then (if v.axis = 0 then v.a.mode == 1 && v.d.mode == 1 else decide (v.a.mode ≤ 1))
   else if v.isExpd then v.a.mode == 1 else src v.a) &&
  (if v.usesB then src v.b else zero v.b) &&
  (if !v.usesC then zero v.c
   else if v.isCmpr || v.isExpd then v.c.mode == 4
   else if v.carries then (if v.axis = 0 then v.c.mode == 4 else v.c.mode == 2 || v.c.mode == 3)
   else src v.c) &&
  (if v.isCmpr || (v.isRed && v.axis == 0) then v.d.mode == 1 else true) &&
  !((v.isCmpr || v.isExpd) && v.axis == 1)

/-- The FIELD conditions of R121. -/
def vecField (x : Desc) (v : Vec) : Bool :=
  x.chainRsvd || strayBits (x.word 1) [(0, 23), (24, 25)] || strayBits (x.word 2) [(0, 25), (32, 25)] || strayBits (x.word 4) [(0, 48)] ||
  strayBits (x.word 5) [(0, 32)] || !v.typesOk || !v.modesOk || v.rnd == 3 ||
  !(v.cond == 0 || v.opc == 0x10 || (v.isFin && decide (v.cond ≤ 2))) ||
  (!v.hasState && (v.rstm != 0 || v.rlv != 0)) || (v.rstm == 3 && (x.index v.rlv).isNone)

/-! ## Regions -/

/-- A rectangle of virtual positions from a base tile. -/
structure Rect where
  t : Nat
  row : Nat
  rows : Nat
  col : Nat
  cols : Nat
deriving DecidableEq, Repr

/-- It lies in rows 0 to 127 and tiles up to T15 (R117). -/
def Rect.ok (r : Rect) : Bool :=
  r.rows == 0 || r.cols == 0 || (decide (r.row + r.rows ≤ 128) && decide (r.t + (r.col + r.cols - 1) / 128 ≤ 15))

/-- The tiles it touches. -/
def Rect.tiles (r : Rect) : List Nat :=
  if r.rows = 0 ∨ r.cols = 0 then []
  else (List.range ((r.col + r.cols - 1) / 128 + 1 - r.col / 128)).map fun k => r.t + r.col / 128 + k

/-- The region of an operand over `nr` rows and `vl` lane positions (R115). -/
def Opnd.rect (o : Opnd) (eo nr vl : Nat) : Rect :=
  match o.mode with
  | 0 => ⟨o.t, o.row, nr, o.col + eo, vl⟩
  | 1 => ⟨o.t, o.row, nr, o.col, vl⟩
  | 2 => ⟨o.t, o.row, 1, o.col + eo, vl⟩
  | 3 => ⟨o.t, o.row, 1, o.col, vl⟩
  | 4 => ⟨o.t, o.row, if vl = 0 then 0 else nr, o.col, 1⟩
  | _ => ⟨o.t, o.row, 0, o.col, 0⟩

/-- Elements a lane position holds: 2 under BF16P. -/
def Vec.elems (v : Vec) : Nat := if v.dt = 2 then 2 else 1

/-- Column of element p × j + h of a lane vector kept by an operand (R128): modes 0 and 2 advance with EO. -/
def Vec.laneCol (v : Vec) (o : Opnd) (j h : Nat) : Nat :=
  o.col + (if o.mode = 0 ∨ o.mode = 2 then v.elems * v.eo else 0) + v.elems * j + h

/-- The region of a reduction state (R128). -/
def Vec.stateRect (v : Vec) (o : Opnd) : Rect :=
  if v.axis = 0 then ⟨o.t, o.row, v.nr, o.col, 64⟩ else ⟨o.t, o.row, 64, v.laneCol o 0 0, v.elems * v.vl⟩

/-- The positional limits of a state (R117). -/
def Vec.stateOk (v : Vec) (o : Opnd) : Bool := if v.axis = 0 then decide (o.col % 128 ≤ 64) else decide (o.row ≤ 64)

/-- The region of a carry or count (R134, R136). -/
def Vec.carryRect (v : Vec) : Rect :=
  if v.axis = 0 then ⟨v.c.t, v.c.row, v.nr, v.c.col, 1⟩ else ⟨v.c.t, v.c.row, 1, v.laneCol v.c 0 0, v.elems * v.vl⟩

/-- The count of row i that compress and expand start from (R134). -/
def Vec.count (v : Vec) (k : Core) (i : Nat) : Nat := if v.rst then 0 else (k.vword v.c.t (v.c.row + i) v.c.col).toNat

/-- Regions that depend on the counts: D of CMPR and CMPRI, A of EXPD (R134, R135). -/
def Vec.dynRects (v : Vec) (k : Core) (o : Opnd) : List Rect :=
  (List.range v.nr).map fun i => ⟨o.t, o.row + i, 1, o.col + v.count k i, v.vl⟩

/-- Regions read that do not depend on the counts. A state, carry or count is not read when RST holds (R129, R134). -/
def Vec.readRects (v : Vec) : List Rect :=
  let src := fun (o : Opnd) => o.rect v.eo v.nr v.vl
  (if v.isFin then [v.stateRect v.a] else if v.isExpd then [] else [src v.a]) ++
  (if v.usesB then [src v.b] else []) ++
  (if v.carries then (if v.rst then [] else [v.carryRect]) else if v.usesC then [src v.c] else []) ++
  (if v.isRed && !v.rst then [v.stateRect v.d] else [])

/-- Regions written that do not depend on the counts. -/
def Vec.writeRects (v : Vec) : List Rect :=
  (if v.isRed then [v.stateRect v.d]
   else if v.isFin then [if v.axis = 0 then ⟨v.d.t, v.d.row, v.nr, v.d.col, 1⟩ else ⟨v.d.t, v.d.row, 1, v.laneCol v.d 0 0, v.elems * v.vl⟩]
   else if v.isCmpr then [] else [v.d.rect v.eo v.nr v.vl]) ++
  (if v.carries then [v.carryRect] else [])

/-- RANGE by the positions that the latched EO and VL give (R117). -/
def Vec.range (v : Vec) : Bool :=
  !((v.readRects ++ v.writeRects).all Rect.ok) || (v.isRed && !v.stateOk v.d) || (v.isFin && !v.stateOk v.a)

/-- RANGE by the counts (R134, R135). -/
def Vec.dynRange (v : Vec) (k : Core) : Bool :=
  (v.isCmpr && !((v.dynRects k v.d).all Rect.ok)) || (v.isExpd && !((v.dynRects k v.a).all Rect.ok))

/-- The code of a validation that reads nothing. -/
def vecCode (x : Desc) (v : Vec) : Nat := if vecField x v then 4 else if v.range then 5 else 0

/-- Tiles read, and tiles written (R118). -/
def Vec.reads (v : Vec) (k : Core) : List Nat :=
  dedup ((v.readRects ++ (if v.isExpd then v.dynRects k v.a else [])).flatMap Rect.tiles) []
def Vec.writes (v : Vec) (k : Core) : List Nat :=
  dedup ((v.writeRects ++ (if v.isCmpr then v.dynRects k v.d else [])).flatMap Rect.tiles) []

/-- The tiles a descriptor holds (R118). -/
def Vec.tiles (v : Vec) (k : Core) : List (Nat × Bool) :=
  (v.writes k).map (·, true) ++ ((v.reads k).filter fun t => !(v.writes k).contains t).map (·, false)

/-! ## Operand words -/

/-- IMM as an operand of the type (R116). -/
def scalarWord (dt imm : Nat) : Word :=
  match dt with
  | 1 => BitVec.ofNat 32 (imm % 65536)
  | 2 => BitVec.ofNat 32 (imm % 65536 * 65537)
  | 5 => BitVec.ofNat 32 (imm % 256)
  | 6 => BitVec.ofNat 32 (imm % 256)
  | 7 => BitVec.ofNat 32 (imm % 256)
  | _ => BitVec.ofNat 32 imm

/-- Position of element (i, j) of an operand: row and absolute virtual column (R115). -/
def Vec.pos (v : Vec) (o : Opnd) (i j : Nat) : Nat × Nat :=
  let p := o.at v.eo i j
  (p.1, 128 * o.t + p.2)

/-- Word at a position. -/
def Core.posWord (k : Core) (p : Nat × Nat) : Word := k.tile (p.2 / 128) p.1 (p.2 % 128)

/-- Source word of element (i, j). -/
def Vec.src (v : Vec) (k : Core) (o : Opnd) (i j : Nat) : Word :=
  if o.mode = 5 then scalarWord v.dt v.imm else k.posWord (v.pos o i j)

/-- The bits a copy of an element writes (R122). -/
def heldWord (ty : Nat) (w : Word) : Word :=
  match ty with
  | 1 => w &&& 0xFFFF
  | 5 => BitVec.ofInt 32 (sx 8 w.toNat)
  | 6 => w &&& 0xFF
  | 7 => w &&& 0xFF
  | _ => w

/-- Half `h` of a packed word. -/
def halfOf (w : Word) (h : Nat) : Nat := if h = 0 then w.toNat % 65536 else w.toNat / 65536

/-- A mask is true (R124): under BF16P bit 0 or 16. -/
def maskTrue (dt h : Nat) (w : Word) : Bool := if dt = 2 then bitAt w.toNat (16 * h) else w != 0

/-! ## Elementwise results -/

/-- Less than a decimal n ÷ 10^d (R127's edges). -/
def Num.ltDec (x : Num) (n : Int) (d : Nat) : Bool := (x.mul (Num.ofInt (10 ^ d) 0)).lt (Num.ofInt n 0)

/-- n ÷ 10^d at or below x. -/
def Num.geDec (x : Num) (n : Int) (d : Nat) : Bool := !x.isNan && !x.ltDec n d

def posInf : Word := 0x7F800000
def negInf : Word := 0xFF800000
def nan32 : Word := 0x7FC00000
def unit32 (g : Bool) : Word := if g then 0xBF800000 else 0x3F800000

/-- The FP32 transcendentals (R127): the defined edges, and a free choice within the error between them. 1 ÷ √(+∞) is read as +0. -/
def trans (opc : Nat) (w : Word) : Word :=
  let x := f32 w
  let near := fun n choice => nearFree n choice (transExact opc x)
  if x.isNan then nan32
  else match opc with
    | 0x30 => if (Num.ofInt 88722839 0).lt (x.mul (Num.ofInt 1000000 0)) then posInf else if x.ltDec (-10397208) 5 then 0 else near 2 (Config.veExp w)
    | 0x31 => if x.isZero then negInf else if x.sign then nan32 else if x.isInf then posInf else near 2 (Config.veLog w)
    | 0x32 => if x.isZero then (if x.sign then negInf else posInf) else if x.sign then nan32 else if x.isInf then 0 else near 1 (Config.veRsqrt w)
    | 0x33 => if x.abs.geDec 9011 3 then unit32 x.sign else near 2 (Config.veTanh w)
    | 0x34 => if x.geDec 1733 2 then unit32 false else if !(Num.ofInt (-10328) 0).lt (x.mul (Num.ofInt 100 0)) then 0 else near 2 (Config.veSigm w)
    | 0x35 => if x.abs.geDec 392 2 then unit32 x.sign else near 3 (Config.veErf w)
    | _ => if x.isZero then (if x.sign then negInf else posInf) else if x.isInf then (if x.sign then 0x80000000 else 0) else near 1 (Config.veRcp w)

/-- A transcendental set SATURATED: a finite operand, not a division by zero or the logarithm of zero, gave an infinity (R143). -/
def transSat (w r : Word) : Bool :=
  let x := f32 w
  !x.isNan && !x.isInf && !x.isZero && (f32 r).isInf

/-- The exact value of an FP operation on exact operands (R123, R126). -/
def fpExact (opc : Nat) (a b c : Num) : Num :=
  match opc with
  | 0x01 => a.add b
  | 0x02 => a.add b.neg
  | 0x03 => a.mul b
  | 0x04 => (a.mul b).add c
  | 0x05 => a.min b
  | 0x06 => a.max b
  | 0x07 => a.abs
  | 0x08 => a.neg
  | 0x37 => a.sqrt
  | _ => a

/-- A comparison holds (R124). -/
def cmpHolds (cond : Nat) (a b : Num) : Bool :=
  let u := a.isNan || b.isNan
  match cond with
  | 0 => !u && !a.lt b && !b.lt a
  | 1 => u || a.lt b || b.lt a
  | 2 => a.lt b
  | 3 => !u && !b.lt a
  | 4 => b.lt a
  | 5 => !u && !a.lt b
  | 6 => u
  | _ => !u

/-- One FP element: the code in OT and SATURATED. `h` is the half under BF16P. -/
def fpElem (v : Vec) (u h : Nat) (a b c : Word) : Nat × Bool :=
  let x := veNum v.dt h a
  if 0x30 ≤ v.opc ∧ v.opc ≤ 0x36 then
    let w := toF32 x
    let r := trans v.opc w
    if v.ot = 0 then (r.toNat, transSat w r)
    else
      let z := bf16.round v.rnd u (f32 r)
      (z.1, transSat w r || z.2)
  else veRound v.ot v.rnd u (fpExact v.opc x (veNum v.dt h b) (veNum v.dt h c))

/-- An exact integer result, free where it does not fit the type. -/
def intFit (opc dt : Nat) (a b : Word) (r : Int) : Word :=
  let ok := if dt = 3 then decide (-(2 ^ 31) ≤ r) && decide (r < 2 ^ 31) else decide (0 ≤ r) && decide (r < 2 ^ 32)
  if ok then BitVec.ofInt 32 r else Config.intOverflow opc dt a b

/-- Value of an integer word. -/
def intVal (dt : Nat) (w : Word) : Int := if dt = 4 then (w.toNat : Int) else w.toInt

/-- Count of set bits. -/
def popcount (w : Word) : Nat := ((List.range 32).filter fun i => bitAt w.toNat i).length

/-- Integer operations and bit operations (R123). -/
def intElem (opc dt : Nat) (a b : Word) : Word :=
  let x := intVal dt a
  let y := intVal dt b
  let n := b.toNat % 32
  match opc with
  | 0x01 => intFit opc dt a b (x + y)
  | 0x02 => intFit opc dt a b (x - y)
  | 0x03 => BitVec.ofInt 32 (x * y)
  | 0x05 => if x ≤ y then a else b
  | 0x06 => if x ≤ y then b else a
  | 0x07 => intFit opc dt a a (x.natAbs : Int)
  | 0x08 => intFit opc dt a a (-x)
  | 0x18 => a &&& b
  | 0x19 => a ||| b
  | 0x1A => a ^^^ b
  | 0x1B => ~~~a
  | 0x1C => a <<< n
  | 0x1D => a >>> n
  | 0x1E => a.sshiftRight n
  | _ => BitVec.ofNat 32 (popcount a)

/-- Element results of a word: two halves under BF16P. -/
def perHalf (dt : Nat) (f : Nat → Nat × Bool) : Word × Bool :=
  let lo := f 0
  if dt = 2 then
    let hi := f 1
    (BitVec.ofNat 32 (lo.1 % 65536 + 65536 * (hi.1 % 65536)), lo.2 || hi.2)
  else (BitVec.ofNat 32 lo.1, lo.2)

/-- The result word of element (i, j) from its operand words and its draws (R123 to R127), and SATURATED. -/
def vecElem (v : Vec) (draw : Nat → Nat) (a b c : Word) : Word × Bool :=
  match v.opc with
  | 0x10 => perHalf v.dt fun h => (b2n (cmpHolds v.cond (veNum v.dt h a) (veNum v.dt h b)), false)
  | 0x11 =>
    if v.dt = 2 then perHalf 2 fun h => (if maskTrue 2 h b then halfOf a h else halfOf c h, false)
    else (heldWord v.dt (if maskTrue v.dt 0 b then a else c), false)
  | 0x24 => (heldWord v.dt a, false)
  | 0x20 =>
    let r := veRound v.ot v.rnd (draw 0) (veNum v.dt 0 a)
    (BitVec.ofNat 32 r.1, r.2)
  | 0x21 =>
    let lo := bf16.round v.rnd (draw 0) (f32 a)
    let hi := bf16.round v.rnd (draw 1) (f32 b)
    (BitVec.ofNat 32 (lo.1 + 65536 * hi.1), lo.2 || hi.2)
  | 0x22 => (toF32 (veNum 2 0 a), false)
  | 0x23 => (toF32 (veNum 2 1 a), false)
  | opc =>
    if isFP v.dt then perHalf v.dt fun h => fpElem v (draw h) h a b c
    else (intElem opc v.dt a b, false)

/-- Elements per word in the logical index: two where DT or OT is packed (R126). -/
def Vec.packed (v : Vec) : Bool := v.dt == 2 || v.ot == 2

/-- The draw of element (i, j), half h (R126, R161). -/
def Vec.draw (v : Vec) (s : State) (i j h : Nat) : Nat :=
  if v.rnd = 2 then
    let p := if v.packed then 2 * (v.eo + j) + h else v.eo + j
    srDraw (launchKey s 0) (m64 (v.idx0 + i * v.ipitch + p)) v.srsid
  else 0

/-! ## Outputs -/

/-- One word a descriptor writes: the element it belongs to, its row and absolute virtual column, whether a residue covers it. -/
structure VOut where
  i : Nat
  j : Nat
  pos : Nat × Nat
  w : Word
  cov : Bool
deriving DecidableEq, Repr

/-- The region's elements in ascending i, then j. -/
def Vec.grid (v : Vec) : List (Nat × Nat) := (List.range v.nr).flatMap fun i => (List.range v.vl).map fun j => (i, j)

/-- Residue coverage of an elementwise operation (R138). -/
def Vec.residue (v : Vec) : Bool :=
  (isInt v.dt && [0x01, 0x02, 0x03, 0x05, 0x06, 0x07, 0x08, 0x10, 0x60, 0x61, 0x62, 0x63].contains v.opc) ||
  (v.opc == 0x20 && decide (3 ≤ v.dt) && decide (v.dt ≤ 5) && decide (3 ≤ v.ot) && decide (v.ot ≤ 5)) || v.isRed || v.isCmpr || v.isExpd

/-- Outputs of an elementwise descriptor, and SATURATED. -/
def elemOuts (s : State) (k : Core) (v : Vec) : List VOut × Bool :=
  let r := v.grid.map fun p =>
    let x := vecElem v (v.draw s p.1 p.2) (v.src k v.a p.1 p.2) (if v.usesB then v.src k v.b p.1 p.2 else 0)
      (if v.usesC then v.src k v.c p.1 p.2 else 0)
    (({ i := p.1, j := p.2, pos := v.pos v.d p.1 p.2, w := x.1, cov := v.residue } : VOut), x.2)
  (r.map (·.1), r.any (·.2))

end Sys2Proof.Machine
end

