-- ==== Sys2Proof/Machine/Mover.lean ====
section
/-! DEFINITION. The data mover's descriptors (R249 to R251), their validation (R260, R261), the rows they move (R252 to R256), format
conversion, ACCUM, tallies and poison (R257 to R259, R163, R164, R155), and what a local MOVE does (R264, R265). -/

namespace Sys2Proof.Machine

/-! ## The descriptor -/

/-- The fields of a MOVE descriptor with the advances of R250 applied. -/
structure Mo where
  kind : Nat
  sfmt : Nat
  dfmt : Nat
  rnd : Nat
  accum : Bool
  ten : Bool
  tsrc : Bool
  ta : Nat
  ssp : Bool
  dsp : Bool
  half : Bool
  rdet : Bool
  intout : Bool
  saddr : Int
  daddr : Int
  n0 : Nat
  n1 : Nat
  n2 : Nat
  n3 : Nat
  sstr : List Int
  dstr : List Int
  idx0 : Nat
  lv : Nat
  aen : Bool
  lp : List Nat
  srsid : Nat
  ssaddr : Int
  dsaddr : Int
  dscale : Nat
  istr : Nat
  dadv : Int
  iofs : Nat
  win : Nat
  rdev : Nat
  rep : Nat
deriving DecidableEq, Repr

/-- Formats of R251 that are MX. -/
def isMx (f : Nat) : Bool := f == 6 || f == 7 || f == 8

/-- Nibbles of an element (R251). -/
def nibs (f : Nat) : Nat :=
  match f with
  | 4 => 4
  | 5 => 8
  | 8 => 1
  | 9 => 32
  | 10 => 16
  | _ => 2

/-- Bytes of `n` elements. -/
def fmtBytes (f n : Nat) : Nat := (nibs f * n + 1) / 2

def moOf (d : Desc) : Mo :=
  let w := d.word
  let aen := bitAt (w 7) 50
  let lv := fld (w 7) 48 2
  let b : Int := if aen then (((d.index lv).getD 0 : Nat) : Int) else 0
  let istr := fld (w 12) 32 32
  let dadv := sx 32 (fld (w 14) 32 32)
  let kind := fld (w 0) 28 4
  { kind := kind, sfmt := fld (w 0) 24 4, dfmt := fld (w 0) 20 4, rnd := fld (w 0) 18 2, accum := bitAt (w 0) 17, ten := bitAt (w 0) 16,
    tsrc := bitAt (w 0) 15, ta := fld (w 0) 12 3, ssp := bitAt (w 0) 11, dsp := bitAt (w 0) 10, half := bitAt (w 0) 9, rdet := bitAt (w 0) 8,
    intout := bitAt (w 0) 7, saddr := (fld (w 1) 0 48 : Int) + sx 32 (fld (w 14) 0 32) * b, daddr := (fld (w 2) 0 48 : Int) + dadv * b,
    n0 := fld (w 3) 0 16, n1 := fld (w 3) 16 16, n2 := fld (w 3) 32 16, n3 := fld (w 3) 48 16,
    sstr := [sx 32 (fld (w 4) 0 32), sx 32 (fld (w 4) 32 32), sx 32 (fld (w 5) 0 32)],
    dstr := [sx 32 (fld (w 5) 32 32), sx 32 (fld (w 6) 0 32), sx 32 (fld (w 6) 32 32)],
    idx0 := m64 (fld (w 7) 0 48 + istr * b.toNat), lv := lv, aen := aen, lp := [fld (w 8) 0 32, fld (w 8) 32 32, fld (w 9) 0 32],
    srsid := fld (w 9) 32 32, ssaddr := (fld (w 10) 0 48 : Int) + (istr * b) / 32,
    dsaddr := (fld (w 11) 0 48 : Int) + (if kind = 3 then dadv * b / 16 else istr * b / 32), dscale := fld (w 12) 0 32, istr := istr,
    dadv := dadv, iofs := fld (w 13) 0 23, win := fld (w 13) 24 12, rdev := fld (w 13) 36 12, rep := fld (w 13) 48 8 }

def Mo.remote (f : Mo) : Bool := decide (4 ≤ f.kind)
def Mo.empty (f : Mo) : Bool := f.n0 == 0 || f.n1 == 0 || f.n2 == 0 || f.n3 == 0

/-- The legal pairs of R251. -/
def pairOk (s d : Nat) : Bool :=
  (s == d && decide (s ≤ 10)) ||
  (match s with
    | 5 => [4, 2, 3, 6, 7, 8].contains d
    | 4 => [2, 3, 6, 7, 8, 5].contains d
    | 1 => d == 4 || d == 5
    | 2 => d == 4 || d == 5
    | 3 => d == 4 || d == 5
    | 6 => d == 4 || d == 5
    | 7 => d == 4 || d == 5
    | 8 => d == 4 || d == 5
    | 9 => [5, 4, 2, 3].contains d
    | _ => false)

/-- Elements per step of a panel (R255); none for a format that a panel does not take. -/
def panelKpc (d : Nat) : Option Nat :=
  match d with
  | 1 => some 2
  | 2 => some 2
  | 3 => some 2
  | 4 => some 1
  | 8 => some 4
  | _ => none

/-- A tile address outside the fields of R250, a format that tiles do not hold, or an extent that R254 forbids. -/
def tileBad (f : Mo) (fmt : Nat) (a : Int) : Bool :=
  fmt == 0 || isMx fmt || fmt == 10 || f.n2 != 1 || f.n3 != 1 || decide (a < 0) || decide (2 ^ 22 ≤ a) ||
  (fmt == 9 && decide (128 < fld a.toNat 11 11 + f.n0))

/-- FIELD of R261, with R250, R253 to R257 and R262. -/
def moField (d : Desc) (f : Mo) : Bool :=
  let mxUsed := isMx f.sfmt || (isMx f.dfmt && f.kind != 3)
  d.chainRsvd || fld (d.word 0) 0 7 != 0 || strayBits (d.word 1) [(0, 48)] || strayBits (d.word 2) [(0, 48)] ||
  strayBits (d.word 7) [(0, 51)] || strayBits (d.word 10) [(0, 48)] || strayBits (d.word 11) [(0, 48)] ||
  strayBits (d.word 13) [(0, 23), (24, 32)] || decide (6 < f.kind) || f.rnd == 3 || !pairOk f.sfmt f.dfmt ||
  (!f.remote && (f.rdet || f.win != 0 || f.rdev != 0 || f.rep != 0)) || (f.kind != 1 && f.kind != 2 && f.iofs != 0) ||
  (f.half && f.kind != 3) ||
  (f.intout && (f.sfmt != 9 || f.dfmt != 5 || f.dscale != 0x3F800000 || f.accum)) ||
  (f.accum && (!(f.dfmt == 5 || f.dfmt == 9) || f.dsp || f.kind == 3 || decide (5 ≤ f.kind))) ||
  d.badLevel f.aen f.lv || (f.sfmt == 9 && !finite32 f.dscale) ||
  (f.aen && mxUsed && f.istr % 32 != 0) || (f.aen && f.kind == 3 && f.dfmt == 8 && f.dadv % (if f.half then 1024 else 2048) != 0) ||
  (f.kind != 0 && (f.n2 != 1 || f.n3 != 1)) || (f.remote && (f.n1 != 1 || f.ssp || f.dsp)) ||
  (f.ssp && tileBad f f.sfmt f.saddr) || (f.dsp && tileBad f f.dfmt f.daddr) ||
  (f.kind == 3 && (f.dsp || (panelKpc f.dfmt).isNone || decide ((if f.half then 64 else 128) < f.n1))) ||
  (mxUsed && (f.n0 % 32 != 0 || f.lp.any fun p => p % 32 != 0))
where
  finite32 (v : Nat) : Bool := match fp32.decode v with
    | .fin _ _ _ => true
    | _ => false

/-! ## Rows -/

/-- Where one row of a side lies: a chip address, or a tile position; an address may lie below zero, which no place has. -/
inductive Loc
  | mem (a : Int)
  | tile (t row col : Nat)
deriving DecidableEq, Repr

/-- One row: the logical index of its first element, its two sides, the scale addresses. A skipped GATHER row has no source. -/
structure MRow where
  lbase : Nat
  src : Option Loc
  dst : Option Loc
  sscale : Int
  dscale : Int
deriving DecidableEq, Repr

/-- A side's row (r1, i2, i3) (R252, R254). -/
def sideLoc (sp : Bool) (a : Int) (str : List Int) (r1 i2 i3 : Nat) : Loc :=
  if sp then .tile (fld a.toNat 0 4) (fld a.toNat 4 7 + r1) (fld a.toNat 11 11)
  else .mem (a + r1 * str.getD 0 0 + i2 * str.getD 1 0 + i3 * str.getD 2 0)

/-- The scale address of a row by its logical position (R253). -/
def scaleLoc (a : Int) (lp : List Nat) (r1 i2 i3 : Nat) : Int :=
  a + ((r1 * lp.getD 0 0 + i2 * lp.getD 1 0 + i3 * lp.getD 2 0) / 32 : Nat)

/-- Index that means skip (R256). -/
def skipIdx : Nat := 0xFFFFFFFF

/-- The index list of GATHER and SCATTER (R256). -/
def moIndices (s : State) (c : Nat) (f : Mo) : List Nat :=
  if f.kind = 1 ∨ f.kind = 2 then
    let b := readBytes s (storeAddr c f.iofs) (4 * f.n1)
    (List.range f.n1).map fun j => numAt b (4 * j) 4
  else []

/-- The rows of a MOVE in order (R252, R256). -/
def moRows (f : Mo) (idx : List Nat) : List MRow :=
  (List.range f.n3).flatMap fun i3 => (List.range f.n2).flatMap fun i2 => (List.range f.n1).flatMap fun i1 =>
    let rs := if f.kind = 1 then idx.getD i1 skipIdx else i1
    let rd := if f.kind = 2 then idx.getD i1 skipIdx else i1
    if f.kind = 2 ∧ rd = skipIdx then []
    else [{ lbase := m64 (f.idx0 + i1 * f.lp.getD 0 0 + i2 * f.lp.getD 1 0 + i3 * f.lp.getD 2 0),
            src := if f.kind = 4 ∨ (f.kind = 1 ∧ rs = skipIdx) then none else some (sideLoc f.ssp f.saddr f.sstr rs i2 i3),
            dst := if f.kind = 3 ∨ 5 ≤ f.kind then none else some (sideLoc f.dsp f.daddr f.dstr rd i2 i3),
            sscale := scaleLoc f.ssaddr f.lp rs i2 i3, dscale := scaleLoc f.dsaddr f.lp rd i2 i3 }]

/-- A run of bytes at present addresses that core `c` reaches, aligned (R229, R230, R252). -/
def runOk (s : State) (c : Nat) (a : Int) (n align : Nat) : Bool :=
  decide (0 ≤ a) && a.toNat % align == 0 && (memSpan s a.toNat n || regSpan s a.toNat n) && spanReach s (dieOf s c) a.toNat n

/-- A side's row lies where it may. -/
def locOk (s : State) (c fmt n0 : Nat) : Loc → Bool
  | .mem a => runOk s c a (fmtBytes fmt n0) (max 1 (nibs fmt / 2))
  | .tile t row col => decide (row ≤ 127) && (if fmt = 9 then decide (t + 3 ≤ 15) else decide (t + (col + n0 - 1) / 128 ≤ 15))

/-- Bytes of a whole panel, its step, and its scales (R79, R255). -/
def Mo.panelRows (f : Mo) : Nat := if f.half then 64 else 128
def Mo.panelStep (f : Mo) : Nat := f.panelRows * (panelKpc f.dfmt).getD 1 * nibs f.dfmt / 2
def Mo.panelLen (f : Mo) : Nat := f.panelStep * cdiv f.n0 ((panelKpc f.dfmt).getD 1)
def Mo.panelScales (f : Mo) : Nat := if f.dfmt = 8 then f.panelRows * cdiv f.n0 32 else 0

/-- The format of the lines a remote kind moves: RREAD converts on arrival, the others before sending (R262). -/
def Mo.lineFmt (f : Mo) : Nat := if f.kind = 4 then f.sfmt else f.dfmt
/-- Lines of a remote MOVE, and its first line in the window. -/
def Mo.lines (f : Mo) : Nat := fmtBytes f.lineFmt f.n0 / 128
def Mo.winOfs (f : Mo) : Int := if f.kind = 4 then f.saddr else f.daddr

/-- RANGE of R261. -/
def moRange (s : State) (c : Nat) (f : Mo) : Bool :=
  let listOk := if f.kind = 1 ∨ f.kind = 2 then f.iofs % 4 == 0 && decide (f.iofs + 4 * f.n1 ≤ storeSize) else true
  !listOk ||
  (moRows f (moIndices s c f)).any (fun r =>
    (match r.src with
      | some l => !locOk s c f.sfmt f.n0 l
      | none => false) ||
    (match r.dst with
      | some l => !locOk s c f.dfmt f.n0 l
      | none => false) ||
    (isMx f.sfmt && (r.src.isSome || f.kind == 4) && !runOk s c r.sscale (f.n0 / 32) 1) || (isMx f.dfmt && f.kind != 3 && !runOk s c r.dscale (f.n0 / 32) 1)) ||
  (f.kind == 3 && !(runOk s c f.daddr f.panelLen 256 && (f.dfmt != 8 || runOk s c f.dsaddr f.panelScales 128))) ||
  (f.remote && (fmtBytes f.lineFmt f.n0 % 128 != 0 || nibs f.lineFmt * f.n0 % 256 != 0 || decide (f.winOfs < 0) || decide (2 ^ 35 ≤ f.winOfs) || f.winOfs % 128 != 0))

/-- The validation's code (R260, R261). -/
def moCode (s : State) (c : Nat) (d : Desc) (f : Mo) : Nat :=
  if moField d f then 4 else if f.empty then 0 else if moRange s c f then 5 else 0

/-! ## What a MOVE touches -/

def locSpan (fmt n0 : Nat) : Option Loc → List (Nat × Nat)
  | some (.mem a) => [(a.toNat, fmtBytes fmt n0)]
  | _ => []

def locTiles (fmt n0 : Nat) : Option Loc → List Nat
  | some (.tile t _ col) => if fmt = 9 then [t, t + 1, t + 2, t + 3] else (List.range ((col + n0 - 1) / 128 + 1)).map (t + ·)
  | _ => []

/-- Byte ranges read: rows, source scales, the index list. -/
def srcSpans (c : Nat) (f : Mo) (rows : List MRow) : List (Nat × Nat) :=
  (if f.kind = 1 ∨ f.kind = 2 then [(storeAddr c f.iofs, 4 * f.n1)] else []) ++
  rows.flatMap fun r => locSpan f.sfmt f.n0 r.src ++
    (if isMx f.sfmt && (r.src.isSome || f.kind == 4) then [(r.sscale.toNat, f.n0 / 32)] else [])

/-- Byte ranges written. -/
def dstSpans (f : Mo) (rows : List MRow) : List (Nat × Nat) :=
  if f.kind = 3 then (f.daddr.toNat, f.panelLen) :: (if f.dfmt = 8 then [(f.dsaddr.toNat, f.panelScales)] else [])
  else rows.flatMap fun r => locSpan f.dfmt f.n0 r.dst ++ (if isMx f.dfmt then [(r.dscale.toNat, f.n0 / 32)] else [])

/-- Ranges in memory, as spans to race with. -/
def spansOf (s : State) (wr : Bool) (l : List (Nat × Nat)) : List Span :=
  (l.filter fun x => (place s x.1).isMem).map fun x => { lo := x.1, len := x.2, wr := wr }

/-- Tiles held (R53). -/
def moTiles (f : Mo) (rows : List MRow) : List (Nat × Bool) :=
  let w := dedup (rows.flatMap fun r => locTiles f.dfmt f.n0 r.dst) []
  let r := (dedup (rows.flatMap fun r => locTiles f.sfmt f.n0 r.src) []).filter fun t => !w.contains t
  w.map (·, true) ++ r.map (·, false)

/-! ## Elements -/

/-- The element codes of packed bytes. -/
def splitCodes (fmt n : Nat) (bs : List Byte) : List Nat :=
  if fmt = 8 then (List.range n).map (nibAt bs)
  else
    let b := nibs fmt / 2
    (List.range n).map fun i => numAt bs (b * i) b

/-- Bytes of element codes. -/
def joinCodes (fmt : Nat) (xs : List Nat) : List Byte :=
  if fmt = 8 then (List.range ((xs.length + 1) / 2)).map fun i => BitVec.ofNat 8 (xs.getD (2 * i) 0 + 16 * xs.getD (2 * i + 1) 0)
  else xs.flatMap fun x => leBytes (nibs fmt / 2) x

/-- The tile words of a row's elements (R254): tile, row, column, by element and word. -/
def tileWords (fmt n0 t row col : Nat) : List (Nat × Nat × Nat) :=
  (List.range n0).flatMap fun i =>
    if fmt = 9 then (List.range 4).map fun w => (t + w, row, col + i) else [(t + (col + i) / 128, row, (col + i) % 128)]

/-- Codes of a tile row. -/
def tileCodes (k : Core) (fmt n0 t row col : Nat) : List Nat :=
  (List.range n0).map fun i =>
    if fmt = 9 then ((List.range 4).map fun w => (k.tile (t + w) row (col + i)).toNat * 2 ^ (32 * w)).sum
    else (k.tile (t + (col + i) / 128) row ((col + i) % 128)).toNat % 2 ^ (4 * nibs fmt)

/-- The words that hold an element in a tile (R122, R254). -/
def elemWords (fmt code : Nat) : List Word :=
  if fmt = 9 then (List.range 4).map fun w => BitVec.ofNat 32 (code / 2 ^ (32 * w))
  else if fmt = 1 then [BitVec.ofInt 32 (sx 8 code)] else [BitVec.ofNat 32 code]

/-- Bytes of a row in memory or in register blocks. -/
def rowBytes (s : State) (a n : Nat) : List Byte :=
  if (place s a).isMem then readBytes s a n else (List.range (n / 4)).flatMap fun i => leBytes 4 (regRead s false (a + 4 * i))

/-- Codes of a side's row. -/
def readRow (s : State) (c fmt n0 : Nat) : Option Loc → List Nat
  | some (.mem a) => splitCodes fmt n0 (rowBytes s a.toNat (fmtBytes fmt n0))
  | some (.tile t row col) => tileCodes (s.core c) fmt n0 t row col
  | none => List.replicate n0 0

/-- The first element of a row that comes from poisoned data: its line or its tile (R230). -/
def rowBad (s : State) (c fmt n0 : Nat) : Option Loc → Option Nat
  | some (.mem a) =>
    ((linesOf a.toNat (fmtBytes fmt n0)).find? (poisoned s)).map fun l => (128 * l - a.toNat) * 2 / nibs fmt
  | some (.tile t row col) =>
    if fmt = 9 then (if (locTiles fmt n0 (some (.tile t row col))).any (s.core c).tilePois then some 0 else none)
    else (List.range n0).find? fun i => (s.core c).tilePois (t + (col + i) / 128)
  | none => none

/-- The value of a source element (R146, R147). -/
def srcNum (fmt code scale : Nat) : Num :=
  match fmt with
  | 1 => Num.ofInt (int8 code) 0
  | 2 => e4m3.decode code
  | 3 => e5m2.decode code
  | 4 => bf16.decode code
  | 5 => fp32.decode code
  | 6 => mxElem e4m3 scale code
  | 7 => mxElem e5m2 scale code
  | _ => mxElem e2m1 scale code

/-- The format that a destination code rounds to. -/
def dstFmt (d : Nat) : Fmt :=
  match d with
  | 2 => e4m3
  | 3 => e5m2
  | 4 => bf16
  | 6 => e4m3
  | 7 => e5m2
  | 8 => e2m1
  | _ => fp32

/-- A converted row: codes, block scales, SATURATED, INEXACT, and the first poisoned element (R251). -/
structure Conv where
  codes : List Nat
  scales : List Nat := []
  sat : Bool := false
  inexact : Bool := false
  bad : Option Nat := none
deriving DecidableEq, Repr

/-- Consecutive groups of 32. -/
def blocks32 {α : Type} : Nat → List α → List (List α)
  | 0, _ => []
  | n + 1, l => if l.isEmpty then [] else l.take 32 :: blocks32 n (l.drop 32)

/-- One long partial converted (R155, R251): code, SATURATED, INEXACT, poisoned. -/
def convLong (f : Mo) (u code : Nat) : Nat × Bool × Bool × Bool :=
  match Long.ofBits code with
  | none => (0, false, false, true)
  | some l =>
    if f.intout then
      if l.domain ≠ 2 then (0, false, false, true)
      else
        let r := roundInt 32 true f.rnd u l.num
        (r.1, r.2, l.inexact, false)
    else
      let r := (dstFmt f.dfmt).round f.rnd u (l.scaled (fp32.decode f.dscale))
      (r.1, r.2, l.inexact, false)

/-- Convert a row (R251). -/
def convRow (s : State) (f : Mo) (lbase : Nat) (xs scales : List Nat) : Conv :=
  let draw := fun i => if f.rnd = 2 then srDraw (launchKey s 0) (m64 (lbase + i)) f.srsid else 0
  if f.sfmt = f.dfmt then
    { codes := xs, scales := scales, bad := if f.sfmt = 9 then xs.findIdx? fun x => (Long.ofBits x).isNone else none }
  else if isMx f.dfmt then
    let vals := xs.zipIdx.map fun x => (srcNum f.sfmt x.1 0, draw x.2)
    let bs := (blocks32 (xs.length + 1) vals).map fun b => narrowBlock (dstFmt f.dfmt) f.rnd b
    { codes := bs.flatMap fun b => b.2.1, scales := bs.map fun b => b.1, sat := bs.any fun b => b.2.2 }
  else if f.sfmt = 9 then
    let rs := xs.zipIdx.map fun x => convLong f (draw x.2) x.1
    { codes := rs.map (·.1), sat := rs.any fun r => r.2.1, inexact := rs.any fun r => r.2.2.1, bad := rs.findIdx? fun r => r.2.2.2 }
  else
    let wide := f.dfmt == 5 || f.sfmt != 5 && f.dfmt == 4
    let rs := xs.zipIdx.map fun x =>
      (dstFmt f.dfmt).round (if wide then 0 else f.rnd) (draw x.2) (srcNum f.sfmt x.1 (scales.getD (x.2 / 32) 0))
    { codes := rs.map (·.1), sat := rs.any (·.2) }

/-- The earlier of two positions, where any. -/
def firstOf : Option Nat → Option Nat → Option Nat
  | some a, some b => some (min a b)
  | some a, none => some a
  | none, b => b

/-- Combine a converted row with the destination (R257): codes, SATURATED, INEXACT, the first poisoned element. -/
def accumRow (fmt : Nat) (old new : List Nat) : List Nat × Bool × Bool × Option Nat :=
  let rs : List (Nat × Bool × Bool × Bool) := (old.zip new).map fun p =>
    if fmt = 5 then
      let r := addF32s (BitVec.ofNat 32 p.1) (BitVec.ofNat 32 p.2)
      (r.1.toNat, r.2, false, false)
    else match Long.ofBits p.1, Long.ofBits p.2 with
      | some a, some b => match a.combine b with
        | some r => (r.bits, false, r.inexact, false)
        | none => (0, false, false, true)
      | _, _ => (0, false, false, true)
  (rs.map (·.1), rs.any fun r => r.2.1, rs.any fun r => r.2.2.1, rs.findIdx? fun r => r.2.2.2)

/-- Tally of a row's elements (R187, R258). -/
def tallyRow (fmt lbase : Nat) (xs scales : List Nat) : Nat :=
  m64 ((xs.zipIdx.map fun x =>
    mix (m64 (lbase + x.2)) (if isMx fmt then x.1 + 256 * scales.getD (x.2 / 32) 0 else x.1) (fmt == 9)).sum)

/-! ## Moving -/

/-- A MOVE in progress: the state with what is written so far, the written byte ranges, the sums. -/
structure MAcc where
  st : State
  ranges : List (Nat × Nat) := []
  tally : Nat := 0
  sat : Bool := false
  inexact : Bool := false
  pois : Bool := false
  /-- register writes have stopped (R230) -/
  stop : Bool := false
  panel : List Byte := []
  pscale : List Byte := []
  /-- first byte of the panel, and of its scales, that comes from poisoned data -/
  pbad : Option Nat := none
  psbad : Option Nat := none
deriving DecidableEq, Repr

/-- Write register words up to the first poisoned element. -/
def putRegs (a : Nat) (bs : List Byte) (s : State) : State :=
  (List.range (bs.length / 4)).foldl (fun t i => regWrite (a + 4 * i) (numAt bs (4 * i) 4) t) s

/-- Write bytes to memory, or words to registers (R230). -/
def putRun (a : Nat) (bs : List Byte) (fmt : Nat) (bad : Option Nat) (m : MAcc) : MAcc :=
  if (place m.st a).isMem then { m with st := writeBytes a bs m.st, ranges := m.ranges ++ [(a, bs.length)] }
  else if m.stop then m
  else
    let n := match bad with
      | some i => i * nibs fmt / 2 / 4 * 4
      | none => bs.length
    { m with st := putRegs a (bs.take n) m.st, stop := bad.isSome }

/-- Nibble of a panel at which element `i` of row `r` stands (R79, R255). -/
def Mo.panelNib (f : Mo) (r i : Nat) : Nat :=
  let kpc := (panelKpc f.dfmt).getD 1
  2 * f.panelStep * (i / kpc) + nibs f.dfmt * (kpc * r + i % kpc)

/-- Lay one converted row into a panel, with its first poisoned element (R79, R230, R255). -/
def putPanel (f : Mo) (r : Nat) (x : Conv) (bad : Option Nat) (m : MAcc) : MAcc :=
  let nb := nibs f.dfmt
  let body := x.codes.zipIdx.foldl (fun (b : List Byte) e =>
    let q := f.panelNib r e.2
    if nb = 1 then b.set (q / 2) (b.getD (q / 2) 0 ||| BitVec.ofNat 8 (e.1 <<< (4 * (q % 2))))
    else putAt b (q / 2) (leBytes (nb / 2) e.1)) m.panel
  { m with panel := body, pbad := firstOf m.pbad (bad.map fun i => f.panelNib r i / 2), psbad := firstOf m.psbad (bad.map fun i => f.panelRows * (i / 32) + r), pscale := x.scales.zipIdx.foldl (fun (b : List Byte) e => b.set (f.panelRows * e.2 + r) (BitVec.ofNat 8 e.1)) m.pscale }

/-- A row as read and converted, with its scales as read, its codes as read, and its first poisoned element. -/
def readConv (view : State) (c : Nat) (f : Mo) (r : MRow) : List Nat × List Nat × Conv × Option Nat :=
  let sc := if isMx f.sfmt && r.src.isSome then (rowBytes view r.sscale.toNat (f.n0 / 32)).map (·.toNat) else List.replicate (f.n0 / 32) 0
  let xs := readRow view c f.sfmt f.n0 r.src
  let x0 : Conv := if r.src.isNone then { codes := List.replicate f.n0 0, scales := List.replicate (f.n0 / 32) 0 } else convRow view f r.lbase xs sc
  let scBad := isMx f.sfmt && r.src.isSome && (linesOf r.sscale.toNat (f.n0 / 32)).any (poisoned view)
  let b0 := if scBad then some 0 else firstOf (rowBad view c f.sfmt f.n0 r.src) x0.bad
  (sc, xs, x0, b0)

/-- Write one converted row: ACCUM, tally, poison (R257 to R259). -/
def putRow (c : Nat) (f : Mo) (m : MAcc) (r : MRow) (ri : Nat) (e : List Nat × List Nat × Conv × Option Nat) : MAcc :=
  let sc := e.1
  let xs := e.2.1
  let x0 := e.2.2.1
  let ac := if f.accum then accumRow f.dfmt (readRow m.st c f.dfmt f.n0 r.dst) x0.codes else (x0.codes, false, false, none)
  let b0 := firstOf e.2.2.2 ac.2.2.2
  let x : Conv := { x0 with codes := ac.1 }
  let t := if f.ten then (if f.tsrc then tallyRow f.sfmt r.lbase xs sc else tallyRow f.dfmt r.lbase x.codes x.scales) else 0
  let m1 : MAcc := { m with tally := m64 (m.tally + t), sat := m.sat || x.sat || ac.2.1, inexact := m.inexact || x.inexact || ac.2.2.1,
                            pois := m.pois || b0.isSome }
  if f.kind = 3 then putPanel f ri x b0 m1
  else
    let m2 := match r.dst with
      | some (.mem a) => putRun a.toNat (joinCodes f.dfmt x.codes) f.dfmt b0 m1
      | some (.tile t row col) =>
        let ws := (tileWords f.dfmt f.n0 t row col).zip (x.codes.flatMap (elemWords f.dfmt))
        { m1 with st := m1.st.modCore c (writeTiles (ws.map fun w => (w.1.1, w.1.2.1, w.1.2.2, w.2))) }
      | none => m1
    if isMx f.dfmt && (r.dst.isSome || decide (5 ≤ f.kind)) then
      putRun r.dscale.toNat (x.scales.map (BitVec.ofNat 8)) 0 (b0.map (· / 32)) m2
    else m2

/-- Move one row. `view` is what the sources read as. -/
def moveRow (view : State) (c : Nat) (f : Mo) (m : MAcc) (ri : MRow × Nat) : MAcc := putRow c f m ri.1 ri.2 (readConv view c f ri.1)

/-- Byte ranges in which sources and destinations of one MOVE overlap (R252). -/
def overlapOf (src dst : List (Nat × Nat)) : List (Nat × Nat) :=
  src.flatMap fun a => dst.filterMap fun b =>
    let lo := max a.1 b.1
    let hi := min (a.1 + a.2) (b.1 + b.2)
    if lo < hi then some (lo, hi - lo) else none

/-- Free bytes over ranges. -/
def freeRanges (l : List (Nat × Nat)) (s : State) : State :=
  l.foldl (fun t x =>
    let f := freeBytes x.2 t
    writeBytes x.1 f.1 f.2) s

/-- Tile words that a MOVE both reads and writes. -/
def overlapWords (f : Mo) (rows : List MRow) : List (Nat × Nat × Nat) :=
  if f.ssp && f.dsp then
    let words := fun (fmt : Nat) (l : Option Loc) => match l with
      | some (.tile t row col) => tileWords fmt f.n0 t row col
      | _ => []
    let src := rows.flatMap fun r => words f.sfmt r.src
    (rows.flatMap fun r => words f.dfmt r.dst).filter src.contains
  else []

/-- Free words over tile positions. -/
def freeWords (c : Nat) (l : List (Nat × Nat × Nat)) (s : State) : State :=
  l.foldl (fun t p =>
    let f := nextFreeWord t
    f.2.modCore c fun k => k.setTile p.1 p.2.1 p.2.2 f.1) s

/-- Tiles that the rows of a MOVE write whole (R254). -/
def wholeTiles (f : Mo) (rows : List MRow) : List Nat :=
  if f.dsp then
    let ts := dedup (rows.flatMap fun r => locTiles f.dfmt f.n0 r.dst) []
    let rs := dedup (rows.filterMap fun r => match r.dst with
      | some (.tile _ row _) => some row
      | _ => none) []
    let a := f.daddr.toNat
    if rs.length = 128 then ts.filter fun t =>
      if f.dfmt = 9 then fld a 11 11 == 0 && f.n0 == 128
      else decide (fld a 11 11 ≤ 128 * (t - fld a 0 4)) && decide (128 * (t - fld a 0 4) + 128 ≤ fld a 11 11 + f.n0)
    else []
  else []

/-- Settle the marks of every line in written ranges (R196, R236, R259). -/
def settleRanges (rs : List (Nat × Nat)) (bad : Bool) (s : State) : State :=
  (dedup (rs.flatMap fun p => linesOf p.1 p.2) []).foldl (fun t l => settleLine rs bad l t) s

/-- `DM_STAT` and `DM_ERRS` at a completion (R265). -/
def dmStatus (code : Nat) (sat inexact : Bool) (k : Core) : Core :=
  let seq := (fld (k.reg 0x70) 16 16 + 1) % 65536
  let k1 := k.setReg 0x70 (code + 256 * b2n sat + 512 * b2n inexact + 65536 * seq)
  if code = 2 then k1.bump 0x74 0 16 else if code = 10 then k1.bump 0x74 16 8 else if code = 9 then k1.bump 0x74 24 8 else k1

/-- The end of a MOVE: it leaves the engine and its status is written; INEXACT reaches `SQ_STAT` as for the MA, POISON whenever poison
was read, whatever the code (R70, R195, R264). -/
def dmDone (c : Nat) (r : Run) (code : Nat) (sat inexact pois : Bool) (s : State) : State :=
  (complete .dm c r code inexact s).modCore c fun k => dmStatus code sat inexact (if pois then k.setStat 7 else k)

/-- Add to a tally accumulator (R188). -/
def addTally (c ta v : Nat) (s : State) : State :=
  s.modCore c fun k => { k with ta := k.ta.modify ta fun x => BitVec.ofNat 64 (x.toNat + v) }

/-- The work of a local MOVE that passed validation. -/
def moveLocal (c : Nat) (f : Mo) (r : Run) (s : State) : MAcc :=
  let rows := moRows f (moIndices s c f)
  let src := srcSpans c f rows
  let dst := dstSpans f rows
  let mem := fun (l : List (Nat × Nat)) => l.filter fun x => (place s x.1).isMem
  let rd := touchRead (mem src ++ (if f.accum then mem dst else [])) s
  let ov := overlapOf (mem src) (mem dst)
  let ow := overlapWords f rows
  let view := freeWords c ow (freeRanges ov (raceView r rd.2))
  let idxBad := (f.kind == 1 || f.kind == 2) && (linesOf (storeAddr c f.iofs) (4 * f.n1)).any (poisoned rd.2)
  let m0 : MAcc := { st := { rd.2 with free := view.free }, pois := rd.1 || idxBad, stop := idxBad,
                     panel := List.replicate (if f.kind = 3 then f.panelLen else 0) 0,
                     pscale := List.replicate (if f.kind = 3 then f.panelScales else 0) 0 }
  let m := rows.zipIdx.foldl (moveRow view c f) m0
  let m1 := if f.kind = 3 then
      let a := putRun f.daddr.toNat m.panel 0 m.pbad m
      if f.dfmt = 8 then putRun f.dsaddr.toNat m.pscale 0 m.psbad a else a
    else m
  let ts := dedup (rows.flatMap fun r => locTiles f.dfmt f.n0 r.dst) []
  let s1 := freeWords c ow (freeRanges ov (settleRanges m1.ranges m1.pois m1.st))
  let s2 := s1.modCore c fun k =>
    if m1.pois then poisonTiles ts k else (wholeTiles f rows).foldl (fun k t => k.setTilePois t false) k
  { m1 with st := if f.ten then addTally c f.ta m1.tally s2 else s2 }

/-- The destinations of a MOVE in the order of its writes: lines of memory, then tiles. -/
def destLines (s : State) (f : Mo) (rows : List MRow) : List Nat :=
  dedup (((dstSpans f rows).filter fun x => (place s x.1).isMem).flatMap fun x => linesOf x.1 x.2) []
def destTiles (f : Mo) (rows : List MRow) : List Nat := dedup (rows.flatMap fun r => locTiles f.dfmt f.n0 r.dst) []

/-- MOVER_FAULT abandons a MOVE at detection: the destination lines or tiles written by then, or being written, are poisoned, and what
they hold is free; the others stand (R264). How many there are by then is a free number, at least one (log 38). -/
def moverFault (c : Nat) (f : Mo) (s : State) : State :=
  let rows := moRows f (moIndices s c f)
  let d := nextFreeWord s
  let ls := (destLines s f rows).take (1 + d.1.toNat % max 1 (destLines s f rows).length)
  let ts := (destTiles f rows).take (1 + d.1.toNat % max 1 (destTiles f rows).length)
  let hit := (dstSpans f rows).flatMap fun x => overlapOf [x] (ls.map fun l => (128 * l, 128))
  let words := (rows.flatMap fun r => match r.dst with
    | some (.tile t row col) => tileWords f.dfmt f.n0 t row col
    | _ => []).filter fun w => ts.contains w.1
  let s1 := freeWords c words (freeRanges hit d.2)
  (ls.foldl (fun t l => setPoison l t) s1).modCore c (poisonTiles ts)

/-- The end of a local MOVE (R260, R264). -/
def moveFinish (c : Nat) (r : Run) (parity : Bool) (s : State) : State :=
  let f := moOf r.desc
  if r.vcode ≠ 0 then dmDone c r r.vcode false false false s
  else if f.empty then dmDone c r 0 false false false s
  else if parity then dmDone c r 9 false false false (moverFault c f s)
  else
    let m := moveLocal c f r s
    dmDone c r (if m.pois then 2 else 0) m.sat m.inexact m.pois m.st

end Sys2Proof.Machine
end

