-- ==== Sys2Proof/Machine/Sequencer.lean ====
section
/-! DEFINITION. The words that the sequencer executes itself (R57 to R65), fences with the remote epoch (R311 to R317), chip
events (R54, R56), and the stop of a launch's other cores (R67). -/

namespace Sys2Proof.Machine

/-- Stop codes of R67 that a word can raise. -/
def stopReserved : Nat := 0x03

/-- Advance the PC. -/
def advance (n : Nat) (k : Core) : Core := { k with pc := k.pc + n }

/-- The common part of every word: OP and XW. -/
def wordHead : List (Nat × Nat) := [(52, 4), (56, 8)]

/-! ## Loops (R57, R58) -/

/-- LOOP's checks in order, then the skip or the new level (R57). -/
def doLoop (c w : Nat) (s : State) : State :=
  let k := s.core c
  let n := fld w 32 16
  let fin := k.pc + n
  let count := fld w 0 32
  if strayBits w ([(51, 1), (32, 16), (0, 32)] ++ wordHead) then stopCore c stopReserved s
  else if n = 0 then stopCore c stopReserved s
  else if k.streamLen ≤ fin then stopCore c 0x06 s
  else if fld (streamWord s c fin) 56 8 ≠ 0x02 then stopCore c 0x05 s
  else if count = 0 then s.modCore c fun k => { k with pc := fin + 1 }
  else if 4 ≤ k.loops.length then stopCore c 0x04 s
  else s.modCore c fun k =>
    let l : Loop := { head := k.pc, fin := fin, strip := bitAt w 51, iter := 0, remaining := count, eo := 0, vl := 0, set := false }
    { k with pc := k.pc + 1, loops := k.loops ++ [l] }

def execLoop (c : Nat) (s : State) : Out := .next (withWord 0x01 0 c s fun w => doLoop c w s)

/-- ENDLOOP: the next iteration of the innermost loop, or its end (R57, R58). The current VL stays what an inner strip loop left (log 123). -/
def doEndloop (c w : Nat) (s : State) : State :=
  let k := s.core c
  if strayBits w wordHead then stopCore c stopReserved s
  else match k.inner with
    | none => stopCore c 0x05 s
    | some l =>
      if l.fin ≠ k.pc then stopCore c 0x05 s
      else if l.strip && !l.set then stopCore c 0x07 s
      else
        let used := if l.strip then l.vl else 1
        let l' : Loop := { l with remaining := l.remaining - used, iter := l.iter + 1, eo := if l.strip then l.eo + used else l.eo,
                                  set := false }
        if 0 < l'.remaining then s.modCore c fun k => { k with pc := l.head + 1, loops := k.loops.dropLast ++ [l'] }
        else s.modCore c fun k => { k with pc := k.pc + 1, loops := k.loops.dropLast }

def execEndloop (c : Nat) (s : State) : Out := .next (withWord 0x02 0 c s fun w => doEndloop c w s)

/-- SETVL: VL = min(REQ, VLMAX, remaining), at the head of a strip-loop body only (R58). A reserved field set, or REQ = 0, is told before
a wrong place (log 123). -/
def doSetvl (c w : Nat) (s : State) : State :=
  let k := s.core c
  let req := fld w 0 16
  if strayBits w ([(0, 16)] ++ wordHead) then stopCore c stopReserved s
  else if req = 0 then stopCore c stopReserved s
  else match k.inner with
    | none => stopCore c 0x07 s
    | some l =>
      let first := k.pc == l.head + 1
      let second := k.pc == l.head + 2 && fld (streamWord s c (l.head + 1)) 56 8 == 0x07
      if !(l.strip && (first || second)) then stopCore c 0x07 s
      else
        let v := min req (min k.vlmax l.remaining)
        s.modCore c fun k => { k with pc := k.pc + 1, vl := v, loops := k.loops.dropLast ++ [{ l with vl := v, set := true }] }

def execSetvl (c : Nat) (s : State) : Out := .next (withWord 0x03 0 c s fun w => doSetvl c w s)

/-! ## Events (R54 to R56, R59, R60) -/

/-- The visible value of a chip event. -/
def chipEvent (s : State) (e : Nat) : Nat := lget 0 s.chipEvents e

/-- Whether a WAIT word's condition holds (R59). -/
def waitMet (s : State) (c w : Nat) : Bool :=
  if bitAt w 51 then decide (fld w 0 32 ≤ chipEvent s (fld w 40 8)) else (s.core c).event (fld w 40 8)

/-- Whether a blocked WAIT has found its condition: a core event may have been cleared since (R55). -/
def waitDone (s : State) (c w : Nat) : Bool :=
  if bitAt w 51 then decide (fld w 0 32 ≤ chipEvent s (fld w 40 8)) else (s.core c).sqWait.isNone

/-- A WAIT that finds its condition at once: CLR clears the core event, and the SQ goes on (R55, R59). -/
def releaseWait (c w : Nat) (s : State) : State :=
  s.modCore c fun k =>
    let k1 := if !bitAt w 51 && bitAt w 50 then k.setEvent (fld w 40 8) false else k
    { k1 with pc := k1.pc + 1, mode := .running }

/-- A WAIT blocks: what it waits for is held until it is satisfied (R55, R59). -/
def blockWait (c w : Nat) (s : State) : State :=
  s.modCore c fun k => { k with mode := .waiting, sqWait := if bitAt w 51 then none else some (fld w 40 8, bitAt w 50) }

def doWait (c w : Nat) (s : State) : State :=
  if strayBits w ([(51, 1), (50, 1), (40, 8), (0, 32)] ++ wordHead) then stopCore c stopReserved s
  else if (bitAt w 51 && bitAt w 50) || (!bitAt w 51 && fld w 0 32 != 0) then stopCore c stopReserved s
  else if !bitAt w 51 && decide (63 < fld w 40 8) then stopCore c 0x0A s
  else if waitMet s c w then releaseWait c w s
  else blockWait c w s

def execWait (c : Nat) (s : State) : Out := .next (withWord 0x04 0 c s fun w => doWait c w s)

/-- A blocked WAIT whose condition has become visible is released; a core event was cleared when it was found (R55, R59, R66). -/
def execWaitRelease (c : Nat) (s : State) : Out :=
  let k := s.core c
  .next (if k.mode = .waiting ∧ waitDone s c (streamWord s c k.pc) = true then
    s.modCore c fun k => { k with pc := k.pc + 1, mode := .running } else s)

/-- The limit of a blocked WAIT passes: the core stops with WAIT_TIMEOUT (R59). -/
def execWaitTimeout (c : Nat) (s : State) : Out :=
  let k := s.core c
  .next (if k.mode = .waiting ∧ k.waitLimit ≠ 0 ∧ waitDone s c (streamWord s c k.pc) = false then stopCore c 0x0B s else s)

def doSignal (c w : Nat) (s : State) : State :=
  let ev := fld w 40 8
  if strayBits w ([(51, 1), (50, 1), (40, 8), (0, 32)] ++ wordHead) then stopCore c stopReserved s
  else if (bitAt w 51 && bitAt w 50) || (!bitAt w 51 && fld w 0 32 != 0) then stopCore c stopReserved s
  else if !bitAt w 51 && decide (63 < ev) then stopCore c 0x0A s
  else if bitAt w 51 then { s.modCore c (advance 1) with eventIn := s.eventIn ++ [(ev, fld w 0 32)] }
  else s.modCore c fun k => advance 1 (k.setEvent ev (!bitAt w 50)).settleWaits

def execSignal (c : Nat) (s : State) : Out := .next (withWord 0x05 0 c s fun w => doSignal c w s)

/-- The root's value of a chip event: the newest addition not yet visible, or the visible value. -/
def rootValue (s : State) (e : Nat) : Nat :=
  match s.eventOut.reverse.find? fun x => x.1 == e with
  | some x => x.2
  | none => chipEvent s e

/-- The root adds every increment that arrived in this fabric cycle, saturating, and broadcasts one new value of each event that
took one; broadcasts of earlier cycles stay on their way (R56). -/
def execChipEventAdd (s : State) : Out :=
  let news := s.eventIn.foldl (fun (l : List (Nat × Nat)) x =>
    aset x.1 (min 0xFFFFFFFF ((aget x.1 l).getD (rootValue s x.1) + x.2)) l) []
  .next { s with eventIn := [], eventOut := s.eventOut ++ news }

/-- The oldest broadcast value becomes visible at every core (R56). -/
def execChipEventVisible (s : State) : Out :=
  match s.eventOut with
  | [] => .next s
  | x :: r => .next { s with chipEvents := lset 0 x.1 x.2 s.chipEvents, eventOut := r }

/-! ## Branch and yield (R61, R62) -/

/-- The condition of a BRST (R61). Code 0x13 before the iteration's SETVL compares with the core's current VL (log 123). -/
def brstCond (s : State) (c w : Nat) : Bool :=
  let k := s.core c
  let cond := fld w 40 8
  if cond ≤ 9 then bitAt k.stat.toNat cond
  else if cond = 0x10 then k.event (fld w 32 8)
  else match k.inner with
    | none => false
    | some l => if cond = 0x12 then l.iter == 0
      else if l.strip then decide (l.remaining ≤ (if l.set then l.vl else k.vl)) else l.remaining == 1

/-- BRST (R61). Of several failing checks the first counts: reserved bits, the target, CLR on a condition that has none, the event (log 123). -/
def doBrst (c w : Nat) (s : State) : State :=
  let k := s.core c
  let cond := fld w 40 8
  let target := k.pc + fld w 0 16
  let listed := decide (cond ≤ 9) || cond == 0x10 || cond == 0x12 || cond == 0x13
  let loopCond := cond == 0x12 || cond == 0x13
  let far := match k.inner with
    | some l => decide (l.fin < target)
    | none => loopCond
  if strayBits w ([(51, 1), (50, 1), (40, 8), (32, 8), (0, 16)] ++ wordHead) then stopCore c stopReserved s
  else if !listed || fld w 0 16 == 0 || decide (k.streamLen ≤ target) || far then stopCore c 0x09 s
  else if loopCond && bitAt w 50 then stopCore c stopReserved s
  else if cond == 0x10 && decide (63 < fld w 32 8) then stopCore c 0x0A s
  else if decide (cond ≤ 5) && !maskIdle (2 ^ cond) k then s
  else
    let taken := brstCond s c w == bitAt w 51
    s.modCore c fun k =>
      let k1 := if !bitAt w 50 then k
        else if cond ≤ 9 then { k with stat := k.stat &&& ~~~(BitVec.ofNat 10 (2 ^ cond)) }
        else k.setEvent (fld w 32 8) false
      { k1 with pc := if taken then target else k.pc + 1 }

def execBrst (c : Nat) (s : State) : Out := .next (withWord 0x06 0 c s fun w => doBrst c w s)

/-- Begin a wait of kind 0 FENCE, 1 HALT, 2 park, closing the epoch at once when the queues have completed (R63, R65, R71, R311). -/
def beginFence (f : FenceWait) (k : Core) : Core := fenceClose { k with mode := .fencing, fence := some f }

/-- What HALT and parking wait for: all six queues and the remote epoch (R65, R71). -/
def fullFence (kind exit : Nat) : FenceWait :=
  { kind := kind, mask := 63, remote := true, limit := 0, exit := exit, closed := none }

def doYield (c w : Nat) (s : State) : State :=
  let k := s.core c
  if strayBits w wordHead then stopCore c stopReserved s
  else match k.inner with
    | none => stopCore c 0x08 s
    | some l =>
      if l.head + 1 ≠ k.pc then stopCore c 0x08 s
      else if k.suspPend then s.modCore c (beginFence (fullFence 2 0))
      else s.modCore c (advance 1)

def execYieldOp (c : Nat) (s : State) : Out := .next (withWord 0x07 0 c s fun w => doYield c w s)

/-! ## Fences (R63, R65, R311 to R317) -/

def doFence (c w : Nat) (s : State) : State :=
  if strayBits w ([(40, 6), (39, 1), (0, 32)] ++ wordHead) then stopCore c stopReserved s
  else s.modCore c (beginFence { kind := 0, mask := fld w 40 6, remote := bitAt w 39, limit := fld w 0 32, exit := 0, closed := none })

def execFence (c : Nat) (s : State) : Out := .next (withWord 0x08 0 c s fun w => doFence c w s)

def doHalt (c w : Nat) (s : State) : State :=
  if strayBits w ([(0, 16)] ++ wordHead) then stopCore c stopReserved s
  else s.modCore c (beginFence (fullFence 1 (fld w 0 16)))

def execHalt (c : Nat) (s : State) : Out := .next (withWord 0x0A 0 c s fun w => doHalt c w s)

/-- Slots that an epoch still holds. -/
def epochSlots (k : Core) (e : Nat) : List (Nat × Slot) := k.slots.filter fun x => x.2.epoch == e

/-- A destination record (R317) ended other than OK or missing something. -/
def EpochDest.bad (d : EpochDest) : Bool := d.errs != 0 || d.missing != 0

/-- Records in order of device, then endpoint. -/
def insertDest (d : EpochDest) : List EpochDest → List EpochDest
  | [] => [d]
  | x :: r => if d.dev < x.dev || (d.dev == x.dev && d.ep < x.ep) then d :: x :: r else x :: insertDest d r

/-- The 256-byte fence report of an epoch (R317). -/
def fenceReport (e outcome : Nat) (ds : List EpochDest) : List Byte :=
  let l := ds.foldl (fun acc d => insertDest d acc) []
  let recs := (l.take 15).flatMap fun d =>
    leBytes 2 d.dev ++ leBytes 1 d.ep ++ leBytes 1 d.last ++ leBytes 2 (min 0xFFFF d.missing) ++ leBytes 2 (min 0xFFFF d.errs) ++
      leBytes 4 d.refused ++ leBytes 4 0
  let miss := (ds.map (·.missing)).sum
  let errs := (ds.map (·.errs)).sum
  bytesAt (leBytes 2 (min 15 l.length) ++ leBytes 2 (l.length - 15) ++ leBytes 4 miss ++ leBytes 4 errs ++ leBytes 1 e ++
    leBytes 1 outcome ++ leBytes 2 0 ++ recs) 0 256

/-- Close an epoch's books: write the report when any of its requests ended other than OK (R317). -/
def closeBooks (e outcome : Nat) (k : Core) : Core :=
  let ds := k.epochDests.filter fun d => d.epoch == e && d.bad
  let k1 := { k with epochDests := k.epochDests.filter fun d => d.epoch != e }
  if ds.isEmpty then k1 else { k1 with fenceReport := fenceReport e outcome ds }

/-- Any request of the epoch ended other than OK. -/
def epochErr (k : Core) (e : Nat) : Bool := k.epochDests.any fun d => d.epoch == e && d.bad

/-- The wait of a fence is over (R312). -/
def fenceMet (k : Core) (f : FenceWait) : Bool :=
  maskIdle f.mask k && (!f.remote || match f.closed with
    | some e => (epochSlots k e).isEmpty
    | none => false)

/-- A fence releases: the SQ goes on, or has halted (R63, R65, R312). -/
def fenceRelease (f : FenceWait) (k : Core) : Core :=
  let k1 := match f.closed with
    | some e => closeBooks e 0 (if epochErr k e then k.setStat 3 else k)
    | none => k
  if f.kind = 1 then haltCore 0 f.exit k1 else { k1 with mode := .running, pc := k1.pc + 1, fence := none }

def execFenceComplete (c : Nat) (s : State) : Out :=
  let k := s.core c
  match k.fence with
  | some f => .next (if k.mode = .fencing ∧ f.kind ≠ 2 ∧ fenceMet k f = true then s.modCore c (fenceRelease f) else s)
  | none => .next s

/-- A slot is released: its generation advances (R306). -/
def releaseSlot (i : Nat) (k : Core) : Core :=
  { k with slots := k.slots.filter fun x => x.1 != i, slotGens := lset 0 i ((lget 0 k.slotGens i + 1) % 4) k.slotGens }

/-- Note something of a destination of an epoch. -/
def noteDest (e dev ep : Nat) (f : EpochDest → EpochDest) (k : Core) : Core :=
  if k.epochDests.any fun d => d.epoch == e && d.dev == dev && d.ep == ep then
    { k with epochDests := k.epochDests.map fun d => if d.epoch == e && d.dev == dev && d.ep == ep then f d else d }
  else { k with epochDests := k.epochDests ++ [f { epoch := e, dev := dev, ep := ep }] }

/-- A slot is given up at its fence's limit: its request counts as missing, and a READ's lines are awaited no more (R313). -/
def missSlot (e i : Nat) (x : Slot) (k : Core) : Core :=
  let k1 := releaseSlot i (noteDest e x.dev x.ep (fun d => { d with missing := d.missing + 1 }) k)
  if x.wr then k1
  else { k1 with dm := { k1.dm with run := k1.dm.run.map fun r =>
    if r.id == x.run then { r with remErr := 0x10, linesLeft := r.linesLeft - x.lines } else r } }

/-- The fence limit expires with the epoch's slots still held, or its queues not yet done (R313). -/
def execFenceTimeout (c : Nat) (s : State) : Out :=
  let k := s.core c
  match k.fence with
  | none => .next s
  | some f =>
    let e := f.closed.getD k.epoch
    let open_ := f.closed.isNone || !(epochSlots k e).isEmpty
    if k.mode = .fencing ∧ f.remote = true ∧ open_ = true then
      let k1 := (epochSlots k e).foldl (fun k x => missSlot e x.1 x.2 k) k
      .next (stopCore c 0x0C (odInc 0x2470 0x0A 4 1 (s.modCore c fun _ => closeBooks e 1 k1)))
    else .next s

/-! ## Tallies (R64) -/

/-- A TALLY word of action `act`: its checks, the wait for the DM, then `f` on the operand's offset. -/
def tally (act : Nat) (f : Nat → Nat → Nat → State → State) (c : Nat) (s : State) : State :=
  withWord 0x09 1 c s fun w =>
    let k := s.core c
    let x := streamWord s c (k.pc + 1)
    let a := fld w 42 3
    let ofs := fld x 0 23
    if strayBits w ([(45, 3), (42, 3)] ++ wordHead) || decide (3 < a) then stopCore c stopReserved s
    else if a ≠ act then s
    else if strayBits x (if act = 0 then [] else [(0, 23)]) then stopCore c stopReserved s
    else if act ≠ 0 ∧ (ofs % 8 ≠ 0 ∨ storeSize < ofs + 8) then stopCore c 0x13 s
    else if !k.dm.idle then s
    else f c (fld w 45 3) ofs s

def setTa (i v : Nat) (k : Core) : Core := advance 2 { k with ta := k.ta.set i (BitVec.ofNat 64 v) }

def execTallyClear (c : Nat) (s : State) : Out := .next (tally 0 (fun c i _ s => s.modCore c (setTa i 0)) c s)

def execTallyStore (c : Nat) (s : State) : Out :=
  .next (tally 1 (fun c i ofs s =>
    storePieces [(storeAddr c ofs, leBytes 8 ((s.core c).ta.getD i 0).toNat)] false
      (noteWrites [(storeAddr c ofs, 8)] (s.modCore c (advance 2)))) c s)

/-- Read the operand of a TALLY: poison on its line sets POISON in `SQ_STAT` (R195); bytes that a running descriptor may be writing are
free (R52). -/
def tallyRead (c ofs : Nat) (s : State) : Nat × State :=
  let r := touchRead [(storeAddr c ofs, 8)] s
  let view := readView [(storeAddr c ofs, 8)] r.2
  let s1 : State := { r.2 with free := view.free }
  (readNum view (storeAddr c ofs) 8, if r.1 then s1.modCore c (fun k => k.setStat 7) else s1)

def execTallyCompare (c : Nat) (s : State) : Out :=
  .next (tally 2 (fun c i ofs s =>
    let r := tallyRead c ofs s
    r.2.modCore c fun k => advance 2 (if r.1 = (k.ta.getD i 0).toNat then k else k.setStat 8)) c s)

def execTallyLoad (c : Nat) (s : State) : Out :=
  .next (tally 3 (fun c i ofs s =>
    let r := tallyRead c ofs s
    r.2.modCore c (setTa i r.1)) c s)

/-! ## Illegal words and peer stops (R47, R67) -/

/-- The operations of R47. -/
def opDefined (op : Nat) : Bool := (decide (1 ≤ op) && decide (op ≤ 0x0A)) || (decide (0x10 ≤ op) && decide (op ≤ 0x16))

def execIllegalOp (c : Nat) (s : State) : Out :=
  let k := s.core c
  .next (if k.mode = .running then
    if k.streamLen ≤ k.pc then stopCore c 0x06 s
    else if opDefined (fld (streamWord s c k.pc) 56 8) then s else stopCore c 0x01 s
  else s)

/-- CANCEL reaches every core (R69). -/
def cancelCores (code : Nat) (s : State) : State := { s with cores := s.cores.map (cancelCore code) }

/-- Every core that has not stopped is stopped as CANCEL does (R67). -/
def peerStopCores (s : State) : State := { s with cores := s.cores.map peerStopCore }

end Sys2Proof.Machine
end

