-- ==== Sys2Proof/Machine/Remote.lean ====
section
/-! DEFINITION. The rows of the data mover and remote memory (chapter 10): the start and end of a MOVE, the requester's slots, retries,
timeouts and responses (R297 to R314), the target's checks and accesses (R300 to R305), answers on an E port (R383). -/

namespace Sys2Proof.Machine

/-! ## Issue -/

/-- A MOVE word of one kind (R249). COPY also issues the reserved kinds, which end FIELD. -/
def moveWord (p : Nat → Bool) (c : Nat) (s : State) : State := issue .dm 0x13 14 (fun w => p (fld w 28 4)) c s

def execCopy (c : Nat) (s : State) : Out := .next (moveWord (fun k => k == 0 || decide (7 ≤ k)) c s)
def execGather (c : Nat) (s : State) : Out := .next (moveWord (· == 1) c s)
def execScatter (c : Nat) (s : State) : Out := .next (moveWord (· == 2) c s)
def execPanel (c : Nat) (s : State) : Out := .next (moveWord (· == 3) c s)
def execRread (c : Nat) (s : State) : Out := .next (moveWord (· == 4) c s)
def execRwrite (c : Nat) (s : State) : Out := .next (moveWord (· == 5) c s)
def execRwriteAck (c : Nat) (s : State) : Out := .next (moveWord (· == 6) c s)

/-! ## Requests (R297, R298, R306 to R309) -/

/-- ARG of a request (R298). -/
def reqArg (f : Mo) (epoch line n slot gen : Nat) : Nat :=
  (f.winOfs.toNat / 128 + line) % 2 ^ 28 + epoch * 2 ^ 28 + f.win * 2 ^ 30 + f.lineFmt * 2 ^ 42 + (if f.kind = 4 then n - 1 else 0) * 2 ^ 46 +
  slot * 2 ^ 50 + gen * 2 ^ 62

/-- Source bytes of a request's lines: rows and scales (R262). -/
def reqSpans (f : Mo) (line n : Nat) (rows : List MRow) : List (Nat × Nat) :=
  let e0 := line * 256 / nibs f.lineFmt
  let en := n * 256 / nibs f.lineFmt
  rows.flatMap fun r => (match r.src with
    | some (.mem a) => [(a.toNat + fmtBytes f.sfmt e0, fmtBytes f.sfmt en)]
    | _ => []) ++ (if isMx f.sfmt then [(r.sscale.toNat + e0 / 32, cdiv en 32)] else [])

/-- The lines that a request carries and whether they are poisoned (R259, R262, R305): none for a READ. -/
def reqData (c : Nat) (r0 : Run) (f : Mo) (line n : Nat) (s : State) : List Byte × Bool × State :=
  if f.kind = 4 then ([], false, s)
  else
    let rows := moRows f []
    let mem := (reqSpans f line n rows).filter fun x => (place s x.1).isMem
    let rd := touchRead mem s
    let view := raceView r0 rd.2
    match rows with
    | [] => ([], false, s)
    | r :: _ =>
      let x := readConv view c f r
      (bytesAt (joinCodes f.dfmt x.2.2.1.codes) (128 * line) (128 * n), rd.1 || x.2.2.2.isSome, { rd.2 with free := view.free })

/-- Counter of issued requests by kind (R316). -/
def issuedSub (kind : Nat) : Nat := if kind = 4 then 1 else if kind = 5 then 2 else 3

/-- A request goes out: false where R280 finds no route. -/
def sendRequest (c : Nat) (r0 : Run) (f : Mo) (epoch line n slot gen : Nat) (s : State) : Bool × State :=
  let d := reqData c r0 f line n s
  let op := if f.kind = 4 then 0x00 else if f.kind = 5 then 0x01 else 0x02
  let len := if f.kind = 4 then 0 else n
  let pkt := blank 0 op len f.rep c f.rdev (reqArg f epoch line n slot gen) (if d.2.1 ∧ f.kind ≠ 4 then 2 ^ n - 1 else 0) d.1
  send f.rdet pkt d.2.2

/-- Change the run of a MOVE by its number. -/
def modRun (c id : Nat) (g : Run → Run) (s : State) : State :=
  s.modCore c fun k => { k with dm := { k.dm with run := k.dm.run.map fun r => if r.id == id then g r else r } }

/-- A request ended other than OK: `DM_RERR`, the epoch's books, its MOVE (R312, R315). -/
def noteError (c code dev ep epoch id : Nat) (s : State) : State :=
  modRun c id (fun r => { r with remErr := code }) (s.modCore c fun k =>
    noteDest epoch dev ep (fun d => { d with errs := d.errs + 1, last := code }) (k.setReg 0x84 (code + 256 * ep + 65536 * dev)))

/-- A slot's request has ended: the slot is released, its lines are no longer awaited. -/
def endSlot (c i : Nat) (x : Slot) (s : State) : State :=
  let s1 := s.modCore c (releaseSlot i)
  if x.wr then s1 else modRun c x.run (fun r => { r with linesLeft := r.linesLeft - x.lines }) s1

/-- A slot's request ends with an error code. -/
def failSlot (c i code : Nat) (x : Slot) (s : State) : State :=
  endSlot c i x (if x.cancelled then s else noteError c code x.dev x.ep x.epoch x.run s)

/-- The highest outstanding count since last written (R265). -/
def noteHigh (k : Core) : Core :=
  let h := fld (k.reg 0x78) 16 13
  if h < k.slots.length then k.setReg 0x78 (k.slots.length * 65536) else k

/-- Issue the next request of a run: 1 to 16 lines (R262). -/
def issueRequest (c : Nat) (r : Run) (s : State) : State :=
  let f := moOf r.desc
  let n := min 16 (f.lines - r.nextLine)
  let k := s.core c
  let step := fun (t : State) => modRun c r.id (fun r => { r with nextLine := r.nextLine + n, issued := decide (f.lines ≤ r.nextLine + n) }) t
  let count := odInc 0x2470 (issuedSub f.kind) 8 1
  if f.kind = 5 then
    match sendRequest c r f k.epoch r.nextLine n 0 0 s with
    | (true, t) => step (count t)
    | (false, t) => step (noteError c 0x11 f.rdev f.rep k.epoch r.id t)
  else match firstFrom (fun i => !(k.slots.any fun x => x.1 == i)) 4096 0 with
    | none => s
    | some i =>
      let gen := lget 0 k.slotGens i
      let x : Slot := { wr := f.kind == 6, dev := f.rdev, ep := f.rep, win := f.win, ofs := f.winOfs.toNat / 128 + r.nextLine, lines := n,
                        fmt := f.lineFmt, gen := gen, epoch := k.epoch, line := r.nextLine, run := r.id, desc := r.desc }
      let s1 := step (s.modCore c fun k => noteHigh { k with slots := k.slots ++ [(i, x)] })
      match sendRequest c r f k.epoch r.nextLine n i gen s1 with
      | (true, t) => count t
      | (false, t) => failSlot c i 0x11 x t

/-- Issue requests while slots are free. -/
def pump : Nat → Nat → State → State
  | 0, _, s => s
  | n + 1, c, s =>
    match (s.core c).dm.run.find? fun r => !r.issued with
    | none => s
    | some r => if (moOf r.desc).kind ≠ 5 ∧ 4096 ≤ (s.core c).slots.length then s else pump n c (issueRequest c r s)

/-- Enough rounds for the largest MOVE. -/
def pumpAll (c : Nat) (s : State) : State := pump 1024 c s

/-! ## The start and the end of a MOVE (R260 to R264) -/

/-- MOVE_START: the previous MOVE has issued its last request (R263). -/
def execMoveStart (c : Nat) (s : State) : Out :=
  match ready .dm c s with
  | none => .next s
  | some d =>
    let k := s.core c
    if k.dm.run.any fun r => !r.issued then .next s
    else
      let f := moOf d
      let v := moCode s c d f
      if v ≠ 0 ∨ f.empty then .next (startRun .dm c d v [] [] s)
      else
        let rows := moRows f (moIndices s c f)
        let src := srcSpans c f rows
        let spans := spansOf s false src ++ (if f.accum then spansOf s false (dstSpans f rows) else []) ++ spansOf s true (dstSpans f rows)
        let s1 := startRun .dm c d 0 (moTiles f rows) spans s
        let id := k.moves + 1
        if f.remote ∧ k.dm.run.length < (s1.core c).dm.run.length then
          let s2 := s1.modCore c fun k => { k with moves := id, dm := { k.dm with run := k.dm.run.dropLast ++ (k.dm.run.getLast?.toList.map fun r =>
            { r with id := id, issued := false, linesLeft := if f.kind = 4 then f.lines else 0 }) } }
          .next (pumpAll c s2)
        else .next s1

/-- The lines of an RREAD as they arrived, zeros for the missing ones (R309). -/
def arrivedBytes (f : Mo) (r : Run) : List Byte :=
  (List.range f.lines).flatMap fun i => (aget i r.arrived).getD (List.replicate 128 0)

/-- The end of an RREAD: the arrived lines are converted and written (R262, R305). -/
def rreadFinish (c : Nat) (f : Mo) (r : Run) (s : State) : State :=
  let rows := moRows f []
  let dst := (dstSpans f rows).filter fun x => (place s x.1).isMem
  let rd := touchRead (((srcSpans c f rows).filter fun x => (place s x.1).isMem) ++ (if f.accum then dst else [])) s
  let xs := splitCodes f.sfmt f.n0 (arrivedBytes f r)
  let m0 : MAcc := { st := rd.2, pois := rd.1 || r.remPoison }
  let m := rows.zipIdx.foldl (fun m ri =>
    let sc := if isMx f.sfmt then (rowBytes rd.2 ri.1.sscale.toNat (f.n0 / 32)).map (·.toNat) else List.replicate (f.n0 / 32) 0
    let x := convRow rd.2 f ri.1.lbase xs sc
    let scBad := isMx f.sfmt && (linesOf ri.1.sscale.toNat (f.n0 / 32)).any (poisoned rd.2)
    putRow c f m ri.1 ri.2 (sc, xs, x, if scBad then some 0 else firstOf (r.badLines.min?.map fun l => 256 * l / nibs f.sfmt) x.bad)) m0
  let s1 := settleRanges m.ranges m.pois m.st
  let s2 := if f.ten then addTally c f.ta m.tally s1 else s1
  dmDone c r (if r.remErr ≠ 0 then 0x0A else if m.pois then 2 else 0) m.sat m.inexact m.pois s2

/-- The end of an RWRITE or an RWRITE_ACK: its last request has entered the fabric (R262). -/
def rwriteFinish (c : Nat) (f : Mo) (r : Run) (s : State) : State :=
  let rows := moRows f []
  let view := raceView r s
  let m := rows.zipIdx.foldl (fun m ri => putRow c f m ri.1 ri.2 (readConv view c f ri.1)) { st := { s with free := view.free } }
  let s1 := settleRanges m.ranges m.pois m.st
  let s2 := if f.ten then addTally c f.ta m.tally s1 else s1
  dmDone c r (if r.remErr ≠ 0 then 0x0A else if m.pois then 2 else 0) m.sat m.inexact m.pois s2

/-- MOVE_COMPLETE. A MOVE that still waits for slots issues what it can instead (log 45). -/
def execMoveComplete (c : Nat) (parity : Bool) (s : State) : Out :=
  match headRun .dm c s with
  | none => .next s
  | some r =>
    let f := moOf r.desc
    if r.vcode ≠ 0 ∨ f.empty ∨ f.remote = false then .next (moveFinish c r parity s)
    else if parity then .next (moveFinish c r true s)
    else if !r.issued then .next (pumpAll c s)
    else if f.kind = 4 then .next (if r.linesLeft = 0 then rreadFinish c f r s else s)
    else .next (rwriteFinish c f r s)

/-! ## Responses at the requester (R299, R307 to R309, R314) -/

/-- Take an ejected packet of an operation from the inbox. -/
def takeInbox (ops : List Nat) (pkt : Packet) (s : State) : Option (Ejected × State) :=
  if ops.contains pkt.op then (s.inbox.find? fun e => e.pkt == pkt).map fun e => (e, { s with inbox := s.inbox.erase e }) else none

/-- A response that no request awaits (R299). -/
def stale (s : State) : State := odInc 0x2470 7 4 1 s

/-- The core and slot that a response answers (R299). -/
def matchSlot (wr : Bool) (p : Packet) (s : State) : Option (Nat × Nat × Slot) :=
  let c := p.dep
  let i := fld p.arg 8 12
  if p.jobtag ≠ odGet s 0x2300 2 ∨ 160 ≤ c then none
  else ((s.core c).slots.find? fun x => x.1 == i && x.2.wr == wr && x.2.gen == fld p.arg 20 2 && x.2.epoch == fld p.arg 22 2).map fun x => (c, i, x.2)

/-- A READ_RSP that answers OK with another number of lines than its request asked for is discarded as FORMAT, at the port it came in at
(R284, R297). -/
def formatDrop (port : Option Nat) (s : State) : State :=
  match port with
  | some p => routeDiscard p s
  | none => s

/-- Lines of a response with their poison. -/
def rspLines (p : Packet) (line : Nat) : List (Nat × List Byte) := (List.range p.len).map fun i => (line + i, bytesAt p.bytes (128 * i) 128)

/-- Handle a response to a READ (`wr` false) or a WRITE_ACK. -/
def response (wr : Bool) (port : Option Nat) (p : Packet) (s : State) : State :=
  match matchSlot wr p s with
  | none => stale s
  | some (c, i, x) =>
    let code := fld p.arg 0 8
    if !wr && code == 0 && p.len != x.lines then formatDrop port s
    else if x.cancelled then pumpAll c (endSlot c i x s)
    else if code = 0 then
      let s1 := if wr then s else modRun c x.run (fun r =>
        { r with arrived := r.arrived ++ rspLines p x.line, remPoison := r.remPoison || p.poison != 0,
                 badLines := r.badLines ++ ((List.range p.len).filter (bitAt p.poison)).map (x.line + ·) }) s
      pumpAll c (endSlot c i x s1)
    else if code = 0x05 then
      let s1 := odInc 0x2470 5 8 1 { s with refusedBy := lset 0 p.sdev (min 0xFFFFFFFF (lget 0 s.refusedBy p.sdev + 1)) s.refusedBy }
      s1.modCore c fun k => noteDest x.epoch x.dev x.ep (fun d => { d with refused := d.refused + 1 })
        { k with slots := k.slots.map fun e =>
          if e.1 == i then (i, { x with refusals := x.refusals + 1, backoff := true, lastRefused := true }) else e }
    else pumpAll c (failSlot c i code x s)

def execReadRsp (pkt : Packet) (s : State) : Out :=
  match takeInbox [0x08] pkt s with
  | some (e, s1) => .next (response false e.port pkt s1)
  | none => .next s

def execWackRsp (pkt : Packet) (s : State) : Out :=
  match takeInbox [0x09] pkt s with
  | some (e, s1) => .next (response true e.port pkt s1)
  | none => .next s

/-- A slot of a core by its number. -/
def slotOf (c i : Nat) (s : State) : Option Slot := ((s.core c).slots.find? fun x => x.1 == i).map (·.2)

/-- REFUSE_BACKOFF_EXPIRY: the request is reissued with its SLOT, GEN and EPOCH and a new SEQ (R308). -/
def execRefuseBackoffExpiry (c slot : Nat) (s : State) : Out :=
  match slotOf c slot s with
  | none => .next s
  | some x =>
    if x.backoff ∧ x.cancelled = false then
      let s1 := s.modCore c fun k => { k with slots := k.slots.map fun e => if e.1 == slot then (slot, { x with backoff := false }) else e }
      match sendRequest c { desc := x.desc, vcode := 0 } (moOf x.desc) x.epoch x.line x.lines slot x.gen s1 with
      | (true, t) => .next t
      | (false, t) => .next (pumpAll c (failSlot c slot 0x11 x t))
    else .next s

/-- REMOTE_TIMEOUT: a READ ends TIMEOUT, or REFUSED where that was its last answer; a cancelled request is released, and so is a
WRITE_ACK of a core that has stopped, which no fence will end (R67, R309, R314; DEDUCED, log 119). -/
def execRemoteTimeout (c slot : Nat) (s : State) : Out :=
  match slotOf c slot s with
  | none => .next s
  | some x =>
    if x.cancelled || (x.wr && (s.core c).mode == .stopped) then .next (pumpAll c (endSlot c slot x s))
    else if x.wr then .next s
    else if x.lastRefused then .next (pumpAll c (failSlot c slot 0x05 x s))
    else .next (pumpAll c (failSlot c slot 0x10 x (odInc 0x2470 4 4 1 s)))

/-! ## At the target (R300 to R305, R318) -/

/-- Lines of a request. -/
def reqLines (p : Packet) : Nat := if p.op = 0 then fld p.arg 46 4 + 1 else p.len

/-- The window table's entry. -/
def State.window (s : State) (n : Nat) : Window := (aget n s.windows).getD {}

/-- R301: the first failing check's code, or 0. -/
def windowCode (w : Window) (p : Packet) : Nat :=
  if p.jobtag ≠ w.tag then 1
  else if w.length < fld p.arg 0 28 + reqLines p then 2
  else if !bitAt w.perm (if p.op = 0 then 0 else 1) then 3
  else if w.ftag % 16 ≠ 15 ∧ w.ftag % 16 ≠ fld p.arg 42 4 then 4
  else 0

/-- ARG of a response (R299). -/
def rspArg (p : Packet) (code : Nat) : Nat := code + fld p.arg 50 12 * 2 ^ 8 + fld p.arg 62 2 * 2 ^ 20 + fld p.arg 28 2 * 2 ^ 22

def State.eport (s : State) (n : Nat) : EPort := s.eports.getD n {}
def State.modEport (s : State) (n : Nat) (f : EPort → EPort) : State := { s with eports := s.eports.modify n f }

/-- A frame sent on E port `n`: lost and counted while the replaced lane is dark (R381). -/
def frameSent (n : Nat) (out : State → State) (s : State) : State :=
  if s.now < (s.eport n).darkUntil then s.modEport n fun e => { e with dropped := e.dropped + 1 }
  else out (s.modEport n fun e => { e with tx := e.tx + 1 })

/-- An Ethernet frame leaves, and a datagram. -/
def frameE (n : Nat) (f : EFrame) (s : State) : State := frameSent n (fun t => { t with frameOut := (n, f) :: t.frameOut }) s
def datagramE (n : Nat) (d : Datagram) (s : State) : State := frameSent n (fun t => { t with eOut := (n, d) :: t.eOut }) s

/-- The encapsulation of a packet (R382): from `fabric-udp`, with the traffic class of hosts or of the fabric, hop limit 64. -/
def encapsulate (s : State) (bulk : Bool) (addr : List Byte) (udp : Nat) (p : Packet) : Datagram :=
  { addr := addr, port := udp, ownPort := odGet s 0x2921 1, dscp := odGet s 0x2921 (if bulk then 3 else 2), hops := 64, checksumOk := true,
    pkt := withCrc p }

/-- A datagram leaves on E port `n` to an address (R382). A neighbour whose link address is not known is solicited first, and the datagram
waits for its advertisement (R380; log 131). -/
def sendE (n : Nat) (bulk : Bool) (addr : List Byte) (udp : Nat) (p : Packet) (s : State) : State :=
  let d := encapsulate s bulk addr udp p
  let q := s.eport n
  if q.neighbours.contains addr then datagramE n d s
  else
    let asked := q.unresolved.any fun x => x.addr == addr
    let s1 := s.modEport n fun e => { e with unresolved := e.unresolved ++ [d] }
    if asked then s1 else frameE n (.neighbourSolicit addr) s1

/-- A response goes back to its request's source (R299, R383). -/
def respond (req : Packet) (fromE : Option (Nat × List Byte × Nat)) (op code len poison : Nat) (bytes : List Byte) (s : State) : State :=
  let p := { blank 1 op len req.sep req.dep req.sdev (rspArg req code) poison bytes with jobtag := req.jobtag }
  match fromE with
  | some (n, addr, udp) => sendE n true addr udp (stamp s p) s
  | none => (sendRaw req.detour p s).2

/-- Operation of the response to a request. -/
def rspOp (p : Packet) : Nat := if p.op = 0 then 0x08 else 0x09

/-- A WRITE that is dropped at this target (R303). -/
def dropPosted (s : State) : State := odInc 0x2470 9 8 1 s

/-- A request is turned away with a code: a posted WRITE is dropped and counted. -/
def turnAway (e : Ejected) (code : Nat) (s : State) : State :=
  if e.pkt.op = 1 then dropPosted s else respond e.pkt e.fromE (rspOp e.pkt) code 0 0 [] s

/-- Count a rejection sent as a response, in the code's 16 bits (R316). -/
def countReject (code : Nat) (s : State) : State :=
  let v := odGet s 0x2470 8
  let lo := 16 * (code - 1)
  if fld v lo 16 = 65535 then s else odSet 0x2470 8 (v + 2 ^ lo) s

/-- A window rejects a request: 0xFF58 on the first since the entry was written (R318). -/
def reject (e : Ejected) (n code : Nat) (s : State) : State :=
  let w := s.window n
  let s1 := if w.rejected then s
    else emcy 0xFF58 [code, e.pkt.sdev % 256, e.pkt.sdev / 256, n % 256, n / 256]
      { s with windows := aset n { w with rejected := true } s.windows }
  turnAway e code (if e.pkt.op = 1 then s1 else countReject code s1)

/-- Write lines at the target, each poisoned as its bit says (R305); descriptors that read them meanwhile race (R52). -/
def writeLines (a : Nat) (p : Packet) (s : State) : State :=
  (List.range p.len).foldl (fun t i => storePieces [(a + 128 * i, bytesAt p.bytes (128 * i) 128)] (bitAt p.poison i) t)
    (noteWrites [(a, 128 * p.len)] s)

/-- Lowest free entry of an XD's inbound table (R303). -/
def freeInbound (xd : Nat) (s : State) : Option Nat := firstFrom (fun i => !(s.inbound.any fun x => x.xd == xd && x.entry == i)) 2048 0

/-- The engines of XD`xd` reach present memory through CD`xd` (R304). -/
def xdReach (s : State) (xd a n : Nat) : Bool := xdLinkUp s xd && memReach s xd a n

/-- The remote engines accept or turn away a request (R301, R303). Memory that they do not reach is answered as an absent endpoint is
(log 128). -/
def serve (e : Ejected) (s : State) : State :=
  let p := e.pkt
  let n := fld p.arg 30 12
  let w := s.window n
  if endpointUp s p.dep = false ∨ (0xA0 ≤ p.dep ∧ p.dep ≠ 0xF4) then turnAway e 0x06 s
  else
    let code := windowCode w p
    let addr := w.base + 128 * fld p.arg 0 28
    if code ≠ 0 then reject e n code s
    else if xdReach s e.xd addr (128 * reqLines p) = false then turnAway e 0x06 s
    else if p.op = 1 then writeLines addr p s
    else match freeInbound e.xd s with
      | none => turnAway e 0x05 (odInc 0x2470 6 8 1 s)
      | some i => { s with inbound := s.inbound ++ [{ xd := e.xd, entry := i, req := p, addr := addr, fromE := e.fromE }] }

/-- The row of one operation at an XD's remote engines. -/
def serveRow (op xd : Nat) (pkt : Packet) (s : State) : State :=
  match s.inbox.find? fun e => e.pkt == pkt && e.xd == xd with
  | some e => if pkt.op = op then serve e { s with inbox := s.inbox.erase e } else s
  | none => s

def execRead (xd : Nat) (pkt : Packet) (s : State) : Out := .next (serveRow 0x00 xd pkt s)
def execWrite (xd : Nat) (pkt : Packet) (s : State) : Out := .next (serveRow 0x01 xd pkt s)
def execWriteAck (xd : Nat) (pkt : Packet) (s : State) : Out := .next (serveRow 0x02 xd pkt s)

/-- Read lines at the target: bytes, those that a descriptor is writing free (R52), poison mask, state after the reads (R305). -/
def readLines (a n : Nat) (s : State) : List Byte × Nat × State :=
  let v := readView [(a, 128 * n)] s
  (List.range n).foldl (fun acc i =>
    let r := touchRead [(a + 128 * i, 128)] acc.2.2
    (acc.1 ++ readBytes v (a + 128 * i) 128, acc.2.1 + (if r.1 then 2 ^ i else 0), r.2)) ([], 0, { s with free := v.free })

/-- TARGET_ACCESS_COMPLETE: the lines are read or accepted, the response is injected and the entry is free (R303, R304). -/
def execTargetAccessComplete (xd entry : Nat) (s : State) : Out :=
  match s.inbound.find? fun x => x.xd == xd && x.entry == entry with
  | none => .next s
  | some x =>
    let s1 : State := { s with inbound := s.inbound.erase x }
    if x.req.op = 0 then
      let n := reqLines x.req
      let r := readLines x.addr n s1
      .next (respond x.req x.fromE 0x08 0 n r.2.1 r.1 r.2.2)
    else .next (respond x.req x.fromE 0x09 0 0 0 [] (writeLines x.addr x.req s1))

end Sys2Proof.Machine
end

