-- ==== Sys2Proof/Machine/Groups.lean ====
section
/-! DEFINITION. Groups of the collective engines (R319 to R326): ranks and levels, creation and admission, FORM, and the two ways to a
member: over the fabric, or between domains with acknowledgement and retransmission (R345). -/

namespace Sys2Proof.Machine

/-! ## Ranks and levels (R319, R320) -/

def grpObj (g : Nat) : Nat := 0x2510 + g
def State.group (s : State) (g : Nat) : Group := s.groups.getD g {}
def State.modGroup (s : State) (g : Nat) (f : Group → Group) : State := { s with groups := s.groups.modify g f }

/-- Member mask of dimension `d`. -/
def gMask (s : State) (g d : Nat) : Nat := fld (odGet s (grpObj g) 2) (8 * d) 8

/-- Extent of level kind `k`: X, Y, Z, W, domain. -/
def gExt (s : State) (g k : Nat) : Nat := if k < 4 then ((List.range 8).filter (bitAt (gMask s g k))).length else odGet s (grpObj g) 3

/-- The level kinds of a group, in order. -/
def gLevels (s : State) (g : Nat) : List Nat := (List.range 5).filter fun k => decide (1 < gExt s g k)

def gStride (s : State) (g k : Nat) : Nat := ((List.range k).map (gExt s g)).foldl (· * ·) 1

/-- Digit of a rank at level kind `k`, and the rank with that digit replaced. -/
def digit (s : State) (g r k : Nat) : Nat := r / gStride s g k % gExt s g k
def setDigit (s : State) (g r k v : Nat) : Nat := r - digit s g r k * gStride s g k + v * gStride s g k

/-- Position of the `i`-th set bit of a mask. -/
def nthBit (m i : Nat) : Nat := ((List.range 8).filter (bitAt m)).getD i 0

/-- Device coordinate and domain index of a rank. -/
def memberDev (s : State) (g r : Nat) : Nat := ((List.range 4).map fun d => nthBit (gMask s g d) (digit s g r d) * 8 ^ d).sum
def memberDom (s : State) (g r : Nat) : Nat := digit s g r 4

/-- Rank of a device of a domain index, if it is a member. -/
def rankOf (s : State) (g dev dom : Nat) : Option Nat :=
  if ((List.range 4).all fun d => bitAt (gMask s g d) (coordOf dev d)) && decide (dom < gExt s g 4) then
    some (((List.range 4).map fun d => ((List.range (coordOf dev d)).filter (bitAt (gMask s g d))).length * gStride s g d).sum +
      dom * gStride s g 4)
  else none

/-- Domain index of this device. -/
def ownDom (s : State) (g : Nat) : Nat := odGet s (grpObj g) 4

/-- Level peers of this device (R320). -/
def levelPeersAt (s : State) (g k : Nat) : List Nat :=
  let me := (s.group g).rank
  ((List.range (gExt s g k)).filter fun v => v != digit s g me k).map (setDigit s g me k)
def levelPeers (s : State) (g : Nat) : List Nat := (gLevels s g).flatMap (levelPeersAt s g)

/-- Address, UDP port and domain id of domain `k`'s entry of `xdom-peers` (R348). -/
def xpeer (s : State) (k : Nat) : List Byte × Nat × Nat :=
  let b := leBytes 20 (odGet s 0x2530 (k + 1))
  (b.take 16, numAt b 16 2, numAt b 18 2)

/-- Rank of a packet's sender: in this domain, or in the domain whose id it names. -/
def senderRank (s : State) (g : Nat) (p : Packet) : Option Nat :=
  if p.domain = ownDomain s then rankOf s g p.sdev (ownDom s g)
  else match (List.range (gExt s g 4)).find? fun k => k != ownDom s g && (xpeer s k).2.2 == p.domain with
    | some k => rankOf s g p.sdev k
    | none => none

/-! ## Creation (R319, R321 to R323, R334) -/

def powOk (l : List Nat) (n : Nat) : Bool := l.contains n

/-- Formats a level may carry (R334). -/
def hopCode (s : State) (g k : Nat) : Nat := fld (odGet s (grpObj g) 5) (4 * k) 4

/-- The record meets R319 and R334, and no other record has its id. -/
def groupFieldsOk (s : State) (g : Nat) : Bool :=
  let id := odGet s (grpObj g) 1
  id != 0 && ((List.range 4).all fun d => powOk [1, 2, 4, 8] (gExt s g d) && bitAt (gMask s g d) (coordOf (own s) d)) &&
  powOk [1, 2, 4, 8, 16, 32, 64] (gExt s g 4) && decide (ownDom s g < gExt s g 4) &&
  odGet s (grpObj g) 5 / 2 ^ 20 == 0 && ((gLevels s g).all fun k => decide (2 ≤ hopCode s g k) && decide (hopCode s g k ≤ 9)) &&
  !((List.range 16).any fun h => h != g && odGet s (grpObj h) 1 == id)

/-- The digest of R321. -/
def groupDigest (s : State) (g : Nat) : Nat :=
  crc32c (leBytes 2 (odGet s (grpObj g) 1) ++ leBytes 4 (odGet s (grpObj g) 2) ++ leBytes 1 (odGet s (grpObj g) 3) ++ leBytes 1 0 ++
    leBytes 4 (odGet s (grpObj g) 5))

/-- XD with the fewest free slots. -/
def fewestSlots (s : State) : Nat :=
  (List.range 4).foldl (fun b x => if s.slotsFree.getD x 0 < s.slotsFree.getD b 0 then x else b) 0

/-- A FORMING group with no level peer is READY at once; so is one that all its peers have matched (R321). -/
def settleForming (g : Nat) (s : State) : State :=
  let x := s.group g
  if x.state = 1 ∧ (levelPeers s g).all (fun r => x.formed.contains r) then s.modGroup g fun x => { x with state := 2 } else s

/-- Create a group: admission, FORMING (R321, R323). -/
def groupCreate (g : Nat) (s : State) : State :=
  let want := odGet s (grpObj g) 7
  let fits := s.slotsFree.all fun n => decide (want ≤ n)
  let mode := if want = 0 then 1 else if fits then 0 else 2
  let x : Group := { state := 1, mode := mode, rank := (rankOf s g (own s) (ownDom s g)).getD 0,
                     ranks := ((List.range 5).map (gExt s g)).foldl (· * ·) 1, digest := groupDigest s g, slots := if mode = 0 then want else 0 }
  let xd := fewestSlots s
  let s1 := (s.modGroup g fun _ => x)
  let s2 := { s1 with slotsFree := if mode = 0 then s1.slotsFree.map (· - want) else s1.slotsFree }
  let s3 := if mode = 2 then
      emcy 0xFF72 [g, odGet s (grpObj g) 1 % 256, odGet s (grpObj g) 1 / 256, xd, min 255 (s.slotsFree.getD xd 0)] s2
    else s2
  settleForming g { s3 with fab := { s3.fab with flows := s3.fab.flows.filter fun f => f.tag != 16 + g,
                                                 seqOut := s3.fab.seqOut.filter fun e => e.1 / 2 ^ 20 != 16 + g } }

/-- Delete a group: its slots are free again (R321). -/
def groupDelete (g : Nat) (s : State) : State :=
  let n := (s.group g).slots
  { s.modGroup g (fun _ => {}) with
    slotsFree := s.slotsFree.map (· + n), xflows := s.xflows.filter fun x => x.g != g }

/-- Clear a fault: FAULTED returns to FORMING (R321). -/
def groupReform (g : Nat) (s : State) : State :=
  settleForming g (s.modGroup g fun x => { x with state := 1, reason := 0, faultRank := 0, formed := [], given := [], asked := [], early := [], aborts := [] })

/-! ## Between domains (R345) -/

def xflowOf (s : State) (g peer : Nat) : XFlow := (s.xflows.find? fun x => x.g == g && x.peer == peer).getD { g := g, peer := peer }
def setXflow (x : XFlow) (s : State) : State := { s with xflows := x :: s.xflows.filter fun y => !(y.g == x.g && y.peer == x.peer) }

/-- Send a datagram to a member of another domain on an E port (R345). -/
def xdomPut (port g rank : Nat) (p : Packet) (s : State) : State :=
  let a := xpeer s (memberDom s g rank)
  sendE port false a.1 a.2.1 p s

/-- Number and keep a datagram of an operation, and send it. -/
def xdomSend (port g rank bucket use : Nat) (p0 : Packet) (s : State) : State :=
  let x := xflowOf s g rank
  let p := { p0 with domain := ownDomain s, sdev := own s, jobtag := odGet s 0x2300 2, seq := x.nextOut }
  let u : Unacked := { seq := x.nextOut, pkt := p, bucket := bucket, use := use, port := port }
  xdomPut port g rank p (setXflow { x with nextOut := (x.nextOut + 1) % 2 ^ 24, unacked := x.unacked ++ [u] } s)

/-- Send a packet to a member: over the fabric, or to another domain on E port `port` (R333, R345). -/
def memberSend (port g rank bucket use : Nat) (permit : Bool) (p : Packet) (s : State) : State :=
  let q := { p with ddev := memberDev s g rank }
  if memberDom s g rank = ownDom s g then (send permit q s).2 else xdomSend port g rank bucket use q s

/-! ## FORM (R321) -/

/-- FORM of a group, from the engine of XD0. -/
def sendForm (g rank : Nat) (s : State) : State :=
  let p := blank 10 0x1F 0 0xF0 0xF0 (memberDev s g rank) (odGet s (grpObj g) 1 + (s.group g).digest * 2 ^ 16) 0 []
  if memberDom s g rank = ownDom s g then (send false p s).2
  else xdomPut 0 g rank { p with domain := ownDomain s, sdev := own s, jobtag := odGet s 0x2300 2 } s

/-- FORM_TIMER: every group that is FORMING or READY sends FORM to its level peers. -/
def execFormTimer (s : State) : Out :=
  .next ((List.range 16).foldl (fun t g =>
    if (t.group g).state = 1 ∨ (t.group g).state = 2 then (levelPeers t g).foldl (fun u r => sendForm g r u) t else t) s)

/-- 0xFF71 (R349). -/
def faultEvent (g reason rank : Nat) (s : State) : State :=
  let id := odGet s (grpObj g) 1
  emcy 0xFF71 [g, id % 256, id / 256, reason, rank % 256] s

end Sys2Proof.Machine
end

