-- ==== Sys2Proof/Machine/Coll.lean ====
section
/-! DEFINITION. The operations of the collective engines: the COLL descriptor and its validation (R342, R343), segments (R328), levels and
hop formats (R333 to R335), the other operations (R336 to R340), buckets and completion (R341, R346, R347), faults (R344). -/

namespace Sys2Proof.Machine

/-! ## The descriptor (R342) -/

structure Co where
  opc : Nat
  ch : Nat
  sfmt : Nat
  ofmt : Nat
  rnd : Nat
  ceven : Bool
  cev : Nat
  ten : Bool
  det : Bool
  saddr : Nat
  bucket : Nat
  daddr : Nat
  n : Nat
  cap : Nat
  idx0 : Nat
  srsid : Nat
  rowlen : Nat
  iofs : Nat
  root : Nat
  rofs : Nat
  rcap : Nat
  scr : Nat
  scrlen : Nat
deriving DecidableEq, Repr

def coOf (d : Desc) : Co :=
  let w := d.word
  { opc := fld (w 0) 28 4, ch := fld (w 0) 25 3, sfmt := fld (w 0) 21 4, ofmt := fld (w 0) 17 4, rnd := fld (w 0) 15 2, ceven := bitAt (w 0) 14,
    cev := fld (w 0) 6 8, ten := bitAt (w 0) 5, det := bitAt (w 0) 4, saddr := fld (w 1) 0 48, bucket := fld (w 1) 48 16, daddr := fld (w 2) 0 48,
    n := fld (w 3) 0 32, cap := fld (w 3) 32 16, idx0 := fld (w 4) 0 48, srsid := fld (w 5) 0 32, rowlen := fld (w 5) 32 32,
    iofs := fld (w 6) 0 23, root := fld (w 6) 24 18, rofs := fld (w 7) 0 23, rcap := fld (w 7) 24 24, scr := fld (w 8) 0 48, scrlen := fld (w 8) 48 16 }

def Co.reduces (f : Co) : Bool := decide (f.opc ≤ 1)
def Co.rows (f : Co) : Bool := f.opc == 5 || f.opc == 6
def Co.direct (f : Co) : Bool := decide (4 ≤ f.opc) && decide (f.opc ≤ 6)

/-- Format that level kind `k` carries for input of format `fin` (R334). -/
def hopFmt (s : State) (g k fin : Nat) : Nat := if hopCode s g k = 5 ∧ fin = 9 then 9 else hopCode s g k

/-- Format of a level's result (R334). -/
def resultFmt (h : Nat) : Nat := if h = 9 ∨ isMx h then h else 5

/-- Formats of the levels in order: what each carries; none where a LONG level is given other input. -/
def levelFmts (s : State) (g : Nat) : List Nat → Nat → Option (List Nat)
  | [], _ => some []
  | k :: r, fin =>
    let h := hopFmt s g k fin
    if h = 9 ∧ fin ≠ 9 then none else (levelFmts s g r (resultFmt h)).map (h :: ·)

/-- Formats of a reduction's operands (R343). -/
def redFmt (x : Nat) : Bool := decide (2 ≤ x) && decide (x ≤ 9)

/-- Bytes of a row of A2AV and DISPATCH, or of a block of A2A, in a format. -/
def Co.rowBytes (f : Co) (fmt : Nat) : Nat := fmtBytes fmt (if f.rows then f.rowlen else f.n)

/-- FIELD checks that need no group (R342, R343). -/
def coFieldAlone (d : Desc) (f : Co) : Bool :=
  d.chainRsvd || fld (d.word 0) 0 4 != 0 || strayBits (d.word 2) [(0, 48)] || strayBits (d.word 3) [(0, 48)] || strayBits (d.word 4) [(0, 48)] ||
  strayBits (d.word 6) [(0, 23), (24, 18)] || strayBits (d.word 7) [(0, 23), (24, 24)] || decide (7 < f.opc) || f.rnd == 3 ||
  (!f.rows && (f.cap != 0 || f.rowlen != 0 || f.iofs != 0 || f.rcap != 0)) || (f.opc != 3 && f.root != 0) ||
  (f.opc == 7 && (f.n != 0 || f.sfmt != 0 || f.ofmt != 0 || f.rnd != 0 || f.ten || f.saddr != 0 || f.daddr != 0 || f.idx0 != 0 || f.srsid != 0 ||
    f.rofs != 0)) ||
  (f.rofs != 0 && !f.ten && !f.rows) || (f.reduces && !(redFmt f.sfmt && redFmt f.ofmt)) ||
  (!f.reduces && f.opc != 7 && !(f.sfmt == f.ofmt && decide (f.sfmt ≤ 10) || (pairOk f.sfmt f.ofmt && (f.ofmt == 4 || f.ofmt == 5) && f.sfmt != 5 && f.sfmt != 9))) ||
  (f.rows && f.cap == 0) ||
  (f.direct && (f.rowBytes f.sfmt % 128 != 0 || f.rowBytes f.ofmt % 128 != 0 || (nibs f.sfmt * (if f.rows then f.rowlen else f.n)) % 256 != 0))

/-- FIELD checks against the group (R334, R343). -/
def coFieldGroup (s : State) (g : Nat) (f : Co) : Bool :=
  let r := (s.group g).ranks
  let mx := isMx f.sfmt || isMx f.ofmt
  let lv := levelFmts s g (gLevels s g) f.sfmt
  (f.reduces && (lv.isNone || (f.ofmt == 9 && !(f.sfmt == 9 && (lv.getD []).all (· == 9))))) ||
  (f.opc == 1 && f.n % r != 0) ||
  (mx && ((f.opc == 1 && f.n / r % 32 != 0) || ((f.opc == 2 || f.opc == 3 || f.opc == 4) && f.n % 32 != 0) || (f.rows && f.rowlen % 32 != 0))) ||
  (f.opc == 3 && decide (r ≤ f.root))

/-- Elements of the source and of the destination. -/
def srcElems (f : Co) (r : Nat) : Nat := if f.opc = 4 then f.n * r else if f.rows then f.n * f.rowlen else if f.opc = 7 then 0 else f.n
def dstElems (f : Co) (r : Nat) : Nat :=
  if f.opc = 1 then f.n / r else if f.opc = 2 ∨ f.opc = 4 then f.n * r else if f.rows then r * f.cap * f.rowlen else if f.opc = 7 then 0 else f.n

/-- Where the scales of an MX operand of `n` elements at `a` begin: on the line after its elements. -/
def scaleBase (fmt a n : Nat) : Nat := a + 128 * cdiv (fmtBytes fmt n) 128

/-- Bytes of an operand, its scales included. -/
def operandBytes (fmt n : Nat) : Nat := if isMx fmt then 128 * cdiv (fmtBytes fmt n) 128 + cdiv n 32 else fmtBytes fmt n

/-- The list of counts or destinations (R338). -/
def coList (s : State) (c : Nat) (f : Co) (r : Nat) : List Nat :=
  let n := if f.opc = 5 then r else if f.opc = 6 then f.n else 0
  let b := readBytes s (storeAddr c f.iofs) (4 * n)
  (List.range n).map fun i => numAt b (4 * i) 4

/-- Bytes of the report (R339). -/
def reportBytes (f : Co) (r : Nat) : Nat := if f.rows then 0x20 + 8 * r + 4 * f.rcap else if f.ten then 0x20 else 0

/-- RANGE (R338, R343); `s` as the engine reads the list. -/
def coRange (s : State) (c : Nat) (f : Co) (r : Nat) : Bool :=
  let l := coList s c f r
  let ln := if f.opc = 5 then r else if f.opc = 6 then f.n else 0
  f.saddr % 128 != 0 || f.daddr % 128 != 0 || f.iofs % 4 != 0 || f.rofs % 16 != 0 ||
  !memReach s (dieOf s c) f.saddr (operandBytes f.sfmt (srcElems f r)) || !memReach s (dieOf s c) f.daddr (operandBytes f.ofmt (dstElems f r)) ||
  decide (storeSize < f.iofs + 4 * ln) || decide (storeSize < f.rofs + reportBytes f r) ||
  (f.opc == 5 && l.sum != f.n) || (f.opc == 6 && l.any fun d => decide (r ≤ d) && d != 0xFFFFFFFF)

/-- The group a COLL names, if it is bound and READY. -/
def coGroup (s : State) (f : Co) : Option Nat :=
  match aget f.ch s.chans with
  | some g => if (s.group g).state = 2 then some g else none
  | none => none

/-- A COLL on a PASS_THROUGH group without a usable scratch (R325); a scratch that is misaligned or absent counts as none (log 124). -/
def noScratch (s : State) (c g : Nat) (f : Co) : Bool :=
  decide ((s.group g).mode ≠ 0) && (f.scrlen == 0 || f.scr % 128 != 0 || !memReach s (dieOf s c) f.scr (65536 * f.scrlen))

/-- Validation's code (R325, R343). -/
def coCode (s : State) (c : Nat) (d : Desc) (f : Co) : Nat :=
  if coFieldAlone d f then 4
  else match aget f.ch s.chans with
    | none => 0x0B
    | some g =>
      if coFieldGroup s g f then 4
      else if (s.group g).state ≠ 2 then 0x0B
      else if coRange s c f (s.group g).ranks then 5
      else if s.ops.any fun o => o.g == g && o.bucket == f.bucket then 0x10
      else if noScratch s c g f then 0x11
      else 0

/-! ## Segments (R328) -/

/-- Segments of a block, or of a region of A2A, A2AV and DISPATCH. -/
def pieces (f : Co) (r : Nat) : Nat :=
  if f.opc = 0 then cdiv f.n 512
  else if f.opc = 1 then cdiv (f.n / r) 512
  else if f.opc = 2 ∨ f.opc = 3 then cdiv f.n 512
  else if f.opc = 4 then cdiv (operandBytes f.sfmt f.n) 2048
  else if f.rows then cdiv (operandBytes f.sfmt (f.cap * f.rowlen)) 2048
  else 0

/-- All segments of the operation at this member. -/
def segments (f : Co) (r : Nat) : List Nat :=
  if f.opc = 3 then (List.range (pieces f r)).map (f.root * pieces f r + ·)
  else if f.opc = 0 then List.range (pieces f r)
  else List.range (pieces f r * r)

/-- Owner of a segment: R333's owner, or the rank whose block it is. -/
def segOwner (f : Co) (r s : Nat) : Nat := if f.opc = 0 then s % r else s / max 1 (pieces f r)

/-- First element and count of a segment in its block. -/
def segStart (f : Co) (r s : Nat) : Nat := if f.opc = 0 then 512 * s else 512 * (s % max 1 (pieces f r))
def segBlock (f : Co) (r : Nat) : Nat := if f.opc = 1 then f.n / r else f.n
def segCount (f : Co) (r s : Nat) : Nat := min 512 (segBlock f r - segStart f r s)

/-! ## Elements -/

/-- Read elements of an operand of `total` elements at `base`: codes, scales, poison (R328, R337). -/
def readElems (s : State) (fmt base total start n : Nat) : List Nat × List Nat × Nat :=
  let a := base + fmtBytes fmt start
  let xs := splitCodes fmt n (readBytes s a (fmtBytes fmt n))
  let sb := scaleBase fmt base total + start / 32
  let sc := if isMx fmt then (readBytes s sb (cdiv n 32)).map (·.toNat) else []
  let bad := fun (i : Nat) => poisoned s ((a + fmtBytes fmt i) / 128) || (isMx fmt && poisoned s ((sb + i / 32) / 128)) ||
    (fmt == 9 && (Long.ofBits (xs.getD i 0)).isNone)
  (xs, sc, ((List.range n).filter bad).foldl (fun m i => m ||| 2 ^ i) 0)

/-- A conversion that widens, which is always to nearest even (R164, R251). -/
def widens (fmt ofmt : Nat) : Bool := fmt != 5 && fmt != 9 && (ofmt == 5 || (ofmt == 4 && fmt != 4))

/-- The value of a code, and INEXACT of a long partial. -/
def codeNum (fmt scale x : Nat) : Num × Bool :=
  if fmt = 9 then match Long.ofBits x with
    | some l => (l.scaled (Num.ofInt 1 0), l.inexact)
    | none => (Num.nan, false)
  else (srcNum fmt x scale, false)

/-- A value rounded once to a format (R155, R159 to R164): codes, scales, SATURATED, INEXACT. `us` are the draws. -/
def convCodes (fmt ofmt mode : Nat) (us : Nat → Nat) (xs sc : List Nat) : List Nat × List Nat × Bool × Bool :=
  if fmt = ofmt then (xs, sc, false, false)
  else
    let nums := xs.zipIdx.map fun x => codeNum fmt (sc.getD (x.2 / 32) 0) x.1
    let m := if widens fmt ofmt then 0 else mode
    let inex := nums.any (·.2)
    if isMx ofmt then
      let bs := (blocks32 (xs.length + 1) (nums.zipIdx.map fun x => (x.1.1, us x.2))).map fun b => narrowBlock (dstFmt ofmt) m b
      (bs.flatMap (·.2.1), bs.map (·.1), bs.any (·.2.2), inex)
    else
      let rs := nums.zipIdx.map fun x => (dstFmt ofmt).round m (us x.2) x.1.1
      (rs.map (·.1), [], rs.any (·.2), inex)

/-- A value enters a level of format `h`: narrowed to nearest even; LONG becomes FP32 first (R334). -/
def hopCodes (fmt h : Nat) (xs sc : List Nat) : List Nat × List Nat × Bool × Bool :=
  if fmt = 9 ∧ h ≠ 9 then
    let a := convCodes 9 5 0 (fun _ => 0) xs sc
    let b := convCodes 5 h 0 (fun _ => 0) a.1 a.2.1
    (b.1, b.2.1, a.2.2.1 || b.2.2.1, a.2.2.2)
  else convCodes fmt h 0 (fun _ => 0) xs sc

/-- Requantize one block of sums with the agreed scale, raising it until every element fits (R335): scale, codes, SATURATED, raised. -/
def requantGo (f : Fmt) (xs : List Num) : Nat → Nat → Bool → Nat × List Nat × Bool × Bool
  | 0, sc, up => (sc, xs.map fun x => (f.round 0 0 (x.scale (127 - (sc : Int)))).1, false, up)
  | n + 1, sc, up =>
    let r := xs.map fun x => f.round 0 0 (x.scale (127 - (sc : Int)))
    if r.any (·.2) then
      if 0xFE ≤ sc then (0xFE, r.map (·.1), true, up) else requantGo f xs n (sc + 1) true
    else (sc, r.map (·.1), false, up)

/-- One MX pairwise sum, block by block: widened to FP32, added there, requantized (R334, R335): codes, scales, SATURATED, number of
raised blocks. -/
def addMx (fmt : Nat) (a b : List Nat × List Nat) : List Nat × List Nat × Bool × Nat :=
  let f := dstFmt fmt
  let wide := fun (sc c : Nat) => widen fp32 (mxElem f sc c)
  let blk := fun (i : Nat) =>
    let sa := a.2.getD i 0
    let sb := b.2.getD i 0
    let ps := (((a.1.drop (32 * i)).take 32).zip ((b.1.drop (32 * i)).take 32)).map fun p => (wide sa p.1, wide sb p.2)
    let big := ps.any fun p => p.1.2 || p.2.2
    let xs := ps.map fun p => f32 (addF32 (BitVec.ofNat 32 p.1.1) (BitVec.ofNat 32 p.2.1))
    if xs.any fun x => x.isNan || x.isInf then
      let r := narrowBlock f 0 (xs.map (·, 0))
      (r.1, r.2.1, r.2.2 || big, false)
    else
      let r := requantGo f xs 300 (max sa sb) false
      (r.1, r.2.1, r.2.2.1 || big, r.2.2.2)
  let rs := (List.range a.2.length).map blk
  (rs.flatMap (·.2.1), rs.map (·.1), rs.any (·.2.2.1), (rs.filter (·.2.2.2)).length)

/-- A value being combined, with the operation's flags. -/
structure Part where
  codes : List Nat
  scales : List Nat
  pois : Nat
  sat : Bool := false
  inexact : Bool := false
  raises : Nat := 0
deriving DecidableEq, Repr

/-- One pairwise combination at a level of format `h` (R334); non-MX, non-LONG values are FP32 words by then. -/
def combine2 (h : Nat) (a b : Part) : Part :=
  let pois := a.pois ||| b.pois
  let ab : Part := { codes := [], scales := [], pois := pois, sat := a.sat || b.sat, inexact := a.inexact || b.inexact, raises := a.raises + b.raises }
  if h = 9 then
    let rs := (a.codes.zip b.codes).map fun p => match Long.ofBits p.1, Long.ofBits p.2 with
      | some x, some y => x.combine y
      | _, _ => none
    let bad := (rs.zipIdx.filter fun r => r.1.isNone).foldl (fun m r => m ||| 2 ^ r.2) 0
    { ab with codes := rs.map fun r => match r with
        | some l => l.bits
        | none => 0, pois := pois ||| bad, inexact := ab.inexact || rs.any fun r => match r with
        | some l => l.inexact
        | none => false }
  else if isMx h then
    let r := addMx h (a.codes, a.scales) (b.codes, b.scales)
    { ab with codes := r.1, scales := r.2.1, sat := ab.sat || r.2.2.1, raises := ab.raises + r.2.2.2 }
  else
    { ab with codes := (a.codes.zip b.codes).map fun p => (addF32 (BitVec.ofNat 32 p.1) (BitVec.ofNat 32 p.2)).toNat }

/-- Pairwise addition in ascending index (R333). -/
def pairs {α : Type} (f : α → α → α) : List α → List α
  | a :: b :: r => f a b :: pairs f r
  | l => l

def pairTree {α : Type} (f : α → α → α) : Nat → List α → List α
  | 0, l => l
  | n + 1, l => if l.length ≤ 1 then l else pairTree f n (pairs f l)

/-- The level's combination of its values, which lie in format `h` (R334). -/
def combineLevel (h : Nat) (l : List Part) : Option Part :=
  let l1 := if h = 9 ∨ isMx h then l else l.map fun p => { p with codes := (convCodes h 5 0 (fun _ => 0) p.codes p.scales).1, scales := [] }
  (pairTree (combine2 h) l1.length l1).head?

/-! ## The wire (R328) -/

/-- Bytes to whole lines. -/
def padLines (b : List Byte) : List Byte := bytesAt b 0 (128 * cdiv b.length 128)

/-- Elements of one packet: a segment of LONG takes four, and one of DOUBLE, which R328 does not list, two (log 124). -/
def perPacket (fmt : Nat) : Nat := if fmt = 9 then 128 else if fmt = 10 then 256 else 512

/-- Payloads of a segment. -/
def wireOf (fmt : Nat) (xs sc : List Nat) : List (List Byte) :=
  if isMx fmt then [padLines (joinCodes fmt xs) ++ padLines (sc.map (BitVec.ofNat 8))]
  else (List.range (cdiv xs.length (perPacket fmt))).map fun i => padLines (joinCodes fmt ((xs.drop (perPacket fmt * i)).take (perPacket fmt)))

/-- Packets of a segment of `n` elements. -/
def wirePackets (fmt n : Nat) : Nat := cdiv n (perPacket fmt)

/-- Wire size of a segment in bytes (R324, R328). -/
def wireBytes (fmt n : Nat) : Nat := 128 * cdiv (fmtBytes fmt n) 128 + (if isMx fmt then 128 else 0)

/-- Codes and scales of a payload; `n` elements. -/
def unwire (fmt n : Nat) (b : List Byte) : List Nat × List Nat :=
  (splitCodes fmt n b, if isMx fmt then ((b.drop (128 * cdiv (fmtBytes fmt n) 128)).take (cdiv n 32)).map (·.toNat) else [])

/-- Poisoned elements as line bits of a packet, and line bits as elements. -/
def poisonLines (fmt n pois : Nat) : Nat :=
  ((List.range n).filter (bitAt pois)).foldl (fun m i => m ||| 2 ^ (fmtBytes fmt i / 128)) 0
def poisonElems (fmt n lines : Nat) : Nat :=
  let scaleLine := fun i => cdiv (fmtBytes fmt n) 128 + i / 4096
  ((List.range n).filter fun i => bitAt lines (fmtBytes fmt i / 128) || (isMx fmt && bitAt lines (scaleLine i))).foldl (fun m i => m ||| 2 ^ i) 0

/-! ## Operations in progress -/

def ranksOf (s : State) (g : Nat) : Nat := (s.group g).ranks

def findOp (s : State) (g bucket use : Nat) : Option CollOp := s.ops.find? fun o => o.g == g && o.bucket == bucket && o.use == use

/-- Change the operation with this identity. -/
def modOp (o : CollOp) (f : CollOp → CollOp) (s : State) : State :=
  { s with ops := s.ops.map fun x => if x.g == o.g && x.bucket == o.bucket && x.use == o.use then f x else x }

/-- The operation as it now stands. -/
def nowOp (o : CollOp) (s : State) : CollOp := (findOp s o.g o.bucket o.use).getD o

def CollOp.co (o : CollOp) : Co := coOf o.desc
def CollOp.live (o : CollOp) : Bool := o.fin.isNone

/-- The scratch of a COLL on a PASS_THROUGH group, where its engine lays arrivals and partials (R325). -/
def scratchOf (s : State) (g : Nat) (f : Co) : List (Nat × Nat) := if (s.group g).mode = 0 ∨ f.opc = 7 then [] else [(f.scr, 65536 * f.scrlen)]

/-- Source and destination, as (address, length), and what they share, but for the ALLREDUCE that R341 lets run in place. -/
def srcRange (f : Co) (r : Nat) : Nat × Nat := (f.saddr, operandBytes f.sfmt (srcElems f r))
def dstRange (f : Co) (r : Nat) : Nat × Nat := (f.daddr, operandBytes f.ofmt (dstElems f r))
def sharedBytes (f : Co) (r : Nat) : List (Nat × Nat) :=
  if f.opc = 0 ∧ f.saddr = f.daddr ∧ f.sfmt = f.ofmt then [] else overlapOf [srcRange f r] [dstRange f r]

/-- The bytes that a COLL leaves unspecified: its scratch, and what source and destination share (R325, R341; logs 5 and 111). -/
def lostBytes (s : State) (g : Nat) (f : Co) : List (Nat × Nat) := scratchOf s g f ++ sharedBytes f (ranksOf s g)

/-- What the operation's source reads as: raced bytes are free (R52), and those that the operation itself writes (R341). -/
def opView (s : State) (o : CollOp) : State :=
  match (s.core o.core).coll.run.find? fun r => r.desc == o.desc with
  | some r =>
    let own := sharedBytes o.co (ranksOf s o.g) ++ overlapOf [srcRange o.co (ranksOf s o.g)] (scratchOf s o.g o.co)
    raceView { r with raced := r.raced ++ own.map fun x => { lo := x.1, len := x.2, wr := true } } s
  | none => s

/-- Level number to kind, and the formats of the levels. -/
def kindAt (s : State) (g l : Nat) : Nat := (gLevels s g).getD l 0
def fmtAt (s : State) (o : CollOp) (l : Nat) : Nat := ((levelFmts s o.g (gLevels s o.g) o.co.sfmt).getD []).getD l 5

/-- Own rank and number of ranks. -/
def myRank (s : State) (g : Nat) : Nat := (s.group g).rank

/-- Digits below level `l` equal those of rank `r`. -/
def sameBelow (s : State) (g r l : Nat) : Bool :=
  (List.range l).all fun i => digit s g (myRank s g) (kindAt s g i) == digit s g r (kindAt s g i)

/-- Own index and the owner's index at a level. -/
def myIndex (s : State) (g l : Nat) : Nat := digit s g (myRank s g) (kindAt s g l)
def idxOf (s : State) (g r l : Nat) : Nat := digit s g r (kindAt s g l)
def levelCount (s : State) (g : Nat) : Nat := (gLevels s g).length

/-- Lowest and highest level at which own digits differ from a rank's. -/
def lowestDiff (s : State) (g r : Nat) : Option Nat := (List.range (levelCount s g)).find? fun l => myIndex s g l != idxOf s g r l
def highestDiff (s : State) (g r : Nat) : Option Nat := (List.range (levelCount s g)).reverse.find? fun l => myIndex s g l != idxOf s g r l

/-- The level peer with index `v`. -/
def peerAt (s : State) (g l v : Nat) : Nat := setDigit s g (myRank s g) (kindAt s g l) v
def peersAt (s : State) (g l : Nat) : List Nat := levelPeersAt s g (kindAt s g l)

/-- Where this member receives a distributed or gathered block of rank `r`: level and sending peer (R333, R336). -/
def distFrom (s : State) (o : CollOp) (r : Nat) : Option (Nat × Nat) :=
  (if o.co.opc = 2 then highestDiff s o.g r else lowestDiff s o.g r).map fun l => (l, peerAt s o.g l (idxOf s o.g r l))

/-- Where it sends it on: (level, peer). -/
def distTo (s : State) (o : CollOp) (r : Nat) : List (Nat × Nat) :=
  let n := levelCount s o.g
  let ls := match distFrom s o r with
    | none => List.range n
    | some (l, _) => (List.range n).filter fun i => if o.co.opc = 2 then decide (l < i) else decide (i < l)
  ls.flatMap fun l => (peersAt s o.g l).map (l, ·)

/-- Everything one segment makes this member receive: (level, phase, segment, peer). -/
def needsOf (s : State) (o : CollOp) (seg : Nat) : List (Nat × Nat × Nat × Nat) :=
  let f := o.co
  let r := segOwner f (ranksOf s o.g) seg
  let red := if f.reduces then (List.range (levelCount s o.g)).flatMap fun l =>
      if sameBelow s o.g r l ∧ myIndex s o.g l = idxOf s o.g r l then (peersAt s o.g l).map fun p => (l, 0, seg, p) else []
    else []
  let dist := if f.opc = 0 ∨ f.opc = 2 ∨ f.opc = 3 then match distFrom s o r with
      | some (l, p) => [(l, 1, seg, p)]
      | none => []
    else []
  let dir := if f.direct ∧ segOwner f (ranksOf s o.g) seg ≠ myRank s o.g then
      [(7, 0, myRank s o.g * pieces f (ranksOf s o.g) + seg % max 1 (pieces f (ranksOf s o.g)), r)] else []
  red ++ dist ++ dir

/-- Everything one segment makes it send. -/
def owesOf (s : State) (o : CollOp) (seg : Nat) : List (Nat × Nat × Nat × Nat) :=
  let f := o.co
  let r := segOwner f (ranksOf s o.g) seg
  let red := if f.reduces then (List.range (levelCount s o.g)).flatMap fun l =>
      if sameBelow s o.g r l ∧ myIndex s o.g l ≠ idxOf s o.g r l then [(l, 0, seg, peerAt s o.g l (idxOf s o.g r l))] else []
    else []
  let dist := if f.opc = 0 ∨ f.opc = 2 ∨ f.opc = 3 then (distTo s o r).map fun x => (x.1, 1, seg, x.2) else []
  let dir := if f.direct ∧ r ≠ myRank s o.g then [(7, 0, seg, r)] else []
  red ++ dist ++ dir

/-! ## Writing results -/

/-- Write a run of destination elements (R333, R336 to R339): memory, poison by line, tally, POISON_IN. -/
def putOut (o : CollOp) (start : Nat) (xs sc : List Nat) (pois : Nat) (s : State) : State :=
  let f := o.co
  let total := dstElems f (ranksOf s o.g)
  let a := f.daddr + fmtBytes f.ofmt start
  let b := joinCodes f.ofmt xs
  let sb := scaleBase f.ofmt f.daddr total + start / 32
  let rs := (a, b.length) :: (if isMx f.ofmt then [(sb, sc.length)] else [])
  let s1 := writeBytes a b s
  let s2 := if isMx f.ofmt then writeBytes sb (sc.map (BitVec.ofNat 8)) s1 else s1
  let badLine := fun (l : Nat) => (List.range xs.length).any fun i =>
    bitAt pois i && ((a + fmtBytes f.ofmt i) / 128 == l || (isMx f.ofmt && (sb + i / 32) / 128 == l))
  let ls := dedup (rs.flatMap fun p => linesOf p.1 p.2) []
  let s3 := ls.foldl (fun t l => settleLine rs (badLine l) l t) s2
  let t := if f.ten then tallyRow f.ofmt (m64 (f.idx0 + start)) xs sc else 0
  modOp o (fun x => { x with wrote := ls ++ x.wrote, poison := x.poison || pois != 0, tally := m64 (x.tally + t) }) s3

/-- Convert a value to OFMT under RND and write it at a destination position (R334). -/
def finalConv (s : State) (o : CollOp) (fmt pos : Nat) (xs sc : List Nat) : List Nat × List Nat × Bool × Bool :=
  let f := o.co
  let us := fun i => if f.rnd = 2 then srDraw (launchKey s 0) (m64 (f.idx0 + pos + i)) f.srsid else 0
  convCodes fmt f.ofmt f.rnd us xs sc

def flagOp (o : CollOp) (sat inexact : Bool) (raises : Nat) (s : State) : State :=
  let s1 := modOp o (fun x => { x with saturated := x.saturated || sat, inexact := x.inexact || inexact, raised := x.raised || raises != 0 }) s
  if raises = 0 then s1 else odInc (grpObj o.g) 0x10 8 raises s1

/-- Destination position of a segment: within the whole for ALLREDUCE, within the block for REDUCE_SCATTER, at the rank for a gather. -/
def dstPos (f : Co) (r seg : Nat) : Nat := if f.opc = 2 then segOwner f r seg * f.n + segStart f r seg else segStart f r seg

/-- Keep a value. -/
def keepVal (o : CollOp) (v : SegVal) (s : State) : State :=
  modOp o (fun x => { x with vals := v :: x.vals.filter fun w => !(w.level == v.level && w.seg == v.seg && w.src == v.src) }) s

def valAt (o : CollOp) (level seg src : Nat) : Option SegVal := o.vals.find? fun v => v.level == level && v.seg == seg && v.src == src

/-- The engine read poison: the operation will end POISON_IN (R195, R337). -/
def notePois (o : CollOp) (pois : Nat) (s : State) : State := if pois = 0 then s else modOp o (fun x => { x with poison := true }) s

/-- The state after `n` source elements from `start`, and their scales, have been read (R245). -/
def touchSrc (f : Co) (r start n : Nat) (s : State) : State :=
  (touchRead [(f.saddr + fmtBytes f.sfmt start, fmtBytes f.sfmt n),
    (scaleBase f.sfmt f.saddr (srcElems f r) + start / 32, if isMx f.sfmt then cdiv n 32 else 0)] s).2

/-- Own input of a segment, read and narrowed to the format of level 0 (R333, R334). -/
def ownInput (o : CollOp) (seg : Nat) (s : State) : SegVal × State :=
  let f := o.co
  let r := ranksOf s o.g
  let pos := if f.opc = 1 then segOwner f r seg * (f.n / r) + segStart f r seg else segStart f r seg
  let n := segCount f r seg
  let s1 := touchSrc f r pos n s
  let x := readElems (opView s1 o) f.sfmt f.saddr (srcElems f r) pos n
  let h := fmtAt s o 0
  let c := hopCodes f.sfmt h x.1 x.2.1
  ({ level := 0, seg := seg, src := myIndex s o.g 0, codes := c.1, scales := c.2.1, pois := x.2.2 },
   notePois o x.2.2 (flagOp o c.2.2.1 c.2.2.2 0 s1))

/-- Own value of a segment at a level, if it is there. -/
def ownVal (o : CollOp) (l seg : Nat) (s : State) : Option SegVal × State :=
  match valAt o l seg (myIndex s o.g l) with
  | some v => (some v, s)
  | none =>
    if l = 0 then
      let r := ownInput o seg s
      (some r.1, keepVal o r.1 r.2)
    else (none, s)

/-- Keep a value to pass on, where this member passes the segment on (R324, R333, R336). -/
def keepForward (o : CollOp) (v : SegVal) (s : State) : State :=
  if (owesOf s o v.seg).any fun x => x.2.1 == 1 then keepVal o v s else s

/-- Values that have been sent are held no longer (R324): an input of a level once its owner has it, a value to pass on once all peers
have it. -/
def freeSent (o : CollOp) (a : GrantRec) (s : State) : State :=
  let done := (owesOf s o a.seg).all fun x => x.2.1 == 0 || (nowOp o s).sent.contains x
  let gone := fun (v : SegVal) => v.seg == a.seg &&
    (if a.phase = 0 then v.level == a.level && v.src == myIndex s o.g a.level else done && (v.level == 5 || v.level == 6))
  if a.level = 7 then s else modOp o (fun x => { x with vals := x.vals.filter fun v => !gone v }) s

/-- A segment's reduced value is final: it is written and kept for distribution (R333). -/
def finishSeg (o : CollOp) (fmt seg : Nat) (xs sc : List Nat) (pois : Nat) (s : State) : State :=
  let r := ranksOf s o.g
  let c := finalConv s o fmt (dstPos o.co r seg) xs sc
  putOut o (dstPos o.co r seg) c.1 c.2.1 pois
    (keepForward o { level := 5, seg := seg, src := 0, codes := c.1, scales := c.2.1, pois := pois } (flagOp o c.2.2.1 c.2.2.2 0 s))

/-- Combine a level whose values have all arrived, and go on with the next level (R333). -/
def tryCombine : Nat → CollOp → Nat → Nat → State → State
  | 0, _, _, _, s => s
  | n + 1, o0, l, seg, s =>
    let o := nowOp o0 s
    let r := segOwner o.co (ranksOf s o.g) seg
    if levelCount s o.g ≤ l then s
    else if !(sameBelow s o.g r l && myIndex s o.g l == idxOf s o.g r l) then s
    else if !((peersAt s o.g l).all fun p => o.got.contains (l, 0, seg, p)) then s
    else
      let ov := ownVal o l seg s
      match ov.1 with
      | none => s
      | some _ =>
        let o1 := nowOp o ov.2
        let h := fmtAt s o l
        let ps := (List.range (gExt s o.g (kindAt s o.g l))).filterMap fun i => (valAt o1 l seg i).map fun v =>
          ({ codes := v.codes, scales := v.scales, pois := v.pois } : Part)
        match combineLevel h ps with
        | none => ov.2
        | some p =>
          let s1 := modOp o (fun x => { x with vals := x.vals.filter fun v => !(v.level == l && v.seg == seg) }) (flagOp o p.sat p.inexact p.raises ov.2)
          let fmt := resultFmt h
          if levelCount s o.g ≤ l + 1 then finishSeg o fmt seg p.codes p.scales p.pois s1
          else
            let c := hopCodes fmt (fmtAt s o (l + 1)) p.codes p.scales
            let v : SegVal := { level := l + 1, seg := seg, src := myIndex s o.g (l + 1), codes := c.1, scales := c.2.1, pois := p.pois }
            tryCombine n o (l + 1) seg (keepVal o v (flagOp o c.2.2.1 c.2.2.2 0 s1))

/-! ## A2A, A2AV, DISPATCH (R338) -/

/-- Rows of the region for each destination: kept, and all that were meant for it. -/
def destRows (s : State) (o : CollOp) : List (List Nat) :=
  let f := o.co
  let r := ranksOf s o.g
  let l := coList s o.core f r
  -- `s` as the engine reads the list
  (List.range r).map fun d =>
    if f.opc = 5 then (List.range (l.getD d 0)).map ((l.take d).sum + ·)
    else if f.opc = 6 then (List.range f.n).filter fun j => l.getD j 0 == d
    else []

/-- Elements of the region for a destination, zeros past the kept rows: codes, scales, poison (R338). -/
def regionOf (s : State) (o : CollOp) (d : Nat) : List Nat × List Nat × Nat :=
  let f := o.co
  let r := ranksOf s o.g
  let v := opView s o
  if f.opc = 4 then readElems v f.sfmt f.saddr (srcElems f r) (d * f.n) f.n
  else
    let rows := o.kept.getD d []
    let xs := rows.map fun j => readElems v f.sfmt f.saddr (srcElems f r) (j * f.rowlen) f.rowlen
    let z := (f.cap - rows.length) * f.rowlen
    (xs.flatMap (·.1) ++ List.replicate z 0, xs.flatMap (·.2.1) ++ (if isMx f.sfmt then List.replicate (z / 32) 0 else []),
     (xs.zipIdx.foldl (fun m x => m ||| (x.1.2.2 <<< (x.2 * f.rowlen))) 0))

/-- The state after the rows for a destination have been read (R245, R338). -/
def touchRegion (o : CollOp) (d : Nat) (s : State) : State :=
  let f := o.co
  let r := ranksOf s o.g
  if f.opc = 4 then touchSrc f r (d * f.n) f.n s
  else (o.kept.getD d []).foldl (fun t j => touchSrc f r (j * f.rowlen) f.rowlen t) s

/-- Elements of a region. -/
def regionElems (f : Co) : Nat := if f.opc = 4 then f.n else f.cap * f.rowlen

/-- Bytes of a region on the wire: its elements, then its scales. -/
def regionBytes (f : Co) (x : List Nat × List Nat × Nat) : List Byte := 
  padLines (joinCodes f.sfmt x.1) ++ (if isMx f.sfmt then padLines (x.2.1.map (BitVec.ofNat 8)) else [])

/-- One more than the last row of a region whose elements are not all zero codes. -/
def lastRow (f : Co) (xs : List Nat) : Nat :=
  (List.range f.cap).foldl (fun m j => if ((xs.drop (j * f.rowlen)).take f.rowlen).any (· != 0) then j + 1 else m) 0

/-- Write the region that came from a source rank (R338). -/
def putRegion (o : CollOp) (src : Nat) (xs sc : List Nat) (pois : Nat) (s : State) : State :=
  let f := o.co
  let c := finalConv s o f.sfmt (src * regionElems f) xs sc
  putOut o (src * regionElems f) c.1 c.2.1 pois (flagOp o c.2.2.1 c.2.2.2 0 s)

/-- All segments of a source's region have arrived: it is written. -/
def tryRegion (o0 : CollOp) (src : Nat) (s : State) : State :=
  let o := nowOp o0 s
  let f := o.co
  let p := pieces f (ranksOf s o.g)
  let vs := (List.range p).filterMap fun t => valAt o 7 (myRank s o.g * p + t) src
  if vs.length < p then s
  else
    let b := vs.flatMap fun v => v.codes.map (BitVec.ofNat 8)
    let n := regionElems f
    let lines := vs.zipIdx.foldl (fun m v => m ||| (v.1.pois <<< (16 * v.2))) 0
    let x := unwire f.sfmt n b
    let pois := poisonElems f.sfmt n lines
    let low := if f.rows then [(src, lastRow f x.1)] else []
    putRegion o src x.1 x.2 pois (modOp o (fun y => { y with vals := y.vals.filter (fun v => !(v.level == 7 && v.src == src)), rowsMin := low ++ y.rowsMin }) s)

/-! ## Faults (R344) -/

/-- The engine's endpoint that sends what names no segment. -/
def ctlEngine : Nat := 0xF0

/-- ARG of an ABORT (R329). -/
def abortArg (bucket use code rank : Nat) : Nat := bucket + use * 2 ^ 16 + code * 2 ^ 18 + rank * 2 ^ 26

/-- COL class of a group, where it is bound. -/
def classOf (s : State) (g : Nat) : Option Nat := (s.chans.find? fun e => e.2 == g).map fun e => e.1 + 2

/-- Send ABORT to every level peer. -/
def sendAbort (g bucket use code rank : Nat) (s : State) : State :=
  match classOf s g with
  | none => s
  | some cls => (levelPeers s g).foldl (fun t r =>
      memberSend 0 g r bucket use false (blank cls 0x12 0 ctlEngine ctlEngine 0 (abortArg bucket use code rank) 0 []) t) s

/-- An open operation ends with a code: nothing it owes is sent; it is counted and first reported once in a launch (R344, R349). -/
def endOp (o : CollOp) (code : Nat) (s : State) : State :=
  if (nowOp o s).live then
    let s1 := (modOp o (fun x => { x with fin := some code }) s).modGroup o.g fun x =>
      { x with asked := x.asked.filter fun a => !(a.bucket == o.bucket && a.use == o.use) }
    let s2 := odInc (grpObj o.g) 0x12 4 1 s1
    if (s.group o.g).abortReported then s2
    else emcy 0xFF73 [o.g, o.bucket % 256, o.bucket / 256, code, o.use] (s2.modGroup o.g fun x => { x with abortReported := true })
  else s

/-- It ends with a code, and its level peers are told that `rank` found the fault. -/
def failOpAs (rank : Nat) (o : CollOp) (code : Nat) (s : State) : State :=
  if (nowOp o s).live then sendAbort o.g o.bucket o.use code rank (endOp o code s) else s

/-- It ends with a code that this member found. -/
def failOp (o : CollOp) (code : Nat) (s : State) : State := failOpAs (myRank s o.g) o code s

/-- A group becomes FAULTED; its open operations end GROUP_STATE, with ABORT that names the rank `tell` (R344). -/
def faultGroup (g reason rank : Nat) (tell : Option Nat) (s : State) : State :=
  let s1 := faultEvent g reason rank (s.modGroup g fun x => { x with state := 3, reason := reason, faultRank := rank })
  (s.ops.filter fun o => o.g == g).foldl (fun t o => match tell with
    | some r => failOpAs r o 0x0B t
    | none => endOp o 0x0B t) s1

/-- FORM: a level peer's digest is compared; a different one faults a READY group too (R321, log 56). -/
def formArrived (p : Packet) (s : State) : State :=
  match (List.range 16).find? fun g => ((s.group g).state == 1 || (s.group g).state == 2) && odGet s (grpObj g) 1 == fld p.arg 0 16 with
  | none => s
  | some g =>
    match senderRank s g p with
    | none => s
    | some r =>
      if p.jobtag ≠ odGet s 0x2300 2 ∨ (levelPeers s g).contains r = false then s
      else if fld p.arg 16 32 ≠ (s.group g).digest then
        faultGroup g 1 r (some (myRank s g)) s
      else settleForming g (s.modGroup g fun x => { x with formed := if x.formed.contains r then x.formed else r :: x.formed })

/-- FORM, over the fabric or (`fromE`) over the ordinary network. -/
def execForm (fromE : Bool) (pkt : Packet) (s : State) : Out :=
  match s.inbox.find? fun e => e.pkt == pkt && e.fromE.isSome == fromE with
  | some e => .next (if pkt.op = 0x1F then formArrived pkt { s with inbox := s.inbox.erase e } else s)
  | none => .next s

/-! ## Sending what has been granted (R331) -/

/-- A DATA packet of a payload (R329). -/
def dataPacket (cls ep : Nat) (b : List Byte) (poison : Nat) : Packet :=
  blank cls 0x10 (b.length / 128) ep ep 0 (regionTally 0 b) poison b

/-- The value that answers a granted segment, as packets' payloads with their poison, if it is available. -/
def answer (o : CollOp) (a : GrantRec) (s : State) : Option (List (List Byte × Nat)) × State :=
  let f := o.co
  let r := ranksOf s o.g
  let pack := fun (fmt : Nat) (xs sc : List Nat) (pois : Nat) =>
    (wireOf fmt xs sc).zipIdx.map fun b =>
      (b.1, poisonLines fmt (min (perPacket fmt) (xs.length - perPacket fmt * b.2)) (pois >>> (perPacket fmt * b.2)))
  if a.level = 7 then
    let s1 := touchRegion o a.peer s
    let x := regionOf s1 o a.peer
    let b := regionBytes f x
    let t := a.seg % max 1 (pieces f r)
    let seg := (b.drop (2048 * t)).take 2048
    let lines := ((List.range (regionElems f)).filter (bitAt x.2.2)).foldl (fun m i => m ||| 2 ^ (fmtBytes f.sfmt i / 128)) 0
    let p := if o.badList then 2 ^ (seg.length / 128) - 1 else (lines >>> (16 * t)) % 2 ^ 16
    (some [(seg, p)], notePois o p s1)
  else if a.phase = 0 then
    let v := ownVal o a.level a.seg s
    (v.1.map fun v => pack (fmtAt s o a.level) v.codes v.scales v.pois, v.2)
  else if f.opc = 0 then
    match valAt o 5 a.seg 0 with
    | some v => (some (pack f.ofmt v.codes v.scales v.pois), s)
    | none => (none, s)
  else
    let owner := segOwner f r a.seg
    if owner = myRank s o.g then
      let s1 := touchSrc f r (segStart f r a.seg) (segCount f r a.seg) s
      let x := readElems (opView s1 o) f.sfmt f.saddr (srcElems f r) (segStart f r a.seg) (segCount f r a.seg)
      (some (pack f.sfmt x.1 x.2.1 x.2.2), notePois o x.2.2 s1)
    else match valAt o 6 a.seg owner with
      | some v => (some (pack f.sfmt v.codes v.scales v.pois), s)
      | none => (none, s)

/-- The engine's endpoint of a segment. -/
def segEngine (seg : Nat) : Nat := 0xF0 + seg % 4

/-- Answer the oldest granted segment of one peer's endpoint, if its operation has started and its value is there; whether it was sent. -/
def answerOne (g peer ep : Nat) (s : State) : Bool × State :=
  match (s.group g).asked.find? fun a => a.peer == peer && a.ep == ep, classOf s g with
  | some a, some cls =>
    match findOp s g a.bucket a.use with
    | none => (false, s)
    | some o =>
      if !o.live then (false, s)
      else match answer o a s with
        | (none, s1) => (false, s1)
        | (some ps, s1) =>
          let s2 := ps.foldl (fun t b =>
            memberSend (a.seg % 4) g peer a.bucket a.use o.co.det (dataPacket cls (0xF0 + a.ep) b.1 b.2) t) s1
          (true, freeSent o a (modOp o (fun x => { x with sent := (a.level, a.phase, a.seg, a.peer) :: x.sent })
            (s2.modGroup g fun x => { x with asked := x.asked.erase a })))
  | _, _ => (false, s)

def answerAll (g peer xd : Nat) : Nat → State → State
  | 0, s => s
  | n + 1, s =>
    let r := answerOne g peer xd s
    if r.1 then answerAll g peer xd n r.2 else r.2

/-- Send everything of a group that is granted and available. -/
def pumpGroup (g : Nat) (s : State) : State :=
  let n := (s.group g).asked.length
  (dedup ((s.group g).asked.map (·.peer)) []).foldl (fun t p => (List.range 4).foldl (fun u x => answerAll g p x n u) t) s

/-! ## Tokens (R340) -/

/-- Send the tokens of every level whose lower levels' tokens have come. -/
def pumpTokens (o0 : CollOp) (s : State) : State :=
  (List.range (levelCount s o0.g)).foldl (fun t l =>
    let o := nowOp o0 t
    let ready := (List.range l).all fun i => (peersAt t o.g i).all fun p => o.tokens.contains (i, p)
    match classOf t o.g with
    | some cls =>
      if o.live ∧ ready ∧ o.tokensSent.contains l = false then
        (peersAt t o.g l).foldl (fun u r =>
          memberSend 0 o.g r o.bucket o.use o.co.det (blank cls 0x13 0 ctlEngine ctlEngine 0 (o.bucket + o.use * 2 ^ 16 + l * 2 ^ 18) 0 []) u)
          (modOp o (fun x => { x with tokensSent := l :: x.tokensSent }) t)
      else t
    | none => t) s

/-! ## Grants (R324, R330, R331) -/

/-- The check of a GRANT (R330). -/
def grantCheck (s : State) (o : CollOp) : Nat :=
  let f := o.co
  crc32c (leBytes 2 (odGet s (grpObj o.g) 1) ++ leBytes 1 f.opc ++ leBytes 1 f.sfmt ++ leBytes 1 f.ofmt ++ leBytes 4 f.n ++ leBytes 2 f.cap ++
    leBytes 4 f.rowlen ++ leBytes 4 f.root ++ leBytes 4 (odGet s (grpObj o.g) 5)) % 4096

/-- ARG of a GRANT (R330). -/
def grantArg (s : State) (o : CollOp) (level phase first count : Nat) : Nat :=
  o.bucket + o.use * 2 ^ 16 + level * 2 ^ 18 + phase * 2 ^ 21 + first * 2 ^ 22 + (count - 1) * 2 ^ 46 + grantCheck s o * 2 ^ 52

/-- The format in which a granted segment arrives. -/
def recFmt (s : State) (o : CollOp) (r : GrantRec) : Nat :=
  if r.phase = 0 then fmtAt s o r.level else if o.co.opc = 0 then o.co.ofmt else o.co.sfmt

/-- Room of a value that a grant has promised to take (R324); a direct region arrives in the destination (R338). -/
def grantBytes (s : State) (o : CollOp) (r : GrantRec) : Nat :=
  if r.level = 7 then 0 else wireBytes (recFmt s o r) (segCount o.co (ranksOf s o.g) r.seg)

/-- Room of a partial at a level: 2 KiB, 8 KiB of LONG, MX partials in their MX form (R324, R335). -/
def partialBytes (s : State) (o : CollOp) (level seg : Nat) : Nat :=
  let fmt := fmtAt s o level
  if fmt = 9 then 8192 else if isMx fmt then wireBytes fmt (segCount o.co (ranksOf s o.g) seg) else 2048

/-- Bytes of a kept value. -/
def valBytes (s : State) (o : CollOp) (v : SegVal) : Nat :=
  if v.level ≤ 4 then wireBytes (fmtAt s o v.level) v.codes.length
  else if v.level = 5 then wireBytes o.co.ofmt v.codes.length
  else if v.level = 6 then wireBytes o.co.sfmt v.codes.length
  else 0

/-- Grants of an operation that have not been answered whole. -/
def opGiven (s : State) (o : CollOp) : List GrantRec := (s.group o.g).given.filter fun r => r.bucket == o.bucket && r.use == o.use

/-- Segments and levels that hold a partial: granted for a level, or an arrival held there, until the level is combined (R324). -/
def partialsOf (s : State) (o : CollOp) : List (Nat × Nat) :=
  (((opGiven s o).filter fun r => r.phase == 0 && decide (r.level ≤ 4)).map (fun r => (r.level, r.seg)) ++
    (o.vals.filter fun v => decide (v.level ≤ 4) && v.src != myIndex s o.g v.level).map fun v => (v.level, v.seg)).eraseDups

/-- Bytes that an operation holds and has reserved for the segments that `p` names. -/
def opBytes (s : State) (o : CollOp) (p : Nat → Bool) : Nat :=
  ((o.vals.filter fun v => p v.seg).map (valBytes s o)).sum + (((opGiven s o).filter fun r => p r.seg).map (grantBytes s o)).sum +
  (((partialsOf s o).filter fun x => p x.2).map fun x => partialBytes s o x.1 x.2).sum

/-- Bytes of a group on one XD, which handles every fourth segment (R322). -/
def storeUsed (s : State) (g xd : Nat) : Nat := ((s.ops.filter fun o => o.g == g).map fun o => opBytes s o fun seg => seg % 4 == xd).sum

/-- Bytes of one operation, all of them in scratch (R325). -/
def scratchUsed (s : State) (o : CollOp) : Nat := opBytes s o fun _ => true

/-- Collective-segment entries of an XD in use (R306). -/
def segEntries (s : State) (xd : Nat) : Nat := (s.groups.map fun x => (x.given.filter fun r => r.seg % 4 == xd).length).sum

/-- With these grants given there is still room for everything (R324, R325). -/
def grantRoom (s : State) (o : CollOp) : Bool :=
  ((List.range 4).all fun xd => decide (segEntries s xd ≤ 32768)) &&
  (if (s.group o.g).mode = 0 then (List.range 4).all fun xd => decide (storeUsed s o.g xd ≤ 65536 * (s.group o.g).slots)
   else decide (scratchUsed s o ≤ 65536 * o.co.scrlen))

/-- The segments of a GRANT: `count` consecutive ones from `first`, granted by the engine of `ep` (R330). -/
def grantRecs (bucket use peer level phase first count ep : Nat) : List GrantRec :=
  (List.range count).map fun i => { bucket := bucket, use := use, peer := peer, level := level, phase := phase, seg := first + i, ep := ep }

/-- GRANT_ISSUE: the engine that handles segment `first` offers a peer room for `count` consecutive segments that this member is to
receive and has not granted; without room the grant waits (R324, R330). -/
def execGrantIssue (g bucket peer level phase first count : Nat) (s : State) : Out :=
  match s.ops.find? fun o => o.g == g && o.bucket == bucket, classOf s g with
  | some o, some cls =>
    let recs := grantRecs o.bucket o.use peer level phase first count (first % 4)
    let all := (segments o.co (ranksOf s g)).flatMap (needsOf s o)
    let fresh := recs.all fun x => all.contains (level, phase, x.seg, peer) && !o.got.contains (level, phase, x.seg, peer) &&
      !((opGiven s o).any fun r => r.peer == peer && r.level == level && r.phase == phase && r.seg == x.seg)
    if o.live ∧ 1 ≤ count ∧ count ≤ 64 ∧ first < 2 ^ 24 ∧ fresh then
      let s1 := s.modGroup g fun x => { x with given := x.given ++ recs }
      if grantRoom s1 o then
        .next (memberSend (first % 4) g peer o.bucket o.use o.co.det
          (blank cls 0x11 0 (segEngine first) (segEngine first) 0 (grantArg s o level phase first count) 0 []) s1)
      else .next (odInc 0x2500 7 8 1 s)
    else .next s
  | _, _ => .next s

/-- What a GRANT asks of this member. -/
def askedBy (peer : Nat) (p : Packet) : List GrantRec :=
  grantRecs (fld p.arg 0 16) (fld p.arg 16 2) peer (fld p.arg 18 3) (fld p.arg 21 1) (fld p.arg 22 24) (fld p.arg 46 6 + 1) (p.sep % 4)

/-- Of the segments asked of an open operation, only those that it owes and has not sent stay. -/
def settleAsked (o : CollOp) (s : State) : State :=
  let all := (segments o.co (ranksOf s o.g)).flatMap (owesOf s o)
  s.modGroup o.g fun x => { x with asked := x.asked.filter fun r =>
    !(r.bucket == o.bucket && r.use == o.use) || (all.contains (r.level, r.phase, r.seg, r.peer) && !(nowOp o s).sent.contains (r.level, r.phase, r.seg, r.peer)) }

/-- The segments of a GRANT stand behind those asked before (R331). -/
def noteAsked (g peer : Nat) (p : Packet) (s : State) : State := s.modGroup g fun x => { x with asked := x.asked ++ askedBy peer p }

/-- A GRANT for an open operation: its check is compared, its segments are owed (R331). -/
def takeGrant (o : CollOp) (peer : Nat) (p : Packet) (s : State) : State :=
  if !o.live then s
  else if fld p.arg 52 12 ≠ grantCheck s o then failOp o 0x0E s
  else pumpGroup o.g (settleAsked o (noteAsked o.g peer p s))

/-- The use is one that the bucket's next operations here will have; the number before them, modulo 4, is the last one's (R341, log 125). -/
def laterUse (s : State) (g bucket use : Nat) : Bool := decide ((use + 4 - (aget bucket (s.group g).uses).getD 0) % 4 < 3)

/-- A TOKEN for an open operation (R340). -/
def takeToken (o : CollOp) (peer : Nat) (p : Packet) (s : State) : State :=
  if o.live then pumpTokens o (modOp o (fun x => { x with tokens := (fld p.arg 18 3, peer) :: x.tokens }) s) else s

/-- Keep a GRANT or TOKEN of an operation that has not started here. -/
def keepEarly (g : Nat) (p : Packet) (s : State) : State := s.modGroup g fun x => { x with early := x.early ++ [p] }

/-- The first packet of its flow in the inbox, taken from it: packets of a COL flow reach the engine in order (R285). -/
def takeFlow (op : Nat) (pkt : Packet) (s : State) : Option (Nat × State) :=
  match s.inbox.find? fun e => e.pkt.cls == pkt.cls && e.pkt.sdev == pkt.sdev && e.pkt.sep == pkt.sep && e.pkt.domain == pkt.domain with
  | some e => if e.pkt == pkt ∧ pkt.op = op then (boundGroup s pkt.cls).map fun g => (g, { s with inbox := s.inbox.erase e }) else none
  | none => none

def execGrant (pkt : Packet) (s : State) : Out :=
  match takeFlow 0x11 pkt s with
  | none => .next s
  | some (g, s1) => match senderRank s1 g pkt with
    | none => .next s1
    | some r => match findOp s1 g (fld pkt.arg 0 16) (fld pkt.arg 16 2) with
      | some o => .next (takeGrant o r pkt s1)
      | none => .next (if laterUse s1 g (fld pkt.arg 0 16) (fld pkt.arg 16 2) then noteAsked g r pkt (keepEarly g pkt s1) else s1)

def execToken (pkt : Packet) (s : State) : Out :=
  match takeFlow 0x13 pkt s with
  | none => .next s
  | some (g, s1) => match senderRank s1 g pkt with
    | none => .next s1
    | some r => match findOp s1 g (fld pkt.arg 0 16) (fld pkt.arg 16 2) with
      | some o => .next (takeToken o r pkt s1)
      | none => .next (if laterUse s1 g (fld pkt.arg 0 16) (fld pkt.arg 16 2) then keepEarly g pkt s1 else s1)

/-! ## Data (R331 to R337) -/

/-- A segment has arrived whole: it is combined, written, kept to pass on (R333, R336). -/
def gotSegment (o : CollOp) (r : GrantRec) (v : SegVal) (s : State) : State :=
  let f := o.co
  let s1 := notePois o v.pois (modOp o (fun x => { x with got := (r.level, r.phase, r.seg, r.peer) :: x.got }) s)
  let owner := segOwner f (ranksOf s o.g) r.seg
  if r.level = 7 then tryRegion o r.peer (keepVal o { v with level := 7, src := r.peer } s1)
  else if r.phase = 0 then tryCombine 6 o r.level r.seg (keepVal o { v with level := r.level, src := idxOf s o.g r.peer r.level } s1)
  else if f.opc = 0 then
    putOut o (dstPos f (ranksOf s o.g) r.seg) v.codes v.scales v.pois (keepForward o { v with level := 5, src := 0 } s1)
  else
    let pos := dstPos f (ranksOf s o.g) r.seg
    let c := finalConv s o f.sfmt pos v.codes v.scales
    putOut o pos c.1 c.2.1 v.pois (keepForward o { v with level := 6, src := owner } (flagOp o c.2.2.1 c.2.2.2 0 s1))

/-- Handle a DATA packet against the oldest grant of its flow (R331, R332). -/
def takeData (g peer : Nat) (p : Packet) (s : State) : State :=
  match (s.group g).given.find? fun r => r.peer == peer && 0xF0 + r.ep == p.sep with
  | none => odInc 0x2500 6 4 1 s
  | some r =>
    match findOp s g r.bucket r.use with
    | none => odInc 0x2500 6 4 1 (s.modGroup g fun x => { x with given := x.given.erase r })
    | some o =>
      let f := o.co
      let fmt := recFmt s o r
      let n := if r.level = 7 then 0 else segCount f (ranksOf s g) r.seg
      let last := r.level == 7 || decide (wirePackets fmt n ≤ r.part + 1)
      let more := fun (y : GrantRec) => if y == r then { r with part := r.part + 1 } else y
      let s1 := s.modGroup g fun x => { x with given := if last then x.given.erase r else x.given.map more }
      if !o.live then odInc 0x2500 6 4 1 s1
      else if regionTally 0 p.bytes ≠ p.arg then failOp o 0x0F s1
      else if r.level = 7 then
        gotSegment o r { level := 7, seg := r.seg, src := peer, codes := p.bytes.map (·.toNat), scales := [], pois := p.poison } s1
      else
        let k := min (perPacket fmt) (n - perPacket fmt * r.part)
        let x := unwire fmt k p.bytes
        let pois := (poisonElems fmt k p.poison) <<< (perPacket fmt * r.part)
        let old := (valAt o 8 r.seg peer).getD { level := 8, seg := r.seg, src := peer, codes := [], scales := [], pois := 0 }
        let v : SegVal := { old with codes := old.codes ++ x.1, scales := x.2, pois := old.pois ||| pois }
        if last then gotSegment o r v (modOp o (fun y => { y with vals := y.vals.filter fun w => !(w.level == 8 && w.seg == r.seg && w.src == peer) }) s1)
        else keepVal o v s1

def execData (pkt : Packet) (s : State) : Out :=
  match takeFlow 0x10 pkt s with
  | none => .next s
  | some (g, s1) => match senderRank s1 g pkt with
    | none => .next (odInc 0x2500 6 4 1 s1)
    | some r => .next (pumpGroup g (takeData g r pkt s1))

/-- An ABORT: the operation ends PEER_ABORT and the ABORT is relayed once; GROUP_STATE faults the group; one for an operation not
yet started is kept (R344). -/
def takeAbort (g peer : Nat) (p : Packet) (s0 : State) : State :=
  let bucket := fld p.arg 0 16
  let use := fld p.arg 16 2
  let code := fld p.arg 18 8
  let rank := fld p.arg 26 18
  let s := s0.modGroup g fun x => { x with given := x.given.filter fun r => !(r.bucket == bucket && r.use == use && r.peer == peer) }
  if code = 0x0B then
    if (s.group g).state = 2 then faultGroup g 2 rank (some rank) s else s
  else match findOp s g bucket use with
    | some o => if o.live then sendAbort g bucket use code rank (endOp o 0x0D s) else s
    | none =>
      if laterUse s g bucket use ∧ (s.group g).aborts.length < 64 ∧ !((s.group g).aborts.any fun a => a.1 == bucket && a.2.1 == use) then
        s.modGroup g fun x => { x with aborts := x.aborts ++ [(bucket, use, code, rank)] }
      else s

def execAbort (pkt : Packet) (s : State) : Out :=
  match takeFlow 0x12 pkt s with
  | none => .next s
  | some (g, s1) => match senderRank s1 g pkt with
    | none => .next s1
    | some r => .next (takeAbort g r pkt s1)

/-- LATECOMER_TIMEOUT: no progress from one peer for `latecomer-limit` while data or a grant is awaited from it (R344). -/
def execLatecomerTimeout (g rank : Nat) (s : State) : Out :=
  let waits := s.ops.any fun o => o.g == g && o.live &&
    (((s.group g).given.any fun r => r.peer == rank && r.bucket == o.bucket && r.use == o.use) ||
     ((segments o.co (ranksOf s g)).flatMap (owesOf s o)).any (fun x => x.2.2.2 == rank && !o.sent.contains x &&
        !((s.group g).asked.any fun a => (a.level, a.phase, a.seg, a.peer) == x)) ||
     (o.co.opc == 7 && (levelPeers s g).contains rank && !(o.tokens.any fun t => t.2 == rank)))
  .next (if (s.group g).state = 2 ∧ waits = true then pumpGroup g (faultGroup g 2 rank (some (myRank s g)) s) else s)

/-- REORDER_TIMEOUT: the oldest held packet of a flow has waited `reorder-limit`; losses on a COL flow fall on the oldest grants that
no delivered packet answers (R285, R344). -/
def execReorderTimeout (sdev sep cls : Nat) (s : State) : Out :=
  let f := flowOf s cls sdev (if cls = 10 then 0 else sep)
  match f.held with
  | [] => .next s
  | (_, _, p) :: _ =>
    let pending := (s.inbox.filter fun e => e.pkt.cls == cls && e.pkt.sdev == sdev && e.pkt.sep == sep && e.pkt.op == 0x10).length
    let r := declareLost f s
    match boundGroup s cls with
    | none => .next r.2
    | some g => match senderRank s g p with
      | none => .next r.2
      | some rank =>
        let hit := (((s.group g).given.filter fun x => x.peer == rank && 0xF0 + x.ep == sep).drop pending).take r.1.length
        .next (hit.foldl (fun t x =>
          let t1 := t.modGroup g fun y => { y with given := y.given.erase x }
          match findOp t1 g x.bucket x.use with
          | some o => failOp o 0x0C t1
          | none => t1) r.2)

/-! ## Acknowledgement between domains (R345) -/

/-- XACK's ARG: the next expected number and the map of those received beyond it. -/
def xackArg (x : XFlow) : Nat :=
  x.nextIn + (((List.range 40).filter fun i => (aget ((x.nextIn + 1 + i) % 2 ^ 24) x.beyond).isSome).map fun i => 2 ^ (24 + i)).sum

/-- Send an XACK to a peer of another domain. -/
def sendXack (g peer : Nat) (s : State) : State :=
  let x := xflowOf s g peer
  match classOf s g with
  | none => s
  | some cls =>
    let p := { blank cls 0x18 0 ctlEngine ctlEngine (memberDev s g peer) (xackArg x) 0 [] with
               domain := ownDomain s, sdev := own s, jobtag := odGet s 0x2300 2 }
    xdomPut 0 g peer p (setXflow { x with sinceAck := 0 } s)

/-- Deliver the datagrams that are now in order. -/
def xrelease : Nat → XFlow → State → State
  | 0, x, s => setXflow x s
  | n + 1, x, s =>
    match aget x.nextIn x.beyond with
    | some e => xrelease n { x with nextIn := (x.nextIn + 1) % 2 ^ 24, beyond := adel x.nextIn x.beyond } { s with inbox := s.inbox ++ [e] }
    | none => setXflow x s

/-- A datagram of a COL class from a member of another domain: in order, acknowledged after every 16 (R345). -/
def xdomArrive (g peer : Nat) (e : Ejected) (s : State) : State :=
  if e.pkt.op = 0x18 then { s with inbox := s.inbox ++ [e] }
  else
    let x0 := xflowOf s g peer
    let x := { x0 with sinceAck := x0.sinceAck + 1 }
    let ahead := (e.pkt.seq + 2 ^ 24 - x.nextIn) % 2 ^ 24
    let s1 := if ahead = 0 then xrelease x.beyond.length { x with nextIn := (x.nextIn + 1) % 2 ^ 24 } { s with inbox := s.inbox ++ [e] }
      else if 2 ^ 23 ≤ ahead then setXflow x s
      else setXflow { x with beyond := aset e.pkt.seq e x.beyond } s
    if 16 ≤ (xflowOf s1 g peer).sinceAck then sendXack g peer s1 else s1

/-- Retransmit one kept datagram, or end its operation when its retries are used up (R345). -/
def retransmit (g peer seq : Nat) (s : State) : State :=
  let x := xflowOf s g peer
  match x.unacked.find? fun u => u.seq == seq with
  | none => s
  | some u =>
    if odGet s 0x2520 2 ≤ u.tries then
      let s1 := setXflow { x with unacked := x.unacked.filter fun v => v.seq != seq } s
      match findOp s1 g u.bucket u.use with
      | some o => failOp o 0x0C s1
      | none => s1
    else xdomPut u.port g peer u.pkt (odInc 0x2520 3 8 1 (setXflow { x with unacked := x.unacked.map fun v =>
        if v.seq == seq then { v with tries := v.tries + 1 } else v } s))

/-- XACK: the acknowledged datagrams are dropped, those missing below one received go again (R345). -/
def execXack (pkt : Packet) (s : State) : Out :=
  match s.inbox.find? fun e => e.pkt == pkt && e.fromE.isSome with
  | none => .next s
  | some e => match boundGroup s pkt.cls with
    | none => .next s
    | some g =>
      if pkt.op ≠ 0x18 then .next s
      else
        let s1 : State := { s with inbox := s.inbox.erase e }
        match senderRank s1 g pkt with
        | none => .next s1
        | some peer =>
          let x := xflowOf s1 g peer
          let next := fld pkt.arg 0 24
          let map := fld pkt.arg 24 40
          let acked := fun (q : Nat) =>
            let d := (q + 2 ^ 24 - next) % 2 ^ 24
            decide (2 ^ 23 ≤ d) || (decide (1 ≤ d) && decide (d ≤ 40) && bitAt map (d - 1))
          let top := (List.range 40).foldl (fun m i => if bitAt map i then i + 1 else m) 0
          let keep := x.unacked.filter fun u => !acked u.seq
          let s2 := setXflow { x with unacked := keep } s1
          let again := keep.filter fun u => decide ((u.seq + 2 ^ 24 - next) % 2 ^ 24 < top)
          .next (again.foldl (fun t u => retransmit g peer u.seq t) s2)

/-- XACK_TIMER: 20 µs after the oldest unacknowledged arrival (R345). -/
def execXackTimer (g peer : Nat) (s : State) : Out := .next (if (xflowOf s g peer).sinceAck = 0 then s else sendXack g peer s)

/-- XDOM_RTO_EXPIRY (R345). -/
def execXdomRtoExpiry (g peer seq : Nat) (s : State) : Out := .next (retransmit g peer seq s)

/-! ## Issue, start and completion (R341, R346, R347) -/

/-- A COLL word of one operation. ALLREDUCE also issues the reserved codes, which end FIELD. -/
def collWord (p : Nat → Bool) (c : Nat) (s : State) : State := issue .coll 0x14 8 (fun w => p (fld w 28 4)) c s

def execAllreduce (c : Nat) (s : State) : Out := .next (collWord (fun k => k == 0 || decide (8 ≤ k)) c s)
def execReduceScatter (c : Nat) (s : State) : Out := .next (collWord (· == 1) c s)
def execAllgather (c : Nat) (s : State) : Out := .next (collWord (· == 2) c s)
def execBroadcast (c : Nat) (s : State) : Out := .next (collWord (· == 3) c s)
def execA2a (c : Nat) (s : State) : Out := .next (collWord (· == 4) c s)
def execA2av (c : Nat) (s : State) : Out := .next (collWord (· == 5) c s)
def execDispatch (c : Nat) (s : State) : Out := .next (collWord (· == 6) c s)
def execBarrier (c : Nat) (s : State) : Out := .next (collWord (· == 7) c s)

/-- Own block of an ALLGATHER or of a BROADCAST's root is written, own region of an all-to-all, and a reduction of one member. -/
def ownOutputs (o : CollOp) (s : State) : State :=
  let f := o.co
  let r := ranksOf s o.g
  let me := myRank s o.g
  if f.opc = 2 ∨ (f.opc = 3 ∧ f.root = me) then
    let s1 := touchSrc f r 0 f.n s
    let x := readElems (opView s1 o) f.sfmt f.saddr (srcElems f r) 0 f.n
    let pos := if f.opc = 2 then me * f.n else 0
    let c := finalConv s o f.sfmt pos x.1 x.2.1
    putOut o pos c.1 c.2.1 x.2.2 (flagOp o c.2.2.1 c.2.2.2 0 s1)
  else if f.direct then
    let s1 := touchRegion o me s
    let x := regionOf s1 o me
    putRegion o me x.1 x.2.1 (if o.badList then 2 ^ x.1.length - 1 else x.2.2) s1
  else if f.reduces && levelCount s o.g == 0 then
    (segments f r).foldl (fun t seg =>
      let n := segCount f r seg
      let s1 := touchSrc f r (segStart f r seg) n t
      let x := readElems (opView s1 o) f.sfmt f.saddr (srcElems f r) (segStart f r seg) n
      finishSeg o f.sfmt seg x.1 x.2.1 x.2.2 (notePois o x.2.2 s1)) s
  else s

/-- What a starting operation does at once: own outputs, the checks of kept GRANTs, kept TOKENs, its first tokens. -/
def beginOp (o : CollOp) (s : State) : State :=
  let s1 := ownOutputs o s
  let mine := (s.group o.g).early.filter fun p => fld p.arg 0 16 == o.bucket && fld p.arg 16 2 == o.use
  let s2 := settleAsked o (s1.modGroup o.g fun x => { x with early := x.early.filter fun p => !mine.contains p })
  let s3 := mine.foldl (fun t p => match senderRank t o.g p with
    | some r => if p.op = 0x13 then takeToken (nowOp o t) r p t else if fld p.arg 52 12 ≠ grantCheck t o then failOp o 0x0E t else t
    | none => t) s2
  pumpGroup o.g (if o.co.opc = 7 then pumpTokens o s3 else s3)

/-- Where the list of counts or destinations lies, and the report. -/
def listRange (c : Nat) (f : Co) (r : Nat) : Nat × Nat := (storeAddr c f.iofs, 4 * (if f.opc = 5 then r else if f.opc = 6 then f.n else 0))
def reportRange (c : Nat) (f : Co) (r : Nat) : Nat × Nat := (storeAddr c f.rofs, reportBytes f r)

/-- Kept and dropped rows of A2AV and DISPATCH (R338); `v` as the engine reads the list, `bad` when that read returned poison. -/
def withRows (o : CollOp) (bad : Bool) (v : State) : CollOp :=
  let f := o.co
  if f.rows then
    let rows := destRows v o
    { o with kept := rows.map (·.take f.cap), dropped := sortNat (rows.flatMap (·.drop f.cap)), dropsTo := rows.map fun l => l.length - f.cap,
             badList := bad, poison := bad }
  else o

/-- COLL_START: validation, the limits of open operations, BUCKET_BUSY (R341, R343). The list is read first, and read raced bytes free
(R52, R338). -/
def execCollStart (c : Nat) (s : State) : Out :=
  match ready .coll c s with
  | none => .next s
  | some d =>
    let f := coOf d
    let r := match coGroup s f with
      | some g => ranksOf s g
      | none => 0
    let list := listRange c f r
    let v := if f.rows then readView [list] s else s
    let code := coCode v c d f
    match coGroup s f with
    | none => .next (startRun .coll c d (if code = 0 then 0x0B else code) [] [] s)
    | some g =>
      if code ≠ 0 then .next (startRun .coll c d code [] [] s)
      else if 64 ≤ s.ops.length ∨ 16 ≤ (s.ops.filter fun o => o.g == g).length then .next s
      else
        let spans := spansOf s false [srcRange f r] ++ spansOf s true (dstRange f r :: reportRange c f r :: scratchOf s g f)
        let rd := touchRead [list] s
        let s1 := startRun .coll c d 0 [] spans { rd.2 with free := v.free }
        let use := (aget f.bucket (s.group g).uses).getD 0
        let o0 := withRows { core := c, g := g, bucket := f.bucket, use := use, desc := d } rd.1 v
        let ab := (s.group g).aborts.find? fun a => a.1 == f.bucket && a.2.1 == use
        let s2 : State := { s1.modGroup g (fun x => { x with uses := aset f.bucket ((use + 1) % 4) x.uses, aborts := x.aborts.filter fun a => !(a.1 == f.bucket && a.2.1 == use) }) with
                            ops := s1.ops ++ [o0] }
        match ab with
        | some a => .next (sendAbort g f.bucket use a.2.2.1 a.2.2.2 (endOp o0 0x0D s2))
        | none => .next (beginOp o0 (wildAll (scratchOf s g f) s2))

/-- Everything received, written and sent (R341). -/
def opDone (s : State) (o : CollOp) : Bool :=
  let segs := segments o.co (ranksOf s o.g)
  if o.co.opc = 7 then (levelPeers s o.g).all fun p => o.tokens.any fun t => t.2 == p
  else (segs.flatMap (needsOf s o)).all o.got.contains && (segs.flatMap (owesOf s o)).all o.sent.contains

/-- Rows received from a source: known for this member's own. The wire does not tell the others' (R328, R329, R338): a free number from
the last row that is not zero up to CAP (R339, log 54). -/
def rowsFrom (s : State) (o : CollOp) (src : Nat) : Nat × State :=
  if src = myRank s o.g then ((o.kept.getD src []).length, s)
  else
    let f := nextFreeWord s
    let lo := (aget src o.rowsMin).getD 0
    (lo + f.1.toNat % (o.co.cap - lo + 1), f.2)

/-- The report (R339). -/
def putReport (o : CollOp) (s : State) : State :=
  let f := o.co
  let r := ranksOf s o.g
  if reportBytes f r = 0 then s
  else
    let listed := min o.dropped.length f.rcap
    let recv := (List.range r).foldl (fun (acc : List Nat × State) i =>
      let x := rowsFrom acc.2 o i
      (acc.1 ++ [x.1], x.2)) ([], s)
    let hd := leBytes 4 (if f.rows then o.dropped.length else 0) ++ leBytes 4 (if f.rows then listed else 0) ++ leBytes 4 r ++ leBytes 4 (b2n f.ten) ++
      leBytes 8 (if f.ten then o.tally else 0) ++ leBytes 8 0
    if f.rows then
      storePieces [(storeAddr o.core f.rofs, hd ++ o.dropsTo.flatMap (leBytes 4) ++ recv.1.flatMap (leBytes 4) ++ (o.dropped.take listed).flatMap (leBytes 4))]
        o.badList recv.2
    else storePieces [(storeAddr o.core f.rofs, hd)] false s

/-- `COLL_STAT` and `COLL_ERRS` at a completion, and the flags in `SQ_STAT` (R346, R347). -/
def collStatus (code : Nat) (o : Option CollOp) (pass : Bool) (k : Core) : Core :=
  let seq := (fld (k.reg 0x90) 16 16 + 1) % 65536
  let sat := (o.map (·.saturated)).getD false
  let inx := (o.map (·.inexact)).getD false
  let rai := (o.map (·.raised)).getD false
  let drp := (o.map fun o => !o.dropped.isEmpty && o.live).getD false
  let k1 := k.setReg 0x90 (code + 256 * b2n sat + 512 * b2n inx + 1024 * b2n rai + 2048 * b2n drp + 4096 * b2n pass + 65536 * seq)
  let k2 := if code = 0x0C ∨ code = 0x0D ∨ code = 0x0F then k1.bump 0x94 0 16
    else if code = 0x0B ∨ code = 0x0E ∨ code = 0x10 ∨ code = 0x11 then k1.bump 0x94 16 8
    else if code = 2 then k1.bump 0x94 24 8 else k1
  if drp then k2.setStat 9 else k2

/-- CEV rises when CEVEN is set (R341, R56). -/
def raiseCev (f : Co) (s : State) : State := if f.ceven then { s with eventIn := s.eventIn ++ [(f.cev, 1)] } else s

/-- The end of a COLL. -/
def collDone (c : Nat) (r : Run) (code : Nat) (o : Option CollOp) (s : State) : State :=
  let pass := match coGroup s (coOf r.desc) with
    | some g => (s.group g).mode != 0
    | none => match o with
      | some o => (s.group o.g).mode != 0
      | none => false
  raiseCev (coOf r.desc) ((complete .coll c r code ((o.map (·.inexact)).getD false) s).modCore c (collStatus code o pass))

/-- Poison the destination lines that an ended operation has not written (R344). -/
def poisonRest (o : CollOp) (s : State) : State :=
  let f := o.co
  ((linesOf f.daddr (operandBytes f.ofmt (dstElems f (ranksOf s o.g)))).filter fun l => !o.wrote.contains l).foldl (fun t l => setPoison l t) s

/-- COLL_COMPLETE: the oldest COLL of a core completes, when it is the operation on this bucket and it has failed or is done (R341, R344). -/
def execCollComplete (c g bucket : Nat) (s : State) : Out :=
  match headRun .coll c s with
  | none => .next s
  | some r =>
    let f := coOf r.desc
    if f.bucket ≠ bucket ∨ (r.vcode = 0 ∧ aget f.ch s.chans ≠ some g) then .next s
    else if r.vcode ≠ 0 then .next (collDone c r r.vcode none s)
    else match s.ops.find? fun o => o.core == c && o.g == g && o.bucket == bucket with
      | none => .next s
      | some o =>
        let drop := fun (t : State) => { (t.modGroup g fun x => { x with asked := x.asked.filter fun a => !(a.bucket == bucket && a.use == o.use) }) with
                                          ops := t.ops.filter fun x => !(x.g == g && x.bucket == bucket && x.use == o.use) }
        match o.fin with
        | some code => .next (collDone c r code (some o) (drop (wildAll (lostBytes s g f) (poisonRest o s))))
        | none =>
          if opDone s o then
            let s1 := odInc (grpObj g) 0x11 8 o.dropped.length (putReport o (wildAll (lostBytes s g f) s))
            .next (collDone c r (if o.poison then 2 else 0) (some o) (drop s1))
          else .next s

end Sys2Proof.Machine
end

