-- ==== Sys2Proof/Machine/Launch.lean ====
section
/-! DEFINITION. Launches: the work plan (R41 to R45), the end of a launch and its failures (R67, R69), suspend and resume with the context
format (R71 to R74), and the states of a handle (R411 to R414). -/

namespace Sys2Proof.Machine

/-! ## Power state and handles -/

/-- A change of `power-state` sends 0xFF28 (R431, R444). -/
def setPState (n : Nat) (s : State) : State :=
  if s.power.pstate = n then s
  else emcy 0xFF28 [0xFF, 0xFF, n, 0, 0] { s with power := { s.power with pstate := n } }

/-- Bask is left when core-using work is accepted (R431). -/
def wakeCores (s : State) : State := if s.power.pstate = 1 then setPState 0 s else s

/-- The lowest free handle (R409). -/
def freeHandle (s : State) : Option Nat := firstFrom (fun h => decide ((s.handle h).kind = 0)) 64 1

/-- Allocate handle `h` for an operation of `kind` in state `st`. -/
def newHandle (h kind st owner : Nat) (f : Handle → Handle) (s : State) : State :=
  let x : Handle := { kind := kind, state := st, owner := owner, created := calendar s, order := s.mgmt.opCount }
  { s.modHandle h (fun _ => f x) with
    mgmt := { s.mgmt with opCount := s.mgmt.opCount + 1, issued := aset owner h s.mgmt.issued } }

/-- Queued, running, suspending, resuming or cancelling (R389, R410). -/
def Handle.busy (x : Handle) : Bool := decide (x.kind ≠ 0) && [1, 2, 3, 5, 6].contains x.state
def launchBusy (s : State) : Bool := s.handles.any fun x => x.kind == 1 && x.busy

/-- `policy-digest` (R205). -/
def policyDigest (s : State) : List Byte :=
  let f := fun i n => leBytes n (odGet s 0x2700 i)
  shake256 (f 1 1 ++ f 2 1 ++ f 3 1 ++ f 4 1 ++ f 5 1 ++ f 6 1 ++ f 7 2 ++ f 8 4) 32

/-- The eight key slots now (R212). -/
def keysNow (s : State) : List Dbl := (List.range 8).map fun i => BitVec.ofNat 64 (odGet s 0x2810 (i + 1))

/-- Length of the stream of core `i` in a launch, and the cores that take part (R44). -/
def Handle.len (x : Handle) (i : Nat) : Nat := (x.cores[i]?.map (·.len)).getD 0
def Handle.parts (x : Handle) : List Nat := (List.range x.cores.length).filter fun i => x.len i != 0

/-- Progress of a launch: halted cores × 1 000 ÷ N (R411); a core with an empty stream counts as halted (R44). -/
def launchProgress (s : State) (x : Handle) : Nat :=
  let run := (x.parts.filter fun c => !((s.core c).mode == .stopped && (s.core c).stopCode == 0)).length
  if x.n = 0 ∨ x.phase ≠ .started then 0 else (x.n - run) * 1000 / x.n

/-- Detail of a launch (R411). -/
def launchDetail (s : State) (x : Handle) : List Byte :=
  match x.firstStop with
  | some c => bytesAt (leBytes 2 c ++ leBytes 4 ((s.core c).stopCode + 65536 * (s.core c).exit)) 0 64
  | none => bytesAt (leBytes 2 0xFFFF) 0 64

/-- A launch leaves the cores: into done, failed, cancelled or suspended. -/
def endLaunch (h st res : Nat) (s : State) : State :=
  let s1 := s.modHandle h fun x => { x with detail := launchDetail s x, progress := launchProgress s x }
  let mine := decide (s1.mgmt.active = some h)
  let s2 : State := if mine then { s1 with chans := [], mgmt := { s1.mgmt with active := none } } else s1
  setHandle h st res s2

/-! ## The work plan (R41 to R43) -/

/-- All bytes are zero. -/
def zeros (l : List Byte) : Bool := l.all fun b => b == 0

/-- Entries of a table of `n` entries of `w` bytes. -/
def entries (t : List Byte) (w n : Nat) : List (List Byte) := (List.range n).map fun i => bytesAt t (w * i) w

def coreEntry (b : List Byte) : CoreEntry := { addr := numAt b 0 8, len := numAt b 8 4, events := numAt b 16 8 }

/-- A core entry's stream (R42): "address misaligned or outside HBM, or a length above 32 768". -/
def streamOk (s : State) (e : CoreEntry) : Bool :=
  decide (e.addr % 128 = 0) && decide (e.addr < 2 ^ 48) && decide (e.len ≤ 32768) && (e.len == 0 || hbmSpan s e.addr (8 * e.len))

/-- Reserved fields of the tables' entries are zero, channels and groups are bound once (R42, R326). -/
def tablesOk (cs es gs : List (List Byte)) : Bool :=
  (cs.all fun b => zeros (bytesAt b 12 4) && zeros (bytesAt b 24 8)) && (es.all fun b => zeros (bytesAt b 1 3)) &&
  (gs.all fun b => zeros (bytesAt b 1 1) && zeros (bytesAt b 4 12) && decide (numAt b 0 1 < 8)) &&
  (dedup (gs.map fun b => numAt b 0 1) []).length == gs.length && (dedup (gs.map fun b => numAt b 2 2) []).length == gs.length

/-- The record that holds a READY group of an id. -/
def readyGroup (s : State) (id : Nat) : Option Nat :=
  (List.range 16).find? fun g => decide ((s.group g).state = 2) && odGet s (grpObj g) 1 == id

/-- MD reads and checks the plan at `a`: a result code, and what the launch keeps of it (R43). Too many events or groups, a COL channel
above 7 and a duplicate entry, for which the table of codes names none, end it with 3 (log 123). -/
def readPlan (a : Nat) (s : State) : Nat × Handle × State :=
  if s.mgmt.al ≠ 8 then (1, {}, s)
  else if a % 128 ≠ 0 ∨ hbmSpan s a 128 = false then (2, {}, s)
  else
    let r := touchRead [(a, 128)] s
    let hd := readBytes s a 128
    let n := numAt hd 4 2
    let ne := numAt hd 6 2
    let ng := numAt hd 8 2
    let flags := numAt hd 12 4
    let ct := a + numAt hd 0x10 8
    let et := a + numAt hd 0x18 8
    let gt := a + numAt hd 0x20 8
    let room := fun (o z : Nat) => z == 0 || hbmSpan s o z
    if r.1 then (8, {}, r.2)
    else if (ct - a) % 128 ≠ 0 ∨ (et - a) % 8 ≠ 0 ∨ (gt - a) % 16 ≠ 0 then (2, {}, r.2)
    else if numAt hd 0 4 ≠ 1 ∨ zeros (bytesAt hd 10 2) = false ∨ 4 ≤ flags ∨ zeros (bytesAt hd 0x30 80) = false then (3, {}, r.2)
    else if coreCount s < n then (4, {}, r.2)
    else if 256 < ne ∨ 8 < ng then (3, {}, r.2)
    else if (room ct (32 * n) && room et (8 * ne) && room gt (16 * ng)) = false then (2, {}, r.2)
    else
      let r2 := touchRead [(ct, 32 * n), (et, 8 * ne), (gt, 16 * ng)] r.2
      let tb := readBytes s ct (32 * n) ++ readBytes s et (8 * ne) ++ readBytes s gt (16 * ng)
      let cs := entries tb 32 n
      let es := entries (tb.drop (32 * n)) 8 ne
      let gs := entries (tb.drop (32 * n + 8 * ne)) 16 ng
      let ids := gs.map fun b => numAt b 2 2
      let kept : Handle := { n := n, flags := flags, cores := cs.map coreEntry, events := es.map fun b => (numAt b 0 1, numAt b 4 4),
                             groups := gs.map fun b => (numAt b 0 1, numAt b 2 2) }
      if r2.1 then (8, {}, r2.2)
      else if tablesOk cs es gs = false then (3, {}, r2.2)
      else if (cs.all fun b => streamOk s (coreEntry b)) = false then (5, {}, r2.2)
      else if bitAt flags 0 ∧ regionTally 0 tb ≠ numAt hd 0x28 8 then (6, {}, r2.2)
      else if (ids.all fun i => (readyGroup s i).isSome) = false then (7, {}, r2.2)
      else (0, kept, r2.2)

/-- Group ids that the plan at `a`, or the context area at `a`, names as it now stands (R42, R72). -/
def planGroups (s : State) (a : Nat) : List Nat :=
  let hd := readBytes s a 128
  let n := min 8 (numAt hd 8 2)
  let gt := a + numAt hd 0x20 8
  if hbmSpan s a 128 && hbmSpan s gt (16 * n) then (entries (readBytes s gt (16 * n)) 16 n).map fun b => numAt b 2 2 else []
def contextGroups (s : State) (a : Nat) : List Nat :=
  if hbmSpan s a 4096 then ((entries (readBytes s (a + 0x500) 128) 16 8).map fun b => numAt b 2 2).filter (· != 0) else []

/-- Group ids that a queued or running launch binds (R321, R326). -/
def boundIds (s : State) (x : Handle) : List Nat :=
  if x.state = 1 then (if x.isResume then contextGroups s x.ctx else planGroups s x.addr) else x.groups.map (·.2)

/-- What each launch reports first in it may be reported again (R203, R291, R349). -/
def freshReports (s : State) : State :=
  { s with cores := s.cores.map fun k => { k with poisonReported := false }, ports := s.ports.map fun p => { p with stallReported := false },
           groups := s.groups.map fun g => { g with abortReported := false } }

/-- A launch that is not a resume starts: running, its keys latched, its plan validated (R43, R44, R212). -/
def validate (h : Nat) (s : State) : State :=
  let s1 := freshReports ((wakeCores s).modHandle h fun x => { x with state := 2, keys := keysNow s, digest := policyDigest s })
  let s2 : State := { s1 with mgmt := { s1.mgmt with active := some h, launchHandle := h } }
  let r := readPlan (s2.handle h).addr s2
  if r.1 ≠ 0 then endLaunch h 8 r.1 r.2.2
  else if r.2.1.n = 0 then endLaunch h 7 0 r.2.2
  else r.2.2.modHandle h fun x =>
    { x with phase := .validated, n := r.2.1.n, flags := r.2.1.flags, cores := r.2.1.cores, events := r.2.1.events, groups := r.2.1.groups }

/-! ## The context area (R72 to R74) -/

/-- Bytes of a core record (R72). -/
def recordSize (near : Bool) : Nat := if near then 0x10701000 else 0x701000
def areaSize (n : Nat) (near : Bool) : Nat := 4096 + n * recordSize near
def recordAt (a : Nat) (near : Bool) (i : Nat) : Nat := a + 4096 + i * recordSize near

/-- Tally of a record: the double at 0xFF8 is omitted, the indices after it stand (R192). -/
def recordTally (b : List Byte) : Nat := m64 (regionTally 0 (b.take 0xFF8) + regionTally 512 (b.drop 0x1000))

/-- A record with its tally in place. -/
def withTally (hd rest : List Byte) : List Byte :=
  let z := bytesAt hd 0 0xFF8
  z ++ leBytes 8 (recordTally (z ++ leBytes 8 0 ++ rest)) ++ rest

/-- A loop level in a record (R73). -/
def loopBytes (l : Loop) : List Byte :=
  leBytes 4 l.head ++ leBytes 4 l.fin ++ leBytes 4 (b2n l.strip) ++ leBytes 4 l.iter ++ leBytes 4 l.remaining ++ leBytes 4 l.eo ++
    leBytes 4 l.vl ++ leBytes 4 0

/-- A loop level from a record. The innermost level is parked before its SETVL; an outer strip level has run its SETVL in this iteration
where it has set a VL, since that word can stand at its body's head only (R58; DEDUCED, log 118). -/
def loopOf (inner : Bool) (b : List Byte) : Loop :=
  let strip := decide (numAt b 8 4 = 1)
  { head := numAt b 0 4, fin := numAt b 4 4, strip := strip, iter := numAt b 12 4, remaining := numAt b 16 4,
    eo := numAt b 20 4, vl := numAt b 24 4, set := !inner && strip && numAt b 24 4 != 0 }

/-- A core has halted, or takes no part (R44, R71). -/
def haltedNow (k : Core) : Bool := k.mode == .stopped && k.stopCode == 0

/-- The first 0xFF8 bytes of a core record. -/
def recordHead (near : Bool) (c : Nat) (e : CoreEntry) (k : Core) : List Byte :=
  leBytes 4 1 ++ leBytes 2 c ++ leBytes 2 (b2n near + 2 * b2n (haltedNow k || e.len == 0)) ++ leBytes 8 e.addr ++ leBytes 4 k.pc ++
  leBytes 2 k.loops.length ++ leBytes 2 k.vlmax ++ leBytes 2 k.vl ++ leBytes 2 0 ++ leBytes 4 k.stat.toNat ++ leBytes 8 k.events.toNat ++
  leBytes 8 0 ++ (k.ta.flatMap fun d => leBytes 8 d.toNat) ++ leBytes 16 0 ++ bytesAt (k.loops.flatMap loopBytes) 0 128 ++
  leBytes 2 k.tilePoison.toNat

/-- The tiles as bytes, and their words from bytes. -/
def tileBytes (k : Core) : List Byte := (List.range 262144).flatMap fun j => leBytes 4 (lget 0 k.tiles j).toNat
def tileWordsGo : Nat → List Byte → List (Nat × Word)
  | j, b0 :: b1 :: b2 :: b3 :: r =>
    let w : Word := BitVec.ofNat 32 (ofLE [b0, b1, b2, b3])
    if w = 0 then tileWordsGo (j + 1) r else (j, w) :: tileWordsGo (j + 1) r
  | _, _ => []

/-- Copy the marks of `n` lines from one place to another. -/
def copyMarks (src dst n : Nat) (s : State) : State :=
  ((List.range n).filter fun j => poisoned s (src / 128 + j)).foldl (fun t j => setPoison (dst / 128 + j) t) s

/-- Write core `c`'s record (R73). -/
def saveCore (a : Nat) (near : Bool) (c : Nat) (e : CoreEntry) (s0 : State) : State :=
  let s := (touchRead ((storeAddr c 0, storeSize) :: if near then [(nearAddr c 0, nearSize)] else []) s0).2
  let k := s.core c
  let at_ := recordAt a near c
  let rest := tileBytes k ++ readBytes s (storeAddr c 0) storeSize ++ (if near then readBytes s (nearAddr c 0) nearSize else [])
  let s1 := storePieces [(at_, withTally (recordHead near c e k) rest)] false s
  let s2 := copyMarks (storeAddr c 0) (at_ + 0x101000) (storeSize / 128) s1
  if near then copyMarks (nearAddr c 0) (at_ + 0x701000) (nearSize / 128) s2 else s2

/-- Smallest VLMAX of any enabled core (R406). -/
def vlmaxMin (s : State) : Nat := ((List.range (coreCount s)).map fun c => (s.core c).vlmax).foldl min 128

/-- The chip record (R72). -/
def chipRecord (s : State) (x : Handle) (near : Bool) : List Byte :=
  let hd := leBytes 4 1 ++ leBytes 2 x.n ++ leBytes 2 (b2n near) ++ leBytes 8 x.addr ++ leBytes 2 (vlmaxMin s) ++ leBytes 2 (coreCount s) ++
    leBytes 12 0 ++ x.digest ++ leBytes 192 0 ++ ((List.range 256).flatMap fun e => leBytes 4 (chipEvent s e)) ++
    (x.groups.flatMap fun g => leBytes 1 g.1 ++ leBytes 1 0 ++ leBytes 2 g.2 ++ leBytes 12 0)
  withTally hd []

/-- Reserved fields of the chip record and of a core record are zero, and the version is 1 (R74). -/
def chipRecordOk (b : List Byte) : Bool :=
  numAt b 0 4 == 1 && decide (numAt b 6 2 < 2) && zeros (bytesAt b 0x14 12) && zeros (bytesAt b 0x40 192) && zeros (bytesAt b 0x580 (0xFF8 - 0x580))

def coreRecordOk (b : List Byte) : Bool :=
  numAt b 0 4 == 1 && decide (numAt b 6 2 < 4) && zeros (bytesAt b 0x1A 2) && zeros (bytesAt b 0x28 8) && zeros (bytesAt b 0x70 16) &&
  ((List.range 4).all fun l => zeros (bytesAt b (0x80 + 32 * l + 28) 4)) && zeros (bytesAt b 0x102 (0xFF8 - 0x102))

/-- The context's core table: kept by the handle, or read again from the plan that the chip record names (R72 gives no stream length). -/
def contextCores (s : State) (x : Handle) (plan n : Nat) : List CoreEntry :=
  if x.cores.length = n then x.cores
  else (entries (readBytes s (plan + readNum s (plan + 0x10) 8) (32 * n)) 32 n).map coreEntry

/-- The checks of R74, in order, on the area of a handle: a code, and the state after the reads. -/
def resumeCheck (x : Handle) (s : State) : Nat × State :=
  let a := x.ctx
  if a % 4096 ≠ 0 ∨ hbmSpan s a 4096 = false then (0x0A, s)
  else
    let b := readBytes s a 4096
    let n := numAt b 4 2
    let near := bitAt (numAt b 6 2) 0
    if chipRecordOk b = false ∨ hbmSpan s a (areaSize n near) = false then (0x0A, s)
    else
      let heads := (List.range n).map fun i => readBytes s (recordAt a near i) 4096
      let r := touchRead ((a, 4096) :: (List.range n).map fun i => (recordAt a near i, 0x101000)) s
      let tallied := fun (p z : Nat) => decide (recordTally (readBytes s p z) = readNum s (p + 0xFF8) 8)
      if heads.all coreRecordOk = false then (0x0A, r.2)
      else if r.1 ∨ tallied a 4096 = false ∨ ((List.range n).all fun i => tallied (recordAt a near i) (recordSize near)) = false then (0x0B, r.2)
      else if coreCount s < n then (4, r.2)
      else if near = false ∧ aget a s.mgmt.saves ≠ some s.startup.cpStarts then (0x0C, r.2)
      else if bytesAt b 0x20 32 ≠ policyDigest s then (0x0E, r.2)
      else (0, r.2)

/-- A resume is checked: it fails, or waits for its start broadcast (R74). -/
def beginResume (h : Nat) (s : State) : State :=
  let s1 := freshReports (setHandle h 5 0 (wakeCores s))
  let s2 : State := { s1 with mgmt := { s1.mgmt with active := some h, launchHandle := h } }
  let r := resumeCheck (s2.handle h) s2
  if r.1 ≠ 0 then endLaunch h 8 r.1 r.2
  else
    let b := readBytes r.2 (s2.handle h).ctx 4096
    let n := numAt b 4 2
    let plan := numAt b 8 8
    r.2.modHandle h fun x =>
      { x with phase := .validated, n := n, flags := 2, addr := plan, cores := contextCores r.2 x plan n,
               digest := bytesAt b 0x20 32, firstStop := none, peersStopped := false,
               groups := ((entries (bytesAt b 0x500 128) 16 8).map fun e => (numAt e 0 1, numAt e 2 2)).filter fun e => e.2 != 0 }

/-- Restore core `c` from its record (R74): VL from the record, VLMAX as it is now. -/
def restoreCore (a : Nat) (near : Bool) (c : Nat) (e : CoreEntry) (s : State) : State :=
  let at_ := recordAt a near c
  let b := readBytes s at_ 4096
  let s1 := storePieces [(storeAddr c 0, readBytes s (at_ + 0x101000) storeSize)] false s
  let s2 := copyMarks (at_ + 0x101000) (storeAddr c 0) (storeSize / 128) s1
  let s3 := if near then copyMarks (at_ + 0x701000) (nearAddr c 0) (nearSize / 128)
      (storePieces [(nearAddr c 0, readBytes s (at_ + 0x701000) nearSize)] false s2) else s2
  s3.modCore c fun k =>
    { k with mode := if e.len = 0 then .off else if bitAt (numAt b 6 2) 1 then .stopped else .parked,
             stopCode := 0, exit := 0, suspPend := false, fence := none, sqWait := none,
             streamAddr := e.addr, streamLen := e.len, pc := numAt b 0x10 4, vl := numAt b 0x18 2,
             loops := (List.range (numAt b 0x14 2)).map fun l => loopOf (l + 1 == numAt b 0x14 2) (bytesAt b (0x80 + 32 * l) 32),
             stat := BitVec.ofNat 10 (numAt b 0x1C 4), events := BitVec.ofNat 64 (numAt b 0x20 8),
             ta := (List.range 8).map fun i => BitVec.ofNat 64 (numAt b (0x30 + 8 * i) 8),
             tilePoison := BitVec.ofNat 16 (numAt b 0x100 2), tiles := tileWordsGo 0 (readBytes s (at_ + 0x1000) 0x100000) }

/-- Bind the groups that a launch names (R45, R326). -/
def bindGroups (x : Handle) (s : State) : State :=
  { s with chans := x.groups.filterMap fun e => (readyGroup s e.2).map fun g => (e.1, g) }

/-! ## The path from plan to cores (R44, R45) -/

/-- LAUNCH_DEQUEUE: the oldest queued launch starts when none is active (R44, R412). -/
def execLaunchDequeue (s : State) : Out :=
  let q := (List.range 64).filter fun i => (s.handle (i + 1)).kind == 1 && (s.handle (i + 1)).state == 1
  let first := q.foldl (fun (b : Option Nat) i => match b with
    | some j => if (s.handle (i + 1)).order < (s.handle (j + 1)).order then some i else some j
    | none => some i) none
  match first, s.mgmt.active with
  | some i, none => .next (if (s.handle (i + 1)).isResume then beginResume (i + 1) s else validate (i + 1) s)
  | _, _ => .next s

/-- START_BROADCAST: events and bindings are written, or the context restored; then the start event is broadcast (R45, R74). The events
of a core whose entry has no stream stay as they are (log 123). -/
def execStartBroadcast (s : State) : Out :=
  match s.mgmt.active with
  | none => .next s
  | some h =>
    let x := s.handle h
    if x.phase ≠ .validated ∨ x.state = 6 then .next s
    else if x.isResume then
      let b := readBytes s x.ctx 4096
      let near := bitAt (numAt b 6 2) 0
      let ev := (List.range 256).foldl (fun l e => lset 0 e (numAt b (0x100 + 4 * e) 4) l) []
      let s1 := (List.range x.n).foldl (fun t c => restoreCore x.ctx near c (x.cores.getD c { addr := 0, len := 0, events := 0 }) t) { s with chipEvents := ev }
      .next ((bindGroups x s1).modHandle h fun x => { x with phase := .broadcast, state := 2 })
    else
      let ev := x.events.foldl (fun l e => lset 0 e.1 e.2 l) s.chipEvents
      let s1 := x.parts.foldl (fun t c => t.modCore c fun k =>
        { k with events := BitVec.ofNat 64 (x.cores.getD c { addr := 0, len := 0, events := 0 }).events }) { s with chipEvents := ev }
      .next ((bindGroups x s1).modHandle h fun x => { x with phase := .broadcast })

/-- STREAM_FETCH_START: at the start instant every sequencer that takes part begins its fetch, or executes its parked YIELD (R45, R74). -/
def execStreamFetchStart (s : State) : Out :=
  match s.mgmt.active with
  | none => .next s
  | some h =>
    let x := s.handle h
    if x.phase ≠ .broadcast ∨ x.state = 6 then .next s
    else
      let susp := decide (x.state = 3)
      let start := fun (t : State) (c : Nat) => t.modCore c fun k =>
        if x.isResume then { k with mode := if k.mode = .parked then .running else k.mode, suspPend := susp, epochDests := [] }
        else
          let e := x.cores.getD c { addr := 0, len := 0, events := 0 }
          { k with mode := .fetching, streamAddr := e.addr, streamLen := e.len, pc := 0, loops := [], vl := 0, ta := List.replicate 8 0,
                   suspPend := susp, stopCode := 0, exit := 0, fence := none, sqWait := none, epochDests := [] }
      .next ((x.parts.foldl start s).modHandle h fun x => { x with phase := .started })

/-- STREAM_FETCH_COMPLETE: the stream lies in the core store and its first word runs next; poisoned data stops the core (R45, R67, R195). -/
def execStreamFetchComplete (c : Nat) (s : State) : Out :=
  let k := s.core c
  if k.mode ≠ .fetching then .next s
  else
    let r := touchRead [(k.streamAddr, 8 * k.streamLen)] s
    if r.1 then .next (stopCore c 0x11 (r.2.modCore c fun k => k.setStat 7))
    else .next ((storePieces [(storeAddr c 0, readBytes s k.streamAddr (8 * k.streamLen))] false r.2).modCore c fun k => { k with mode := .running })

/-! ## Stops and ends (R67, R69, R412) -/

/-- The open collectives of some cores end with PEER_ABORT and their retries are dropped (R204, R344). -/
def endWork (hit : Core → Bool) (s : State) : State :=
  let s1 := (s.ops.filter fun o => hit (s.core o.core)).foldl (fun t o =>
    let t1 := failOp o 0x0D t
    let t2 := poisonRest (nowOp o t1) t1
    { t2 with ops := t2.ops.filter fun p => !(p.g == o.g && p.bucket == o.bucket && p.use == o.use) }) s
  { s1 with proxyReqs := s1.proxyReqs.filter fun q => !hit (s.core q.1) }

/-- CANCEL of a launch: every core is reached, those that stopped with an error too (R69, R204, R314, R344). -/
def endCores (code : Nat) (s : State) : State := cancelCores code (endWork (fun k => k.mode != .off) s)

/-- The other cores of a launch stop, as CANCEL does (R67). -/
def endPeers (s : State) : State := peerStopCores (endWork (fun k => k.mode != .off && k.mode != .stopped) s)

/-- MD stops every other participating core of a launch in which a core stopped with an error (R67). -/
def execLaunchPeerStop (s : State) : Out :=
  match s.mgmt.active with
  | some h => .next (if (s.handle h).firstStop.isSome ∧ (s.handle h).peersStopped = false ∧ (s.handle h).state ≠ 6 then
      (endPeers s).modHandle h fun x => { x with peersStopped := true } else s)
  | none => .next s

/-- LAUNCH_END: the launch reaches done, failed or cancelled (R43, R44, R67, R412). -/
def execLaunchEnd (s : State) : Out :=
  match s.mgmt.active with
  | none => .next s
  | some h =>
    let x := s.handle h
    let ended := x.parts.all fun c => (s.core c).mode == .stopped || (s.core c).mode == .off
    let clear := x.parts.all fun c => (s.core c).slots.isEmpty
    if x.state = 6 then .next (if x.phase ≠ .started ∨ (ended = true ∧ clear = true) then endLaunch h 9 0 s else s)
    else if x.phase ≠ .started ∨ ended = false then .next s
    else if x.firstStop.isSome then .next (if clear then endLaunch h 8 9 s else s)
    else .next (if x.state = 2 then endLaunch h 7 0 s else s)

/-! ## Suspend (R71) -/

/-- CORE_PARK: the wait at a YIELD is over (R71). Vector registers are empty at a parked YIELD (R73, R103). -/
def execCorePark (c : Nat) (s : State) : Out :=
  let k := s.core c
  match k.fence with
  | some f =>
    if k.mode = .fencing ∧ f.kind = 2 ∧ fenceMet k f = true then
      .next (s.modCore c fun k =>
        let k1 := match f.closed with
          | some e => closeBooks e 0 (if epochErr k e then k.setStat 3 else k)
          | none => k
        { k1 with mode := .parked, fence := none, xregs := [], xPoison := 0 })
    else .next s
  | none => .next s

/-- SUSPEND_RECORDS_WRITTEN: every core has parked or halted; the records are in the context area and the handle is suspended (R71 to R73).
`SUSP_PEND` clears here (log 123). -/
def execSuspendRecordsWritten (s : State) : Out :=
  match s.mgmt.active with
  | none => .next s
  | some h =>
    let x := s.handle h
    let ready := x.parts.all fun c => (s.core c).mode == .parked || haltedNow (s.core c)
    if x.state ≠ 3 ∨ x.phase ≠ .started ∨ ready = false ∨ x.firstStop.isSome then .next s
    else
      let s1 := storePieces [(x.ctx, chipRecord s x x.suspendNear)] false s
      let s2 := (List.range x.n).foldl (fun t c => saveCore x.ctx x.suspendNear c (x.cores.getD c { addr := 0, len := 0, events := 0 }) t) s1
      let s3 : State := { s2 with cores := s2.cores.map fun k => { k with suspPend := false },
                                  mgmt := { s2.mgmt with saves := aset x.ctx s.startup.cpStarts s2.mgmt.saves } }
      .next (endLaunch h 4 0 (s3.modHandle h fun x => { x with isResume := true }))

/-! ## Control writes (R411 to R414) -/

/-- R413: the plan is suspendable, the area is aligned and lies in present HBM. -/
def suspendOk (s : State) (x : Handle) : Bool :=
  bitAt x.flags 1 && x.suspendArea % 4096 == 0 && hbmSpan s x.suspendArea (areaSize x.n x.suspendNear)

/-- Operations other than a launch that can be suspended (R248, R414): scrub, calibration sweep, a margin operation other than VDDQ. -/
def suspendKind (x : Handle) : Bool := x.kind == 4 || x.kind == 7 || (x.kind == 5 && numAt x.params 0 1 != 1)

/-- SUSPEND of a running handle. -/
def controlSuspend (h : Nat) (s : State) : Nat × State :=
  let x := s.handle h
  if x.kind = 1 then
    if suspendOk s x then
      let s1 := s.modHandle h fun x => { x with state := 3, ctx := x.suspendArea }
      (0, if x.phase = .started then x.parts.foldl (fun t c => t.modCore c fun k => { k with suspPend := true }) s1 else s1)
    else (0x06090030, s)
  else if suspendKind x then (0, setHandle h 3 0 s)
  else (0x06090030, s)

/-- RESUME of a suspended handle: the key slots now in force are latched (R213; DEDUCED, log 139). -/
def controlResume (h : Nat) (s : State) : Nat × State :=
  if (s.handle h).kind = 1 then
    let s1 := s.modHandle h fun x => { x with keys := keysNow s, isResume := true, phase := .idle, order := s.mgmt.opCount }
    let s2 : State := { s1 with mgmt := { s1.mgmt with opCount := s1.mgmt.opCount + 1 } }
    (0, if launchBusy s then setHandle h 1 0 s2 else beginResume h s2)
  else (0, setHandle h 2 0 s)

/-- CANCEL of a handle that has not ended. A firmware commit that has begun is not cancelled (R414). -/
def controlCancel (h : Nat) (s : State) : Nat × State :=
  let x := s.handle h
  if x.state = 4 ∨ x.state = 1 then (0, setHandle h 9 0 s)
  else if x.kind = 2 ∧ x.commit = true then (0x08000022, s)
  else
    let s1 := setHandle h 6 0 s
    (0, if x.kind = 1 ∧ x.phase = .started then endCores 0x10 s1 else s1)

/-- A write of `control` (R412): a refusal leaves the state. -/
def control (h v : Nat) (s : State) : Nat × State :=
  let st := (s.handle h).state
  if v = 1 then (if st = 2 then controlSuspend h s else (0x08000022, s))
  else if v = 2 then (if st = 4 then controlResume h s else (0x08000022, s))
  else if v = 3 then (if [1, 2, 3, 4, 5].contains st then controlCancel h s else (0x08000022, s))
  else if v = 4 then (if [4, 7, 8, 9].contains st then (0, s.modHandle h fun _ => {}) else (0x08000022, s))
  else (0x06090030, s)

/-- HANDLE_LINGER_EXPIRY: an ended handle frees itself (R411). -/
def execHandleLingerExpiry (h : Nat) (s : State) : Out :=
  .next (if [7, 8, 9].contains (s.handle h).state then s.modHandle h fun _ => {} else s)

/-- An operation other than a launch obeys SUSPEND (R414). -/
def execOperationSuspendObeyed (h : Nat) (s : State) : Out :=
  .next (if (s.handle h).kind ≠ 1 ∧ (s.handle h).state = 3 then setHandle h 4 0 s else s)

/-- CANCEL to every handle that has not ended (R390). -/
def cancelAll (s : State) : State :=
  (List.range 64).foldl (fun t i => if (t.handle (i + 1)).busy || (t.handle (i + 1)).state == 4 then (control (i + 1) 3 t).2 else t) s

/-! ## The write of `launch` and `resume-from` (R44, R407) -/

/-- A launch handle is created: it waits behind an active launch, or starts (R44). -/
def createLaunch (h owner addr : Nat) (s : State) : State :=
  let s1 := newHandle h 1 1 owner (fun x => { x with addr := addr, detail := bytesAt (leBytes 2 0xFFFF) 0 64 }) s
  if launchBusy s then s1 else validate h s1

/-- A resume handle is created; it latches the key slots in force (R213). -/
def createResume (h owner area : Nat) (s : State) : State :=
  let s1 := newHandle h 1 1 owner (fun x => { x with ctx := area, isResume := true, keys := keysNow s, detail := bytesAt (leBytes 2 0xFFFF) 0 64 }) s
  if launchBusy s then s1 else beginResume h s1

/-- R391: queued and running launches end failed with PLANE_STOPPED; one being cancelled is cancelled; a suspended one stays. -/
def failLaunches (s : State) : State :=
  (List.range 64).foldl (fun t i =>
    let x := t.handle (i + 1)
    if x.kind ≠ 1 then t
    else if [1, 2, 3, 5].contains x.state then endLaunch (i + 1) 8 0x0D t
    else if x.state = 6 then endLaunch (i + 1) 9 0 t
    else t) s

end Sys2Proof.Machine
end

