-- ==== Sys2Proof/Machine/Repair.lean ====
section
/-! DEFINITION. Axolotl's soft repair map (R458, R459) and what the spares leave (R463, R476). -/

namespace Sys2Proof.Machine

/-- One entry as it lies in the map (R459). -/
def repairEntry (e : Repair) : List Byte :=
  leBytes 1 e.kind ++ leBytes 1 e.unit ++ leBytes 2 e.index ++ leBytes 2 e.repl ++ leBytes 1 e.source ++ leBytes 1 e.state

/-- `soft-map`. -/
def softMapBytes (s : State) : List Byte := bytesAt (s.fleet.softMap.flatMap repairEntry) 0 4096

/-- Pending entries of some kinds take the state and the replacement that a start gives them: 1 applied, 2 unrepairable (R459). -/
def applyRepairs (kinds : List Nat) (f : Repair → Nat × Nat) (s : State) : State :=
  let g := fun (e : Repair) => if kinds.contains e.kind && e.state == 0 then { e with state := (f e).1, repl := (f e).2 } else e
  { s with fleet := { s.fleet with softMap := s.fleet.softMap.map g } }

/-- A start maps the spare columns anew: applied entries name the spare now in use (R76, R459). -/
def remapColumns (f : Repair → Nat) (s : State) : State :=
  let g := fun (e : Repair) => if e.kind == 3 && e.state == 1 then { e with repl := f e } else e
  { s with fleet := { s.fleet with softMap := s.fleet.softMap.map g } }

/-- An entry of the soft map for this unit. -/
def inMap (s : State) (kind unit index : Nat) : Bool := s.fleet.softMap.any fun e => e.kind == kind && e.unit == unit && e.index == index

/-- Spare sites of a compute die that are neither enabled nor disabled (R458). -/
def spareSites (s : State) (d : Nat) : List Nat :=
  (List.range 44).map (44 * d + ·) |>.filter fun i =>
    let x := s.fleet.sites.getD i {}
    !x.bad && !x.enabled && x.passed && !x.withdrawn

/-- Enabled sites of a die. -/
def enabledSites (s : State) (d : Nat) : List Nat := ((List.range 44).map (44 * d + ·)).filter fun i => (s.fleet.sites.getD i {}).enabled

/-- `degraded` (R463). -/
def degraded (s : State) : Nat :=
  let b2 := s.fleet.softMap.any fun e => (e.kind == 3 || e.kind == 4) && e.state == 2
  let b3 := s.ports.any fun p => p.txLanes != BitVec.allOnes 20
  let b4 := s.ports.any fun p => p.rxLanes != BitVec.allOnes 20
  b2n (decide (coreCount s < 160)) + 2 * b2n (decide (vlmaxMin s < 128)) + 4 * b2n b2 + 8 * b2n b3 + 16 * b2n b4 +
    32 * b2n (s.startup.cpStarts != 0 && s.startup.stacksOk != BitVec.allOnes 12) + 64 * b2n (!s.startup.heldLinks.isEmpty) +
    128 * b2n (decide (512 ≤ s.fleet.softMap.length))

end Sys2Proof.Machine
end

