-- ==== Sys2Proof/Machine/Optics.lean ====
section
/-! DEFINITION. Fibre ports: bring-up, eye safety, link control words, calibration, loss location, fade, spare swap and lane drop
(R356 to R379). -/

namespace Sys2Proof.Machine

/-! ## Lasers and power (R376, R385) -/

def laserOfs (p j : Nat) : Nat := 0x1100 + 0x80 * (p % 8) + 4 * j
def xdOf (p : Nat) : Nat := 4 + p / 8

/-- `OPT_LASER[p][j]` and its fields (R385). -/
def laserWord (s : State) (p j : Nat) : Nat := dieWord s (xdOf p) (laserOfs p j)
def setLaser (p j bias output mode : Nat) (s : State) : State :=
  setDieWord (xdOf p) (laserOfs p j) (bias % 4096 + 4096 * (output % 4096) + 16777216 * mode) s

/-- Change MODE: 0 off, 1 keep-warm, 2 on. A laser put on stands at its commissioned bias until its loop moves it (R377). -/
def laserMode (mode p j : Nat) (s : State) : State :=
  let w := laserWord s p j
  let b := if mode = 2 ∧ fld w 0 12 = 0 then Config.commissionedBias p j else fld w 0 12
  setLaser p j b (if mode = 2 then fld w 12 12 else 0) mode s

/-- Every laser of a port that serves a lane. -/
def liveLasers (q : Port) : List Nat :=
  ((List.range 20).filter fun l => bitAt q.txLanes.toNat l && q.fade.getD l 0 != 4) ++
    (((List.range 4).filter fun k => bitAt q.sparesUsed.toNat k).map (20 + ·))

/-- `OPT_PORT_CTRL[p]` (R385). -/
def portCtrl (s : State) (p : Nat) : Nat := dieWord s (xdOf p) (0x1000 + 4 * (p % 8))
def txEnabled (s : State) (p : Nat) : Bool := bitAt (portCtrl s p) 0
def loopedBack (s : State) (p : Nat) : Bool := bitAt (portCtrl s p) 1

/-- BIAS_CAP in bias units: a share of the rated maximum (R377, R385). -/
def biasCap (s : State) (p : Nat) : Nat := fld (portCtrl s p) 8 8 * Config.ratedBias / 100

/-- The loop of a laser has moved its bias to hold the output, at most to BIAS_CAP (R377). -/
def setBias (p j bias : Nat) (s : State) : State :=
  let w := laserWord s p j
  setLaser p j (min bias (biasCap s p)) (fld w 12 12) (fld w 24 2) s

/-- A laser's measured output, in 0.1 % of commissioned: fade is measured once the bias has reached BIAS_CAP (R377). -/
def laserOutput (p j output : Nat) (s : State) : State := setLaser p j (biasCap s p) output (fld (laserWord s p j) 24 2) s

/-- Spares that warm or wait for their swap. -/
def warmSpares (q : Port) : List Nat := (q.spareLane.filter fun e => !bitAt q.sparesUsed.toNat e.1).map fun e => 20 + e.1

/-- The lasers in use go to a MODE, and a spare that warms returns to idle (R374, R376). -/
def lightsOff (mode p : Nat) (s : State) : State :=
  (warmSpares (s.port p)).foldl (fun t j => laserMode 0 p j t) ((liveLasers (s.port p)).foldl (fun t j => laserMode mode p j t) s)

/-- The port's rails are good, its XD has started and is not isolated, and no trip, lost reference or RESET_N holds the optics off (R25, R39,
R420, R438, R445, R449). -/
def opticsOn (s : State) (p : Nat) : Bool :=
  let r := s.power.rails.toNat
  let d := s.dies.getD (xdOf p) { strap := 0 }
  bitAt r 5 && bitAt r 6 && bitAt r 7 && d.ok && !d.isolated && !s.power.tripped && !s.power.tripping && !s.startup.resetLow && !s.startup.refLost && !s.startup.needFull && !s.startup.steps.contains 5

/-- A port may send probes (R375, R376). -/
def mayProbe (s : State) (p : Nat) : Bool := opticsOn s p && txEnabled s p && decide (s.power.pstate ≠ 2) && decide (s.power.pstate ≠ 4)

/-! ## Down and off (R367, R374, R376) -/

/-- Forget what the peer sent, and what was to be said to it. -/
def forgetPeer (q : Port) : Port :=
  { q with id0 := none, ident := none, acked := false, peerFwd := false, echoes := [], fecLock := false, far := [], cwNext := [], identHalf := false,
           echoSent := 0, laneCorr := [], rxPhase := 0, rxIgnore := 0 }

/-- A warming or swapping spare returns to idle, and a handshake is abandoned (R376); fades are judged again after bring-up. -/
def calmLanes (q : Port) : Port :=
  { q with shake := none, rxShake := none, dropNext := [], toSwitch := 0, idleFrames := 0, probeAt := none,
           fade := q.fade.map (fun x => if x = 2 ∨ x = 3 ∨ x = 5 then 0 else x),
           spareLane := q.spareLane.filter fun e => bitAt q.sparesUsed.toNat e.1 }

/-- The transmitter is shut down for a cause, 0xFF84 (R374, R376, R387). -/
def shutdown (p cause : Nat) (s : State) : State :=
  let s1 := (lightsOff 1 p s).modPort p fun q => { calmLanes (forgetPeer q) with safety := if cause = 3 then 4 else 1, bring := 0 }
  let s2 := if cause = 1 then odInc 0x2901 3 4 1 s1 else s1
  emcy 0xFF84 [p, 0xFF, cause, 0, 0] s2

/-- A link down for FEC failure: bring-up repeats from step 3 with the transmitter on (R367). -/
def fecDown (p : Nat) (s : State) : State :=
  let s1 := linkDownAs p 2 0 s
  ((warmSpares (s1.port p)).foldl (fun t j => laserMode 0 p j t) s1).modPort p fun q => { calmLanes (forgetPeer q) with safety := 3, bring := 3 }

/-- FEC_LINK_DOWN. -/
def execFecLinkDown (p : Nat) (s : State) : Out := .next (if (s.port p).fecLock then fecDown p s else s)

/-! ## Where light is lost (R372, R373) -/

/-- A reading against its commissioned value, by index of `monitors`: low when more than 3 dB below. -/
def isLow (p i : Nat) (x : Option Int) : Option Bool := x.map fun v => decide (v < Config.commissioned p i - 300)

/-- All of a list of verdicts are known and normal. -/
def allNormal (l : List (Option Bool)) : Bool := l.all fun x => x == some false

/-- The readings of one direction: laser, modulator, coupler forward, coupler reflected high, receive coupler, lane; and R's own reflected
power high. -/
structure Light where
  s1 : Nat → Option Bool
  s2 : Nat → Option Bool
  s3 : Option Bool
  refl : Option Bool
  s4 : Option Bool
  s5 : Nat → Option Bool
  rrefl : Option Bool

/-- Reflected power is high when it is less than 20 dB below forward power. -/
def highRefl (fwd refl : Option Int) : Option Bool :=
  match fwd, refl with
  | some f, some r => some (decide (f - r < 2000))
  | _, _ => none

def lanes20 : List Nat := List.range 20

/-- The first matching row of R373: code and lane. -/
def located (x : Light) (uncorrectable : Bool) : Option (Nat × Nat) :=
  let t1 := allNormal (lanes20.map x.s1)
  let t2 := allNormal (lanes20.map x.s2)
  let lane := fun (f : Nat → Bool) => lanes20.find? f
  let low := some true
  let ok := some false
  match lane fun l => x.s1 l == low && x.s5 l == low with
  | some l => some (1, l)
  | none => match lane fun l => x.s1 l == ok && x.s2 l == low && x.s5 l == low with
    | some l => some (2, l)
    | none =>
      if t1 && t2 && x.s3 == low && x.s4 == low then some (3, 31)
      else if t1 && t2 && x.s3 == ok && x.refl == low && x.s4 == low then some (4, 31)
      else if t1 && t2 && x.s3 == ok && x.refl == ok && x.s4 == low && x.rrefl == low then some (5, 31)
      else if t1 && t2 && x.s3 == ok && x.refl == ok && x.s4 == low then some (6, 31)
      else match lane fun l => x.s1 l == ok && x.s2 l == ok && x.s3 == ok && x.refl == ok && x.s4 == ok && x.s5 l == low with
        | some l => some (7, l)
        | none =>
          if t1 && t2 && x.s3 == ok && x.refl == ok && x.s4 == ok && allNormal (lanes20.map x.s5) && uncorrectable then some (8, 31) else none

/-- Own and far readings of a port. -/
def ownMon (q : Port) (i : Nat) : Option Int := aget i q.mon
def farMon (q : Port) (stage lane : Nat) : Option Int := aget (32 * stage + lane) q.far

/-- The laser that serves a transmit lane: its spare once swapped (R377). -/
def laneLaser (q : Port) (l : Nat) : Nat :=
  if q.fade.getD l 0 = 4 then ((q.spareLane.find? fun e => e.2 == l).map fun e => 20 + e.1).getD l else l

/-- The direction in which this port transmits, and the one in which it receives. The far end's commissioned values are taken as this
port's own (log 67). -/
def txLight (p : Nat) (q : Port) : Light :=
  { s1 := fun l => isLow p (laneLaser q l) (ownMon q (laneLaser q l)), s2 := fun l => isLow p (24 + l) (ownMon q (24 + l)), s3 := isLow p 44 (ownMon q 44),
    refl := highRefl (ownMon q 44) (ownMon q 45), s4 := none, s5 := fun l => isLow p (47 + l) (farMon q 5 l),
    rrefl := highRefl (farMon q 3 31) (farMon q 4 31) }

def rxLight (p : Nat) (q : Port) : Light :=
  { s1 := fun l => isLow p l (farMon q 1 l), s2 := fun l => isLow p (24 + l) (farMon q 2 l), s3 := isLow p 44 (farMon q 3 31),
    refl := highRefl (farMon q 3 31) (farMon q 4 31), s4 := isLow p 46 (ownMon q 46), s5 := fun l => isLow p (47 + l) (ownMon q (47 + l)),
    rrefl := highRefl (ownMon q 44) (ownMon q 45) }

/-- `loss-location` of a verdict (R386): codes 1 to 4 lie at the transmitter, 5 and 7 at the receiver. -/
def lossWord (rx : Bool) (v : Nat × Nat) : Nat :=
  let far := if v.1 ≤ 4 then rx else if v.1 = 5 ∨ v.1 = 7 then !rx else false
  v.1 + 16 * b2n far + 32 * b2n rx + 64 * v.2

/-- Judge both directions; a new verdict other than 0 sends 0xFF87 (R373, R387). -/
def judgeLoss (p : Nat) (s : State) : State :=
  let q := s.port p
  let v := match located (txLight p q) false with
    | some v => lossWord false v
    | none => match located (rxLight p q) (decide (0 < q.uncorrectable)) with
      | some v => lossWord true v
      | none => 0
  let s1 := s.modPort p fun q => { q with loss := v }
  if v = 0 ∨ v = q.loss then s1
  else emcy 0xFF87 [p, if v / 64 = 31 then 0xFF else v / 64, v % 16, v % 256, v / 256] s1

/-- A lane that goes dark beside a dropped one takes the link down (R379). -/
def secondDark (p lane : Nat) (s : State) : State :=
  let q := s.port p
  if q.dropRx ≠ 0x1F ∧ q.dropRx ≠ lane ∧ q.carries = true then fecDown p s else s

/-- A receive lane goes dark, or its drop ring loses lock: its symbols are erased (R360, R370). -/
def darken (p lane : Nat) (s : State) : State := secondDark p lane (s.modPort p fun q => { q with dark := q.dark ||| BitVec.ofNat 20 (2 ^ lane) })
def unlock (p lane : Nat) (s : State) : State :=
  secondDark p lane (s.modPort p fun q => { q with unlocked := q.unlocked ||| BitVec.ofNat 20 (2 ^ lane) })

/-- The lane's ring, or its light, is back (R360, R370). -/
def lighten (p lane : Nat) (ring : Bool) (s : State) : State :=
  let m : BitVec 20 := ~~~(BitVec.ofNat 20 (2 ^ lane))
  s.modPort p fun q => { q with dark := q.dark &&& m, unlocked := if ring then q.unlocked &&& m else q.unlocked }

/-- Take the port's own readings, by index of `monitors`, and from 67 on the bias of laser j as 67 + j (R372). Stage 5 below −20 dBm makes a
lane dark, above it makes it light again; a drop ring that has lost its lock has it again once its lane is no longer low (R360, R370; log 132). -/
def takeReadings (p : Nat) (own : List (Nat × Int)) (s : State) : State :=
  own.foldl (fun t e =>
    if 67 ≤ e.1 then (if e.1 < 91 then setBias p (e.1 - 67) e.2.toNat t else t)
    else
      let t1 := t.modPort p fun q => { q with mon := aset e.1 e.2 q.mon }
      if e.1 < 47 then t1
      else if e.2 < -2000 then darken p (e.1 - 47) t1
      else lighten p (e.1 - 47) (isLow p e.1 (some e.2) == some false) t1) s

/-- The port measures its stages, and the readings are judged, whether or not words of the far end can be decoded. -/
def measure (p : Nat) (own : List (Nat × Int)) (s : State) : State := judgeLoss p (takeReadings p own s)

/-! ## Light, its loss and probes (R374, R375) -/

/-- LOS_DECLARED: link down for reason 1, transmitter off (R374). -/
def execLosDeclared (x : PortLook) (s0 : State) : Out :=
  let s := measure x.port x.own s0
  let q := s.port x.port
  .next (if (q.safety = 0 ∨ q.safety = 3) ∧ loopedBack s x.port = false then shutdown x.port 1 (linkDownAs x.port 1 0 s) else s)

/-- A probe begins: 2 ms of light (R375). -/
def startProbe (p : Nat) (s : State) : State := s.modPort p fun q => { q with safety := 2, probeAt := some s.now }

/-- The port gives light of a probe now. -/
def probing (s : State) (p : Nat) : Bool :=
  (s.port p).safety == 2 && (s.port p).probeAt.any fun t => decide (s.now < t + 2000000)

/-- PROBE_TIMER (R375). -/
def execProbeTimer (x : PortLook) (s0 : State) : Out :=
  let s := measure x.port x.own s0
  let q := s.port x.port
  .next (if (q.safety = 1 ∨ q.safety = 2) ∧ mayProbe s x.port = true ∧ loopedBack s x.port = false then startProbe x.port s else s)

/-- Lasers and rings go on at full power, bring-up from step `n` (R366). -/
def startBringup (n p : Nat) (s : State) : State :=
  (liveLasers (s.port p)).foldl (fun t j => laserMode 2 p j t) (s.modPort p fun q => { forgetPeer q with safety := 3, bring := n, probeAt := none })

/-- LIGHT_DETECTED: a port whose transmitter is off starts a probe at once, one at probe level enters bring-up and sends 0xFF85 (R375). -/
def execLightDetected (x : PortLook) (s0 : State) : Out :=
  let s := measure x.port x.own s0
  let q := s.port x.port
  .next (if mayProbe s x.port = false ∨ loopedBack s x.port = true then s
    else if probing s x.port then emcy 0xFF85 [x.port, 0xFF, 0, 0, 0] (startBringup 1 x.port s)
    else if q.safety = 1 ∨ q.safety = 2 then startProbe x.port s
    else s)

/-! ## Bring-up (R366, R272, R273, R275) -/

/-- The peer on a LINK port is the one its role was given for (R273). -/
def samePeer (s : State) (p : Nat) : Bool :=
  let q := s.port p
  match q.ident with
  | some i => linkOffered s i == some (q.dim, q.nval) && i.coord == q.peerDev && i.port == q.peerPort
  | none => false

/-- A LINK port whose peer has changed becomes MISMATCH until the next start (R273, R296). -/
def becomeMismatch (p : Nat) (s : State) : State := roleEvent p (setRole p 3 0 0 0 s)

/-- Bring a LINK port up once its peer forwards, as it stands after an identity word (R292). -/
def settlePeer (p : Nat) (s : State) : State :=
  let q := s.port p
  if !q.isLink || q.safety != 0 then s
  else match q.ident with
    | none => s
    | some _ =>
      if samePeer s p then
        if q.carries then s
        else if q.peerFwd && s.fab.fwd == 1 then linkUp p s
        else if !q.peerFwd then s.modPort p fun q => { q with pstate := 3 }
        else s
      else becomeMismatch p (if q.carries then linkDownAs p 4 0 s else s.modPort p fun q => { q with pstate := 0 })

/-- Step 7: the port is reported to Chameleon (R366, R272, R273). -/
def reportPort (p : Nat) (s : State) : State :=
  let s1 := s.modPort p fun q => { q with bring := 0, safety := 0, failedThisStart := false, failedStarts := 0 }
  let s2 := if s1.fab.fwd = 1 ∧ (s1.port p).role = 0 ∧ portRetired s1 p = false then roleLate p s1 else s1
  let s3 := if (s2.port p).role = 2 then s2.modPort p fun q => { q with pstate := 1 } else s2
  settlePeer p (reportDelay p s3)

/-- Delay in ps from sixteen round trips less their turnarounds, in fabric cycles: half the median, to one cycle (R275, R366). -/
def delayOf (l : List Nat) : Nat :=
  let t := sortNat l
  (t.getD 7 0 + t.getD 8 0) / 4 * 625 / 2

/-! ## Internal loopback (R376, R503, R508) -/

/-- Set the LOOPBACK bit of a port's `OPT_PORT_CTRL`. -/
def setLoopBit (p : Nat) (on : Bool) (s : State) : State :=
  let w := portCtrl s p
  setDieWord (xdOf p) (0x1000 + 4 * (p % 8)) (w - 2 * b2n (bitAt w 1) + 2 * b2n on) s

/-- Loopback is set: no light reaches the fibre, so a link goes down, and the port runs steps 1 to 4 of R366 on its own bus. Cleared: the port
returns to probing, unless TX_ENABLE holds it off (R376, R503). -/
def setLoopback (p : Nat) (on : Bool) (s : State) : State :=
  if loopedBack s p = on then s
  else if on then
    let s1 := if (s.port p).carries then linkDownAs p 1 0 s else s
    let s2 := (warmSpares (s1.port p)).foldl (fun t j => laserMode 0 p j t) (setLoopBit p true s1)
    (startBringup 1 p (s2.modPort p calmLanes)).modPort p fun q => { q with loopState := 1, loopFail := 0, loopUncorr := 0, loopLanes := 0 }
  else
    (lightsOff 1 p (setLoopBit p false s)).modPort p fun q =>
      { calmLanes (forgetPeer q) with safety := if txEnabled s p then 2 else 4, bring := 0, loopState := 0, loopFail := 0, loopUncorr := 0, loopLanes := 0 }

/-- Every port leaves loopback. -/
def clearLoopbacks (s : State) : State := (List.range 32).foldl (fun t p => setLoopback p false t) s

/-- A step of bring-up in loopback ends. The lanes that locked where step 3 fails are a free number below 20 (log 100). -/
def loopStep (p : Nat) (ok : Bool) (s : State) : State :=
  let n := (s.port p).bring
  if ok then s.modPort p fun q =>
    if n < 4 then { q with bring := n + 1, loopLanes := if n = 3 then 20 else 0 } else { q with bring := 0, fecLock := true, loopState := 2 }
  else
    let f := nextFreeWord s
    (if n = 3 then f.2 else s).modPort p fun q =>
      { q with bring := 0, loopState := 3, loopFail := n, loopLanes := if n = 3 then f.1.toNat % 20 else q.loopLanes }

/-- LINK_BRINGUP_STEP_DONE: the step in progress ends; one that fails returns the port to shutdown, its transmitter off (R366). -/
def execLinkBringupStepDone (x : PortLook) (ok : Bool) (s0 : State) : Out :=
  let s := measure x.port x.own s0
  let q := s.port x.port
  let at_ := fun n => s.modPort x.port fun q => { q with bring := n }
  .next (if q.bring = 0 then s
    else if loopedBack s x.port then loopStep x.port ok s
    else if !ok then
      (lightsOff 1 x.port s).modPort x.port fun q => { calmLanes (forgetPeer q) with bring := 0, safety := 1, failedThisStart := true }
    else if q.bring ≤ 3 then at_ (q.bring + 1)
    else if q.bring = 4 then (at_ 5).modPort x.port fun q => { q with fecLock := true }
    else if q.bring = 5 then (if q.ident.isSome && q.acked then at_ 6 else s)
    else if 16 ≤ q.echoes.length then
      reportPort x.port (s.modPort x.port fun q => { q with delay := delayOf q.echoes, echoes := [] })
    else s)

/-! ## Link control words (R363 to R365) -/

/-- A control word that this port is to send: its superframes carry one each, in the order of R365. -/
def cwSend (p type : Nat) (body : List Nat) (s : State) : State := s.modPort p fun q => { q with cwNext := q.cwNext ++ [(type, body)] }

/-- Control words are decoded once the FEC has locked (R366). -/
def cwHeard (s : State) (p : Nat) : Bool := (s.port p).fecLock

/-- Running total: cells freed since the last one (R287). -/
def freedBy (new old : Nat) : Nat := (new + 65536 - old) % 65536

/-- The common part of a control word: forwarding state and shared credits (R287, R292, R363). -/
def cwCommon (p : Nat) (w : CwHead) (s : State) : State :=
  let q := s.port p
  let s1 := s.modPort p fun q => { q with sharedUsed := freeShared (freedBy w.shared q.sharedTot) q.sharedUsed, sharedTot := w.shared }
  if q.peerFwd && !w.fwd then
    (if q.isLink then linkDownAs p 3 3 s1 else s1).modPort p fun q => { q with peerFwd := false, id0 := none, ident := none }
  else drainPort p (s1.modPort p fun q => { q with peerFwd := w.fwd })

/-- Active receive lanes in ascending order, and those whose symbols are erased (R359, R360). -/
def rxActive (q : Port) : List Nat := lanes20.filter fun l => bitAt q.rxLanes.toNat l
def erasedLanes (q : Port) : List Nat := (rxActive q).filter fun l => bitAt (q.dark ||| q.unlocked).toNat l

/-- Erasures and errors of codeword `i` of a superframe. -/
def codewordErrs (q : Port) (errs : List (Nat × Nat × Nat)) (i : Nat) : Nat × Nat :=
  (symbolsOn (rxActive q) (q.rxPhase + 272 * i) (erasedLanes q), ((errs.filter fun e => e.1 == i).map fun e => e.2.2).sum)

/-- The codeword can be decoded. -/
def decodes (q : Port) (errs : List (Nat × Nat × Nat)) (i : Nat) : Bool :=
  let x := codewordErrs q errs i
  correctable x.1 x.2

/-- A superframe has come in: symbols corrected, in all and on each lane, codewords decoded with erasures, and uncorrectable ones, which do
not count in the two superframes after a switchover (R360, R364, R378, R386). In loopback they count apart (R508). -/
def takeFrame (p : Nat) (errs : List (Nat × Nat × Nat)) (s : State) : State :=
  let loop := loopedBack s p
  s.modPort p fun q =>
    let fixed := errs.filter fun e => decide (e.1 < 4) && decodes q errs e.1
    let bad := ((List.range 4).filter fun i => !decodes q errs i).length
    { q with corrected := q.corrected + (fixed.map fun e => e.2.2).sum,
             erased := q.erased + ((List.range 4).filter fun i => decodes q errs i && (codewordErrs q errs i).1 != 0).length,
             uncorrectable := if loop || q.rxIgnore != 0 then q.uncorrectable else q.uncorrectable + bad,
             loopUncorr := if loop then min 65535 (q.loopUncorr + bad) else q.loopUncorr,
             laneCorr := fixed.foldl (fun l e => incAt e.2.1 e.2.2 l) q.laneCorr,
             rxIgnore := q.rxIgnore - 1, rxPhase := (q.rxPhase + 1088) % max 1 (rxActive q).length }

/-- Take a control word: its superframe counts, and nothing more where the FEC has no lock, its codeword is lost, or the port hears itself. -/
def wordTaken (p : Nat) (w : CwHead) (s : State) (f : State → State) : State :=
  if cwHeard s p then
    let t := takeFrame p w.errs s
    if decodes (s.port p) w.errs 0 && !loopedBack s p then f (cwCommon p w t) else t
  else s

def onWord (p : Nat) (w : CwHead) (s : State) (f : State → State) : Out := .next (wordTaken p w s f)

def execNullWord (p : Nat) (cw : CwHead) (s : State) : Out := onWord p cw s fun t => settlePeer p t

/-- CREDIT: a reserved part's running total (R287). -/
def execCredit (p : Nat) (cw : CwHead) (cls level total : Nat) (s : State) : Out :=
  onWord p cw s fun t =>
    if 10 < cls ∨ level < 1 ∨ 5 < level then t
    else
      let key := 16 * cls + level
      drainPort p (t.modPort p fun q =>
        let used := (aget key q.credUsed).getD 0
        { q with credTot := aset key total q.credTot, credUsed := aset key (used - freedBy total ((aget key q.credTot).getD 0)) q.credUsed })

/-- IDENT0: domain, coordinate, ACK (R272, R364). -/
def execIdent0 (p : Nat) (cw : CwHead) (domain coord : Nat) (ack : Bool) (s : State) : Out :=
  onWord p cw s fun t => t.modPort p fun q => { q with id0 := some (domain, coord), acked := ack }

/-- IDENT1 completes the identity (R272, R364). -/
def execIdent1 (p : Nat) (cw : CwHead) (shape port : Nat) (s : State) : Out :=
  onWord p cw s fun t =>
    match (t.port p).id0 with
    | none => t
    | some (d, k) => settlePeer p (t.modPort p fun q => { q with ident := some { domain := d, coord := k, shape := shape, port := port }, id0 := none })

/-- ECHO: a request is answered, a reply is one of the sixteen measurements of step 6 (R366). The turnaround sent is free (log 68). -/
def execEcho (p : Nat) (cw : CwHead) (time : Nat) (reply : Bool) (turnaround now : Nat) (s : State) : Out :=
  onWord p cw s fun t =>
    if reply then
      if (t.port p).bring = 6 then
        t.modPort p fun q => { q with echoes := q.echoes ++ [(now + 2 ^ 24 - time % 2 ^ 24) % 2 ^ 24 - turnaround] }
      else t
    else
      let f := nextFreeWord t
      cwSend p 8 [time, 1, f.1.toNat % 128] f.2

/-- BAD_CONTROL_WORD: a reserved TYPE is ignored and counted (R364). -/
def execBadControlWord (p type : Nat) (s : State) : Out :=
  .next (if cwHeard s p = true ∧ 9 < type then odInc 0x2901 5 4 1 s else s)

/-! ## Calibration words (R368, R373) -/

/-- Which way a lane's drive is trimmed towards fewer corrected symbols: on while they fall, back when they rise, else free (R368; log 133). -/
def trimStep (last : Int) (before corrected free : Nat) : Int :=
  if last ≠ 0 ∧ corrected < before then last
  else if last ≠ 0 ∧ before < corrected then -last
  else ((free % 3 : Nat) : Int) - 1

/-- Trim one lane's drive by at most 0.1 dB per 100 µs, and not upwards once its laser stands at the bias limit (R368). -/
def trimLane (p lane corrected : Nat) (s : State) : State :=
  let q := s.port p
  let keep := fun (t : State) => t.modPort p fun q => { q with lastCorr := aset lane corrected q.lastCorr }
  if corrected = 0 ∨ s.now < ((aget lane q.trimAt).map (· + 100000)).getD 0 then keep s
  else
    let f := nextFreeWord s
    let full := decide (biasCap s p ≤ fld (laserWord s p (laneLaser q lane)) 0 12)
    let d := trimStep ((aget lane q.trimDir).getD 0) ((aget lane q.lastCorr).getD 0) corrected f.1.toNat
    let d := if full ∧ 0 < d then 0 else d
    keep (f.2.modPort p fun q => { q with trimDir := aset lane d q.trimDir, trimAt := aset lane s.now q.trimAt,
                                          trim := aset lane ((aget lane q.trim).getD 0 + d) q.trim })

/-- CAL (R368, R373). -/
def execCal (p : Nat) (cw : CwHead) (lane corrected : Nat) (power : Int) (own : List (Nat × Int)) (s : State) : Out :=
  .next (judgeLoss p (wordTaken p cw (takeReadings p own s) fun t =>
    trimLane p lane corrected (t.modPort p fun q => { q with far := aset (32 * 5 + lane) power q.far })))

/-- TXMON (R373). -/
def execTxmon (p : Nat) (cw : CwHead) (lane stage : Nat) (reading : Int) (own : List (Nat × Int)) (s : State) : Out :=
  .next (judgeLoss p (wordTaken p cw (takeReadings p own s) fun t => t.modPort p fun q => { q with far := aset (32 * stage + lane) reading q.far }))

/-! ## Fade, swap and drop (R377 to R379) -/

def setFade (p lane v : Nat) (s : State) : State := s.modPort p fun q => { q with fade := q.fade.set lane v }

/-- The handshake of a transmit lane, and of a receive lane. -/
def setShake (p : Nat) (k : Option Shake) (s : State) : State := s.modPort p fun q => { q with shake := k }
def setRxShake (p : Nat) (k : Option Shake) (s : State) : State := s.modPort p fun q => { q with rxShake := k }

/-- A handshake in a phase; `drop`, or a swap to `spare`. -/
def shakeOf (drop : Bool) (lane spare phase why : Nat) (proposer : Bool) : Shake :=
  { drop := drop, lane := lane, spare := spare, phase := phase, proposer := proposer, why := why }

/-- Send the word of a phase. -/
def phaseWord (p : Nat) (k : Shake) (phase : Nat) (s : State) : State :=
  cwSend p (if k.drop then 7 else 6) (if k.drop then [k.lane, phase] else [k.lane, k.spare, phase]) s

/-- The transmitter commits: 64 superframes on, the lane changes (R378). -/
def commit (p : Nat) (k : Shake) (s : State) : State :=
  phaseWord p k 2 ((setShake p (some { k with phase := 2 }) s).modPort p fun q => { q with toSwitch := 64 })

/-- A lane is to be dropped; a second one of its direction, or `drop-enable` = 0, takes the link down (R377, R379, R386). A handshake that
stands is abandoned for it, unless it is committed: then the drop waits. -/
def dropLane (p lane why : Nat) (transmitter : Bool) (s : State) : State :=
  let q := s.port p
  let had := if transmitter then q.dropTx else q.dropRx
  let s1 := if transmitter then setFade p lane 5 s else s
  let k := shakeOf true lane 0 0 why true
  if had = lane then s
  else if had ≠ 0x1F ∨ odGet s 0x2900 4 = 0 then fecDown p s1
  else match (if transmitter then q.shake else q.rxShake) with
    | none => phaseWord p k 0 (if transmitter then setShake p (some k) s1 else setRxShake p (some k) s1)
    | some old =>
      if old.drop && old.lane == lane then s1
      else if old.phase = 2 then s1.modPort p fun q => { q with dropNext := q.dropNext ++ [(transmitter, lane, why)] }
      else phaseWord p k 0 (phaseWord p old 3 (if transmitter then setShake p (some k) s1 else setRxShake p (some k) s1))

/-- Start the handshake of a lane that waits for one: a drop, else a swap. -/
def nextShake (p : Nat) (s : State) : State :=
  let q := s.port p
  if q.safety ≠ 0 then s
  else match q.dropNext.find? fun d => if d.1 then q.shake.isNone else q.rxShake.isNone with
    | some d => dropLane p d.2.1 d.2.2 d.1 (s.modPort p fun q => { q with dropNext := q.dropNext.erase d })
    | none =>
      if q.shake.isSome then s
      else match lanes20.find? fun l => q.fade.getD l 0 == 3 with
        | some l => match q.spareLane.find? fun e => e.2 == l with
          | some (k, _) => let x := shakeOf false l k 0 0 true; phaseWord p x 0 (setShake p (some x) s)
          | none => s
        | none => s

/-- A failed laser: its spare warms, or the lane drops (R377). -/
def warmSpare (p lane noSpare : Nat) (s : State) : State :=
  let q := s.port p
  let k := lane / 5
  let idle := !bitAt q.sparesUsed.toNat k && !bitAt q.sparesFailed.toNat k && (aget k q.spareLane).isNone && odGet s 0x2900 3 == 1
  if idle then laserMode 2 p (20 + k) (setFade p lane 2 (s.modPort p fun q => { q with spareLane := aset k lane q.spareLane }))
  else dropLane p lane noSpare true s

/-- FADE_WARN: the lane, or a spare in use, enters WARN (R377). -/
def execFadeWarn (p laser output : Nat) (s : State) : Out :=
  let q := s.port p
  let used := decide (laser < 20) || bitAt q.sparesUsed.toNat (laser - 20)
  .next (if used ∧ output < 10 * odGet s 0x2900 1 ∧ q.fade.getD laser 0 = 0 then
    emcy 0xFF81 [p, laser, b2n (decide (20 ≤ laser)), output % 256, output / 256] (laserOutput p laser output (setFade p laser 1 s)) else s)

/-- FADE_ACT: below `fade-act`, or below 30 % (R377). -/
def execFadeAct (p laser output : Nat) (s : State) : Out :=
  let q := s.port p
  let s1 := laserOutput p laser output s
  .next (if output < 10 * odGet s 0x2900 2 ∨ output < 300 then
    if laser < 20 then (if q.fade.getD laser 0 ≤ 1 then warmSpare p laser 1 s1 else s)
    else match aget (laser - 20) q.spareLane with
      | some lane => if q.fade.getD lane 0 = 4 then dropLane p lane 1 true s1 else s
      | none => s
  else s)

/-- FADE_RECOVER (R377). -/
def execFadeRecover (p laser : Nat) (s : State) : Out := .next (if (s.port p).fade.getD laser 0 = 1 then setFade p laser 0 s else s)

/-- SPARE_LOCKED: the swap is proposed (R377, R378). -/
def execSpareLocked (p spare : Nat) (s : State) : Out :=
  .next (match aget spare (s.port p).spareLane with
    | some lane => if (s.port p).fade.getD lane 0 = 2 then nextShake p (setFade p lane 3 s) else s
    | none => s)

/-- SPARE_LOCK_TIMEOUT: the spare has failed, the lane drops (R377). -/
def execSpareLockTimeout (p spare : Nat) (s : State) : Out :=
  .next (match aget spare (s.port p).spareLane with
    | some lane =>
      if (s.port p).fade.getD lane 0 = 2 then
        dropLane p lane 2 true (laserMode 0 p (20 + spare) (s.modPort p fun q =>
          { q with sparesFailed := q.sparesFailed ||| BitVec.ofNat 4 (2 ^ spare), spareLane := adel spare q.spareLane }))
      else s
    | none => s)

/-- A proposal that stands is repeated. -/
def repeatShake (p : Nat) (k : Option Shake) (s : State) : State :=
  match k with
  | some k => if k.phase = 0 ∧ k.proposer = true then phaseWord p k 0 s else s
  | none => s

/-- SWAP_PROPOSE_RETRY: a proposal without an answer is repeated, or a waiting one is made (R378). -/
def execSwapProposeRetry (p : Nat) (s : State) : Out :=
  let q := s.port p
  .next (repeatShake p q.rxShake (if q.shake.isSome then repeatShake p q.shake s else nextShake p s))

/-- The far transmitter proposes for a lane of the receive direction: it is accepted, and again where the proposal is repeated. A handshake
that is committed stands (R378). -/
def acceptShake (p : Nat) (k : Shake) (s : State) : State :=
  match (s.port p).rxShake with
  | some old => if old.phase = 2 then s else phaseWord p k 1 (setRxShake p (some { k with phase := 1 }) s)
  | none => phaseWord p k 1 (setRxShake p (some { k with phase := 1 }) s)

/-- An abandoned swap leaves its spare idle and its lane as it was (R376). -/
def dropSpare (p : Nat) (k : Shake) (s : State) : State :=
  setFade p k.lane 1 (laserMode 0 p (20 + k.spare) (setShake p none (s.modPort p fun q => { q with spareLane := adel k.spare q.spareLane })))

/-- The standing handshake is this one, in this phase. -/
def Shake.isAt (k : Shake) (drop : Bool) (lane phase : Nat) : Bool := k.drop == drop && k.lane == lane && k.phase == phase

/-- SWAP: a phase of the handshake (R378). -/
def execSwap (p : Nat) (cw : CwHead) (lane spare phase : Nat) (s : State) : Out :=
  onWord p cw s fun t =>
    match phase, (t.port p).shake, (t.port p).rxShake with
    | 0, _, _ => acceptShake p (shakeOf false lane spare 0 0 false) t
    | 1, some k, _ => if k.isAt false lane 0 then commit p k t else t
    | 2, _, some k => if k.isAt false lane 1 then setRxShake p (some { k with phase := 2 }) t else t
    | 3, x, y =>
      let u := match y with
        | some k => if k.drop || k.lane != lane || k.phase == 2 then t else setRxShake p none t
        | none => t
      match x with
      | some k => if k.drop || k.lane != lane || k.phase == 2 then u else dropSpare p k u
      | none => u
    | _, _, _ => t

/-- Reasons that a far transmitter can have for a drop: none is said in the word, so it is free (R379, R387; log 68). -/
def farWhy (free : Nat) : Nat := [1, 2, 4].getD (free % 3) 1

/-- A DROP proposal: it does not say for which direction it is made, which is free (log 68). A lane that may not be dropped takes the link
down (R379, R386); the transmitter commits at once what a receiver proposes, for its drop ring. -/
def dropProposed (p lane : Nat) (s0 : State) : State :=
  let f := nextFreeWord s0
  let s := f.2
  let q := s.port p
  let mine := f.1.toNat % 2 == 1
  let had := if mine then q.dropTx else q.dropRx
  if had = lane then s
  else if had ≠ 0x1F ∨ odGet s 0x2900 4 = 0 then fecDown p s
  else if mine then
    (match q.shake with
      | some k => if k.phase = 2 then s else commit p (shakeOf true lane 0 0 3 false) (setFade p lane 5 s)
      | none => commit p (shakeOf true lane 0 0 3 false) (setFade p lane 5 s))
  else acceptShake p (shakeOf true lane 0 0 (farWhy (f.1.toNat / 2)) false) s

/-- DROP: a phase of the handshake (R379). -/
def execDropWord (p : Nat) (cw : CwHead) (lane phase : Nat) (s : State) : Out :=
  onWord p cw s fun t =>
    match phase, (t.port p).shake, (t.port p).rxShake with
    | 0, _, _ => dropProposed p lane t
    | 1, some k, _ => if k.isAt true lane 0 then commit p k t else t
    | 2, _, some k => if k.drop && k.lane == lane then setRxShake p (some { k with phase := 2 }) t else t
    | 3, x, y =>
      let u := match y with
        | some k => if k.drop && k.lane == lane && k.phase != 2 then setRxShake p none t else t
        | none => t
      match x with
      | some k => if k.drop && k.lane == lane && k.phase != 2 then setShake p none u else u
      | none => u
    | _, _, _ => t

/-- A link with a lane dropped runs at 19/20 (R274, R379). -/
def degradePort (p : Nat) (s : State) : State := s.modPort p fun q => { q with pstate := if q.pstate = 1 then 2 else q.pstate }

/-- 0xFF83 and its counter. -/
def dropEvent (p lane why : Nat) (s : State) : State := emcy 0xFF83 [p, lane, why, 0, 0] (odInc 0x2901 2 4 1 s)

/-- The transmit lane of a committed handshake changes: the spare takes it, or the direction stripes over 19 lanes; two superframes carry
IDLE words only (R377 to R379). -/
def switchTx (p : Nat) (k : Shake) (s : State) : State :=
  let s1 := (setShake p none s).modPort p fun q => { q with toSwitch := 0, idleFrames := 2 }
  if k.drop then
    let s2 := setFade p k.lane 6 (s1.modPort p fun q => { q with txLanes := q.txLanes &&& ~~~(BitVec.ofNat 20 (2 ^ k.lane)), dropTx := k.lane })
    let s3 := dropEvent p k.lane k.why (degradePort p (laserMode 0 p (laneLaser (s.port p) k.lane) s2))
    if k.why = 1 then recordRepair 9 (xdOf p) (32 * p) 0xFFFF 5 0 s3 else s3
  else
    let s2 := laserMode 0 p k.lane (setFade p k.lane 4 (s1.modPort p fun q => { q with sparesUsed := q.sparesUsed ||| BitVec.ofNat 4 (2 ^ k.spare) }))
    recordRepair 7 (xdOf p) (32 * p + k.lane) (32 * p + 20 + k.spare) 5 1 (emcy 0xFF82 [p, k.lane, k.spare, 0, 0] (odInc 0x2901 1 4 1 s2))

/-- The receive lane of one changes: it is realigned, or left out. -/
def switchRx (p : Nat) (k : Shake) (s : State) : State :=
  let s1 := (setRxShake p none s).modPort p fun q => { q with rxIgnore := 2 }
  if k.drop then
    dropEvent p k.lane k.why (degradePort p (s1.modPort p fun q =>
      { q with rxLanes := q.rxLanes &&& ~~~(BitVec.ofNat 20 (2 ^ k.lane)), dropRx := k.lane, rxPhase := 0 }))
  else s1

/-- SWAP_SWITCHOVER: the boundary of superframe m + 64 in the transmit or the receive direction (R378, R379). -/
def execSwapSwitchover (x : PortSide) (s : State) : Out :=
  .next (match (if x.receive then (s.port x.port).rxShake else (s.port x.port).shake) with
    | none => s
    | some k => if k.phase ≠ 2 then s else nextShake x.port (if x.receive then switchRx x.port k s else switchTx x.port k s))

/-- RING_LOCK_LOST (R370). -/
def execRingLockLost (p : Nat) (receive : Bool) (lane : Nat) (s : State) : Out :=
  .next (if (s.port p).safety ≠ 0 then s
    else
      let s1 := emcy 0xFF86 [p, lane, b2n receive, 0, 0] (odInc 0x2901 4 4 1 s)
      if receive then unlock p lane s1 else s1)

/-- RING_RELOCK_TIMEOUT: a transmit ring counts as a failed laser, that of a spare in use as its failure; for a drop ring the receiver
proposes a DROP (R370, R377). -/
def execRingRelockTimeout (p : Nat) (receive : Bool) (lane : Nat) (s : State) : Out :=
  let q := s.port p
  .next (if q.safety ≠ 0 then s
    else if receive then dropLane p lane 3 false s
    else if q.fade.getD lane 0 ≤ 1 then warmSpare p lane 4 s
    else if q.fade.getD lane 0 = 4 then dropLane p lane 4 true s
    else s)

end Sys2Proof.Machine
end

