-- ==== Sys2Proof/Machine/Eports.lean ====
section
/-! DEFINITION. Ordinary-network ports: links and the spare laser (R381), frames (R380), the fabric encapsulation and host requests
(R382, R383, R345), the IEEE 1588 clock and the calendar (R384, R465). -/

namespace Sys2Proof.Machine

/-- `e-address` of a port (R386). -/
def eAddress (s : State) (n : Nat) : List Byte := leBytes 16 (odGet s 0x2920 (n + 1))

/-- E port `n` has its rails and its XD (R25, R420). -/
def eOn (s : State) (n : Nat) : Bool := opticsOn s (8 * n)

/-! ## Links (R381, R387) -/

/-- A port goes down: 0xFF88 with the lane. -/
def eDown (n lane : Nat) (s : State) : State :=
  if (s.eport n).up then emcy 0xFF88 [0x40 + n, lane, 0, lane, 0] (s.modEport n fun e => { e with up := false }) else s

def execEPortDown (n lane : Nat) (s : State) : Out := .next (eDown n lane s)

def execEPortUp (n : Nat) (s : State) : Out :=
  .next (if (s.eport n).up ∨ eOn s n = false then s else emcy 0xFF88 [0x40 + n, 0xFF, 1, 0, 0] (s.modEport n fun e => { e with up := true }))

/-- E_LASER_REPLACE: the spare takes the lane, which is dark for a free time of at most 1 ms; with none left the port goes down (R381;
log 131). -/
def execELaserReplace (n lane : Nat) (s : State) : Out :=
  let f := nextFreeWord s
  .next (match (s.eport n).spareLane with
    | none => recordRepair 8 (4 + n) (32 * n + lane) (32 * n + 4) 5 1
        (emcy 0xFF88 [0x40 + n, lane, 2, lane, 0]
          (f.2.modEport n fun e => { e with spareLane := some lane, darkUntil := s.now + f.1.toNat % 1000001 }))
    | some _ => eDown n lane s)

/-! ## Frames (R380) -/

/-- The datagrams that waited for a neighbour's link address leave (log 131). -/
def neighbourFound (n : Nat) (a : List Byte) (s : State) : State :=
  let q := s.eport n
  (q.unresolved.filter fun d => d.addr == a).foldl (fun t d => datagramE n d t)
    (s.modEport n fun e => { e with neighbours := if e.neighbours.contains a then e.neighbours else e.neighbours ++ [a],
                                    unresolved := e.unresolved.filter fun d => d.addr != a })

/-- What a frame that came in whole makes the port do: neighbour discovery and echo for its address are answered, and what is not supported
is dropped and counted. -/
def takeEFrame (n : Nat) (f : EFrame) (s : State) : State :=
  let drop := s.modEport n fun e => { e with dropped := e.dropped + 1 }
  match f with
  | .neighbourSolicit a => if a = eAddress s n then frameE n (.neighbourAdvert a) s else s
  | .neighbourAdvert a => neighbourFound n a s
  | .icmpEcho a b => if a = eAddress s n then frameE n (.icmpEcho a b) s else s
  | .pause => s.modEport n fun e => { e with pause := e.pause + 1 }
  | .fragment => drop
  | .extensionHeader => drop
  | .ipv4 => drop
  | .tcp => drop
  | .uncorrectable => s
  | .fcsError => s
  | .other => s

/-- E_FRAME_RECEIVE: a frame that the FEC or its check sequence spoils is counted and lost, one above 9 216 bytes is dropped. -/
def execEFrameReceive (n : Nat) (x : EFrameIn) (s : State) : Out :=
  .next (if !(s.eport n).up then s
    else if s.now < (s.eport n).darkUntil then s.modEport n fun e => { e with dropped := e.dropped + 1 }
    else if x.frame = .uncorrectable then s.modEport n fun e => { e with unc := e.unc + 1 }
    else if x.frame = .fcsError then s.modEport n fun e => { e with fcs := e.fcs + 1 }
    else
      let s1 := s.modEport n fun e => { e with rx := e.rx + 1 }
      if 9216 < x.len then s1.modEport n fun e => { e with dropped := e.dropped + 1 } else takeEFrame n x.frame s1)

/-! ## The fabric encapsulation (R382, R383, R345) -/

/-- The bits of an address, most significant first. -/
def addrBits (a : List Byte) : List Bool := a.flatMap fun b => (List.range 8).map fun i => bitAt b.toNat (7 - i)

/-- The source lies within `bulk-peers`; prefix length 0 marks an entry unused (R386). -/
def bulkPeer (s : State) (a : List Byte) : Bool :=
  (List.range 16).any fun i =>
    let e := leBytes 17 (odGet s 0x2922 (i + 1))
    let n := min 128 (numAt e 16 1)
    n != 0 && (addrBits a).take n == (addrBits (e.take 16)).take n

/-- The entry of `xdom-peers` that a source is (R382). -/
def xdomPeer (s : State) (a : List Byte) (udp : Nat) : Option Nat :=
  (List.range 64).find? fun k => (xpeer s k).1 == a && (xpeer s k).2.1 == udp && !zeros a

/-- A host request is formed as R383 says. -/
def hostOk (s : State) (p : Packet) : Bool :=
  p.cls == 0 && [0, 1, 2].contains p.op && opOk p && p.ver == 1 && decide (p.len ≤ 16) && p.rsvd == 0 && p.sep == 0xFE && p.sdev == 0 &&
  p.domain == ownDomain s && p.ddev == own s && p.h == 0 && p.order == 0 && !p.detour && p.ddim == 0 && p.dval == 0 && endpointValid p.dep

/-- A packet of another domain is well formed: as on a fibre, or XACK (R345). -/
def xdomOk (s : State) (k : Nat) (p : Packet) : Bool :=
  p.domain == (xpeer s k).2.2 && p.ddev == own s &&
    (formatOk p || (p.op == 0x18 && p.len == 0 && decide (2 ≤ p.cls) && decide (p.cls ≤ 9) && p.ver == 1))

/-- E_DATAGRAM_RECEIVE: for the listening port `fabric-udp`, from a source of `bulk-peers` or `xdom-peers` (R382). -/
def execEDatagramReceive (n : Nat) (d : Datagram) (s : State) : Out :=
  let s1 := s.modEport n fun e => { e with rx := e.rx + 1 }
  let drop := s1.modEport n fun e => { e with dropped := e.dropped + 1 }
  let e : Ejected := { xd := n, fromE := some (n, d.addr, d.port), pkt := d.pkt }
  .next (if !(s.eport n).up then s
    else if s.now < (s.eport n).darkUntil then s.modEport n fun e => { e with dropped := e.dropped + 1 }
    else if !d.checksumOk || d.ownPort != odGet s 0x2921 1 then drop
    else if d.pkt.sep = 0xFE then
      if bulkPeer s d.addr && hostOk s d.pkt then { s1 with inbox := s1.inbox ++ [e] } else drop
    else match xdomPeer s d.addr d.port with
      | none => drop
      | some k =>
        if !xdomOk s k d.pkt then drop
        else if d.pkt.jobtag ≠ odGet s 0x2300 2 then odInc 0x2500 6 4 1 s1
        else if d.pkt.cls = 10 then { s1 with inbox := s1.inbox ++ [e] }
        else match boundGroup s d.pkt.cls with
          | none => odInc 0x2500 6 4 1 s1
          | some g => match senderRank s g d.pkt with
            | none => odInc 0x2500 6 4 1 s1
            | some r => xdomArrive g r e s1)

/-! ## IEEE 1588 and the calendar (R384, R465) -/

/-- No master is in use any more. -/
def ptpLost (s : State) : State :=
  { s with ptp := { offset := s.ptp.offset, delaySeq := s.ptp.delaySeq }, fleet := { s.fleet with calSource := if s.fleet.calSource = 0 then 0 else 2 } }

/-- An Announce: the best data set, the least in the order of its comparison, chooses the port; that of the master in use is kept up to
date. -/
def ptpAnnounce (n : Nat) (d : List Nat) (s : State) : State :=
  if s.ptp.state ≠ 0 ∧ s.ptp.port = n then { s with ptp := { s.ptp with master := d } }
  else if s.ptp.state = 0 ∨ d < s.ptp.master then
    let s1 := if s.ptp.state = 2 then ptpLost s else s
    { s1 with ptp := { s1.ptp with state := 1, port := n, master := d, t1 := none, t3 := none } }
  else s

/-- The send time of the last Sync is known: a Delay_Req goes out, stamped at the PCS to ±8 ns. -/
def ptpSynced (n : Nat) (origin : Int) (s : State) : State :=
  let f := nextFreeWord s
  let k := (s.ptp.delaySeq + 1) % 65536
  { f.2 with ptp := { s.ptp with t1 := some origin, delaySeq := k, t3 := some ((calendar s : Int) + ((f.1.toNat % 17 : Nat) : Int) - 8) },
             ptpOut := (n, k) :: s.ptpOut }

/-- A message of the master in use. A one-step Sync carries its send time, that of a two-step one follows. The Delay_Resp closes the exchange:
half of what the ways there and back differ by is the offset, and the clock is locked (R384). -/
def ptpFromMaster (n : Nat) (msg : PtpMsg) (s : State) : State :=
  match msg with
  | .sync _ k origin arrival =>
    let s1 : State := { s with ptp := { s.ptp with syncSeq := k, t1 := none, t2 := arrival } }
    match origin with
    | some t => ptpSynced n t s1
    | none => s1
  | .followUp _ k origin => if k = s.ptp.syncSeq ∧ s.ptp.t1 = none then ptpSynced n origin s else s
  | .delayResp _ k arrival =>
    match s.ptp.t1, s.ptp.t3 with
    | some t1, some t3 =>
      if k = s.ptp.delaySeq then
        { s with ptp := { s.ptp with state := 2, offset := ((s.ptp.t2 - t1) - (arrival - t3)) / 2, t3 := none } }
      else s
    | _, _ => s
  | .announce _ _ => s
  | .announceTimeout => ptpLost s

/-- Domain of a message. -/
def ptpDomain : PtpMsg → Option Nat
  | .announce d _ => some d
  | .sync d _ _ _ => some d
  | .followUp d _ _ => some d
  | .delayResp d _ _ => some d
  | .announceTimeout => none

/-- PTP_MESSAGE: of `ptp-domain`, on a port that is up. -/
def execPtpMessage (n : Nat) (msg : PtpMsg) (s : State) : Out :=
  .next (if !(s.eport n).up || (ptpDomain msg).any (fun d => d != odGet s 0x2930 1) then s
    else match msg with
      | .announce _ d => ptpAnnounce n d s
      | m => if s.ptp.state ≠ 0 ∧ s.ptp.port = n then ptpFromMaster n m s else s)

/-- CALENDAR_SET: once per second while locked (R465). -/
def execCalendarSet (time : Nat) (s : State) : Out :=
  .next (if s.ptp.state = 2 then { s with fleet := { s.fleet with calBase := (time : Int) - s.now, calSource := 1 } } else s)

end Sys2Proof.Machine
end

