-- ==== Sys2Proof/Machine/Superframe.lean ====
section
/-! DEFINITION. What passes with time: superframes leave on every lit fibre port (R361 to R366), each with one link control word and the data
words that wait, and refill the shares of the rate (R290); engine credits move (R424); held messages leave (R203). -/

namespace Sys2Proof.Machine

/-! ## Ports that send (R365, R366) -/

/-- A port that sends superframes: its light is at full power, and its modulator rings have locked (R365, R366). -/
def litPort (q : Port) : Bool := q.safety == 0 || (q.safety == 3 && decide (3 ≤ q.bring))

/-- The port sends superframes to its fibre. -/
def sending (s : State) (p : Nat) : Bool := litPort (s.port p) && !loopedBack s p

/-! ## The control word of a superframe (R365) -/

/-- Superframes that a port with `lanes` active lanes has begun by a time in ns: 10.625 ns each on 20 lanes (R361; log 130). -/
def framesBy (lanes t : Nat) : Nat := t * (8 * lanes) / 1700

/-- Active transmit lanes (R359). -/
def txActive (q : Port) : Nat := (lanes20.filter fun l => bitAt q.txLanes.toNat l).length

/-- Time in fabric cycles of 0.3125 ns. -/
def fabricTime (t : Nat) : Nat := t * 16 / 5

/-- A reading as I12 in 0.01 dBm. -/
def asI12 (v : Int) : Nat := unsx 12 (max (-2048) (min 2047 v))

/-- Identity that a port sends: what is in force while the plane is up, else what its next start takes (R267, R272; log 130). -/
def sentCoord (s : State) : Nat := if s.fab.fwd = 1 then s.fab.coord else odGet s 0x2300 1
def sentShape (s : State) : Nat := if s.fab.fwd = 1 then s.fab.shape else odGet s 0x2400 1

/-- The first word to send of one of these TYPEs, and the port without it. -/
def queuedWord (types : List Nat) (q : Port) : Option ((Nat × List Nat) × Port) :=
  (q.cwNext.find? fun w => types.contains w.1).map fun w => (w, { q with cwNext := q.cwNext.erase w })

/-- IDENT0 and IDENT1, one after the other: while the peer's identity lacks ACK, and every 1 ms after that. -/
def identWord (s : State) (p : Nat) (q : Port) : Option ((Nat × List Nat) × Port) :=
  if q.identHalf then some ((3, [sentShape s, p]), { q with identHalf := false, identAt := s.now })
  else if !q.acked || decide (q.identAt + 1000000 ≤ s.now) then
    some ((2, [ownDomain s, sentCoord s, b2n q.ident.isSome]), { q with identHalf := true })
  else none

/-- ECHO: replies that are owed, and in step 6 the sixteen requests (R366). -/
def echoWord (s : State) (q : Port) : Option ((Nat × List Nat) × Port) :=
  (queuedWord [8] q).or
    (if q.bring = 6 ∧ q.echoSent < 16 then some ((8, [fabricTime s.now % 2 ^ 24, 0, 0]), { q with echoSent := q.echoSent + 1 }) else none)

/-- Item `i` of the rotation through the 20 CALs and the 42 TXMONs; what has not been measured is a free reading. -/
def monitorItem (q : Port) (i free : Nat) : Nat × List Nat :=
  let read := fun k => ((ownMon q k).map asI12).getD free
  if i < 20 then (4, [i, min 65535 (lget 0 q.laneCorr i), read (47 + i)])
  else if i < 40 then (5, [i - 20, 1, read (laneLaser q (i - 20))])
  else if i < 60 then (5, [i - 40, 2, read (24 + (i - 40))])
  else if i = 60 then (5, [31, 3, read 44])
  else (5, [31, 4, read 45])

/-- CAL and TXMON: 62 items in 100 µs. A CAL takes its lane's count with it. -/
def monitorWord (s : State) (q : Port) (free : Nat) : Option ((Nat × List Nat) × Port) :=
  if q.rotAt ≤ s.now then
    some (monitorItem q q.rot free,
      { q with rotAt := s.now + 1612, rot := (q.rot + 1) % 62, laneCorr := if q.rot < 20 then adel q.rot q.laneCorr else q.laneCorr })
  else none

/-- Reserved part `i` of the 55: class and level, as 16 class + level. -/
def partKey (i : Nat) : Nat := 16 * (i / 5) + (i % 5 + 1)

/-- CREDIT: the next reserved part, round-robin, whose total has changed since it was last sent. -/
def creditWord (q : Port) : Option ((Nat × List Nat) × Port) :=
  (((List.range 55).map fun i => (q.credNext + i) % 55).find? fun i => lget 0 q.rxFreed (partKey i) != lget 0 q.credSent (partKey i)).map fun i =>
    let k := partKey i
    let n := lget 0 q.rxFreed k
    ((1, [k / 16, k % 16, n]), { q with credNext := (i + 1) % 55, credSent := lset 0 k n q.credSent })

/-- The control word that a superframe carries: TYPE and body fields, and the port after it. -/
def chooseWord (s : State) (p : Nat) (q : Port) (free : Nat) : (Nat × List Nat) × Port :=
  (queuedWord [6, 7] q).getD ((queuedWord [9] q).getD ((identWord s p q).getD ((echoWord s q).getD
    ((monitorWord s q free).getD ((creditWord q).getD ((0, []), q))))))

/-! ## A superframe leaves (R361, R363, R290, R378) -/

/-- What a superframe's time brings to a port's shares of the rate, in 1/1024 cell: CTL 1/64, the bucket `unplanned-cap` / 64, and the
boundaries it has come nearer to. -/
def passFrame (cap : Nat) (q : Port) : Port :=
  { q with bucket := min (68 * 1024) (q.bucket + frameWords * cap), ctlRoom := min (17 * 1024) (q.ctlRoom + frameWords),
           toSwitch := if 1 < q.toSwitch then q.toSwitch - 1 else q.toSwitch, idleFrames := q.idleFrames - 1 }

/-- Data words of the next superframe: IDLE during bring-up and in the two after a switchover. -/
def frameData (q : Port) : List (Bool × Nat) := if q.bring = 0 ∧ q.idleFrames = 0 then q.txWords.take frameWords else []

/-- Port `p` sends a superframe, and takes up more packets. -/
def sendFrame (p : Nat) (s : State) : State :=
  let f := nextFreeWord s
  let q := s.port p
  let c := chooseWord s p q (f.1.toNat % 4096)
  let data := frameData q
  let ctl := encodeCtl { type := c.1.1, fwd := s.fab.fwd == 1, start := startIndex data, shared := q.rxFreedShared, body := c.1.2 }
  let q1 := passFrame (odGet s 0x2400 3) { c.2 with txWords := q.txWords.drop data.length, frame := superframe ctl (data.map (·.2)) }
  let s1 : State := f.2.modPort p fun _ => q1
  drainPort p { s1 with cwOut := (p, ctl) :: s1.cwOut }

/-- A superframe of port `p` begins in this ns. -/
def frameDue (s : State) (p : Nat) : Bool :=
  let q := s.port p
  sending s p && framesBy (txActive q) (s.now - 1) != framesBy (txActive q) s.now

/-- Every lit port whose superframe is due sends it. -/
def sendFrames (s : State) : State := ((List.range 32).filter (frameDue s)).foldl (fun t p => sendFrame p t) s

/-! ## Heartbeats (R466) -/

/-- Label of a kind: tray, power shelf, cooling loop, switch. -/
def ownLabel (s : State) (kind : Nat) : Nat := numAt (leBytes 8 (odGet s 0x2B30 1)) (2 * kind) 2

/-- Body of a HEARTBEAT: beat, kind, label, COMPUTE, LEAVING, epoch. -/
def beatBody (s : State) : List Nat :=
  [s.fleet.beat, s.fleet.beat % 4, ownLabel s (s.fleet.beat % 4), b2n s.startup.computeUp, b2n s.fleet.leaving, s.fleet.epoch % 64]

/-- Every lit port sends a heartbeat. -/
def sendBeats (s : State) : State :=
  let s1 := ((List.range 32).filter (sending s)).foldl (fun t p => cwSend p 9 (beatBody t) t) s
  { s1 with fleet := { s1.fleet with beat := (s1.fleet.beat + 1) % 256 } }

/-- Port `p` sends superframes until its heartbeat has left: phases of a swap or drop go before it (R365). -/
def sendBeatNow (p : Nat) : Nat → State → State
  | 0, s => s
  | n + 1, s => if (s.port p).cwNext.any fun w => w.1 == 9 then sendBeatNow p n (sendFrame p s) else s

/-- LEAVING is set, and a heartbeat carries it in the next superframe, before the light may go (R466). -/
def leave (s : State) : State :=
  let s1 := sendBeats { s with fleet := { s.fleet with leaving := true } }
  ((List.range 32).filter (sending s1)).foldl (fun t p => sendBeatNow p (t.port p).cwNext.length t) s1

/-! ## Waits for tokens (R290) -/

/-- A REQ or RSP of the port has all it needs but tokens. -/
def lacksTokens (s : State) (p : Nat) : Bool :=
  let q := s.port p
  portCarries s p && (atPort s p).any fun w => decide (w.pkt.cls ≤ 1) && mayStart q w.pkt && !mayRate q w.pkt && (takeCells q w.pkt).isSome

/-- `cap-delays`: fabric cycles of the last ns in which a port waited for tokens. -/
def noteCapDelays (s : State) : State :=
  if s.fab.wait.isEmpty then s
  else ((List.range 32).filter (lacksTokens s)).foldl (fun t p => odInc 0x2423 (p + 1) 4 (fabricTime s.now - fabricTime (s.now - 1)) t) s

/-! ## Time -/

/-- One ns passes: the credits move, superframes leave, and the held messages leave as the budget allows. -/
def tick (s : State) : State :=
  emcyDrain 16 (sendFrames (noteCapDelays { s with now := s.now + 1, cores := s.cores.map (coreTick (theta s)) }))

end Sys2Proof.Machine
end

