-- ==== Sys2Proof/Machine/Planes.lean ====
section
/-! DEFINITION. The planes: stopping and starting the compute plane, the forwarding plane and MD, what each reset keeps, and the steps of a
start (R391, R422, R445 to R448, R451 to R456, R458 to R461). -/

namespace Sys2Proof.Machine

/-! ## The dictionary over resets (R454, R455) -/

/-- What keeps the value of a stored key. -/
def lifeOf (k : Nat) : Life := match findObj (k / 256) (k % 256) with
  | some o => o.life
  | none => .none

/-- Keep the values of some lives; the others return to their defaults. -/
def odKeep (p : Life → Bool) (s : State) : State := { s with od := s.od.filter fun e => p (lifeOf e.1) }

/-- The stored settings among the values. -/
def storedOnly (l : List (Nat × Nat)) : List (Nat × Nat) := l.filter fun e => lifeOf e.1 == .stored

/-- The stored settings are reloaded from MRAM (N of R455). -/
def loadStored (s : State) : State :=
  let rest := s.od.filter fun e => lifeOf e.1 != .stored
  { s with od := s.mram.foldl (fun l e => lset (odDefault (e.1 / 256) (e.1 % 256)) e.1 e.2 l) rest }

/-! ## Forced SafeOp (R391) -/

/-- Op or SafeOp is forced down to SafeOp with an AL status code; every other state stays as it is. -/
def forceSafeOp (code : Nat) (s : State) : State :=
  if s.mgmt.al = 8 ∨ s.mgmt.al = 4 then
    emcy 0xFF12 [4, 0, 0, code % 256, code / 256] { s with mgmt := { s.mgmt with al := 4, alErr := true, alCode := code } }
  else s

/-! ## The compute plane -/

/-- Drop what near slices and core stores hold, with its marks. -/
def cutCompute (s : State) : State :=
  { s with mem := s.mem.filter fun e => decide (e.1 < nearBase)
           wild := s.wild.filter fun e => decide (e.1 < nearBase)
           poison := s.poison.filter fun l => decide (128 * l < nearBase)
           poisonFlips := s.poisonFlips.filter fun e => decide (128 * e.1 < nearBase)
           ecc := s.ecc.filter fun e => decide (8 * e.1 < nearBase)
           nearTimes := [] }

/-- Drop what HBM holds, with its marks. -/
def cutHbm (s : State) : State :=
  { s with mem := s.mem.filter fun e => decide (hbmTop ≤ e.1)
           wild := s.wild.filter fun e => decide (hbmTop < e.2.1)
           poison := s.poison.filter fun l => decide (hbmTop ≤ 128 * l)
           poisonFlips := s.poisonFlips.filter fun e => decide (hbmTop ≤ 128 * e.1)
           ecc := s.ecc.filter fun e => decide (hbmTop ≤ 8 * e.1)
           startup := { s.startup with hbmFull := true, stacksOk := 0 } }

/-- The compute plane stops: launches end (R391), open operations end, cores, near slices and CD registers are lost (R455 CP). -/
def stopCompute (s : State) : State :=
  let s1 := cutCompute (failLaunches (endCores 0x10 s))
  { s1 with cores := List.replicate 160 {}, proxyReqs := [], chipEvents := [], eventIn := [], eventOut := [], chans := [], ops := []
            dieRegs := s1.dieRegs.filter fun e => decide (4 * 2 ^ 24 ≤ e.1)
            startup := { s1.startup with computeUp := false } }

/-- Windows in a near slice or a core store become unused (R456 K*). -/
def dropNearWindows (s : State) : State :=
  { s with windows := s.windows.map fun w => (w.1, if w.2.base < nearBase then w.2 else { w.2 with length := 0 }) }

/-! ## The forwarding plane (R292) -/

/-- Every packet held is discarded; reorder and credit state are forgotten. -/
def dropFabric (s : State) : State :=
  { s with inbox := s.inbox.filter fun e => e.fromE.isSome
           ports := s.ports.map fun q => { q with credTot := [], sharedTot := 0, credUsed := [], sharedUsed := [], rxFreed := [], rxFreedShared := 0
                                                  credSent := [], txWords := [] }
           fab := { s.fab with flows := [], linkDown := [], wait := [] } }

/-- Groups keep their records and slots and pass through FORMING again; open operations end GROUP_STATE (R456 K†). -/
def reformGroups (s : State) : State :=
  (List.range 16).foldl (fun t g =>
    if (t.group g).state = 0 then t
    else groupReform g ((t.ops.filter fun o => o.g == g).foldl (fun u o => endOp o 0x0B u) t)) s

/-- The forwarding plane stops and reads `st`; its links go down for reason 5 where the reset is its own (R292, R296). -/
def stopForwarding (st : Nat) (loud : Bool) (s : State) : State :=
  let s1 : State := { s with fab := { s.fab with fwd := st } }
  let s2 := (List.range 32).foldl (fun t p =>
    if loud then (if (t.port p).carries then linkDownAs p 5 0 t else t)
    else t.modPort p fun q => { q with pstate := 0 }) s1
  reformGroups (dropFabric s2)

/-- A port goes dark without a cause of R376: its rails, its clock or its XD are gone, or a trip has been declared. -/
def quietPort (mode p : Nat) (s : State) : State :=
  (lightsOff mode p s).modPort p fun q => { calmLanes (forgetPeer q) with safety := 1, bring := 0, pstate := 0 }

/-- Ports whose light is gone while the forwarding plane may run: links down for reason 1. -/
def darkPorts (ps : List Nat) (s : State) : State :=
  ps.foldl (fun t p => quietPort 1 p (if (t.port p).carries then linkDownAs p 1 0 t else t)) s

/-- E ports that lose light. -/
def darkEports (ns : List Nat) (s : State) : State := ns.foldl (fun t n => eDown n 0xFF t) s

/-! ## What MD holds -/

/-- Groups return to ABSENT, and their slots are free. -/
def clearGroups (s : State) : State :=
  { s with groups := List.replicate 16 {}, slotsFree := List.replicate 4 512, ops := [], xflows := [], chans := [] }

/-- Job tag, membership, windows, groups, handles and the other job-scoped settings (R455 D). -/
def clearJob (s : State) : State :=
  let s1 := odKeep (fun l => l == .stored || l == .counter) (clearGroups s)
  { s1 with handles := List.replicate 64 {}, windows := [], refusedBy := []
            mgmt := { s1.mgmt with active := none, issued := [], launchHandle := 0 }
            fleet := { s1.fleet with members := [], epoch := 0, reported := [], suspect := false } }

/-- MD's firmware starts again: EtherCAT in Init, every session closed, no request pending, its keys gone (R392, R403, R452, R483). A test
mode stays (R500). -/
def restartMd (s : State) : State :=
  { s with dieRegs := s.dieRegs.filter fun e => decide (e.1 < 8 * 2 ^ 24)
           mgmt := { s.mgmt with al := 1, alErr := false, alCode := 0, alPending := none, sm3 := [], issued := [],
                                 sessions := List.replicate 4 {}, reasm := [], reasmTimes := [], staged := none, recovering := false, regAddr := 0 }
           sec := { s.sec with udsLocked := false, aliasReady := false, aliasSeeds := [], kemSeed := [] }
           startup := { s.startup with preopReady := false } }

/-- Spares in use on a port, as the soft map holds them (R455, R458 kind 7). -/
def portFromMap (s : State) (p : Nat) (q : Port) : Port :=
  (s.fleet.softMap.filter fun e => e.kind == 7 && e.state == 1 && e.index / 32 == p).foldl (fun q e =>
    let l := e.index % 32
    let k := e.repl % 32 - 20
    { q with sparesUsed := q.sparesUsed ||| BitVec.ofNat 4 (2 ^ k), fade := q.fade.set l 4, spareLane := aset k l q.spareLane }) q

/-- XDs start afresh: ports, E ports, the clock, Croak and the XD registers (R455 D); counters stay where `keep`. -/
def restartXds (keep : Bool) (s : State) : State :=
  let port := fun (x : Nat × Port) =>
    portFromMap s x.1 { corrected := if keep then x.2.corrected else 0, uncorrectable := if keep then x.2.uncorrectable else 0,
                        erased := if keep then x.2.erased else 0, failedStarts := x.2.failedStarts, failedThisStart := x.2.failedThisStart }
  let eport := fun (x : Nat × EPort) =>
    let sp := (s.fleet.softMap.find? fun e => e.kind == 8 && e.state == 1 && e.index / 32 == x.1).map fun e => e.index % 32
    if keep then { x.2 with up := false, spareLane := sp } else { ({} : EPort) with spareLane := sp }
  { s with ports := (s.ports.zipIdx.map fun x => port (x.2, x.1)), eports := (s.eports.zipIdx.map fun x => eport (x.2, x.1))
           inbound := [], inbox := []
           dieRegs := s.dieRegs.filter fun e => !(decide (4 * 2 ^ 24 ≤ e.1) && decide (e.1 < 8 * 2 ^ 24))
           fab := { s.fab with flows := [], wait := [], linkDown := [], seqOut := [], spray := [], xcopy := false }
           ptp := {}
           fleet := { s.fleet with neighbours := [], windows := [], leaving := false
                                   calSource := if s.fleet.calSource = 0 then 0 else 2 } }

/-! ## Rails and clocks that a plane needs (R420, R39) -/

def railsGood (s : State) (l : List Nat) : Bool := l.all fun r => bitAt s.power.rails.toNat r

/-- The reference is there and no loss of it holds the data planes stopped (R39). -/
def clockOk (s : State) : Bool := !s.startup.refLost && !s.startup.needFull

/-- The compute plane, and the forwarding plane, may start. -/
def computeOk (s : State) : Bool := railsGood s [0, 1, 2, 3, 4, 5] && clockOk s
def forwardOk (s : State) : Bool := railsGood s [5] && clockOk s

/-- The compute plane may run: test mode keeps it stopped (R500). -/
def computeMay (s : State) : Bool := computeOk s && !s.test.mode

/-! ## Steps 4 to 6 -/

/-- Strap values of R24. -/
def validStraps : List Nat := [0x08, 0x0A, 0x0C, 0x0E, 0x10, 0x12, 0x14, 0x16, 0x20]

/-- The rail a die runs from: VCORE_C, VIO_X, VSTBY (R420). -/
def ownRail (d : Nat) : Nat := if d < 4 then 0 else if d < 8 then 5 else 8

/-- A die whose own rail has become good reads its straps, once; what a later step reports of a die that has read them is not looked at
(R23). A die with an invalid strap, or one that another die has too, is out for as long as it is powered (R24, R25). -/
def readStraps (straps : List Nat) (s : State) : State :=
  if straps.length ≠ 9 then s
  else
    let first := fun (d : Die × Nat) =>
      if !d.1.read && bitAt s.power.rails.toNat (ownRail d.2) then { d.1 with strap := straps.getD d.2 0, read := true, ok := true } else d.1
    let ds := s.dies.zipIdx.map first
    let alone := fun v => (ds.filter fun d => d.read && d.strap == v).length == 1
    { s with dies := ds.map fun d => if d.read then { d with ok := d.ok && validStraps.contains d.strap && alone d.strap } else d }

/-- Dies that lose their power read their straps again when it returns. -/
def unreadStraps (ds : List Nat) (s : State) : State :=
  { s with dies := s.dies.zipIdx.map fun d => if ds.contains d.2 then { d.1 with read := false } else d.1 }

/-- Every port whose optics are on probes (R366, R375). -/
def startProbes (s : State) : State :=
  (List.range 32).foldl (fun t p => if mayProbe t p ∧ ((t.port p).safety = 1 ∨ (t.port p).safety = 2) then startProbe p t else t) s

/-- Stacks that a compute die owns (R20). -/
def ownedStacks (d : Nat) : List Nat := modeStacks (2 + d)

/-- Step 6: stacks that trained and whose die is there are in use (R446, R25). -/
def trainHbm (failed : List Nat) (s : State) : State :=
  if computeOk s then
    let ok := fun n => !failed.contains n && (List.range 4).all fun d => dieOk s d || !(ownedStacks d).contains n
    { s with lanes := if s.startup.hbmFull then [] else s.lanes
             flagged := if s.startup.hbmFull then [] else s.flagged
             startup := { s.startup with hbmFull := false, stacksOk := BitVec.ofNat 12 (((List.range 12).filter ok).map (2 ^ ·)).sum } }
  else s

/-! ## Steps 7 to 9: the compute plane starts (R27, R111, R234, R445, R459, R461) -/

/-- Step 7: near slices read zero, and their refresh starts at 8 ms (R234). -/
def startNear (s : State) : State :=
  if computeMay s then
    { cutCompute s with power := { s.power with refresh := List.replicate 4 8, refreshNext := List.replicate 4 8,
                                                refreshSampled := List.replicate 4 false } }
  else s

/-- Record what a test found at site `i`, pending, source `src` (R459). -/
def recordFound (src i : Nat) (f : SiteResult) (s : State) : State :=
  let put := fun kind (t : State) x => recordRepair kind (i / 44) (256 * (i % 44) + x) 0xFFFF src 0 t
  let s1 := f.lanes.foldl (put 2) s
  let s2 := f.columns.foldl (put 3) s1
  f.nearRows.foldl (fun t r => put 4 t r.1) s2

/-- Add what a test found to a site's list of failed parts. -/
def addFound (f : SiteResult) (x : Site) : Site :=
  { x with lostLanes := dedup (x.lostLanes ++ f.lanes) [], lostCols := dedup (x.lostCols ++ f.columns) [],
           lostRows := (x.lostRows ++ f.nearRows).foldl (fun l r => if l.contains r then l else l ++ [r]) [] }

/-- Active lane groups of a site: nine, less those lost, at most eight; a spare whose repair the map could not hold does not exist. -/
def activeGroups (s : State) (i : Nat) (x : Site) : Nat :=
  let noted := x.lostLanes.isEmpty || x.lostLanes.any fun g => inMap s 2 (i / 44) (256 * (i % 44) + g)
  min 8 ((if noted then 9 else 8) - x.lostLanes.length)

/-- Physical groups that the lane map leaves out: those lost, then G8 while it is spare (R111, R144). -/
def unusedGroups (s : State) (i : Nat) (x : Site) : List Nat := (x.lostLanes ++ [8]).take (9 - activeGroups s i x)

/-- Columns that no data may use: the factory map's and those found since. -/
def Site.deadCols (x : Site) : List Nat := dedup (x.factoryCols ++ x.lostCols) []

/-- The column map: a lost logical column and the good spare that takes its place (R76, R102). -/
def Site.colMap (x : Site) : List (Nat × Nat) :=
  (x.deadCols.filter fun k => decide (k < 128)).zip ([128, 129, 130, 131].filter fun k => !x.deadCols.contains k)

/-- The spare that serves a lost column, and G8 for the first lost lane group, when it is good. -/
def Site.colSpare (x : Site) (k : Nat) : Option Nat := aget k x.colMap
def Site.laneSpare (x : Site) (g : Nat) : Option Nat := if x.lostLanes.head? = some g ∧ !x.lostLanes.contains 8 then some 8 else none

/-- The spares of a site cover its faults (R76, R112, R458, R461). -/
def siteCovered (s : State) (i : Nat) (x : Site) : Bool :=
  decide (7 ≤ activeGroups s i x) && decide (x.deadCols.length ≤ 4) &&
  (x.lostCols.all fun k => inMap s 3 (i / 44) (256 * (i % 44) + k)) &&
  (x.lostRows.all fun r => inMap s 4 (i / 44) (256 * (i % 44) + r.1) && decide ((x.lostRows.filter fun q => q.1 == r.1).length ≤ 64))

/-- A test of site `i` has ended with `f`: does it pass? -/
def noFault : SiteResult := { lanes := [], columns := [], nearRows := [], hard := false }

def testSite (found : List (Nat × SiteResult)) (i : Nat) (s : State) : State :=
  let x := s.fleet.sites.getD i {}
  if x.bad || !dieOk s (i / 44) then s
  else
    let f := (aget i found).getD noFault
    let s1 := modSite i (addFound f) (recordFound 1 i f s)
    let y := s1.fleet.sites.getD i {}
    if siteCovered s1 i y && !f.hard && !y.failedTest then
      let vl := 16 * activeGroups s1 i y
      modSite i (fun z => { z with passed := true, marked := false, withdrawn := false, vl := vl, unused := unusedGroups s1 i y, spareCols := y.colMap.length }) s1
    else
      modSite i (fun z => { z with passed := false, marked := false, withdrawn := false, bad := true, stFails := z.stFails + 1, lastTime := calendar s })
        (recordSite i 1 s1)

/-- Sites of a die. -/
def dieSites (d : Nat) : List Nat := (List.range 44).map (44 * d + ·)

/-- The spares of die `d` in the order in which they replace its disabled sites: (disabled site, spare) (R461). -/
def spareUse (s : State) (d : Nat) : List (Nat × Nat) :=
  let x := fun i => s.fleet.sites.getD i {}
  let lost := (dieSites d).filter fun i => !(x i).spare && (x i).bad && inMap s 1 d (i % 44)
  lost.zip ((dieSites d).filter fun i => (x i).spare && (x i).passed && !(x i).bad)

/-- Enabled sites of die `d`, ascending. -/
def dieEnabled (s : State) (d : Nat) : List Nat :=
  if dieOk s d then
    let x := fun i => s.fleet.sites.getD i {}
    let used := (spareUse s d).map (·.2)
    (dieSites d).filter fun i => (x i).passed && !(x i).bad && (!(x i).spare || used.contains i)
  else []

/-- A channel with a lane to remap retrains: its samplers stand at their trained positions again (R244, R458). `k` names a lane. -/
def retrained (s : State) (k : Nat) : Bool :=
  s.fleet.softMap.any fun e => e.kind == 5 && e.state == 0 && 32 * (e.unit - 8) + e.index / 256 == k / 256

def retrainChannels (s : State) : State :=
  { s with lanes := s.lanes.filter fun e => !retrained s e.1
           flagged := s.flagged.filter fun k => !retrained s k }

/-- Kinds 1 to 5 of the soft map take their state at this start (R458, R459). -/
def settleRepairs (s : State) : State :=
  let x := fun (e : Repair) => s.fleet.sites.getD (44 * e.unit + e.index / 256) {}
  let cut := fun (e : Repair) (spare : Nat) => if (x e).bad then (2, 0xFFFF) else (1, spare)
  let one := fun (e : Repair) =>
    let i := 44 * e.unit + e.index
    if (s.fleet.sites.getD i {}).bad then
      (2, match (spareUse s e.unit).find? fun p => p.1 == i with
        | some p => p.2 % 44
        | none => 0xFFFF)
    else (1, 0xFFFF)
  let s1 := applyRepairs [1] one s
  let place := fun (e : Repair) (p : Option Nat) => match p with
    | some p => e.index / 256 * 256 + p
    | none => 0xFFFF
  let s2 := applyRepairs [2] (fun e => cut e (place e ((x e).laneSpare (e.index % 256)))) s1
  let s3 := remapColumns (fun e => place e ((x e).colSpare (e.index % 256)))
    (applyRepairs [3, 4] (fun e => cut e (if e.kind = 3 then place e ((x e).colSpare (e.index % 256)) else e.index)) s2)
  applyRepairs [5] (fun _ => (1, 0xFFFF)) (retrainChannels s3)

/-- Step 8: self-test, repair, logical numbers and VLMAX (R27, R111, R461). -/
def startCores (found : List (Nat × SiteResult)) (s : State) : State :=
  if computeMay s then
    let s1 := settleRepairs ((List.range 176).foldl (fun t i => testSite found i t) s)
    let map := (List.range 4).flatMap (dieEnabled s1)
    let vl := fun c => (s1.fleet.sites.getD (map.getD c 0) {}).vl
    let sites := s1.fleet.sites.zipIdx.map fun x => { x.1 with enabled := map.contains x.2 }
    { s1 with fleet := { s1.fleet with sites := sites, coreMap := map }
              cores := (List.range 160).map (fun c => { ({} : Core) with vlmax := if c < map.length then vl c else 128 })
              startup := { s1.startup with cpStarts := s1.startup.cpStarts + 1 } }
  else s

/-- At a compute-plane start a limiter fault and the clamp it applied end (R428, R436). -/
def endLimiterFault (s : State) : State :=
  if s.power.limiterFault then
    let s1 : State := { s with power := { s.power with limiterFault := false, clamp := false, slewCeil := if s.power.clamp then min s.power.slewCeil 9 else s.power.slewCeil
                                                       sensors := s.power.sensors.map fun x => { x with crossed := (x.crossed.set 1 false).set 4 false } } }
    if s.power.clamp then emcy 0xFF24 [0xFF, 0xFF, 0, theta s1, 0] s1 else s1
  else s

/-- Links that a step 9 trains: CD–CD and CD–XD, and the ring hops where `ring` (R448). -/
def trainedLinks (ring : Bool) : List Nat := List.range (if ring then 12 else 8)

/-- A second failed wire of a group whose spare is in use already. -/
def secondWire (s : State) (e : Repair) : Bool :=
  s.fleet.softMap.any fun x => x.kind == 6 && x.state == 1 && x.unit == e.unit && x.index == e.index

/-- Groups with a failed wire take their spare; one with two holds its link down,
at this training and at every later one (R34, R35). Entries name link × 256 + group. -/
def trainLinks (links : List Nat) (bad : List (Nat × Nat)) (s : State) : State :=
  let mine := fun (e : Repair) => e.kind == 6 && e.state == 0 && links.contains (e.index / 256)
  let cut := fun (e : Repair) => bad.contains (e.index / 256, e.index % 256) || secondWire s e
  let g := fun (e : Repair) => if mine e then { e with state := if cut e then 2 else 1, repl := if cut e then 0xFFFF else e.index } else e
  let map := s.fleet.softMap.map g
  let lost := fun l => (map.any fun e => e.kind == 6 && e.state == 2 && e.index / 256 == l) || bad.any fun b => b.1 == l
  let held := s.startup.heldLinks.filter (fun l => !links.contains l) ++ links.filter lost
  let fresh := fun (x : D2d × Nat) => if links.contains (x.2 / 2) then { x.1 with failed := false, recent := [] } else x.1
  { s with startup := { s.startup with heldLinks := held }, fleet := { s.fleet with softMap := map }
           d2d := s.d2d.zipIdx.map fresh }

/-- Step 9: links trained, and the compute plane runs. -/
def startLinks (ring : Bool) (bad : List (Nat × Nat)) (s : State) : State :=
  if computeMay s then
    let s1 := trainLinks (trainedLinks ring) bad s
    { s1 with startup := { s1.startup with computeUp := true } }
  else s

/-! ## Step 10: the forwarding plane starts (R267, R269, R270, R272, R446, R458 kind 9) -/

/-- Ring hops whose spares have been selected are up again; a hop held down at its training stays down (R34). -/
def startRing (bad : List (Nat × Nat)) (s : State) : State :=
  let s1 := trainLinks [8, 9, 10, 11] bad s
  { s1 with fab := { s1.fab with hopsDown := (s1.startup.heldLinks.filter (8 ≤ ·)).map (· - 8) } }

/-- A port that failed its bring-up counts this start; at the third running it is recorded (R458 kind 9). -/
def countFailedStarts (s : State) : State :=
  (List.range 32).foldl (fun t p =>
    let q := t.port p
    if q.failedThisStart then
      let t1 := t.modPort p fun q => { q with failedStarts := q.failedStarts + 1, failedThisStart := false }
      if q.failedStarts + 1 = 3 then recordRepair 9 (xdOf p) (32 * p) 0xFFFF 5 0 t1 else t1
    else t) s

/-- The TAP holds an XD's wrapper in its scan path (R499). -/
def xdSelected (s : State) : Bool := s.test.mode && (List.range 4).any fun k => bitAt s.test.dieSel (4 + k)

/-- Shape and coordinate come into force and roles are assigned; a bad coordinate or domain 0 refuses the plane. -/
def startForwarding (bad : List (Nat × Nat)) (s : State) : State :=
  if forwardOk s && !xdSelected s then
    let s1 := startRing bad (applyRepairs [9] (fun _ => (1, 0xFFFF)) (countFailedStarts s))
    let shape := odGet s1 0x2400 1
    let coord := odGet s1 0x2300 1
    let ok := inRange shape coord && odGet s1 0x2400 2 != 0
    let s2 : State := { s1 with fab := { s1.fab with shape := shape, coord := coord, fwd := if ok then 1 else 3 } }
    if ok then (List.range 32).foldl (fun t p => settlePeer p t) (assignRoles s2)
    else (List.range 32).foldl (fun t p => setRole p 0 0 0 0 t) s2
  else s

/-! ## Core reset (R451) -/

/-- One logical core returns to its defaults; its near slice and its engines' credits of time are kept. -/
def coreReset (c : Nat) (s : State) : State :=
  let lo := storeAddr c 0
  let hi := lo + storeSize
  let s1 : State := { s with mem := s.mem.filter fun e => decide (e.1 < lo) || decide (hi ≤ e.1)
                             wild := s.wild.filter fun e => decide (e.1 < lo) || decide (hi < e.2.1)
                             poison := s.poison.filter fun l => decide (128 * l < lo) || decide (hi ≤ 128 * l)
                             poisonFlips := s.poisonFlips.filter fun e => decide (128 * e.1 < lo) || decide (hi ≤ 128 * e.1)
                             ecc := s.ecc.filter fun e => decide (8 * e.1 < lo) || decide (hi ≤ 8 * e.1)
                             proxyReqs := s.proxyReqs.filter fun q => q.1 != c }
  s1.modCore c fun k => { ({} : Core) with vlmax := k.vlmax, slotGens := k.slots.foldl (fun l e => incAt e.1 1 l) k.slotGens }

/-! ## Starts (R447, R448) -/

/-- Steps that a reset runs again. Kind 8 is trip release, 9 the restart after a recovery image. -/
def stepsOf (kind : Nat) : List Nat :=
  match kind with
  | 2 => [1, 2, 3, 4, 6, 7, 8, 9]
  | 3 => [7, 8, 9]
  | 8 => [4, 5, 6, 7, 8, 9, 10, 11]
  | _ => [1, 2, 3, 4, 5, 6, 7, 8, 9, 10, 11]

/-- A start of a cause begins: it counts among the lifetime's starts (R464). -/
def countStart (s : State) : State := { s with fleet := { s.fleet with starts := s.fleet.starts + 1 } }

def setSteps (kind : Nat) (s : State) : State :=
  countStart { s with startup := { s.startup with steps := stepsOf kind, kind := kind, cause := kind, preopReady := s.startup.preopReady && kind == 3 } }

/-- The lifetime records are written to MRAM (R464). -/
def saveLife (s : State) : State :=
  let f := s.fleet
  { s with fleet := { f with saved :=
      { onSeconds := f.onSeconds, starts := f.starts, cycles := f.cycles, trips := f.trips, repairEvents := f.repairEvents, sites := f.sites,
        hbmCorr := f.hbmCorr, hbmUnc := f.hbmUnc, laserHours := f.laserHours, laserBias := f.laserBias, eLaserHours := f.eLaserHours,
        eLaserBias := f.eLaserBias } } }

/-! ## What a reset brings back -/

/-- Open operations of this device end, and the remote engines' tables restart (R453, kind 2). -/
def restartEngines (s : State) : State := { s with inbound := [], inbox := [] }

/-- Dies that lost lock start again. -/
def freshPlls (s : State) : State := { s with dies := s.dies.map fun d => { d with isolated := false, pllLocked := true } }

/-- A start that restarts the XDs and the compute plane ends the wait of R39, unless the reference is still away. -/
def freshClock (s : State) : State := freshPlls { s with startup := { s.startup with needFull := s.startup.refLost } }

/-- Handles other than launches that are queued or running end failed, ABANDONED (R415, R452). -/
def abandonHandles (s : State) : State :=
  (List.range 64).foldl (fun t i =>
    let x := t.handle (i + 1)
    if x.kind ≠ 0 ∧ x.kind ≠ 1 ∧ (x.state = 1 ∨ x.state = 2) then setHandle (i + 1) 8 0x0102 t else t) s

/-- Power states other than tripped end: the device starts into Bask (R431). -/
def awake (s : State) : State := if s.power.pstate = 4 then s else setPState 1 s

/-- What RESET_N stops, and a restart from step 1 after a recovery image: everything but what VSTBY holds (R449, R455 PIN, R457, R481). -/
def pinStop (s : State) : State :=
  let s1 := freshClock (restartXds false (stopForwarding 0 false (cutHbm (clearJob (restartMd (stopCompute s))))))
  let keep := s1.power
  awake { odKeep (fun l => l == .stored) s1 with
    corrTimes := [], corrOver := [], lanes := [], flagged := [], margin := []
    mgmt := { s1.mgmt with emcyTimes := [], coalesced := 0, heldEmcy := [], checkLog := [], saves := [] }
    d2d := List.replicate 24 {}
    fleet := { s1.fleet with suspect := false }
    power := { keep with capCeil := 16, slewCeil := 16, pinCeil := 16, pin := false, clamp := false, limiterFault := false, stepUpAt := none,
                         stepDownAt := none, demand := 0, ballast := 0, releaseSince := none }
    startup := { s1.startup with steps := [], fpSteps := [], mgSteps := [], heldLinks := [] } }

/-- Test mode ends: RESET_N and power-on alone do it (R500). -/
def endTest (s : State) : State := { s with test := { s.test with mode := false } }

/-- Reset `kind` begins: what it restarts stops (R448, R455). A device that has tripped restarts MD and stays tripped (R449). -/
def beginStart (kind : Nat) (s0 : State) : State :=
  let s := saveLife s0
  match kind with
  | 1 => setSteps 1 (awake (freshClock (restartXds true (stopForwarding 0 false (clearJob (restartMd (stopCompute (leave s))))))))
  | 2 => setSteps 2 (clearLoopbacks (restartEngines (clearJob (restartMd (stopCompute s)))))
  | 3 => setSteps 3 (forceSafeOp 0x8004 (dropNearWindows (stopCompute s)))
  | 4 => countStart { stopForwarding 2 true s with startup := { s.startup with fpSteps := [10] } }
  | 6 => countStart { restartMd (abandonHandles s) with startup := { s.startup with mgSteps := [1, 2, 3], mgCause := 6, preopReady := false } }
  | 7 =>
    let t := endTest (pinStop s)
    if t.power.tripped || t.power.tripping then countStart { t with startup := { t.startup with mgSteps := [1, 2, 3], mgCause := 7 } }
    else setSteps 7 t
  | 8 =>
    let t := loadStored (freshPlls (restartXds true (clearJob (restartMd s))))
    setSteps 8 { t with sec := { s.sec with fused := t.sec.fused } }
  | 9 => setSteps 9 (pinStop s)
  | _ => setSteps kind s

/-! ## A reset requested while another runs (R450) -/

/-- Depth of a start: power-on, RESET_N, trip release, kinds 1, 2, 3, 5, a late start of single blocks. -/
def depth (kind : Nat) : Nat := match kind with
  | 0 => 0
  | 7 => 1
  | 9 => 1
  | 8 => 2
  | 1 => 3
  | 2 => 4
  | 3 => 5
  | 5 => 6
  | _ => 7

/-- The running start, if any, is at least as deep as `kind`. -/
def coveredBy (s : State) (kind : Nat) : Bool := !s.startup.steps.isEmpty && decide (depth s.startup.kind ≤ depth kind)

/-- The running start restarts the forwarding plane, and MD. -/
def restartsFwd (s : State) : Bool := !s.startup.steps.isEmpty && [0, 1, 7, 8, 9].contains s.startup.kind
def restartsMd (s : State) : Bool := !s.startup.steps.isEmpty && [0, 1, 2, 7, 9].contains s.startup.kind

/-- Run a reset that has been accepted: covered, deeper or beside. -/
def requestStart (kind : Nat) (s : State) : State :=
  let s1 : State := { s with startup := { s.startup with
    fpSteps := if [0, 1, 7, 8, 9].contains kind then [] else s.startup.fpSteps,
    mgSteps := if [0, 1, 2, 7, 9].contains kind then [] else s.startup.mgSteps } }
  if kind = 4 then (if restartsFwd s || !s.startup.fpSteps.isEmpty then s else beginStart 4 s)
  else if kind = 6 then (if restartsMd s || !s.startup.mgSteps.isEmpty then s else beginStart 6 s)
  else if coveredBy s kind then s
  else beginStart kind s1

end Sys2Proof.Machine
end

