-- ==== Sys2Proof/Machine/Power.lean ====
section
/-! DEFINITION. Salamander: power measurement and the throttle (R423 to R430), power states (R431 to R433), sensors, thresholds and clamps
(R434 to R437), trips and their release (R438 to R442), and the refresh rate that follows the layers (R234). -/

namespace Sys2Proof.Machine

/-! ## Power and the cap (R423, R426) -/

/-- `cap-in-force`. -/
def capInForce (s : State) : Nat :=
  min (odGet s 0x2A00 1) (min (if s.power.cautious then 1080 else 65535) (if s.power.pin then 900 else 65535))

/-- `power-avg`: the mean of the samples of the last 10 ms. -/
def powerAvg (s : State) : Nat := if s.power.samples.isEmpty then 0 else s.power.samples.sum / s.power.samples.length

/-- The slew interval in ns (R429). -/
def slewInterval (s : State) : Nat := cdiv 93125 (odGet s 0x2A00 2) * 1000

/-- A step in one direction may be taken: a slew interval has passed since the last one (R426). -/
def mayStep (s : State) (last : Option Nat) : Bool := match last with
  | some t => decide (t + slewInterval s ≤ s.now)
  | none => true

/-- The two bytes of a temperature, or of any signed word. -/
def word2 (x : Int) : List Nat := [unsx 16 x % 256, unsx 16 x / 256]

/-- PWRCAP_N is obeyed: no trip, and the compute plane has started, or a trip has been released (R442, R450). -/
def pinObeyed (s : State) : Bool :=
  !s.power.tripped && !s.power.tripping &&
    (s.startup.computeUp || s.startup.kind == 8 || match s.startup.steps.head? with
      | some n => decide (8 ≤ n)
      | none => false)

/-- The assertion of a low PWRCAP_N takes hold (R427). -/
def pinCheck (s : State) : State :=
  if s.power.pinLow && !s.power.pin && pinObeyed s then
    let s1 : State := { s with power := { s.power with pin := true, pinCeil := 4 } }
    emcy 0xFF25 [0xFF, 0xFF, 1, capInForce s1 % 256, capInForce s1 / 256] s1
  else s

/-- POWER_SAMPLE: package power every 100 µs (R423). -/
def execPowerSample (watts : Nat) (s : State) : Out :=
  .next (pinCheck { s with power := { s.power with samples := (watts :: s.power.samples).take 100, lastWatts := watts } })

/-- CAP_LOOP_EVAL (R426). -/
def execCapLoopEval (s : State) : Out :=
  let avg := powerAvg s
  let cap := capInForce s
  let p := s.power
  .next (if cap < avg then
      (if mayStep s p.stepDownAt && decide (1 < p.capCeil) then { s with power := { p with capCeil := p.capCeil - 1, stepDownAt := some s.now } } else s)
    else if 100 * avg < 97 * cap ∧ p.capCeil = theta s then
      (if mayStep s p.stepUpAt && decide (p.capCeil < 16) then { s with power := { p with capCeil := p.capCeil + 1, stepUpAt := some s.now } } else s)
    else s)

/-- SLEW_INTERVAL: the ceiling stands one step above the level that covers the busy fraction, in 1/65 536, of the busiest core; ballast
holds the fall to one step, within what θ and the cap in force allow: a step of 1/16 is 93.125 W above 310 W (R425, R429, R430). -/
def execSlewInterval (busy : Nat) (s : State) : Out :=
  let need := cdiv (16 * busy) 65536
  let had := min (s.power.demand + s.power.ballast) (theta s + 1)
  let room := (capInForce s - 310) * 16 / 1490
  .next { s with power := { s.power with slewCeil := min 16 (need + 1), demand := need, ballast := min (had - 1) room - need } }

/-- LIMITER_CHECK: `rise` W within 1 ms (R428). The temperature in 0xFF22 names no sensor: it is free (log 78). -/
def execLimiterCheck (rise : Nat) (excused : Bool) (s : State) : Out :=
  .next (if 2 * odGet s 0x2A00 2 + 50 < rise ∧ excused = false then
    let s1 := emcy 0xFF27 [0xFF, 0xFF, 0, min 65535 rise % 256, min 65535 rise / 256]
      { s with power := { s.power with limiterFault := true, clamp := true } }
    if s.power.clamp then s1
    else
      let f := nextFreeWord s1
      emcy 0xFF22 [0xFF, 0xFF, 3, f.1.toNat % 256, f.1.toNat / 256 % 256] f.2
  else s)

/-- PWRCAP_N_ASSERT (R427). -/
def execPwrcapNAssert (s : State) : Out := .next (pinCheck { s with power := { s.power with pinLow := true } })

/-- PIN_CEILING_LAPSE: 10 ms after the assertion (R427). -/
def execPinCeilingLapse (s : State) : Out :=
  .next (if s.power.pinCeil = 16 then s
    else { s with power := { s.power with pinCeil := 16, slewCeil := min s.power.slewCeil 5 } })

/-- PWRCAP_N_RELEASE (R427). -/
def execPwrcapNRelease (s : State) : Out :=
  let s1 : State := { s with power := { s.power with pinLow := false } }
  .next (if s.power.pin then
    let s2 : State := { s1 with power := { s1.power with pin := false, pinCeil := 16, slewCeil := min s.power.slewCeil (theta s + 1) } }
    emcy 0xFF25 [0xFF, 0xFF, 0, capInForce s2 % 256, capInForce s2 / 256] s2
  else s1)

/-! ## Sensors (R434, R435) -/

/-- Class of a sensor: compute, memory, HBM, XD, laser, MD. -/
def sensorClass (i : Nat) : Nat :=
  if i < 176 then 0 else if i < 208 then 1 else if i < 220 then 2 else if i < 224 then 3 else if i < 260 then 4 else 5

/-- A level threshold of a sensor, 0.01 °C: warn 4, act 5, trip 6, release 7 (R443). -/
def level (s : State) (i sub : Nat) : Int := sx 16 (odGet s (0x2A10 + sensorClass i) sub)

/-- A rate threshold, 0.01 °C/ms: warn 1, act 2, trip 3 (R443). -/
def rateAt (s : State) (i sub : Nat) : Int := ((10 * odGet s (0x2A10 + sensorClass i) sub : Nat) : Int)

def State.sensor (s : State) (i : Nat) : Sensor := s.power.sensors.getD i {}

def State.modSensor (s : State) (i : Nat) (f : Sensor → Sensor) : State := { s with power := { s.power with sensors := s.power.sensors.modify i f } }

/-- Sensors that share a rate with `i`: those of its compute stack, or itself. -/
def rateGroup (i : Nat) : List Nat :=
  if i < 208 then
    let d := if i < 176 then i / 44 else (i - 176) / 8
    (List.range 44).map (44 * d + ·) ++ (List.range 8).map (176 + 8 * d + ·)
  else [i]

/-- The sampling rate that a sensor's last sample calls for. -/
def rateCalled (s : State) (i : Nat) : Nat :=
  let x := s.sensor i
  if level s i 6 - x.temp ≤ 300 then 2 else if level s i 6 - x.temp ≤ 1000 ∨ rateAt s i 1 < x.rate then 1 else 0

/-- Take a sample: its rate against the newest sample at least 0.5 ms older, in 0.01 °C/ms rounded down. -/
def takeSample (temp : Int) (time : Nat) (x : Sensor) : Sensor :=
  let ref := x.hist.find? fun e => decide (e.1 + 500000 ≤ time)
  let rate : Int := match ref with
    | some e => ((temp - e.2) * 1000000) / ((time - e.1 : Nat) : Int)
    | none => 0
  let young := x.hist.takeWhile fun e => decide (time < e.1 + 500000)
  { x with temp := temp, rate := rate, hist := (time, temp) :: (young ++ ((x.hist.drop young.length).take 1)) }

/-- The thresholds at or above which a sensor stands: level warn, act, trip, rate warn, act, trip. -/
def standing (s : State) (i : Nat) : List Bool :=
  let x := s.sensor i
  [decide (level s i 4 ≤ x.temp), decide (level s i 5 ≤ x.temp), decide (level s i 6 ≤ x.temp),
   decide (rateAt s i 1 ≤ x.rate), decide (rateAt s i 2 ≤ x.rate), decide (rateAt s i 3 ≤ x.rate)]

/-- ALERT_N follows the warn and act conditions (R436). -/
def setAlert (s : State) : State := { s with power := { s.power with alertN := s.power.sensors.any fun x => x.warn || x.act } }

/-! ## Trips (R438, R439) -/

/-- A record of the trip log for a sensor, or for rail bit r as 0x8000 + r. -/
def tripRecord (s : State) (sensor cause : Nat) (temp rate : Int) : TripRec :=
  { time := calendar s, sensor := sensor, cause := cause, pstate := s.power.pstate, temp := temp, rate := rate, watts := s.power.lastWatts,
    cap := capInForce s, theta := theta s,
    flags := b2n s.power.clamp + 2 * b2n s.power.pin + 4 * b2n s.power.limiterFault + 8 * b2n s.power.cautious, secs := s.now / 1000000000 }

/-- The log is a ring of 64. -/
def logTrip (r : TripRec) (s : State) : State :=
  let l := s.power.tripLog ++ [r]
  { s with power := { s.power with tripLog := l.drop (l.length - 64) } }

/-- A trip threshold is crossed: while tripped only a record; else the trip is declared, and no engine starts a descriptor any more. -/
def tripCrossed (i cause : Nat) (s : State) : State :=
  let x := s.sensor i
  let s1 := logTrip (tripRecord s i cause x.temp x.rate) s
  if s.power.tripped || s.power.tripping then s1
  else leave { s1 with power := { s1.power with tripping := true, tripBy := (i, cause, x.temp), cautious := true }
                       fleet := { s1.fleet with trips := s1.fleet.trips + 1 } }

/-! ## Samples -/

/-- A clamp for sensor `i` (R436). -/
def clampFor (i detail : Nat) (s : State) : State :=
  emcy 0xFF22 ([i % 256, i / 256, detail] ++ word2 (s.sensor i).temp) { s with power := { s.power with clamp := true } }

/-- The threshold `k` has just been crossed. -/
def onCrossing (i k : Nat) (s : State) : State :=
  match k with
  | 0 => emcy 0xFF21 ([i % 256, i / 256, 1] ++ word2 (s.sensor i).temp) s
  | 3 => emcy 0xFF21 ([i % 256, i / 256, 2] ++ word2 (s.sensor i).temp) s
  | 1 => clampFor i 1 s
  | 4 => clampFor i 2 s
  | 2 => tripCrossed i 1 s
  | _ => tripCrossed i 2 s

/-- Judge the thresholds of a sensor: one is crossed at the second sample running at or above it (R436). -/
def judgeSample (i : Nat) (s : State) : State :=
  let x := s.sensor i
  let now := standing s i
  let cross := fun k => now.getD k false && x.prev.getD k false
  let held := fun k => x.crossed.getD k false
  let s1 := s.modSensor i fun y =>
    { y with prev := now, crossed := (List.range 6).map fun k => cross k || (k != 2 && k != 5 && held k) }
  setAlert (([0, 3, 1, 4, 2, 5].filter fun k => cross k && !held k).foldl (fun t k => onCrossing i k t) s1)

/-- Refresh interval that a temperature calls for (R234). -/
def refreshFor (t : Int) : Nat := if t < 8500 then 32 else if t < 9000 then 16 else 8

/-- A layer of stack `d` has been sampled: the interval to take at the next block boundary (R234). -/
def followLayers (i : Nat) (s : State) : State :=
  let d := (i - 176) / 8
  let t := (s.sensor i).temp
  let all := fun (lim : Int) => (List.range 8).all fun l => decide ((s.sensor (176 + 8 * d + l)).temp < lim)
  let cur := s.power.refreshNext.getD d 8
  let want := if s.power.refreshSampled.getD d false = false then refreshFor t
    else if refreshFor t < cur then refreshFor t
    else if cur = 32 then 32
    else if all 8300 then 32
    else if cur = 8 ∧ all 8800 = true then 16
    else cur
  { s with power := { s.power with refreshNext := s.power.refreshNext.set d want, refreshSampled := s.power.refreshSampled.set d true } }

/-- Thermal cycles of the hottest compute sensor (R464). -/
def followPeak (s : State) : State :=
  let h := ((s.power.sensors.take 176).map (·.temp)).foldl max (-32768)
  let f := s.fleet
  match f.valley with
  | none =>
    if h ≤ f.peak - 4000 then { s with fleet := { f with valley := some h } } else { s with fleet := { f with peak := max f.peak h } }
  | some v =>
    if v + 4000 ≤ h then { s with fleet := { f with valley := none, peak := h, cycles := f.cycles + 1 } }
    else { s with fleet := { f with valley := some (min v h) } }

/-- Every sensor stands below its release level; then the release timer runs (R440). -/
def followRelease (s : State) : State :=
  if s.power.tripped then
    let cool := (List.range 261).all fun i => decide ((s.sensor i).temp < level s i 7)
    { s with power := { s.power with releaseSince := if cool then some (s.power.releaseSince.getD s.now) else none } }
  else s

/-- SENSOR_SAMPLE (R435, R436). -/
def execSensorSample (i : Nat) (temp : Int) (time : Nat) (s : State) : Out :=
  let s1 := s.modSensor i (takeSample temp time)
  let want := rateCalled s1 i
  let s2 := (rateGroup i).foldl (fun t j => t.modSensor j fun x => { x with srate := max x.srate want }) s1
  let s3 := if 176 ≤ i ∧ i < 208 then followLayers i s2 else if i < 176 then followPeak s2 else s2
  .next (judgeSample i (followRelease s3))

/-- SAMPLE_RATE_LOWER: for 10 ms no sample of the group has called for its rate (R435). -/
def execSampleRateLower (i : Nat) (s : State) : Out :=
  let want := ((rateGroup i).map (rateCalled s)).foldl max 0
  .next ((rateGroup i).foldl (fun t j => t.modSensor j fun x => { x with srate := min x.srate want }) s)

/-- CLAMP_END: for 10 ms no sensor has stood within 5 °C of its act level and no rate above its warn rate (R436). -/
def execClampEnd (s : State) : Out :=
  let calm := (List.range 261).all fun i => decide ((s.sensor i).temp < level s i 5 - 500) && decide ((s.sensor i).rate ≤ rateAt s i 1)
  .next (if s.power.clamp && calm then
    let off := fun (x : Sensor) => { x with crossed := (x.crossed.set 1 false).set 4 false }
    let s1 : State := { s with power := { s.power with clamp := false, slewCeil := min s.power.slewCeil 9, sensors := s.power.sensors.map off } }
    emcy 0xFF24 [0xFF, 0xFF, 0, theta s1, 0] (setAlert s1)
  else s)

/-- WARN_CLEAR: for 10 ms below warn − 3 °C and below half the warn rate (R436). -/
def execWarnClear (i : Nat) (s : State) : Out :=
  let x := s.sensor i
  .next (if x.temp < level s i 4 - 300 ∧ 2 * x.rate < rateAt s i 1 then
    setAlert (s.modSensor i fun x => { x with crossed := (x.crossed.set 0 false).set 3 false })
  else s)

/-- A trip overrides the start that runs (R442, R450): its steps for the data planes fall away, and MD's own go on. -/
def tripStart (u : Startup) : Startup :=
  let md := u.steps.filter (· ≤ 3)
  { u with steps := [], fpSteps := [], mgSteps := if md.isEmpty then u.mgSteps else md, mgCause := if md.isEmpty then u.mgCause else u.cause,
           preopReady := u.preopReady || (md.isEmpty && !u.steps.isEmpty) }

/-- TRIP_POWER_DOWN: what follows a declared trip, to the data planes powered down (R438). -/
def execTripPowerDown (s : State) : Out :=
  .next (if s.power.tripping = false then s
    else
      let by_ := s.power.tripBy
      let s1 : State := { s with power := { s.power with thermtripN := true } }
      let s2 := darkEports [0, 1, 2, 3] ((List.range 32).foldl (fun t p => quietPort 0 p t) s1)
      let s3 := emcySend true 0xFF23 ([by_.1 % 256, by_.1 / 256, by_.2.1] ++ word2 by_.2.2) s2
      let s4 := unreadStraps [0, 1, 2, 3, 4, 5, 6, 7] (stopForwarding 0 false (cutHbm (forceSafeOp 0x8003 (stopCompute s3))))
      let s5 : State := { s4 with power := { s4.power with tripping := false, tripped := true }
                                  startup := tripStart s4.startup }
      setPState 4 (followRelease s5))

/-- Seconds on the release timer (R440). -/
def releaseTimer (s : State) : Nat := match s.power.releaseSince with
  | some t => if s.power.tripped then (s.now - t) / 1000000000 else 0
  | none => 0

/-- A write of `trip-release` (R440). -/
def tripRelease (v : Nat) (s : State) : Nat × State :=
  if v ≠ 1 then (0x06090030, s)
  else if s.power.tripped ∧ 60 ≤ releaseTimer s then
    let s1 : State := { s with power := { s.power with tripped := false, thermtripN := false, releaseSince := none, pin := false, pinCeil := 16 } }
    (0, setPState 1 (beginStart 8 s1))
  else (0x08000022, s)

/-- A write of `cautious-ack` (R441). -/
def cautiousAck (v : Nat) (s : State) : Nat × State :=
  if v ≠ 1 then (0x06090030, s)
  else if s.power.tripped ∨ ¬ [2, 4, 8].contains s.mgmt.al then (0x08000022, s)
  else (0, { s with power := { s.power with cautious := false } })

/-! ## Power states (R431 to R433) -/

/-- A core-using operation runs or waits: a launch, or a self-test (R431). -/
def coresUsed (s : State) : Bool := launchBusy s || s.handles.any fun x => x.kind == 6 && x.busy

/-- BASK_ENTRY: 1 ms after the last core-using operation, ballast has ramped down. -/
def execBaskEntry (s : State) : Out :=
  .next (if s.power.pstate = 0 ∧ coresUsed s = false ∧ s.power.ballast = 0 then setPState 1 s else s)

/-- Entry to Brumate: links down, transmitters off, planes clock-gated, memories in self-refresh (R431, R432, R453, R455 BR). -/
def toBrumate (s : State) : State :=
  let s1 := stopForwarding 0 false (leave s)
  let s2 := (List.range 32).foldl (fun t p => if [1, 4].contains (t.port p).safety then t else shutdown p 4 t) s1
  setPState 2 (darkEports [0, 1, 2, 3] s2)

/-- A write of 2 to `state-request`. -/
def enterBrumate (s : State) : Nat × State :=
  if s.power.tripped || s.power.tripping || s.handles.any Handle.busy then (0x08000022, s)
  else if s.power.pstate = 2 then (0, s)
  else (0, toBrumate s)

/-- A write of 0: the device wakes (R433). -/
def leaveBrumate (s : State) : Nat × State :=
  if s.power.pstate ≠ 2 then (0, s)
  else
    let p := s.power
    let s1 : State := { s with power := { p with refresh := List.replicate 4 8, refreshNext := List.replicate 4 8, refreshSampled := List.replicate 4 false }
                               fleet := { s.fleet with leaving := false } }
    let s2 := setPState 3 s1
    (0, startProbes s2)

/-- WAKE_COMPLETE: memories and rings are back; Bask, and the forwarding plane runs. -/
def execWakeComplete (s : State) : Out :=
  .next (if s.power.pstate ≠ 3 then s
    else
      let ok := inRange s.fab.shape s.fab.coord && odGet s 0x2400 2 != 0
      setPState 1 { s with fab := { s.fab with fwd := if forwardOk s then (if ok then 1 else 3) else 0 } })

end Sys2Proof.Machine
end

