-- ==== Sys2Proof/Machine/Rails.lean ====
section
/-! DEFINITION. Rails (R420 to R422), the reference clock and root PLLs (R39), and die-to-die links at run time (R33, R34, R509). -/

namespace Sys2Proof.Machine

/-! ## Rails -/

/-- 0xFF26 (R444). -/
def railEvent (r detail : Nat) (s : State) : State := emcy 0xFF26 [r, 0, detail, s.power.rails.toNat % 256, s.power.rails.toNat / 256] s

def railBit (r : Nat) : BitVec 9 := BitVec.ofNat 9 (2 ^ r)

/-- The steps of R445 that start the blocks whose rails are now complete, once the start itself has ended (R421). -/
def lateSteps (r : Nat) (s : State) : List Nat :=
  let fwd := r == 5 && forwardOk s
  let port := [6, 7].contains r && forwardOk s
  let cmp := decide (r < 6) && computeMay s && !s.startup.computeUp
  (if [0, 5].contains r then [4] else []) ++ (if fwd || port then [5] else []) ++ (if cmp then [6, 7, 8, 9] else []) ++ (if fwd then [10] else [])

/-- RAIL_GOOD: within limits for 1 ms. A rail that was never good starts its blocks; one that was lost does not (R421, R422). -/
def execRailGood (r : Nat) (s : State) : Out :=
  let s1 : State := { s with power := { s.power with rails := s.power.rails ||| railBit r, railWasGood := s.power.railWasGood ||| railBit r } }
  .next (if bitAt s.power.railWasGood.toNat r || !s.startup.steps.isEmpty || !s.startup.preopReady || s.power.tripped || s.power.tripping then s1
    else match lateSteps r s1 with
      | [] => s1
      | l => { s1 with startup := { s1.startup with steps := l, kind := 10 } })

/-- RAIL_ABSENT_TIMEOUT: 10 s after VSTBY (R421). -/
def execRailAbsentTimeout (r : Nat) (s : State) : Out :=
  .next (if bitAt s.power.rails.toNat r || bitAt s.power.railWasGood.toNat r then s else railEvent r 0 s)

/-- The blocks that a rail feeds run (R420). -/
def railUsed (s : State) (r : Nat) : Bool :=
  if r < 5 then s.startup.computeUp
  else (r == 5 && (s.startup.computeUp || s.fab.fwd != 0)) || (List.range 4).any fun x => opticsOn s (8 * x)

/-- The blocks of a lost rail stop at once (R422). -/
def railStops (r : Nat) (s : State) : State :=
  let s0 := if r = 0 then unreadStraps [0, 1, 2, 3] s else if r = 5 then unreadStraps [4, 5, 6, 7] s else s
  let s1 := if r < 6 then forceSafeOp 0x8004 (stopCompute s0) else s0
  let s2 := if 2 ≤ r ∧ r ≤ 4 then cutHbm s1 else s1
  if r = 5 then darkEports [0, 1, 2, 3] ((List.range 32).foldl (fun t p => quietPort 0 p t) (stopForwarding 0 false s2))
  else if r = 6 ∨ r = 7 then darkEports [0, 1, 2, 3] (darkPorts (List.range 32) s2)
  else s2

/-- What RAM and registers hold when VSTBY goes; MRAM, fuses and the log of what has left the part stay (R455 PO, R457, R464). -/
def coldState (s : State) : State :=
  let f := s.fleet
  let v := f.saved
  let site := fun (x : Site × Nat) =>
    let y := v.sites.getD x.2 {}
    { ({} : Site) with spare := x.1.spare, bad := x.1.bad, marked := x.1.marked, failedTest := x.1.failedTest, lostLanes := x.1.lostLanes,
                       lostCols := x.1.lostCols, factoryCols := x.1.factoryCols, lostRows := x.1.lostRows, firstFaults := y.firstFaults, finalFails := y.finalFails, marks := y.marks,
                       stFails := y.stFails, lastTime := y.lastTime, nearCorr := y.nearCorr, nearUnc := y.nearUnc, csCorr := y.csCorr, csUnc := y.csUnc }
  let fleet : Fleet :=
    { ringCal := f.ringCal, sites := f.sites.zipIdx.map site, softMap := f.softMap, onSeconds := v.onSeconds, starts := v.starts, cycles := v.cycles, trips := v.trips,
      repairEvents := v.repairEvents, hbmCorr := v.hbmCorr, hbmUnc := v.hbmUnc, laserHours := v.laserHours, laserBias := v.laserBias,
      eLaserHours := v.eLaserHours, eLaserBias := v.eLaserBias, saved := v }
  let s1 : State :=
    { pending := s.pending, free := s.free, mram := s.mram, od := [], egress := s.egress, eOut := s.eOut, frameOut := s.frameOut, cwOut := s.cwOut, ptpOut := s.ptpOut
      dies := s.dies.map fun d => { d with read := false, isolated := false, pllLocked := true }
      fleet := fleet
      mgmt := { ({} : Mgmt) with emcy := s.mgmt.emcy, udpOut := s.mgmt.udpOut }
      power := { ({} : Power) with tripLog := s.power.tripLog, cautious := s.power.cautious, pinLow := s.power.pinLow,
                                   rails := s.power.rails, railWasGood := s.power.rails }
      startup := { ({} : Startup) with cpStarts := s.startup.cpStarts, refLost := s.startup.refLost, needFull := s.startup.refLost, resetLow := s.startup.resetLow }
      sec := { s.sec with udsLocked := false, aliasReady := false, aliasSeeds := [], kemSeed := [] } }
  restartXds false s1

/-- RAIL_LOST (R422): isolated at once, 0xFF26, and a record of cause 3, whose temperature and rate are free. Without VSTBY nothing runs. -/
def execRailLost (r : Nat) (s : State) : Out :=
  .next (if !bitAt s.power.rails.toNat r then s
    else if r = 8 then
      let c := coldState { s with sec := { s.sec with torn := s.sec.torn || s.handles.any fun x => x.kind == 2 && x.commit && x.state == 2 } }
      { c with startup := { c.startup with steps := [] }, power := { c.power with rails := s.power.rails &&& ~~~(railBit 8), railWasGood := 0 } }
    else
      let s1 : State := { s with power := { s.power with rails := s.power.rails &&& ~~~(railBit r) } }
      let s2 := if railUsed s r then
          let a := nextFreeWord s1
          let b := nextFreeWord a.2
          railStops r (logTrip (tripRecord s (0x8000 + r) 3 (sx 16 a.1.toNat) (sx 16 b.1.toNat)) b.2)
        else s1
      railEvent r 1 s2)

/-! ## The reference and the root PLLs (R39) -/

/-- REFCLOCK_LOST. -/
def execRefclockLost (s : State) : Out :=
  .next (if s.startup.refLost then s
    else
      let s1 : State := { s with startup := { s.startup with refLost := true, needFull := true } }
      let s2 := stopForwarding 0 false (forceSafeOp 0x8004 (stopCompute s1))
      let off := fun (t : State) p => if (t.port p).safety = 4 then t else shutdown p 2 t
      emcy 0xFF02 [] (darkEports [0, 1, 2, 3] ((List.range 32).foldl off s2)))

/-- REFERENCE_CLOCK_RETURN: the data planes stay stopped. -/
def execReferenceClockReturn (s : State) : Out := .next { s with startup := { s.startup with refLost := false } }

/-- PLL_LOCK_LOST: a die isolates its data interfaces, and the fibre ports of an XD are NONE (R39, R294, R509). MD's own clock is not a
data interface. -/
def execPllLockLost (die : Nat) (s : State) : Out :=
  .next (if 8 ≤ die ∨ s.startup.refLost = true ∨ (s.dies.getD die { strap := 0 }).isolated = true then s
    else
      let s1 : State := { s with dies := s.dies.modify die fun d => { d with isolated := true, pllLocked := false } }
      let ps := (List.range 8).map (8 * (die - 4) + ·)
      let s2 := if die < 4 then s1 else darkEports [die - 4] (ps.foldl (fun t p => setRole p 0 0 0 0 t) (mendRing (darkPorts ps s1)))
      emcy 0xFF03 [die] s2)

/-! ## Die-to-die links (R33, R34) -/

/-- Sending and receiving die of a direction. -/
def linkDies (link : Nat) (rev : Bool) : Nat × Nat :=
  let a := if link < 4 then link else if link < 8 then link - 4 else link - 4
  let b := if link < 4 then (link + 1) % 4 else if link < 8 then link else 4 + (link - 8 + 1) % 4
  if rev then (b, a) else (a, b)

/-- The group with the most replays, the lowest of equals. -/
def worstGroup (l : List (Nat × Nat)) : Option Nat :=
  let n := fun g => (l.filter fun e => e.2 == g).length
  (dedup (l.map (·.2)) []).foldl (fun (b : Option Nat) g => match b with
    | none => some g
    | some h => if n h < n g ∨ (n h = n g ∧ g < h) then some g else some h) none

/-- A link direction has failed (R34). -/
def linkFailed (link : Nat) (rev : Bool) (s : State) : State :=
  let k := 2 * link + b2n rev
  let l := (s.d2d.getD k {}).recent
  let w := (worstGroup l).getD 0xFF
  let w2 := (worstGroup (l.filter fun e => e.2 != w)).getD 0xFF
  let ds := linkDies link rev
  let s1 := emcy 0xFF01 [if link < 4 then 0 else if link < 8 then 1 else 2, ds.1, ds.2, w, w2]
    { s with d2d := s.d2d.modify k fun d => { d with failed := true, recent := [] } }
  let s2 := recordRepair 6 ds.1 (256 * link + w) 0xFFFF 4 0 s1
  let s3 := if w2 = 0xFF then s2 else recordRepair 6 ds.1 (256 * link + w2) 0xFFFF 4 0 s2
  if link < 8 then requestStart 3 s3
  else cutHop (link - 8) s3

/-- D2D_CRC_REPLAY: counted per direction and group; more than 1 000 within 1 ms fail the direction. -/
def execD2dCrcReplay (link : Nat) (rev : Bool) (group : Nat) (s : State) : Out :=
  let k := 2 * link + b2n rev
  let s1 : State := { s with d2d := s.d2d.modify k fun d =>
    { d with recent := (s.now, group) :: d.recent.filter (fun e => decide (s.now < e.1 + 1000000)), counts := incAt group 1 d.counts } }
  .next (if 1000 < (s1.d2d.getD k {}).recent.length then linkFailed link rev s1 else s1)

end Sys2Proof.Machine
end

