-- ==== Sys2Proof/Machine/Upkeep.lean ====
section
/-! DEFINITION. Memory upkeep (R234, R244, R247, R248), lifetime records (R464), and the long operations that run in them: scrub, margin,
self-test, calibration (R414, R462). -/

namespace Sys2Proof.Machine

/-! ## Memory upkeep -/

/-- REFRESH_BLOCK: a block boundary of stack `n`; a changed interval takes effect (R234). -/
def execRefreshBlock (stack : Nat) (s : State) : Out :=
  .next { s with power := { s.power with refresh := s.power.refresh.set stack (s.power.refreshNext.getD stack 8) } }

/-- Read a line as a scrub does: what it corrects is written back (R245, R247). A poisoned line is left. -/
def scrubLine (l : Nat) (s : State) : State :=
  let r := (readLine l s).2
  if poisoned s l then r else { r with ecc := r.ecc.filter fun e => !(e.1 / 16 == l && unitFinds s l e.1 == 1) }

/-- PATROL_SCRUB_READ. -/
def execPatrolScrubRead (line : Nat) (s : State) : Out :=
  .next (if odGet s 0x2620 2 = 0 then s
    else match place s (128 * line) with
      | .hbm _ => scrubLine line s
      | .near _ _ => scrubLine line s
      | _ => s)

/-- SAMPLER_TRACK_STEP: the main sampler of a lane moves one position; with it goes what its main path shows.
At 24 steps, or above 16 corrected bits per second, the lane is reported and recorded (R244, R246, R459). -/
def execSamplerTrackStep (stack channel lane : Nat) (x : TrackStep) (s : State) : Out :=
  let k := 8192 * stack + 256 * channel + lane
  let old := lget 0 s.lanes k
  let new : Int := if x.up then old + 1 else old - 1
  .next (if 32 < new ∨ new < -32 then s
    else
      let s1 := odInc 0x2630 1 8 1 { s with lanes := lset 0 k new s.lanes }
      if (new.natAbs < 24 ∧ x.rate ≤ 16) ∨ s.flagged.contains k = true then s1
      else
        recordRepair 5 (8 + stack) (256 * channel + lane) 0xFFFF 3 0
          (emcy 0xFF43 [2, stack, lane, channel, lane / 32] (odInc 0x2630 2 4 1 { s1 with flagged := k :: s1.flagged })))

/-! ## Lifetime records (R464) -/

/-- LIFETIME_WRITE_THROUGH: every 60 s. -/
def execLifetimeWriteThrough (s : State) : Out :=
  let on := s.startup.computeUp || s.fab.fwd != 0
  .next (saveLife { s with fleet := { s.fleet with onSeconds := s.fleet.onSeconds + if on then 60 else 0 } })

/-- Keep the last 1 000 of a list. -/
def keep1000 (l : List Nat) : List Nat := l.drop (l.length - 1000)

/-- An on-hour of laser `k` with its bias. -/
def laserHour (k bias : Nat) (s : State) : State :=
  { s with fleet := { s.fleet with laserHours := incAt k 1 s.fleet.laserHours
                                   laserBias := aset k (keep1000 ((aget k s.fleet.laserBias).getD [] ++ [bias])) s.fleet.laserBias } }

/-- The same of an E-port laser, whose bias the spec gives no register: it is free (log 84). -/
def eLaserHour (k : Nat) (s : State) : State :=
  let f := nextFreeWord s
  let b := f.1.toNat % 4096
  let l := f.2.fleet
  { f.2 with fleet := { l with eLaserHours := incAt k 1 l.eLaserHours
                               eLaserBias := aset k (keep1000 ((aget k l.eLaserBias).getD [] ++ [b])) l.eLaserBias } }

/-- Lasers in use at an E port: lanes 0 to 3, a replaced one as the spare 4 (R381). -/
def eLasersOn (s : State) (n : Nat) : List Nat :=
  if (s.eport n).up then (List.range 4).map fun l => if (s.eport n).spareLane = some l then 5 * n + 4 else 5 * n + l else []

/-- BIAS_TREND_SAMPLE: hourly. -/
def execBiasTrendSample (s : State) : Out :=
  let on := (List.range 32).flatMap fun p => ((List.range 24).filter fun j => fld (laserWord s p j) 24 2 == 2).map fun j => (24 * p + j, fld (laserWord s p j) 0 12)
  let s1 := on.foldl (fun t e => laserHour e.1 e.2 t) s
  .next (((List.range 4).flatMap (eLasersOn s)).foldl (fun t k => eLaserHour k t) s1)

/-! ## Scrub, margin and calibration (R247, R248, R414) -/

/-- A handle of this kind runs. -/
def runs (s : State) (h kind : Nat) : Bool := (s.handle h).kind == kind && (s.handle h).state == 2

/-- The unit of a line in a scrub mask: N0–N3 as 0 to 3, H0–H11 as 4 to 15. -/
def scrubUnit (s : State) (l : Nat) : Option Nat := match place s (128 * l) with
  | .near c _ => some (dieOf s c)
  | .hbm _ => some (4 + hbmStack s (128 * l))
  | _ => none

/-- SCRUB_COMPLETE: every line of the named units has been read, and what was corrected rewritten. -/
def execScrubComplete (h : Nat) (s : State) : Out :=
  .next (if runs s h 4 then
    let mask := numAt (s.handle h).params 0 4
    let ls := dedup (s.ecc.map fun e => e.1 / 16) []
    let mine := ls.filter fun l => match scrubUnit s l with
      | some u => bitAt mask u
      | none => false
    setHandle h 7 0 ((mine.foldl (fun t l => scrubLine l t) s).modHandle h fun x => { x with progress := 1000 })
  else s)

/-- Steps from the centre that a kind of margin operation covers: samplers ±32, VDDQ ±50 mV in 5 mV steps, bonds ±16; an eye scan has
no bound but its I8, whose 0x80 marks a group that was not scanned (R248). -/
def marginSpan (kind : Nat) : Int := if kind = 0 then 32 else if kind = 1 then 10 else if kind = 2 then 16 else 127

/-- An edge as it was measured, in the span of its kind. -/
def marginEdge (kind : Nat) (b : Byte) : Byte := BitVec.ofInt 8 (max (-marginSpan kind) (min (marginSpan kind) b.toInt))

/-- 64-wire groups of a direction of a link: CD–CD, CD–XD, ring hop (R29). -/
def linkGroups (l : Nat) : Nat := if l < 4 then 130 else if l < 8 then 66 else 80

/-- The groups that an eye scan of these links visits, as link × 256 + group: one record each (log 127). -/
def eyeGroups (mask : Nat) : List Nat :=
  (List.range 12).flatMap fun l => if bitAt mask l then (List.range (linkGroups l)).map (256 * l + ·) else []

/-- A group's spare wire is in use (R35, R248). -/
def spareWireUsed (s : State) (g : Nat) : Bool := s.fleet.softMap.any fun e => e.kind == 6 && e.state == 1 && e.index == g

/-- `margin-results` for a kind and its unit mask: two I8 for each lane or wire, 0x80 twice for a group whose spare is in use. -/
def marginRecord (s : State) (kind mask : Nat) (measured : List Byte) : List Byte :=
  let edge := fun i => marginEdge kind (measured.getD i 0)
  let all := if kind = 3 then (eyeGroups mask).zipIdx.flatMap fun g => if spareWireUsed s g.1 then [0x80#8, 0x80#8] else [edge (2 * g.2), edge (2 * g.2 + 1)]
    else measured.map (marginEdge kind)
  all.take 49152

/-- MARGIN_COMPLETE: the measured edges become `margin-results` (R248). -/
def execMarginComplete (h : Nat) (measured : List Byte) (s : State) : Out :=
  let b := (s.handle h).params
  .next (if runs s h 5 then
    setHandle h 7 0 ({ s with margin := marginRecord s (numAt b 0 1) (numAt b 2 2) measured }.modHandle h fun x => { x with progress := 1000 })
  else s)

/-- A port's ring calibration table is rebuilt, in MRAM too; what it holds is free (log 134). -/
def rebuildTable (p : Nat) (s : State) : State :=
  { s with free := s.free + 1, fleet := { s.fleet with ringCal := s.fleet.ringCal.set p (s.free + 1) } }

/-- CALIBRATION_COMPLETE: the tables of the ports named are rebuilt (R407). -/
def execCalibrationComplete (h : Nat) (s : State) : Out :=
  .next (if runs s h 7 then
    let ps := (List.range 32).filter (bitAt (numAt (s.handle h).params 0 4))
    setHandle h 7 0 ((ps.foldl (fun t p => rebuildTable p t) s).modHandle h fun x => { x with progress := 1000 })
  else s)

/-- Start a long operation at once, with its parameter bytes. -/
def startOp (h kind owner : Nat) (params : List Byte) (s : State) : State := newHandle h kind 2 owner (fun x => { x with params := params }) s

/-- `scrub`: reserved bits are zero. -/
def scrubCheck (mask : Nat) : Nat := if mask < 65536 then 0 else 0x06090030

/-- Units that a margin kind can name: stacks, near stacks, links. -/
def marginUnits (kind : Nat) : Nat := if kind = 2 then 4 else 12

/-- `margin`: kind, reserved byte, unit mask; VDDQ only in PreOp or SafeOp with its stacks idle. -/
def marginState (s : State) (kind : Nat) : Bool :=
  kind != 1 || ((s.mgmt.al == 2 || s.mgmt.al == 4) && !(s.handles.any fun x => (x.kind == 4 || x.kind == 5) && x.busy))

def marginCheck (b : List Byte) : Nat :=
  if numAt b 0 1 < 4 ∧ numAt b 1 1 = 0 ∧ numAt b 2 2 < 2 ^ marginUnits (numAt b 0 1) then 0 else 0x06090030

/-- `calibrate`: refused for ports in role LINK. -/
def calibrateCheck (s : State) (mask : Nat) : Nat :=
  if (List.range 32).any fun p => bitAt mask p && (s.port p).isLink then 0x08000020 else 0

/-! ## Self-test (R461, R462) -/

/-- `self-test`: level 0 or 1, one flag. -/
def selfTestCheck (b : List Byte) : Nat := if numAt b 22 1 < 2 ∧ numAt b 23 1 < 2 then 0 else 0x06090030

/-- Sites that a self-test names. -/
def testSites (x : Handle) : List Nat := (List.range 176).filter (bitAt (numAt x.params 0 22))

/-- `detail` of a self-test. -/
def testDetail (x : Handle) : List Byte :=
  bytesAt (leBytes 2 x.tested.length ++ leBytes 2 x.passed ++ leBytes 2 x.repaired ++ leBytes 2 x.failed.length ++ leBytes 22 ((x.failed.map (2 ^ ·)).sum)) 0 64

/-- The faults of a site lie within its spares. -/
def withinSpares (x : Site) : Bool :=
  decide (x.lostLanes.length ≤ 2) && decide (x.deadCols.length ≤ 4) &&
    x.lostRows.all fun r => decide ((x.lostRows.filter fun q => q.1 == r.1).length ≤ 64)

/-- SELF_TEST_SITE_DONE. -/
def execSelfTestSiteDone (h site : Nat) (found : SiteResult) (s : State) : Out :=
  .next (if runs s h 6 && (testSites (s.handle h)).contains site && !(s.handle h).tested.contains site then
    let note := bitAt (numAt (s.handle h).params 23 1) 0
    let ok := withinSpares (addFound found (s.fleet.sites.getD site {})) && !found.hard
    let any := !(found.lanes.isEmpty && found.columns.isEmpty && found.nearRows.isEmpty)
    let s1 := if note then modSite site (addFound found) (recordFound 1 site found s) else s
    let s2 := if ok then s1
      else
        let s2 := modSite site (fun x => { x with failedTest := true, marked := true, marks := x.marks + 1, stFails := x.stFails + 1, lastTime := calendar s }) s1
        if note then recordSite site 1 s2 else s2
    let s3 := s2.modHandle h fun x =>
      let y : Handle := { x with tested := x.tested ++ [site], passed := x.passed + b2n ok, repaired := x.repaired + b2n (ok && any),
                                 failed := if ok then x.failed else x.failed ++ [site] }
      { y with progress := y.tested.length * 1000 / (testSites y).length, detail := testDetail y }
    if (s3.handle h).tested.length = (testSites (s3.handle h)).length then setHandle h 7 0 s3 else s3
  else s)

/-- A self-test begins; one that names no site is done at once. It leaves Bask (R431). -/
def startSelfTest (h owner : Nat) (b : List Byte) (s : State) : State :=
  let s1 := wakeCores (startOp h 6 owner b s)
  if (testSites (s1.handle h)).isEmpty then setHandle h 7 0 s1 else s1

end Sys2Proof.Machine
end

