-- ==== Sys2Proof/Machine/Croak.lean ====
section
/-! DEFINITION. The fleet: heartbeats and losses (R466 to R468), membership and disagreements (R469 to R471), shadow comparison (R472 to
R474, R477). -/

namespace Sys2Proof.Machine

/-! ## Heartbeats and neighbours (R466, R467) -/

/-- HEARTBEAT_SEND: the 100 µs beat of every lit port. -/
def execHeartbeatSend (s : State) : Out := .next (sendBeats s)

/-- The device at the other end of a port, once its identity is known. -/
def portPeer (q : Port) : Option Nat := match q.ident with
  | some i => some i.coord
  | none => if q.role = 0 then none else some q.peerDev

def neighbour (s : State) (dev : Nat) : Neighbour := (s.fleet.neighbours.find? fun n => n.dev == dev).getD { dev := dev }

def setNeighbour (n : Neighbour) (s : State) : State :=
  { s with fleet := { s.fleet with neighbours := s.fleet.neighbours.filter (fun m => m.dev != n.dev) ++ [n] } }

/-- Lowest port to a neighbour. -/
def lowestPort (n : Neighbour) : Nat := n.ports.foldl min 0xFF

/-- 0xFF91: 1 lost, 2 departed, 3 returned (R477). A label that has not been heard is sent as 0. -/
def neighbourEvent (n : Neighbour) (how : Nat) (s : State) : State :=
  emcy 0xFF91 [lowestPort n, n.dev % 256, n.dev / 256, how, (aget 1 n.labels).getD 0 % 256] s

/-- HEARTBEAT: the count of misses clears; a neighbour heard again after a declaration has returned. -/
def execHeartbeat (p : Nat) (cw : CwHead) (_beat kind label : Nat) (compute leaving : Bool) (epoch : Nat) (s : State) : Out :=
  onWord p cw s fun t =>
    match portPeer (t.port p) with
    | none => t
    | some dev =>
      let n := neighbour t dev
      let m : Neighbour := { n with misses := 0, heard := true, st := 1, compute := compute, leaving := leaving, epoch := epoch,
                                    labels := aset kind label n.labels, ports := if n.ports.contains p then n.ports else n.ports ++ [p] }
      let t1 := setNeighbour m t
      if n.st = 1 then t1 else neighbourEvent m 3 t1

/-! ## Losses and their events (R467, R468) -/

/-- The label of a kind that all of a set of losses have been heard to carry. -/
def sharedLabel (l : List Neighbour) (kind : Nat) : Option Nat :=
  match l with
  | [] => none
  | n :: _ => match aget kind n.labels with
    | some v => if l.all fun m => aget kind m.labels == some v then some v else none
    | none => none

/-- Power shelf, cooling loop, switch, tray. -/
def labelOrder : List Nat := [1, 2, 3, 0]

/-- The first kind and label that a set of two losses or more shares. -/
def firstShared (l : List Neighbour) : Option (Nat × Nat) :=
  if l.length < 2 then none else labelOrder.findSome? fun k => (sharedLabel l k).map fun v => (k, v)

/-- 0xFF92. -/
def aggregateEvent (w : AggWin) (s : State) : State := emcy 0xFF92 [w.kind, w.label % 256, w.label / 256, min 255 w.count, w.lowest % 256] s

/-- An open window that a loss belongs to. -/
def openWindow (s : State) (n : Neighbour) : Option AggWin := s.fleet.windows.find? fun w => aget w.kind n.labels == some w.label

/-- Add a loss to a window. -/
def addLoss (w : AggWin) (n : Neighbour) (s : State) : State :=
  let f := fun (x : AggWin) => if x.kind == w.kind && x.label == w.label then { x with count := x.count + 1, lowest := min x.lowest n.dev } else x
  { s with fleet := { s.fleet with windows := s.fleet.windows.map f } }

/-- Report the losses of one interval end. -/
def reportLosses (l : List Neighbour) (s : State) : State :=
  let old := l.filter fun n => (openWindow s n).isSome
  let new := l.filter fun n => (openWindow s n).isNone
  let s1 := old.foldl (fun t n => match openWindow t n with
    | some w => addLoss w n t
    | none => t) s
  match firstShared new with
  | some (k, v) =>
    let w : AggWin := { kind := k, label := v, count := new.length, reported := new.length, lowest := (new.map (·.dev)).foldl min 4095 }
    aggregateEvent w { s1 with fleet := { s1.fleet with windows := s1.fleet.windows ++ [w] } }
  | none => new.foldl (fun t n => neighbourEvent n 1 t) s1

/-- A comparison with this device runs. -/
def shadowWith (s : State) (dev : Nat) : Bool := s.handles.any fun x => x.kind == 8 && x.state == 2 && match x.shadow with
  | some o => o.peer == dev
  | none => false

/-- CROAK_INTERVAL: a miss for each neighbour that was not heard; at eight it is lost, or departed after LEAVING. -/
def execCroakInterval (s : State) : Out :=
  let count := fun (n : Neighbour) => if n.st = 1 then { n with misses := if n.heard then 0 else n.misses + 1, heard := false } else n
  let ns := s.fleet.neighbours.map count
  let gone := ns.filter fun n => n.st == 1 && decide (8 ≤ n.misses)
  let mark := fun (n : Neighbour) => if n.st == 1 && decide (8 ≤ n.misses) then { n with st := if n.leaving then 3 else 2 } else n
  let lost := gone.filter fun n => !n.leaving
  let s1 : State := { s with fleet := { s.fleet with neighbours := ns.map mark, suspect := s.fleet.suspect || lost.any fun n => shadowWith s n.dev } }
  let s2 := (gone.filter (·.leaving)).foldl (fun t n => neighbourEvent n 2 t) s1
  .next (reportLosses lost (odInc 0x2B30 3 4 lost.length s2))

/-- AGGREGATION_WINDOW_END: a second 0xFF92 where the count has grown. -/
def execAggregationWindowEnd (kind label : Nat) (s : State) : Out :=
  .next (match s.fleet.windows.find? fun w => w.kind == kind && w.label == label with
    | none => s
    | some w =>
      let s1 : State := { s with fleet := { s.fleet with windows := s.fleet.windows.filter fun x => !(x.kind == kind && x.label == label) } }
      if w.reported < w.count then aggregateEvent w s1 else s1)

/-! ## Disagreements (R471) -/

/-- The disagreement of a code with a device stands now. -/
def disagrees (s : State) (code dev : Nat) : Bool :=
  match s.fleet.neighbours.find? fun n => n.dev == dev with
  | none => false
  | some n =>
    let member := isMember s dev
    if code = 1 then n.st == 2 && s.fleet.epoch != 0 && member
    else if code = 2 then n.st == 1 && s.fleet.epoch != 0 && !member
    else if code = 3 then n.st == 1 && n.epoch != s.fleet.epoch % 64
    else false

/-- DISAGREE_LIMIT: it has lasted `disagree-limit`; reported once per epoch and device. -/
def execDisagreeLimit (code device : Nat) (s : State) : Out :=
  .next (if disagrees s code device && !s.fleet.reported.contains (code, device) then
    emcy 0xFF93 [code, device % 256, device / 256, 0, s.fleet.epoch % 256]
      (odInc 0x2B30 4 4 1 { s with fleet := { s.fleet with reported := (code, device) :: s.fleet.reported } })
  else s)

/-! ## Shadow comparison (R472 to R474) -/

/-- Bytes of a step's table. -/
def ShadowOp.size (o : ShadowOp) : Nat := 8 * o.tallies

/-- `shadow`'s 16 bytes. -/
def shadowOf (b : List Byte) : ShadowOp :=
  { role := numAt b 0 1, ev := numAt b 1 1, peer := numAt b 2 2, need := if numAt b 4 2 = 0 then 4 else numAt b 4 2, tallies := numAt b 6 1 + 1,
    only := bitAt (numAt b 7 1) 0, table := numAt b 8 8 }

/-- Its rules: a role, a coordinate, at most 1 000 steps, no reserved flag, an aligned table in HBM. -/
def shadowCheck (s : State) (b : List Byte) : Nat :=
  let o := shadowOf b
  if (o.role = 1 ∨ o.role = 2) ∧ o.peer < 4096 ∧ o.need ≤ 1000 ∧ numAt b 7 1 < 2 ∧ o.table % 128 = 0 ∧ hbmSpan s o.table o.size = true then 0
  else 0x06090030

def startShadow (h owner : Nat) (b : List Byte) (s : State) : State :=
  let s1 : State := { s with fleet := { s.fleet with suspect := false } }
  newHandle h 8 2 owner (fun x => { x with params := b, shadow := some (shadowOf b) }) s1

/-- Send a step's table to the peer's MD (R473). -/
def sendTable (o : ShadowOp) (step : Nat) (s : State) : State := match aget step o.own with
  | none => s
  | some t =>
    let n := cdiv t.length 128
    (send false (blank 10 0x41 n 0xF8 0xF8 o.peer step 0 (bytesAt t 0 (128 * n))) s).2

/-- The first tally that differs. -/
def firstDiff (n : Nat) (a b : List Byte) : Option Nat := (List.range n).find? fun i => bytesAt a (8 * i) 8 != bytesAt b (8 * i) 8

/-- Both tables of a step are present: they are compared, once. -/
def compareStep (h step : Nat) (s : State) : State :=
  match (s.handle h).shadow with
  | none => s
  | some o => match aget step o.own, aget step o.theirs with
    | some a, some b =>
      if (s.handle h).state ≠ 2 ∨ o.judged.contains step = true then s
      else
        let p := [h, o.peer % 256, o.peer / 256]
        match firstDiff o.tallies a b with
        | some i =>
          let s1 := s.modHandle h fun x => { x with shadow := some { o with judged := step :: o.judged }, detail := bytesAt (leBytes 4 step ++ leBytes 2 i) 0 64 }
          emcy 0xFF96 (p ++ [o.matched % 256, i % 256]) (setHandle h 8 0x0201 s1)
        | none =>
          let m := o.matched + 1
          let s1 := s.modHandle h fun x => { x with shadow := some { o with judged := step :: o.judged, matched := m }, progress := m * 1000 / o.need }
          if m = o.need then emcy 0xFF95 (p ++ [m % 256, 0]) (setHandle h 7 0 s1) else s1
    | _, _ => s

/-- SHADOW_STEP: `ev` has risen; MD reads the table, sends it and compares. -/
def execShadowStep (h : Nat) (s : State) : Out :=
  .next (match (s.handle h).shadow with
    | none => s
    | some o =>
      if runs s h 8 = false then s
      else
        let step := chipEvent s o.ev
        let r := touchRead [(o.table, o.size)] s
        let o1 : ShadowOp := { o with step := step, own := aset step (readBytes s o.table o.size) o.own }
        compareStep h step (sendTable o1 step (r.2.modHandle h fun x => { x with shadow := some o1 })))

/-- The packet that brings the peer's table of a step (R473). -/
def tableFrom (o : ShadowOp) (step : Nat) (table : List Byte) (e : Ejected) : Bool :=
  e.pkt.op == 0x41 && e.pkt.dep == 0xF8 && e.pkt.sdev == o.peer && fld e.pkt.arg 0 32 == step && bytesAt e.pkt.bytes 0 o.size == table

/-- SHADOW_TABLE_RECEIVE: the peer's table of a step, which MD answers with its own. -/
def execShadowTableReceive (h step : Nat) (table : List Byte) (s : State) : Out :=
  .next (match (s.handle h).shadow with
    | none => s
    | some o =>
      match s.inbox.find? (tableFrom o step table) with
      | none => s
      | some e =>
        let o1 : ShadowOp := { o with theirs := aset step table o.theirs }
        compareStep h step (sendTable o1 step ({ s with inbox := s.inbox.erase e }.modHandle h fun x => { x with shadow := some o1 })))

/-- SHADOW_RESEND_TIMER: every 1 ms until the peer's table of the step has arrived. -/
def execShadowResendTimer (h : Nat) (s : State) : Out :=
  .next (match (s.handle h).shadow with
    | some o => if runs s h 8 && (aget o.step o.theirs).isNone then sendTable o o.step s else s
    | none => s)

/-- The partner is lost: excluded (1), or silent (2) (R474). -/
def partnerLost (h why : Nat) (s : State) : State :=
  match (s.handle h).shadow with
  | some o =>
    if runs s h 8 then emcy 0xFF97 [h, o.peer % 256, o.peer / 256, why, b2n o.only] (setHandle h 8 0x0202 s) else s
  | none => s

/-- SHADOW_STEP_LIMIT: no table from the peer within `shadow-step-limit` of the own one. -/
def execShadowStepLimit (h : Nat) (s : State) : Out :=
  .next (match (s.handle h).shadow with
    | some o => if (aget o.step o.own).isSome && (aget o.step o.theirs).isNone then partnerLost h 2 s else s
    | none => s)

/-! ## Membership (R469, R470, R474) -/

/-- Devices whose bit is set in 512 bytes. -/
def memberList (b : List Byte) : List Nat :=
  (b.zipIdx.flatMap fun x => if x.1 = 0 then [] else ((List.range 8).filter (bitAt x.1.toNat)).map fun i => 8 * x.2 + i)

/-- The lowest rank of a group, in this domain, that is no member. -/
def excludedRank (s : State) (g : Nat) : Option Nat :=
  (List.range (s.group g).ranks).find? fun r => memberDom s g r == ownDom s g && !isMember s (memberDev s g r)

/-- A write of `membership`: U32 epoch, then the set. -/
def membershipCheck (s : State) (b : List Byte) : Nat :=
  if s.fleet.epoch < numAt b 0 4 ∧ (memberList (b.drop 4)).contains (own s) = true ∧ odGet s 0x2300 2 ≠ 0 then 0 else 0x08000020

def setMembership (b : List Byte) (s : State) : State :=
  let s1 : State := { s with fleet := { s.fleet with epoch := numAt b 0 4, members := memberList (b.drop 4), reported := [] } }
  let s2 := (List.range 16).foldl (fun t g =>
    if (t.group g).state = 1 ∨ (t.group g).state = 2 then
      match excludedRank t g with
      | some r => faultGroup g 3 r none t
      | none => t
    else t) s1
  (List.range 64).foldl (fun t i => match (t.handle (i + 1)).shadow with
    | some o => if isMember t o.peer then t else partnerLost (i + 1) 1 t
    | none => t) s2

/-- A write of `job-tag`: the epoch is 0 again and the set empty. -/
def setJobTag (v : Nat) (s : State) : State :=
  odSet 0x2300 2 v { s with fleet := { s.fleet with epoch := 0, members := [], reported := [] } }

end Sys2Proof.Machine
end

