-- ==== Sys2Proof/Machine/Security.lean ====
section
/-! DEFINITION. Firmware images and their checks (R478 to R480), recovery (R481), update (R482), keys and certificates (R483, R484), quotes
(R485, R486), and the signed open request with its session key (R487 to R489). -/

namespace Sys2Proof.Machine

/-! ## Images (R478, R479) -/

/-- This stepping (R1): B0. -/
def stepping : Nat := 2

def maxImage : Nat := 16777216
def sigSize : Nat := 29792

/-- Check 1: the header's fixed fields, the stepping it serves, the length it states. -/
def imageFormatOk (h : List Byte) : Bool :=
  numAt h 0 4 == 0x5A501600 && numAt h 4 4 == 1 && numAt h 0x14 2 == 0x00A0 && numAt h 0x17 1 == 0 && zeros (bytesAt h 0x78 136) &&
    decide (numAt h 0x16 1 ≤ stepping) && decide (0x100 + sigSize + numAt h 0x10 4 ≤ maxImage)

/-- R479: the order number of the first check that fails, 0 when all pass. -/
def imageCheck (fused : Nat) (img : List Byte) : Nat :=
  let h := bytesAt img 0 256
  let key := bytesAt h 0x38 64
  if !imageFormatOk h then 1
  else if shake256 key 32 != Config.vendorKeyDigest then 2
  else if numAt h 0x0C 4 < fused then 3
  else if !Config.slhVerify key h (bytesAt img 256 sigSize) then 4
  else if shake256 ((img.drop (0x100 + sigSize)).take (numAt h 0x10 4)) 32 != bytesAt h 0x18 32 then 5
  else 0

/-- Names of the checks' failures. -/
def checkName (n : Nat) : String := ["", "FORMAT", "KEY", "ROLLBACK", "SIGNATURE", "BODY"].getD n ""

/-- The image in MRAM passes at step 2. The image of delivery (`body` none) is one that Wileel signed (log 23). -/
def mramOk (s : State) : Bool :=
  !s.sec.torn && match s.sec.body with
    | some img => imageCheck s.sec.fused img == 0
    | none => true

/-- An image is written into MRAM. -/
def writeImage (img : List Byte) (s : State) : State :=
  { s with sec := { s.sec with header := bytesAt img 0 256, body := some img, fwVersion := numAt img 8 4, svn := numAt img 0x0C 4, torn := false } }

/-! ## Keys and the alias certificate (R483, R484) -/

/-- The firmware measurement. -/
def measurement (s : State) : List Byte := shake256 (bytesAt s.sec.header 0 256) 32

def cdi (s : State) : List Byte := kmac256 Config.uds (measurement s ++ leBytes 4 s.sec.svn) 256 "ZP160 CDI"

/-- Tadpole derives the keys and locks the device secret (R479, R483). -/
def deriveKeys (s : State) : State :=
  { s with sec := { s.sec with aliasSeeds := kmac256 (cdi s) [] 768 "ZP160 ALIAS", kemSeed := kmac256 (cdi s) [] 512 "ZP160 KEM", udsLocked := true } }

/-- What the stored certificate is tagged with. -/
def certLabel (s : State) : List Byte := measurement s ++ leBytes 4 s.sec.svn

/-- At step 3 the stored certificate is used where its tag fits the running image (R484). -/
def settleAlias (s : State) : State := { s with sec := { s.sec with aliasReady := s.sec.certTag == certLabel s } }

/-- `kem-key`. -/
def kemPublic (s : State) : List Byte := bytesAt (Config.kemKey s.sec.kemSeed) 0 1568

/-- The signing unit's seeds. -/
def deviceIdSeeds : List Byte := kmac256 Config.uds [] 768 "ZP160 DEVICEID"

/-- The certificate is generated, signed and stored. -/
def storeAlias (s : State) : State :=
  { s with sec := { s.sec with aliasReady := true, certTag := certLabel s
                               cert := Config.aliasCert deviceIdSeeds s.sec.aliasSeeds (measurement s) s.sec.svn s.sec.fwVersion (shake256 (kemPublic s) 32) } }

/-- The firmware runs: neither in Bootstrap nor in steps 1 to 3, nor held in reset. -/
def firmwareUp (s : State) : Bool :=
  s.mgmt.al != 3 && !s.startup.resetLow && s.startup.mgSteps.isEmpty && bitAt s.power.rails.toNat 8 && match s.startup.steps.head? with
    | some n => decide (3 < n)
    | none => true

/-! ## Quotes (R485, R486) -/

/-- One upper-case hexadecimal digit. -/
def hexDigit (n : Nat) : Byte := BitVec.ofNat 8 (if n < 10 then 48 + n else 55 + n)

/-- `serial-number`: sixteen characters, most significant digit first (R406). -/
def serialChars : List Byte := (List.range 16).map fun i => hexDigit (fld Config.serialNumber (4 * (15 - i)) 4)

/-- `factory-map` and `repair-digest`. -/
def factoryMap : List Byte := bytesAt Config.factoryMap 0 4096
def repairDigest (s : State) : List Byte := shake256 (factoryMap ++ softMapBytes s) 32

/-- Bytes 0x00 to 0xFF of a quote. -/
def quoteFields (nonce : List Byte) (s : State) : List Byte :=
  bytesAt (leBytes 4 1 ++ leBytes 4 s.sec.fwVersion ++ leBytes 4 s.sec.svn ++ leBytes 1 (odGet s 0x2800 2) ++ leBytes 1 stepping ++
    leBytes 2 (coreCount s) ++ bytesAt nonce 0 32 ++ measurement s ++ repairDigest s ++ policyDigest s ++ leBytes 8 (calendar s) ++
    leBytes 1 s.fleet.calSource ++ leBytes 1 s.mgmt.al ++ leBytes 2 s.sec.fused ++ leBytes 4 0 ++ serialChars ++ shake256 (kemPublic s) 32) 0 256

/-- A quote starts: its fields are sampled; in test mode it ends TEST_MODE (R486, R500). -/
def beginQuote (h : Nat) (s : State) : State :=
  let s1 := s.modHandle h fun x => { x with state := 2, quote := quoteFields x.params s }
  if s.test.mode then setHandle h 8 0x0230 (s1.modHandle h fun x => { x with quote := [] }) else s1

def quoteRuns (s : State) : Bool := s.handles.any fun x => x.kind == 3 && [2, 6].contains x.state

/-- The oldest queued quote, by order of creation. -/
def nextQuote (s : State) : Option Nat :=
  (List.range 64).foldl (fun (b : Option Nat) i =>
    let x := s.handle (i + 1)
    if x.kind == 3 && x.state == 1 then
      match b with
      | none => some (i + 1)
      | some h => if x.order < (s.handle h).order then some (i + 1) else b
    else b) none

/-- Quotes run one at a time (R486); in test mode every one that starts ends. -/
def startQuotes : Nat → State → State
  | 0, s => s
  | n + 1, s =>
    if quoteRuns s then s
    else match nextQuote s with
      | some h => startQuotes n (beginQuote h s)
      | none => s

/-- A write of a nonce to `quote`. -/
def createQuote (h owner : Nat) (nonce : List Byte) (s : State) : State :=
  startQuotes 64 (newHandle h 3 1 owner (fun x => { x with params := nonce }) s)

/-- QUOTE_COMPLETE: the alias key signs the fields (R485); the next quote starts. -/
def execQuoteComplete (h : Nat) (s : State) : Out :=
  .next (if runs s h 3 && s.sec.aliasReady then
    let q := (s.handle h).quote
    startQuotes 64 (setHandle h 7 0 (s.modHandle h fun x => { x with quote := q ++ bytesAt (Config.aliasSign s.sec.aliasSeeds q) 0 sigSize, progress := 1000 }))
  else s)

/-- An operation other than a launch obeys CANCEL (R414); a cancelled quote is discarded and the next one starts (R486). -/
def execOperationCancelObeyed (h : Nat) (s : State) : Out :=
  .next (if (s.handle h).kind ≠ 1 ∧ (s.handle h).state = 6 then
    startQuotes 64 (setHandle h 9 0 (s.modHandle h fun x => { x with quote := [] }))
  else s)

/-- ALIAS_CERT_READY: the new certificate stands, or it could not be produced and the waiting quotes end ALIAS_FAILED (R484, R486). -/
def execAliasCertReady (produced : Bool) (s : State) : Out :=
  .next (if s.sec.aliasReady || s.sec.kemSeed.isEmpty || !firmwareUp s then s
    else if produced then storeAlias s
    else
      startQuotes 64 ((List.range 64).foldl (fun t i =>
        if runs t (i + 1) 3 then setHandle (i + 1) 8 0x0225 (t.modHandle (i + 1) fun x => { x with quote := [] }) else t) s))

/-! ## Update and recovery (R481, R482) -/

/-- The firmware update that runs, if any. -/
def updating (s : State) : Option Nat := firstFrom (fun h => runs s h 2) 64 1

def updateResult (check : Nat) : Nat := [0, 0x0220, 0x0221, 0x0222, 0x0223, 0x0223].getD check 0

/-- FW_UPDATE_VERIFIED: verification ends; where it passes, the commit begins and the fused counter of 64 bits rises to the image's
svn (R480, R482). -/
def execFwUpdateVerified (s : State) : Out :=
  .next (match updating s with
    | none => s
    | some h =>
      if (s.handle h).commit then s
      else match s.mgmt.staged with
        | none => setHandle h 8 0x0224 s
        | some img =>
          let n := imageCheck s.sec.fused img
          if n = 0 then
            { s.modHandle h (fun x => { x with commit := true }) with sec := { s.sec with fused := max s.sec.fused (min 64 (numAt img 0x0C 4)) } }
          else setHandle h 8 (updateResult n) s)

/-- FW_UPDATE_COMMITTED: the image lies in MRAM, the handle is done, and a management reset follows (R482). -/
def execFwUpdateCommitted (s : State) : Out :=
  .next (match updating s, s.mgmt.staged with
    | some h, some img => if (s.handle h).commit then requestStart 6 (setHandle h 7 0 (writeImage img s)) else s
    | _, _ => s)

/-- RECOVERY_VERIFY_DONE: a passing image is written and the device restarts from step 1; a failing one is discarded (R481). -/
def execRecoveryVerifyDone (s : State) : Out :=
  .next (match s.mgmt.recovering, s.mgmt.staged with
    | true, some img =>
      let n := imageCheck s.sec.fused img
      let s1 : State := { s with mgmt := { s.mgmt with recovering := false, staged := none, foeAnswer := if n = 0 then 0 else 0x800B, foeText := checkName n } }
      if n = 0 then requestStart 9 (writeImage img s1) else s1
    | _, _ => s)

/-! ## Sessions (R400 to R403, R487 to R489) -/

/-- 0xFF13 (R398): session, what happened. -/
def sessionEvent (n what : Nat) (s : State) : State := emcy 0xFF13 [n, what, 0, 0, 0] s

/-- Count a message dropped (R400, R401, R403). -/
def dropMessage (s : State) : State := odInc 0x2190 3 4 1 s

def State.session (s : State) (n : Nat) : Session := s.mgmt.sessions.getD (n - 1) {}
def State.modSession (s : State) (n : Nat) (f : Session → Session) : State :=
  { s with mgmt := { s.mgmt with sessions := s.mgmt.sessions.modify (n - 1) f } }

/-- A session ends. -/
def closeSession (n what : Nat) (s : State) : State := sessionEvent n what (s.modSession n fun _ => {})

/-- Bytes of the signed open request. -/
def openSize : Nat := 31424

/-- `open-counter` of a slot, and `opens-refused` with a check's count risen. -/
def refuseOpen (check : Nat) (s : State) : State :=
  let b := leBytes 24 (odGet s 0x2C22 1)
  let v := min (2 ^ 32 - 1) (numAt b (4 * (check - 1)) 4 + 1)
  sessionEvent 0 3 (dropMessage (odSet 0x2C22 1 (ofLE (putAt b (4 * (check - 1)) (leBytes 4 v))) s))

/-- R488: the number of the first check that fails, 0 when all pass. -/
def openCheck (b : List Byte) (s : State) : Nat :=
  let slot := numAt b 4 1
  let key := s.sec.keys.getD slot []
  if numAt b 0 4 ≠ 1 ∨ ¬ zeros (bytesAt b 5 3) = true ∨ ¬ zeros (bytesAt b 0x24 28) = true then 1
  else if zeros key then 2
  else if bytesAt b 0x10 16 ≠ serialChars ∨ numAt b 0x20 2 ≠ ownDomain s ∨ numAt b 0x22 2 ≠ own s then 3
  else if numAt b 8 8 ≤ s.sec.counters.getD slot 0 then 4
  else if 4 ≤ (s.mgmt.sessions.filter (·.isOpen)).length then 5
  else if !Config.slhVerify key (bytesAt b 0 0x660) (bytesAt b 0x660 sigSize) then 6
  else 0

/-- The session key (R489). -/
def sessionKey (s : State) (b : List Byte) (n : Nat) : List Byte :=
  kmac256 (Config.kemDecaps s.sec.kemSeed (bytesAt b 0x40 1568)) (shake256 (bytesAt b 0 0x660) 32 ++ leBytes 4 n) 256 "ZP160 SDO SESSION"

/-- Put a message of session `n` on its way. -/
def answerWith (n type seq index sub flags offset : Nat) (data : List Byte) (s : State) : State :=
  { s with mgmt := { s.mgmt with udpOut := sdoOut (s.session n) n type seq index sub flags offset data :: s.mgmt.udpOut } }

/-- The whole request has arrived from a client (R488). -/
def openRequest (addr : List Byte) (port seq : Nat) (b : List Byte) (s : State) : State :=
  let c := openCheck b s
  if c ≠ 0 then refuseOpen c s
  else
    let slot := numAt b 4 1
    let n := (firstFrom (fun i => !(s.session i).isOpen) 4 1).getD 1
    let s1 : State := { s with sec := { s.sec with counters := s.sec.counters.set slot (numAt b 8 8) } }
    let s2 := s1.modSession n fun _ => { isOpen := true, slot := slot, key := sessionKey s b n, addr := addr, port := port }
    sessionEvent n 0 (answerWith n 2 seq 0 0 0 0 (leBytes 4 n ++ leBytes 4 (odGet s 0x2191 2)) s2)

/-- The service listens in PreOp, SafeOp and Op (R400). -/
def udpListens (s : State) : Bool := [2, 4, 8].contains s.mgmt.al

/-- Fields that every message of the service must carry (R401). -/
def sdoFieldsOk (m : SdoMsg) : Bool := m.magic == 0x505A && m.ver == 1 && decide (m.flags < 2) && m.rsvd == 0

/-- The bytes of a request, where every byte has arrived. -/
def assembled (l : List (Nat × List Byte)) : Option (List Byte) :=
  if covered (l.map fun x => (x.1, x.2.length)) 0 openSize then
    some (l.foldr (fun x b => putAt b x.1 x.2) (List.replicate openSize 0))
  else none

/-- OPEN: one slice (R400 to R402). -/
def openSlice (m : SdoMsg) (s : State) : State :=
  let mine := fun (r : Reassembly) => r.addr == m.addr && r.port == m.port
  let recent := s.mgmt.reasmTimes.filter fun t => decide (s.now < t + 1000000000)
  let known := s.mgmt.reasm.find? mine
  if !sdoFieldsOk m || m.session != 0 || !zeros m.tag || m.len != m.data.length || decide (32768 < m.offset + m.data.length) then dropMessage s
  else if known.isNone ∧ (2 ≤ s.mgmt.reasm.length ∨ 10 ≤ recent.length) then dropMessage s
  else
    let old := known.getD { addr := m.addr, port := m.port }
    let r : Reassembly := { old with slices := old.slices ++ [(m.offset, m.data)] }
    let rest := s.mgmt.reasm.filter fun r => !mine r
    let s1 : State := { s with mgmt := { s.mgmt with reasmTimes := if known.isNone then s.now :: recent else recent } }
    match assembled r.slices with
    | some b => openRequest m.addr m.port m.seq (b.take openSize) { s1 with mgmt := { s1.mgmt with reasm := rest } }
    | none => { s1 with mgmt := { s1.mgmt with reasm := rest ++ [r] } }

/-- OPEN. -/
def execOpenSlice (msg : SdoMsg) (s : State) : Out := .next (if msg.type = 1 ∧ udpListens s = true then openSlice msg s else s)

/-- OPEN_REASSEMBLY_TIMEOUT: 100 ms after the first slice (R402). -/
def execOpenReassemblyTimeout (addr : List Byte) (port : Nat) (s : State) : Out :=
  .next { s with mgmt := { s.mgmt with reasm := s.mgmt.reasm.filter fun r => !(r.addr == addr && r.port == port) } }

/-- SESSION_IDLE_EXPIRY (R403). -/
def execSessionIdleExpiry (n : Nat) (s : State) : Out := .next (if (s.session n).isOpen then closeSession n 1 s else s)

/-- A message within an open session passes R401: fields, a known session, its tag. READ carries no data, and WRITE may state too much. -/
def sessionOk (m : SdoMsg) (s : State) : Bool :=
  sdoFieldsOk m && decide (1 ≤ m.session) && decide (m.session ≤ 4) && (s.session m.session).isOpen && m.tag == sdoTag (s.session m.session).key m

/-- What is to be done with a numbered message (R403): 0 serve, 1 repeat the stored answer, 2 drop. -/
def seqVerdict (x : Session) (q : Nat) : Nat :=
  if x.answers.any fun a => a.1 == q then 1
  else if x.high < q then 0
  else if x.high ≤ q + 64 ∧ q < x.high ∧ x.seen.contains q = false then 0
  else 2

/-- Note an accepted number. -/
def noteSeq (q : Nat) (x : Session) : Session :=
  let h := max x.high q
  { x with high := h, seen := (q :: x.seen).filter fun v => decide (h ≤ v + 64) }

/-- Answer a request and keep the answer among the last 16 (R403). -/
def replyTo (m : SdoMsg) (type : Nat) (data : List Byte) (s : State) : State :=
  let n := m.session
  let a := sdoOut (s.session n) n type m.seq m.index m.sub m.flags m.offset data
  let s1 := s.modSession n fun x => { noteSeq m.seq x with answers := ((m.seq, a) :: x.answers).take 16 }
  { s1 with mgmt := { s1.mgmt with udpOut := a :: s1.mgmt.udpOut } }

/-- A message of an open session: dropped, answered again, or served by `f` (R401 to R403). -/
def inSession (m : SdoMsg) (f : State → State) (s : State) : State :=
  if !udpListens s then s
  else if !sessionOk m s then dropMessage s
  else
    let x := s.session m.session
    match seqVerdict x m.seq with
    | 0 => f s
    | 1 => match x.answers.find? fun a => a.1 == m.seq with
      | some a => { s with mgmt := { s.mgmt with udpOut := a.2 :: s.mgmt.udpOut } }
      | none => s
    | _ => dropMessage s

/-- KEEPALIVE. -/
def execKeepalive (msg : SdoMsg) (s : State) : Out := .next (if msg.type = 8 then inSession msg (replyTo msg 5 []) s else s)

/-- CLOSE: answered, then the session ends. -/
def execCloseSession (msg : SdoMsg) (s : State) : Out :=
  .next (if msg.type = 9 then inSession msg (fun t => closeSession msg.session 2 (replyTo msg 5 [] t)) s else s)

end Sys2Proof.Machine
end

