-- ==== Sys2Proof/Machine/Startup.lean ====
section
/-! DEFINITION. Start-up and package reset: the steps of R445 as they end, the start report, power-on, RESET_N and the watchdog (R445 to R450,
R452). -/

namespace Sys2Proof.Machine

/-! ## Steps (R445, R446) -/

/-- Step 2 ends: the firmware starts, or Tadpole enters Bootstrap and no later step runs (R446, R479). -/
def verifyImage (s : State) : State :=
  if mramOk s then deriveKeys s
  else { s with mgmt := { s.mgmt with al := 3 }, startup := { s.startup with preopReady := false } }

/-- What the end of step `n` of a start of `kind` brings. From step 4 on a die whose rail has become good reads its straps (R23). -/
def stepEffect (n kind : Nat) (r : StepReport) (s0 : State) : State :=
  let s := if 4 ≤ n then readStraps r.straps s0 else s0
  match n with
  | 2 => verifyImage s
  | 3 => settleAlias (loadStored s)
  | 5 => if forwardOk s then startProbes s else s
  | 6 => trainHbm r.stacksFailed s
  | 7 => pinCheck (startNear s)
  | 8 => endLimiterFault (startCores r.sites s)
  | 9 => startLinks (kind != 2 && kind != 3) r.badGroups s
  | 10 => startForwarding r.badGroups s
  | _ => s

/-! ## The report of a start (R447) -/

/-- Byte 1 of 0xFF14. -/
def startFlags (s : State) : Nat :=
  b2n ((List.range 9).any fun d => !dieOk s d) + 2 * b2n (s.startup.stacksOk != BitVec.allOnes 12) + 4 * b2n (decide (coreCount s < 160))

/-- 0xFF14: held behind the earlier messages while the mailbox is off, whatever their number. -/
def startReport (cause ms : Nat) (s : State) : State :=
  let bytes := [cause, startFlags s, 0, ms % 256, ms / 256 % 256]
  if mailboxOff s then { s with mgmt := { s.mgmt with heldEmcy := s.mgmt.heldEmcy ++ [{ code := 0xFF14, reg := 0, bytes := bytes }] } }
  else emcy 0xFF14 bytes s

/-- PreOp can be reached. -/
def reachPreop (s : State) : State := { s with startup := { s.startup with preopReady := true } }

/-- A step of the start of the part ends, and the next begins; the last one makes PreOp reachable. Kind 10, the late start of blocks whose
rails came late, is no start of R447. -/
def mainStep (r : StepReport) (s : State) : State :=
  match s.startup.steps with
  | [] => s
  | n :: rest =>
    let kind := s.startup.kind
    let s1 := stepEffect n kind r { s with startup := { s.startup with steps := rest } }
    if s1.mgmt.al = 3 ∧ n = 2 then { s1 with startup := { s1.startup with steps := [] } }
    else if rest.isEmpty then
      if kind = 10 then s1 else startReport s1.startup.cause r.ms (reachPreop s1)
    else s1

/-- The same of MD alone: after step 3 PreOp can be reached (R452). The stored settings stay as they are (R455 MG). -/
def mdStep (r : StepReport) (s : State) : State :=
  match s.startup.mgSteps with
  | [] => s
  | n :: rest =>
    let s0 : State := { s with startup := { s.startup with mgSteps := rest } }
    let s1 := if n = 2 then verifyImage s0 else if n = 3 then settleAlias (if s.startup.mgCause = 6 then s0 else loadStored s0) else s0
    if s1.mgmt.al = 3 ∧ n = 2 then { s1 with startup := { s1.startup with mgSteps := [] } }
    else if rest.isEmpty then startReport s1.startup.mgCause r.ms (reachPreop s1)
    else s1

/-- The same of the forwarding plane alone (R292). -/
def fwdStep (r : StepReport) (s : State) : State :=
  match s.startup.fpSteps with
  | [] => s
  | n :: rest =>
    let s1 := stepEffect n 4 r { s with startup := { s.startup with fpSteps := rest } }
    if rest.isEmpty then startReport 4 r.ms s1 else s1

/-- START_UP_STEP_DONE: the step in progress ends; MD's own start first, then the forwarding plane's (log 99). -/
def execStartUpStepDone (rep : StepReport) (s : State) : Out :=
  .next (if !s.startup.mgSteps.isEmpty then mdStep rep s
    else if !s.startup.fpSteps.isEmpty then fwdStep rep s
    else mainStep rep s)

/-! ## Power-on, RESET_N, watchdog -/

/-- POWER_ON: VSTBY becomes good with RESET_N high (R445, R455 PO). -/
def execPowerOn (s : State) : Out :=
  .next (if s.startup.resetLow then s
    else
      let c := coldState s
      setSteps 0 { c with power := { c.power with rails := c.power.rails ||| railBit 8, railWasGood := c.power.rails ||| railBit 8 } })

/-- RESET_N_ASSERT: the data planes stop, the transmitters go off, MD is held (R449). -/
def execResetNAssert (s : State) : Out :=
  .next (if s.startup.resetLow then s
    else
      let s1 := endTest (pinStop s)
      { s1 with startup := { s1.startup with resetLow := true } })

/-- RESET_N_RELEASE: the start runs; a tripped device restarts MD and stays tripped, and its release timer starts from 0 (R449). -/
def execResetNRelease (s : State) : Out :=
  .next (if s.startup.resetLow then beginStart 7 { s with startup := { s.startup with resetLow := false } } else s)

/-- MD_WATCHDOG_EXPIRY: a management reset (R452). -/
def execMdWatchdogExpiry (s : State) : Out := .next (if firmwareUp s then requestStart 6 s else s)

end Sys2Proof.Machine
end

