-- ==== Sys2Proof/Machine/Objects.lean ====
section
/-! DEFINITION. What every object of the dictionary reads: the values that the device computes (the object tables of every chapter), and the
stored value of each other object. -/

namespace Sys2Proof.Machine

/-! ## Identity and the summary (R405, R406, R411) -/

/-- Decimal digits of a number. -/
def decimal (n : Nat) : List Byte := ascii (toString n)

/-- `sw-version`. -/
def swVersion (s : State) : List Byte :=
  decimal (fld s.sec.fwVersion 24 8) ++ ascii "." ++ decimal (fld s.sec.fwVersion 16 8) ++ ascii "." ++ decimal (fld s.sec.fwVersion 0 16)

/-- Hottest of a run of sensors. -/
def hottest (s : State) (lo n : Nat) : Int := (((s.power.sensors.drop lo).take n).map (·.temp)).foldl max (-32768)

/-- `dies-ok`. -/
def diesOk (s : State) : Nat := (((List.range 9).filter (dieOk s)).map (2 ^ ·)).sum

/-- Entries of the TxPDO mapping in use, in order. -/
def pdoMap (s : State) : List Nat := ((List.range 32).map fun k => odGet s 0x1A00 (k + 1)).filter (· != 0)

/-- Which of the masters of R409 this is. -/
def ownerOf : Master → Nat
  | .ethercat => 0
  | .session n => n
  | .secure => 5
  | .unprivileged => 6

/-- 0x2050: the summary. -/
def summary (s : State) (u : Nat) : Nat :=
  match u with
  | 1 => s.mgmt.al
  | 2 => s.mgmt.launchHandle
  | 3 => if s.mgmt.launchHandle = 0 then 0 else (s.handle s.mgmt.launchHandle).state
  | 4 => s.power.lastWatts
  | 5 => unsx 16 (hottest s 0 176)
  | 6 => unsx 16 (hottest s 176 32)
  | 7 => capInForce s
  | 8 => linksUp s
  | 9 => odGet s 0x2718 1 % 2 ^ 32
  | 0xA => odGet s 0x2050 0xA
  | _ => calendar s

/-- A field of a handle (R411); a launch that has started reports its progress and detail as they stand. -/
def handleBytes (s : State) (h u : Nat) : List Byte :=
  let x := s.handle h
  let live := x.kind == 1 && x.phase == .started && [2, 3, 6].contains x.state
  match u with
  | 1 => leBytes 1 x.kind
  | 2 => leBytes 1 x.state
  | 3 => [0]
  | 4 => leBytes 2 x.result
  | 5 => leBytes 2 (if live then launchProgress s x else x.progress)
  | 6 => leBytes 1 x.owner
  | 7 => leBytes 8 x.created
  | 8 => leBytes 8 x.ended
  | 9 => leBytes 8 x.suspendArea
  | 0xA => leBytes 1 (b2n x.suspendNear)
  | _ => bytesAt (if live then launchDetail s x else x.detail) 0 64

/-! ## Fabric, memory, collectives (R295, R300, R316, R348, R475) -/

/-- `port-role`. -/
def roleWord (q : Port) : Nat := q.role + 4 * q.dim + 16 * q.nval + 128 * q.copy + 256 * q.peerPort + 65536 * q.peerDev

/-- 4 096 words of 32 bits from a sparse map. -/
def words4096 (l : List (Nat × Nat)) : List Byte := (List.range 4096).flatMap fun u => leBytes 4 (lget 0 l u)

/-- An entry of the window table as its 16 bytes (R300). -/
def windowBytes (w : Window) : List Byte :=
  leBytes 6 w.base ++ leBytes 2 w.tag ++ leBytes 4 w.length ++ leBytes 1 w.perm ++ leBytes 1 w.ftag ++ leBytes 2 0

/-- The member set as 512 bytes. -/
def memberBytes (l : List Nat) : List Byte :=
  (List.range 512).map fun i => BitVec.ofNat 8 (((List.range 8).filter fun b => l.contains (8 * i + b)).map (2 ^ ·)).sum

/-- 0x2401. -/
def fabricNow (s : State) (u : Nat) : Nat :=
  match u with
  | 1 => s.fab.shape
  | 2 => linksExpected s
  | 3 => linksUp s
  | 4 => (s.ports.filter fun p => p.role == 2).length
  | 5 => s.fab.fwd
  | _ => b2n (ringIntact s)

/-- The read-only fields of a group record. -/
def groupNow (s : State) (g u : Nat) : Nat :=
  let x := s.group g
  match u with
  | 0xA => x.state
  | 0xB => x.mode
  | 0xC => x.reason
  | 0xD => x.faultRank
  | 0xE => x.rank
  | 0xF => x.ranks
  | 0x13 => x.digest
  | _ => 0

/-! ## Optics (R386, R508) -/

/-- `lane-state`. -/
def laneState (q : Port) : Nat :=
  q.txLanes.toNat + 2 ^ 20 * q.rxLanes.toNat + 2 ^ 40 * q.sparesUsed.toNat + 2 ^ 44 * q.sparesFailed.toNat + 2 ^ 48 * q.safety

/-- `loopback-result`. -/
def loopResult (q : Port) : Nat := q.loopState + 4 * q.loopFail + 256 * q.loopLanes + 65536 * min 65535 q.loopUncorr

/-- `e-state`. -/
def eState (x : EPort) : Nat := if !x.up then 0 else if x.spareLane.isSome then 2 else 1

/-! ## Power (R439, R443) -/

/-- A record of the trip log. -/
def tripBytes (r : TripRec) : List Byte :=
  leBytes 8 r.time ++ leBytes 2 r.sensor ++ leBytes 1 r.cause ++ leBytes 1 r.pstate ++ leBytes 2 (unsx 16 r.temp) ++ leBytes 2 (unsx 16 r.rate) ++
    leBytes 2 r.watts ++ leBytes 2 r.cap ++ leBytes 1 r.theta ++ leBytes 1 r.flags ++ leBytes 2 0 ++ leBytes 4 r.secs ++ leBytes 4 0

/-- 0x2A00. -/
def powerNow (s : State) (u : Nat) : Nat :=
  match u with
  | 3 => capInForce s
  | 4 => theta s
  | 5 => b2n s.power.pin
  | 6 => b2n s.power.clamp
  | 7 => b2n s.power.limiterFault
  | 8 => b2n s.power.cautious
  | _ => powerAvg s

/-! ## Reliability (R464, R476) -/

/-- Sums over samples numbered from 0: n, Σx, Σy, Σxx, Σxy. -/
def sums (l : List Nat) : Int × Int × Int × Int × Int :=
  l.zipIdx.foldl (fun a e =>
    let x : Int := e.2
    let y : Int := e.1
    (a.1 + 1, a.2.1 + x, a.2.2.1 + y, a.2.2.2.1 + x * x, a.2.2.2.2 + x * y)) (0, 0, 0, 0, 0)

/-- Bias trend: the least-squares slope of hourly samples, in 0.01 % of rated maximum per 1 000 h, rounded down (R464). -/
def trend (rated : Nat) (l : List Nat) : Int :=
  let t := sums l
  let den := (t.1 * t.2.2.2.1 - t.2.1 * t.2.1) * (rated : Int)
  if den = 0 then 0 else ((t.1 * t.2.2.2.2 - t.2.1 * t.2.2.1) * 10000000) / den

/-- One laser of `laser-life`. -/
def lifeBytes (hours commissioned present : Nat) (slope : Int) : List Byte :=
  leBytes 4 hours ++ leBytes 2 commissioned ++ leBytes 2 present ++ leBytes 2 (unsx 16 slope) ++ leBytes 2 0

def laserLife (s : State) (p : Nat) : List Byte :=
  (List.range 24).flatMap fun j =>
    let k := 24 * p + j
    lifeBytes ((aget k s.fleet.laserHours).getD 0) (Config.commissionedBias p j) (fld (laserWord s p j) 0 12)
      (trend (Config.ratedBias + 1) ((aget k s.fleet.laserBias).getD []))

/-- E-port lasers: lanes 0 to 3, then the spare; the present bias is the last sample. -/
def eLaserLife (s : State) (n : Nat) : List Byte :=
  (List.range 5).flatMap fun j =>
    let k := 5 * n + j
    let l := (aget k s.fleet.eLaserBias).getD []
    lifeBytes ((aget k s.fleet.eLaserHours).getD 0) (Config.commissionedBias (32 + n) j) (l.getLast?.getD 0) (trend (Config.ratedBias + 1) l)

/-- `core-map`. -/
def coreMapBytes (s : State) : List Byte :=
  (List.range 160).map fun c => match s.fleet.coreMap[c]? with
    | some i => BitVec.ofNat 8 (64 * (i / 44) + i % 44)
    | none => 0xFF

/-- `marked-sites`. -/
def markedMask (s : State) : Nat := (((List.range 176).filter fun i => (s.fleet.sites.getD i {}).marked).map (2 ^ ·)).sum

/-- `neighbours` of a port. -/
def neighbourWord (s : State) (p : Nat) : Nat :=
  match portPeer (s.port p) with
  | none => 0
  | some dev => match s.fleet.neighbours.find? fun n => n.dev == dev && n.ports.contains p with
    | some n => n.st + 4 * b2n n.compute + 256 * min 255 n.misses + 65536 * n.dev
    | none => 0

/-- 0x2B00. -/
def lifeNow (s : State) (u : Nat) : Nat :=
  match u with
  | 1 => s.fleet.onSeconds / 3600
  | 2 => s.fleet.starts
  | 3 => s.fleet.cycles
  | 4 => s.fleet.trips
  | 5 => s.fleet.repairEvents
  | 6 => calendar s
  | _ => s.fleet.calSource

/-- 0x2B10. -/
def repairNow (s : State) (u : Nat) : List Byte :=
  match u with
  | 1 => coreMapBytes s
  | 2 => (List.range 4).flatMap fun d => leBytes 1 (spareSites s d).length
  | 3 => leBytes 4 (degraded s)
  | 4 => leBytes 2 s.fleet.softMap.length
  | 5 => leBytes 2 (s.fleet.softMap.filter fun e => e.state == 0).length
  | 6 => leBytes 22 (markedMask s)
  | 7 => softMapBytes s
  | _ => factoryMap

/-- Per physical site, from a pair of counts. -/
def perSite (s : State) (f : Site → Nat × Nat) : List Byte := s.fleet.sites.flatMap fun x => leBytes 8 (f x).1 ++ leBytes 8 (f x).2

/-- `site-history`. -/
def historyBytes (x : Site) : List Byte :=
  leBytes 4 x.firstFaults ++ leBytes 4 x.finalFails ++ leBytes 2 x.marks ++ leBytes 2 x.stFails ++ leBytes 8 x.lastTime ++ leBytes 4 0

/-! ## Security and test (R490, R508) -/

def security (s : State) (u : Nat) : List Byte :=
  match u with
  | 1 => leBytes 1 s.sec.fused
  | 2 => leBytes 1 s.sec.svn
  | 3 => measurement s
  | 4 => Config.vendorKeyDigest
  | _ => repairDigest s

def certificates (s : State) (u : Nat) : List Byte :=
  match u with
  | 1 => Config.deviceIdCert
  | 2 => if s.sec.aliasReady then s.sec.cert else []
  | 3 => kemPublic s
  | 4 => leBytes 1 (b2n s.sec.aliasReady)
  | _ => bytesAt (if s.sec.udsLocked then [] else Config.uds) 0 32

/-! ## Counters kept beside the dictionary -/

def fecBytes (q : Port) : List Byte := leBytes 8 q.corrected ++ leBytes 8 q.uncorrectable ++ leBytes 8 q.erased
def eCounters (x : EPort) : List Byte := [x.rx, x.tx, x.fcs, x.unc, x.dropped, x.pause].flatMap (leBytes 8)

/-- Per-core counters, which read 0 above the enabled cores (R206, R266). -/
def perCore (i : Nat) : Bool := [0x2610, 0x2611, 0x2614, 0x2710, 0x2711].contains i

/-! ## Reading an object -/

/-- What an object reads that the device computes; none where its stored value is read. -/
def computed (m : Master) (s : State) (i u : Nat) : Option (List Byte) :=
  if 0x2201 ≤ i ∧ i ≤ 0x2240 ∧ u ≠ 0 then some (handleBytes s (i - 0x2200) u)
  else if 0x2510 ≤ i ∧ i ≤ 0x251F ∧ ([0xA, 0xB, 0xC].contains u) then some (leBytes 1 (groupNow s (i - 0x2510) u))
  else if 0x2510 ≤ i ∧ i ≤ 0x251F ∧ ([0xD, 0xE, 0xF, 0x13].contains u) then some (leBytes 4 (groupNow s (i - 0x2510) u))
  else if perCore i && u != 0 && decide (coreCount s < u) then some (leBytes 4 0)
  else match i, u with
  | 0x1001, 0 => some (leBytes 1 (errorRegister s))
  | 0x1008, 0 => some (ascii "Zuene Pladjatrum ZP-160")
  | 0x1009, 0 => some (ascii "B0")
  | 0x100A, 0 => some (swVersion s)
  | 0x1018, 4 => some (leBytes 4 (Config.serialNumber % 2 ^ 32))
  | 0x1A00, 0 => some (leBytes 1 (pdoMap s).length)
  | 0x2000, 1 => some (ascii "ZP-160")
  | 0x2000, 3 => some serialChars
  | 0x2000, 4 => some (leBytes 4 s.sec.fwVersion)
  | 0x2000, 5 => some (leBytes 2 (coreCount s))
  | 0x2000, 6 => some (leBytes 2 (diesOk s))
  | 0x2000, 7 => some (leBytes 2 s.startup.stacksOk.toNat)
  | 0x2000, 8 => some (leBytes 1 (vlmaxMin s))
  | 0x2001, n + 1 => some (leBytes 4 (dieId s n))
  | 0x2050, n + 1 => some (leBytes (match findObj i (n + 1) with | some o => o.ty.size | none => 0) (summary s (n + 1)))
  | 0x2100, 0xE => some (leBytes 1 ((aget (ownerOf m) s.mgmt.issued).getD 0))
  | 0x2190, 2 => some (leBytes 4 (regDenied s))
  | 0x2200, 1 => some (leBytes 1 (s.handles.filter fun x => x.kind != 0).length)
  | 0x2300, 3 => some (leBytes 4 s.fleet.epoch ++ memberBytes s.fleet.members)
  | 0x2300, 4 => some (leBytes 4 s.fleet.epoch)
  | 0x2401, n + 1 => some (leBytes 1 (fabricNow s (n + 1)))
  | 0x2410, n + 1 => some (leBytes 4 (roleWord (s.port n)))
  | 0x2411, n + 1 => some (leBytes 1 (s.port n).pstate)
  | 0x2412, n + 1 => some (leBytes 4 (s.port n).delay)
  | 0x2440, 1 => some (words4096 s.fab.linkDown)
  | 0x2450, 2 => some (windowBytes (s.window (odGet s 0x2450 1)))
  | 0x2471, 1 => some (words4096 s.refusedBy)
  | 0x2472, n + 1 => some (bytesAt (s.core n).fenceReport 0 256)
  | 0x2500, 5 => some (leBytes 1 s.ops.length)
  | 0x2500, 6 => none
  | 0x2500, 7 => none
  | 0x2500, n + 1 => some (leBytes 2 (s.slotsFree.getD n 0))
  | 0x2601, n + 1 => some (leBytes 1 (s.power.refresh.getD n 8))
  | 0x2640, 1 => some s.margin
  | 0x2700, 9 => some (policyDigest s)
  | 0x2720, 0 => some (leBytes 1 s.mgmt.checkLog.length)
  | 0x2720, n + 1 => some (bytesAt (s.mgmt.checkLog.getD n []) 0 16)
  | 0x2820, 1 => some normalTable
  | 0x2910, n + 1 => some (leBytes 8 (laneState (s.port n)))
  | 0x2911, n + 1 => some (((s.port n).fade).flatMap (leBytes 1))
  | 0x2912, n + 1 => some (leBytes 4 (s.port n).loss)
  | 0x2913, n + 1 => some ((List.range 67).flatMap fun k => leBytes 2 (unsx 16 ((aget k (s.port n).mon).getD 0)))
  | 0x2914, n + 1 => some (fecBytes (s.port n))
  | 0x2915, n + 1 => some ((List.range 67).flatMap fun k => leBytes 2 (unsx 16 (Config.commissioned n k)))
  | 0x2923, n + 1 => some (leBytes 1 (eState (s.eport n)))
  | 0x2924, n + 1 => some (eCounters (s.eport n))
  | 0x2930, 2 => some (leBytes 1 s.ptp.state)
  | 0x2930, 3 => some (leBytes 1 s.ptp.port)
  | 0x2930, 4 => some (leBytes 8 (unsx 64 s.ptp.offset))
  | 0x2A00, 3 => some (leBytes 2 (powerNow s 3))
  | 0x2A00, 9 => some (leBytes 2 (powerNow s 9))
  | 0x2A00, n + 4 => some (leBytes 1 (powerNow s (n + 4)))
  | 0x2A01, 1 => some (leBytes 2 s.power.rails.toNat)
  | 0x2A20, 2 => some (leBytes 1 s.power.pstate)
  | 0x2A30, 1 => some (s.power.sensors.flatMap fun x => leBytes 2 (unsx 16 x.temp))
  | 0x2A30, 2 => some (s.power.sensors.flatMap fun x => leBytes 2 (unsx 16 x.rate))
  | 0x2A30, 3 => some (s.power.sensors.flatMap fun x => leBytes 1 x.srate)
  | 0x2A40, 0 => some (leBytes 1 s.power.tripLog.length)
  | 0x2A40, n + 1 => some (match s.power.tripLog[n]? with | some r => tripBytes r | none => bytesAt [] 0 32)
  | 0x2A41, 1 => some (leBytes 1 (b2n s.power.tripped))
  | 0x2A41, 2 => some (leBytes 4 (releaseTimer s))
  | 0x2B00, n + 1 => some (leBytes (match findObj i (n + 1) with | some o => o.ty.size | none => 0) (lifeNow s (n + 1)))
  | 0x2B10, n + 1 => some (repairNow s (n + 1))
  | 0x2B20, 1 => some (perSite s fun x => (x.nearCorr, x.nearUnc))
  | 0x2B20, 2 => some ((List.range 12).flatMap fun k => leBytes 8 ((aget k s.fleet.hbmCorr).getD 0) ++ leBytes 8 ((aget k s.fleet.hbmUnc).getD 0))
  | 0x2B20, 3 => some (perSite s fun x => (x.csCorr, x.csUnc))
  | 0x2B21, n + 1 => some (laserLife s n)
  | 0x2B22, n + 1 => some (eLaserLife s n)
  | 0x2B23, 1 => some (s.fleet.sites.flatMap historyBytes)
  | 0x2B31, n + 1 => some (leBytes 4 (neighbourWord s n))
  | 0x2B40, 2 => some (leBytes 2 (match s.handles.find? fun x => x.kind == 8 && x.state == 2 with
      | some x => match x.shadow with | some o => o.matched | none => 0
      | none => 0))
  | 0x2B40, 3 => some (leBytes 1 (b2n s.fleet.suspect))
  | 0x2C00, n + 1 => some (security s (n + 1))
  | 0x2C01, n + 1 => some (certificates s (n + 1))
  | 0x2C10, n + 1 =>
    let x := s.handle (n + 1)
    some (bytesAt (if x.kind = 3 ∧ x.state = 7 then x.quote else []) 0 30048)
  | 0x2C20, n + 1 => some (bytesAt (s.sec.keys.getD n []) 0 64)
  | 0x2C21, n + 1 => some (leBytes 8 (s.sec.counters.getD n 0))
  | 0x2D00, 1 => some (leBytes 1 (b2n s.test.mode))
  | 0x2D01, n + 1 => some (leBytes 4 (dieWord s 8 (0x100 + 4 * n)))
  | 0x2D11, n + 1 => some (leBytes 4 (loopResult (s.port n)))
  | 0x3000, 1 => some (leBytes 8 s.mgmt.regAddr)
  | 0x3000, 2 => some (leBytes 4 (regRead s true s.mgmt.regAddr))
  | _, _ => none

/-- Bytes that a present object reads (R11, R397, R416): zeros of its size where it is write-only, or secure-only to another master. -/
def objBytes (m : Master) (s : State) (o : Obj) (i u : Nat) : List Byte :=
  if o.acc = .wo ∨ ((o.acc = .srw ∨ o.acc = .sro) ∧ m ≠ .secure) then bytesAt [] 0 o.ty.size
  else match computed m s i u with
    | some b => b
    | none => leBytes o.ty.size (odGet s i u)

/-- A read: an abort code (0 none) and the bytes (R397). -/
def odRead (m : Master) (i u : Nat) (s : State) : Nat × List Byte :=
  if !hasIndex i then (0x06020000, [])
  else match findObj i u with
    | none => (0x06090011, [])
    | some o => (0, objBytes m s o i u)

/-- Subindices of an index in the order of a complete access, 01 upwards. -/
def subsOf (i : Nat) : List Nat := ((List.range 255).map (· + 1)).filter fun u => (findObj i u).isSome

/-- A complete access: subindex 00 as two bytes, then every object in order (R388, R396). -/
def odReadAll (m : Master) (i : Nat) (s : State) : Nat × List Byte :=
  if !hasIndex i then (0x06020000, [])
  else (0, bytesAt (odRead m i 0 s).2 0 2 ++ (subsOf i).flatMap fun u => (odRead m i u s).2)

end Sys2Proof.Machine
end

