-- ==== Sys2Proof/Machine/Access.lean ====
section
/-! DEFINITION. Writing the dictionary: the checks of R397 in their order, what each object's write does, and the commands that are writes
(R205, R212, R239, R266, R300, R321, R407 to R415, R432, R433, R437, R440, R441, R469, R472, R482, R485, R487, R500, R503). -/

namespace Sys2Proof.Machine

/-! ## Privileged masters and their way in -/

/-- The master reaches the dictionary now: the EtherCAT master through the mailbox, a session while it is open, MD's firmware while it runs
(R389, R400, R416). -/
def reaches (m : Master) (s : State) : Bool :=
  firmwareUp s && match m with
    | .ethercat => !mailboxOff s
    | .session n => udpListens s && (s.session n).isOpen
    | .secure => true
    | .unprivileged => false

/-! ## The state checks (R389, R397 order 6) -/

/-- A launch is queued or running (R212, R321). -/
def launchWaits (s : State) : Bool := s.handles.any fun x => x.kind == 1 && (x.state == 1 || x.state == 2)

/-- PreOp and SafeOp, and Op while no launch is queued or running (R212, R321). -/
def jobIdle (s : State) : Bool := s.mgmt.al == 2 || s.mgmt.al == 4 || (s.mgmt.al == 8 && !launchWaits s)

/-- Any of PreOp, SafeOp and Op. -/
def configured (s : State) : Bool := [2, 4, 8].contains s.mgmt.al

/-- New work may be accepted: Op, awake, not in test mode (R408, R432, R500). -/
def takesWork (s : State) : Bool := s.mgmt.al == 8 && s.power.pstate != 2 && !s.test.mode

/-- A reset kind is accepted in this state (R39, R410). -/
def resetState (kind : Nat) (s : State) : Bool :=
  if kind = 6 then true
  else if kind = 4 then configured s
  else if kind = 5 then (s.mgmt.al == 2 || s.mgmt.al == 4) && !launchBusy s
  else if kind = 3 then configured s && !launchBusy s && !s.startup.needFull
  else configured s && !launchBusy s

/-- A launch that binds group record `g` is queued or running (R321). -/
def groupInUse (s : State) (g : Nat) : Bool :=
  s.handles.any fun x => x.kind == 1 && (x.state == 1 || x.state == 2) && (boundIds s x).contains (odGet s (grpObj g) 1)

/-- The command to a group record may come now. -/
def groupState (g v : Nat) (s : State) : Bool := if v = 1 then jobIdle s else if v = 2 then !groupInUse s g else true

/-- The state allows a write of `v` (of bytes `b`) to an object that has its own rule. -/
def specialState (i u : Nat) (b : List Byte) (s : State) : Bool :=
  let v := ofLE b
  if 0x2201 ≤ i ∧ i ≤ 0x2240 then
    let x := s.handle (i - 0x2200)
    if u = 3 then (control (i - 0x2200) v s).1 != 0x08000022 else x.kind != 0 && (x.state == 1 || x.state == 2)
  else if 0x2510 ≤ i ∧ i ≤ 0x251F then (if u = 9 then groupState (i - 0x2510) v s else true)
  else match i, u with
    | 0x2100, 1 => takesWork s
    | 0x2100, 2 => takesWork s
    | 0x2100, 3 => s.mgmt.al == 2 && !(s.handles.any fun x => x.kind == 2 && x.busy)
    | 0x2100, 4 => configured s
    | 0x2100, 5 => configured s
    | 0x2100, 6 => marginState s (numAt b 0 1)
    | 0x2100, 7 => s.mgmt.al == 2
    | 0x2100, 8 => s.mgmt.al == 2 || s.mgmt.al == 4
    | 0x2100, 9 => takesWork s
    | 0x2100, 0xA => v != 1 || (tripRelease v s).1 != 0x08000022
    | 0x2100, 0xB => v != 1 || (cautiousAck v s).1 != 0x08000022
    | 0x2100, 0xC => resetState (v % 256) s
    | 0x2450, _ => configured s
    | 0x2810, _ => jobIdle s
    | 0x2A20, 1 => v != 2 || (enterBrumate s).1 != 0x08000022
    | 0x2C20, _ => s.mgmt.al == 2 && !(s.mgmt.sessions.any fun x => x.isOpen && x.slot == u - 1)
    | 0x2D00, 1 => s.mgmt.al == 2 && !(s.handles.any Handle.busy) && v != 0
    | _, _ => true

/-- Order 6 of R397. -/
def stateOk (o : Obj) (i u : Nat) (b : List Byte) (s : State) : Bool :=
  match o.wh with
  | .any => true
  | .preop => s.mgmt.al == 2
  | .preopSafeop => s.mgmt.al == 2 || s.mgmt.al == 4
  | .special => specialState i u b s

/-! ## Mappability (R393) and values (R397 orders 7 and 8) -/

/-- An object that may be mapped, with its length in bits. -/
def mappable (w : Nat) : Bool :=
  let i := fld w 16 16
  match findObj i (fld w 8 8) with
  | none => false
  | some o =>
    decide (0x2000 ≤ i) && decide (i ≤ 0x2DFF) && (o.acc == .ro || o.acc == .rw) && (match o.ty with
      | .bool => true
      | .u n => [1, 2, 4, 8].contains n
      | .i n => [1, 2, 4, 8].contains n
      | _ => false) && fld w 0 8 == 8 * o.ty.size

/-- A mapping entry is valid: 0 leaves it unused (log 93). -/
def mapOk (w : Nat) : Bool := w == 0 || mappable w

/-- The regions' modes with one changed stay within the channels (R239). -/
def regionsOk (r mode : Nat) (s : State) : Bool :=
  let m := (List.range 64).map fun k => if k = r then mode else regionMode s k
  let n := fun v => (m.filter (· == v)).length
  [2, 3, 4, 5].all fun d => decide (n 1 + 4 * n d ≤ 64)

/-- A window entry as it would stand (R300). -/
def windowOf (b : List Byte) : Window :=
  { base := numAt b 0 6, tag := numAt b 6 2, length := numAt b 8 4, perm := numAt b 12 1, ftag := numAt b 13 1 }

/-- The window lies inside HBM, one near slice or one core store. -/
def windowPlace (s : State) (w : Window) : Bool :=
  let n := 128 * w.length
  match place s w.base with
  | .hbm _ => hbmSpan s w.base n
  | .near _ o => decide (o + n ≤ nearSize)
  | .store _ o => decide (o + n ≤ storeSize)
  | _ => false

/-- The rules of a window entry. -/
def windowOk (b : List Byte) (s : State) : Bool :=
  let w := windowOf b
  w.base % 128 == 0 && decide (w.length ≤ 2 ^ 28) && decide (w.perm < 4) && decide (w.ftag < 16) && numAt b 14 2 == 0 && w.tag != 0 &&
    (w.length == 0 || windowPlace s w)

/-- Warn ≤ act ≤ trip of a class, with one of them changed (R437). -/
def thresholdOk (i u v : Nat) (s : State) : Bool :=
  let at_ := fun k => if k = u then v else odGet s i k
  if u ≤ 2 then decide (at_ 1 ≤ at_ 2) && decide (at_ 2 ≤ at_ 3)
  else decide (sx 16 (at_ 4) ≤ sx 16 (at_ 5)) && decide (sx 16 (at_ 5) ≤ sx 16 (at_ 6))

/-- Fields that a group record's creation must meet (R319, R334). -/
def groupValue (g v : Nat) (s : State) : Bool := decide (1 ≤ v) && decide (v ≤ 3) && (v != 1 || (s.group g).state != 0 || groupFieldsOk s g)

/-- A value beyond its type's range and its own rules. -/
def valueOk (o : Obj) (i u : Nat) (b : List Byte) (s : State) : Bool :=
  let v := ofLE b
  let num : Int := match o.ty with
    | .i n => sx (8 * n) v
    | _ => v
  let inRng := match o.ty with
    | .dom _ => true
    | .var _ => true
    | .vstr => true
    | .bool => decide (v ≤ 1)
    | _ => decide (o.lo ≤ num) && decide (num ≤ o.hi)
  if o.life = .counter then v == 0
  else if 0x2201 ≤ i ∧ i ≤ 0x2240 then (if u = 3 then (control (i - 0x2200) v s).1 != 0x06090030 else inRng)
  else if 0x2510 ≤ i ∧ i ≤ 0x251F then (if u = 9 then groupValue (i - 0x2510) v s else inRng)
  else if 0x2A10 ≤ i ∧ i ≤ 0x2A15 then inRng && thresholdOk i u v s
  else match i, u with
    | 0x1C33, 1 => v == 0 || v == 2
    | 0x1C33, 2 => inRng && v % 250000 == 0
    | 0x2100, 3 => v == 1
    | 0x2100, 5 => scrubCheck v == 0
    | 0x2100, 6 => marginCheck b == 0
    | 0x2100, 7 => selfTestCheck b == 0
    | 0x2100, 9 => shadowCheck s b == 0
    | 0x2100, 0xA => v == 1
    | 0x2100, 0xB => v == 1
    | 0x2100, 0xC =>
      let k := v % 256
      decide (1 ≤ k) && decide (k ≤ 6) && (if k = 5 then decide (v / 256 < coreCount s) else v / 256 == 0)
    | 0x2450, 2 => windowOk b s
    | 0x2600, _ => inRng && regionsOk (u - 1) v s
    | 0x2900, 1 => inRng && decide (odGet s 0x2900 2 + 5 ≤ v)
    | 0x2900, 2 => inRng && decide (v + 5 ≤ odGet s 0x2900 1)
    | 0x2922, _ => decide (numAt b 16 1 ≤ 128)
    | 0x2A20, 1 => v == 0 || v == 2
    | _, _ => inRng

/-! ## The owning chapters' other rules (R397 order 9) -/

/-- 0 where every other rule holds. -/
def ownerRule (m : Master) (i u : Nat) (b : List Byte) (s : State) : Bool :=
  let v := ofLE b
  let remote := match m with
    | .session _ => true
    | _ => false
  if 0x2201 ≤ i ∧ i ≤ 0x2240 then u == 3 || (s.handle (i - 0x2200)).kind == 1
  else if 0x2510 ≤ i ∧ i ≤ 0x251F then
    let st := (s.group (i - 0x2510)).state
    if u = 9 then (if v = 1 then st == 0 else if v = 3 then st == 3 else st != 0) else decide (8 < u) || st == 0
  else match i with
    | 0x2100 => u != 8 || calibrateCheck s v == 0
    | 0x2300 => u != 3 || membershipCheck s b == 0
    | 0x2C20 => m == .ethercat
    | 0x2D00 => u != 1 || !remote
    | 0x2D10 =>
      if u = 1 then !((List.range 32).any fun p => bitAt v p && ((s.port p).role == 1 || (s.port p).role == 2))
      else !((List.range 4).any fun n => bitAt v n && (s.eport n).up)
    | _ => true

/-- A write that creates a long operation (R409). -/
def creates (i u : Nat) : Bool := i == 0x2100 && [1, 2, 3, 4, 5, 6, 7, 8, 9].contains u

/-! ## The verdict on a write -/

/-- A secure-only object that this master does not reach (R397 order 3). -/
def hidden (m : Master) (o : Obj) : Bool := (o.acc == .srw || o.acc == .sro) && m != .secure

/-- The abort code of a write, 0 where it is answered as a success (R397). -/
def odCheck (m : Master) (i u : Nat) (b : List Byte) (s : State) : Nat :=
  if !hasIndex i then 0x06020000
  else match findObj i u with
    | none => 0x06090011
    | some o =>
      if hidden m o then 0
      else if o.acc = .ro ∨ o.acc = .sro then 0x06010002
      else if b.length ≠ o.ty.size then 0x06070010
      else if !stateOk o i u b s then 0x08000022
      else if i = 0x1A00 ∧ mapOk (ofLE b) = false then 0x06040041
      else if !valueOk o i u b s then 0x06090030
      else if !ownerRule m i u b s then 0x08000020
      else if creates i u && (freeHandle s).isNone then 0x05040005
      else 0

/-! ## What a write does -/

/-- A launch, an operation or a comparison starts under handle `h`. -/
def startCommand (u h owner : Nat) (b : List Byte) (s : State) : State :=
  match u with
  | 1 => createLaunch h owner (ofLE b) s
  | 2 => createResume h owner (ofLE b) s
  | 3 => startOp h 2 owner b s
  | 4 => createQuote h owner b s
  | 5 => startOp h 4 owner b s
  | 6 => startOp h 5 owner b s
  | 7 => startSelfTest h owner b s
  | 8 => startOp h 7 owner b s
  | _ => startShadow h owner b s

/-- A reset that has been accepted (R39, R410, R450). Kind 2 after a loss of the reference runs as kind 1. -/
def resetNow (kind arg : Nat) (s : State) : State :=
  if kind = 5 then (if coveredBy s 5 then s else coreReset arg s)
  else if kind = 2 ∧ s.startup.needFull = true then requestStart 1 s
  else requestStart kind s

/-- Entry to test mode (R500): the compute plane stops and stays down, every session closes, the alias and KEM keys are erased. -/
def enterTestMode (s : State) : State :=
  let s1 := forceSafeOp 0x8004 (dropNearWindows (stopCompute s))
  { s1 with test := { s1.test with mode := true }
            mgmt := { s1.mgmt with sessions := List.replicate 4 {} }
            sec := { s1.sec with aliasReady := false, aliasSeeds := [], kemSeed := [] }
            startup := { s1.startup with steps := s1.startup.steps.filter fun n => decide (n < 6) || decide (9 < n) } }

/-- A write of `loopback-ports`. -/
def writeLoopbacks (v : Nat) (s : State) : State := (List.range 32).foldl (fun t p => setLoopback p (bitAt v p) t) (odSet 0x2D10 1 v s)

/-- Every window entry of a tag becomes invalid (R300). -/
def revokeTag (tag : Nat) (s : State) : State :=
  { s with windows := s.windows.map fun w => (w.1, if w.2.tag = tag then { w.2 with length := 0, rejected := false } else w.2) }

/-- A region whose mode changes holds unspecified contents: every byte of it is a free byte of a new draw (R266; log 5). -/
def changeRegion (r mode : Nat) (s : State) : State :=
  let s1 := odSet 0x2600 (r + 1) mode s
  if regionMode s r = mode ∨ 64 ≤ r then s1
  else
    let out := fun a => decide (a < r * regionSize) || decide ((r + 1) * regionSize ≤ a)
    let s2 := makeWild (r * regionSize) ((r + 1) * regionSize) s1
    { s2 with poison := s2.poison.filter fun l => out (128 * l)
              poisonFlips := s2.poisonFlips.filter fun e => out (128 * e.1)
              ecc := s2.ecc.filter fun e => out (8 * e.1) }

/-- A command to a group record. -/
def groupCommand (g v : Nat) (s : State) : State := if v = 1 then groupCreate g s else if v = 2 then groupDelete g s else groupReform g s

/-- A register word that MD's firmware writes (R417, R501), with what the port control bits set off (R376, R385). -/
def secureRegWrite (a v : Nat) (s : State) : State :=
  if a % 4 ≠ 0 then s
  else match place s a with
    | .coreReg c o => coreRegWrite c o v s
    | .dieReg d o =>
      if !dieSrw d o then s
      else if 4 ≤ d ∧ d < 8 ∧ 0x1000 ≤ o ∧ o < 0x1020 then
        let p := 8 * (d - 4) + (o - 0x1000) / 4
        let was := portCtrl s p
        let s1 := setDieWord d o (b2n (bitAt v 0) + 2 * b2n (bitAt was 1) + 256 * fld v 8 8) s
        let s2 := if bitAt was 0 && !bitAt v 0 then shutdown p 3 (if (s1.port p).carries then linkDownAs p 1 0 s1 else s1)
          else if !bitAt was 0 && bitAt v 0 then s1.modPort p fun q => { q with safety := if q.safety = 4 then 1 else q.safety }
          else s1
        setLoopback p (bitAt v 1) s2
      else if d = 8 then setDieWord d o (v % 2 ^ 17) s
      else setDieWord d o ((v &&& 0x03000FFF) ||| (dieWord s d o &&& 0x00FFF000)) s
    | _ => s

/-- The effect of an accepted write. -/
def odApply (m : Master) (i u : Nat) (b : List Byte) (s : State) : State :=
  let v := ofLE b
  if creates i u then startCommand u ((freeHandle s).getD 1) (ownerOf m) b s
  else if 0x2201 ≤ i ∧ i ≤ 0x2240 then
    let h := i - 0x2200
    if u = 3 then (control h v s).2
    else if u = 9 then s.modHandle h fun x => { x with suspendArea := v }
    else s.modHandle h fun x => { x with suspendNear := v == 1 }
  else if 0x2510 ≤ i ∧ i ≤ 0x251F ∧ u = 9 then groupCommand (i - 0x2510) v s
  else match i, u with
    | 0x2100, 0xA => (tripRelease v s).2
    | 0x2100, 0xB => (cautiousAck v s).2
    | 0x2100, 0xC => resetNow (v % 256) (v / 256) s
    | 0x2300, 2 => setJobTag v s
    | 0x2300, 3 => setMembership b s
    | 0x2450, 2 => { s with windows := aset (odGet s 0x2450 1) (windowOf b) s.windows }
    | 0x2450, 3 => revokeTag v s
    | 0x2471, 2 => if v = 1 then { s with refusedBy := [] } else s
    | 0x2600, _ => changeRegion (u - 1) v s
    | 0x2914, _ => s.modPort (u - 1) fun q => { q with corrected := 0, uncorrectable := 0, erased := 0 }
    | 0x2924, _ => s.modEport (u - 1) fun x => { x with rx := 0, tx := 0, fcs := 0, unc := 0, dropped := 0, pause := 0 }
    | 0x2A20, 1 => if v = 2 then odSet i u v (enterBrumate s).2 else odSet i u v (leaveBrumate s).2
    | 0x2C20, _ => { s with sec := { s.sec with keys := s.sec.keys.set (u - 1) b, counters := s.sec.counters.set (u - 1) 0 } }
    | 0x2D00, 1 => enterTestMode s
    | 0x2D01, _ => setDieWord 8 (0x100 + 4 * (u - 1)) (v % 2 ^ 17) s
    | 0x2D10, 1 => writeLoopbacks v s
    | 0x3000, 1 => { s with mgmt := { s.mgmt with regAddr := v - v % 4 } }
    | 0x3000, 2 => secureRegWrite s.mgmt.regAddr v s
    | _, _ => odSet i u v s

/-- The effect of a write, whatever its verdict: a refused one leaves no trace, a hidden one is counted (R397, R408). -/
def odWrite (m : Master) (i u : Nat) (b : List Byte) (s : State) : State :=
  match findObj i u with
  | none => s
  | some o =>
    if hidden m o then odInc 0x2190 1 4 1 s
    else if odCheck m i u b s = 0 then odApply m i u b s
    else s

/-- The bytes of a successful answer to a write: the handle of a command that creates one (R402, R409). -/
def writeAnswer (i u : Nat) (s : State) : List Byte := if creates i u then leBytes 1 ((freeHandle s).getD 0) else []

/-! ## Complete access (R388, R396): atomic as a whole -/

/-- The objects of a complete download with their bytes; read-only objects pass over theirs. -/
def splitAll (l : List Nat) (i : Nat) (b : List Byte) : List (Nat × List Byte) × List Byte :=
  l.foldl (fun a u =>
    match findObj i u with
    | some o => (if o.acc = .ro ∨ o.acc = .sro then a.1 else a.1 ++ [(u, a.2.take o.ty.size)], a.2.drop o.ty.size)
    | none => a) ([], b)

/-- Check and apply a complete download, object by object: the first refusal refuses all of it. -/
def writeAllGo (m : Master) (i : Nat) : List (Nat × List Byte) → State → Nat × State
  | [], s => (0, s)
  | x :: r, s => if odCheck m i x.1 x.2 s = 0 then writeAllGo m i r (odWrite m i x.1 x.2 s) else (odCheck m i x.1 x.2 s, s)

def odWriteAll (m : Master) (i : Nat) (b : List Byte) (s : State) : Nat × State :=
  if !hasIndex i then (0x06020000, s)
  else
    let x := splitAll (subsOf i) i (b.drop 2)
    if x.2 ≠ [] then (0x06070010, s)
    else
      let r := writeAllGo m i x.1 s
      if r.1 = 0 then r else (r.1, s)

/-! ## Answers -/

/-- The latest answer to a master. -/
def setResp (m : Master) (code : Nat) (data : List Byte) (s : State) : State :=
  { s with mgmt := { s.mgmt with resp := { m := m, abort := code, data := data } :: s.mgmt.resp.filter fun r => r.m != m } }

/-- One write by a master that reaches the dictionary: the answer leaves before the effect (R409, R410). -/
def dictWrite (m : Master) (i u : Nat) (b : List Byte) (s : State) : State :=
  if reaches m s then odWrite m i u b (setResp m (odCheck m i u b s) (if odCheck m i u b s = 0 then writeAnswer i u s else []) s) else s

/-- One read. -/
def dictRead (m : Master) (i u : Nat) (s : State) : State :=
  if reaches m s then setResp m (odRead m i u s).1 (odRead m i u s).2 s else s

/-! ## Rows -/

/-- SDO_REQUEST. -/
def execSdoRequest (m : Master) (write complete : Bool) (index sub : Nat) (data : List Byte) (s : State) : Out :=
  .next (if complete then
      (if !reaches m s then s
      else if write then
        let r := odWriteAll m index data s
        setResp m r.1 [] r.2
      else setResp m (odReadAll m index s).1 (odReadAll m index s).2 s)
    else if write then dictWrite m index sub data s
    else dictRead m index sub s)

/-- COUNTER_CLEAR: a write to a counter object (R397). -/
def execCounterClear (m : Master) (index sub : Nat) (data : List Byte) (s : State) : Out :=
  .next (match findObj index sub with
    | some o => if o.life = .counter then dictWrite m index sub data s else s
    | none => s)

/-- A write to a command object. -/
def command (m : Master) (u : Nat) (b : List Byte) (s : State) : State := dictWrite m 0x2100 u b s

/-- A control write to a handle (R412). -/
def controlWrite (m : Master) (h v : Nat) (s : State) : State := dictWrite m (0x2200 + h) 3 (leBytes 1 v) s

def execLaunch (m : Master) (data : List Byte) (s : State) : Out := .next (command m 1 data s)
def execResumeFrom (m : Master) (data : List Byte) (s : State) : Out := .next (command m 2 data s)
def execSuspend (m : Master) (h : Nat) (s : State) : Out := .next (controlWrite m h 1 s)
def execResume (m : Master) (h : Nat) (s : State) : Out := .next (controlWrite m h 2 s)
def execCancel (m : Master) (h : Nat) (s : State) : Out := .next (controlWrite m h 3 s)
def execRelease (m : Master) (h : Nat) (s : State) : Out := .next (controlWrite m h 4 s)
def execFwUpdate (m : Master) (data : List Byte) (s : State) : Out := .next (command m 3 data s)
def execQuote (m : Master) (data : List Byte) (s : State) : Out := .next (command m 4 data s)
def execScrub (m : Master) (data : List Byte) (s : State) : Out := .next (command m 5 data s)

/-- A `margin` command of one kind; another kind's command is another row. -/
def marginRow (kind : Nat) (m : Master) (data : List Byte) (s : State) : State :=
  if numAt data 0 1 = kind then command m 6 data s else s

def execMarginHbmTiming (m : Master) (data : List Byte) (s : State) : Out := .next (marginRow 0 m data s)
def execMarginHbmVddq (m : Master) (data : List Byte) (s : State) : Out := .next (marginRow 1 m data s)
def execMarginNearBond (m : Master) (data : List Byte) (s : State) : Out := .next (marginRow 2 m data s)
def execMarginD2dEye (m : Master) (data : List Byte) (s : State) : Out := .next (marginRow 3 m data s)
def execSelfTest (m : Master) (data : List Byte) (s : State) : Out := .next (command m 7 data s)
def execCalibrate (m : Master) (data : List Byte) (s : State) : Out := .next (command m 8 data s)
def execShadow (m : Master) (data : List Byte) (s : State) : Out := .next (command m 9 data s)
def execTripRelease (m : Master) (data : List Byte) (s : State) : Out := .next (command m 0xA data s)
def execCautiousAck (m : Master) (data : List Byte) (s : State) : Out := .next (command m 0xB data s)

/-- A write of `reset`: kind and argument (R410). -/
def resetRow (kind : Nat) (m : Master) (arg : Nat) (s : State) : State := command m 0xC (leBytes 1 kind ++ leBytes 1 arg) s

def execChipWarmReset (m : Master) (arg : Nat) (s : State) : Out := .next (resetRow 1 m arg s)
def execChipWarmResetFwdKept (m : Master) (arg : Nat) (s : State) : Out := .next (resetRow 2 m arg s)
def execComputePlaneReset (m : Master) (arg : Nat) (s : State) : Out := .next (resetRow 3 m arg s)
def execForwardingPlaneReset (m : Master) (arg : Nat) (s : State) : Out := .next (resetRow 4 m arg s)
def execCoreReset (m : Master) (arg : Nat) (s : State) : Out := .next (resetRow 5 m arg s)
def execManagementReset (m : Master) (arg : Nat) (s : State) : Out := .next (resetRow 6 m arg s)

def execWindowEntryWrite (m : Master) (data : List Byte) (s : State) : Out := .next (dictWrite m 0x2450 2 data s)
def execWindowRevoke (m : Master) (data : List Byte) (s : State) : Out := .next (dictWrite m 0x2450 3 data s)
def execGroupCreate (m : Master) (g : Nat) (s : State) : Out := .next (dictWrite m (grpObj g) 9 [1] s)
def execGroupDelete (m : Master) (g : Nat) (s : State) : Out := .next (dictWrite m (grpObj g) 9 [2] s)
def execGroupClearFault (m : Master) (g : Nat) (s : State) : Out := .next (dictWrite m (grpObj g) 9 [3] s)
def execMembershipWrite (m : Master) (data : List Byte) (s : State) : Out := .next (dictWrite m 0x2300 3 data s)
def execJobTagWrite (m : Master) (data : List Byte) (s : State) : Out := .next (dictWrite m 0x2300 2 data s)
def execKeySlotWrite (m : Master) (slot : Nat) (data : List Byte) (s : State) : Out := .next (dictWrite m 0x2810 (slot + 1) data s)
def execHbmRegionsWrite (m : Master) (region : Nat) (data : List Byte) (s : State) : Out := .next (dictWrite m 0x2600 (region + 1) data s)
def execCheckPolicyWrite (m : Master) (sub : Nat) (data : List Byte) (s : State) : Out := .next (dictWrite m 0x2700 sub data s)
def execControllerKeyWrite (m : Master) (slot : Nat) (data : List Byte) (s : State) : Out := .next (dictWrite m 0x2C20 (slot + 1) data s)
def execRefusedByClear (m : Master) (data : List Byte) (s : State) : Out := .next (dictWrite m 0x2471 2 data s)
def execEnterBrumate (m : Master) (s : State) : Out := .next (dictWrite m 0x2A20 1 [2] s)
def execLeaveBrumate (m : Master) (s : State) : Out := .next (dictWrite m 0x2A20 1 [0] s)
def execTestModeEnter (m : Master) (data : List Byte) (s : State) : Out := .next (dictWrite m 0x2D00 1 data s)
def execLoopbackPortsWrite (m : Master) (data : List Byte) (s : State) : Out := .next (dictWrite m 0x2D10 1 data s)
def execELoopbackWrite (m : Master) (data : List Byte) (s : State) : Out := .next (dictWrite m 0x2D10 2 data s)

/-- A register word of a W1C register: `SQ_STAT` of a core (R70). -/
def isW1c (s : State) (a : Nat) : Bool := match place s a with
  | .coreReg _ o => o == 0
  | _ => false

/-- A register write of a master: MD's firmware and the cores reach registers, privileged masters do not (R416). -/
def regByMaster (m : Master) (a v : Nat) (s : State) : State :=
  if a % 4 ≠ 0 then s
  else match m with
    | .secure => secureRegWrite a v s
    | .unprivileged => regWrite a v s
    | _ => s

/-- W1C_WRITE. -/
def execW1cWrite (m : Master) (addr : Nat) (val : Word) (s : State) : Out := .next (if isW1c s addr then regByMaster m addr val.toNat s else s)

/-- REGISTER_WRITE. -/
def execRegisterWrite (m : Master) (addr : Nat) (val : Word) (s : State) : Out := .next (if isW1c s addr then s else regByMaster m addr val.toNat s)

/-! ## READ and WRITE of a session (R402, R403) -/

/-- READ: bytes of the object from OFFSET; at OFFSET 0 a snapshot is taken, from which the others are served for 1 s. -/
def serveRead (m : SdoMsg) (s : State) : State :=
  let n := m.session
  let x := s.session n
  let all := m.flags == 1
  let key := 256 * m.index + m.sub
  let fresh := if all then odReadAll (.session n) m.index s else odRead (.session n) m.index m.sub s
  let kept := match x.snap with
    | some q => if m.offset != 0 && q.1 == key && q.2.1 == m.flags && decide (s.now ≤ x.snapTime + 1000000000) then some q.2.2.2 else none
    | none => none
  let part := fun (b : List Byte) => (b.drop m.offset).take (min m.len 1024)
  match kept with
  | some b => replyTo m 5 (part b) s
  | none =>
    if fresh.1 ≠ 0 then replyTo m 6 (leBytes 4 fresh.1) s
    else
      let s1 := s.modSession n fun y => if m.offset = 0 then { y with snap := some (key, m.flags, fresh.2.length, fresh.2), snapTime := s.now } else y
      replyTo m 5 (part fresh.2) s1

def execSessionRead (msg : SdoMsg) (s : State) : Out := .next (if msg.type = 3 then inSession msg (serveRead msg) s else s)

/-- WRITE: the whole value at once. -/
def serveWrite (m : SdoMsg) (s : State) : State :=
  let who := Master.session m.session
  if 1024 < m.len then replyTo m 6 (leBytes 4 0x06070012) s
  else if m.offset ≠ 0 then replyTo m 6 (leBytes 4 0x06090030) s
  else if m.len ≠ m.data.length then replyTo m 6 (leBytes 4 0x06070010) s
  else if m.flags = 1 then
    let r := odWriteAll who m.index m.data s
    if r.1 = 0 then replyTo m 5 [] r.2 else replyTo m 6 (leBytes 4 r.1) s
  else
    let c := odCheck who m.index m.sub m.data s
    if c = 0 then odWrite who m.index m.sub m.data (replyTo m 5 (writeAnswer m.index m.sub s) s) else replyTo m 6 (leBytes 4 c) s

def execSessionWrite (msg : SdoMsg) (s : State) : Out := .next (if msg.type = 4 then inSession msg (serveWrite msg) s else s)

end Sys2Proof.Machine
end

