-- ==== Sys2Proof/Machine/Al.lean ====
section
/-! DEFINITION. EtherCAT: requests for a state (R389, R390, R414), process data (R393, R394), file transfer (R399), the report of coalesced
emergencies (R203), the write-through of stored settings (R454). -/

namespace Sys2Proof.Machine

/-! ## State requests (R389, R390) -/

/-- States in which a kind of operation may run (R414); a margin operation other than VDDQ runs in any (R248). -/
def kindStates (x : Handle) : List Nat :=
  match x.kind with
  | 1 => [8]
  | 2 => [2]
  | 3 => [2, 4, 8]
  | 4 => [2, 4, 8]
  | 5 => if numAt x.params 0 1 = 1 then [2, 4] else [2, 4, 8]
  | 6 => [2]
  | 7 => [2, 4]
  | 8 => [8]
  | _ => [2, 4, 8]

/-- A handle holds the device out of state `want`: a launch, or an operation that runs and excludes it (R389, R414). A launch that a management
reset left running does not bar the way up to its own state (log 113). -/
def holdsBack (s : State) (want : Nat) : Bool :=
  s.handles.any fun x => x.busy && !(kindStates x).contains want && (x.kind != 1 || s.mgmt.al == 8 || decide (want < s.mgmt.al))

/-- What a request for SafeOp needs of process data: SM3 as the mapping has it, and under SYNC0 its period equal to `cycle-time` (R389,
R394). A mapping that is not valid is never written (R393). -/
def inputsOk (sm3 : Bool) (sync0 : Nat) (s : State) : Bool := sm3 && (odGet s 0x1C33 1 != 2 || sync0 == odGet s 0x1C33 2)

/-- The AL status code that refuses a request, 0 where it is accepted (R389, R390, R500); `inputs`: what SafeOp needs is there. -/
def alRefusal (want : Nat) (inputs : Bool) (s : State) : Nat :=
  let al := s.mgmt.al
  if want = al ∨ want = 1 then 0
  else if want = 3 then (if al = 1 then 0 else 0x0011)
  else if al = 1 then (if want = 2 then (if s.startup.preopReady then 0 else 0x8001) else 0x0011)
  else if al = 2 ∧ want = 4 then
    (if !inputs then 0x001E else if s.power.tripped || s.power.tripping then 0x8003 else if s.test.mode then 0x8004
     else if holdsBack s want then 0x8002 else 0)
  else if al = 4 ∧ want = 8 then
    (if s.power.tripped || s.power.tripping then 0x8003 else if !s.startup.computeUp then 0x8004 else if holdsBack s want then 0x8002 else 0)
  else if (al = 8 ∧ (want = 4 ∨ want = 2)) ∨ (al = 4 ∧ want = 2) then (if holdsBack s want then 0x8002 else 0)
  else 0x0011

/-- The error indication clears where an accepted request carries the acknowledge bit. -/
def alAck (ack : Bool) (s : State) : State := if ack then { s with mgmt := { s.mgmt with alErr := false, alCode := 0 } } else s

/-- An accepted request: Init and Bootstrap wait for every handle to end (R390); the mailbox that opens sends what is held (R447). -/
def alEnter (want : Nat) (s : State) : State :=
  if want = s.mgmt.al then s
  else if want = 1 ∨ want = 3 then settleAl (cancelAll { s with mgmt := { s.mgmt with alPending := some want } })
  else
    let s1 : State := { s with mgmt := { s.mgmt with al := want } }
    if mailboxOff s then emcyDrain 8 s1 else s1

/-- A request for a state. -/
def alRequest (want : Nat) (inputs ack : Bool) (s : State) : State :=
  if s.mgmt.al != 3 && !firmwareUp s then s
  else
    let c := alRefusal want inputs s
    if c = 0 then alEnter want (alAck ack s) else { s with mgmt := { s.mgmt with alErr := true, alCode := c } }

def execAlRequestInit (ack : Bool) (s : State) : Out := .next (alRequest 1 true ack s)
def execAlRequestPreop (ack : Bool) (s : State) : Out := .next (alRequest 2 true ack s)
def execAlRequestSafeop (r : SafeopRequest) (s : State) : Out := .next (alRequest 4 (inputsOk r.sm3 r.sync0 s) r.ack s)
def execAlRequestOp (ack : Bool) (s : State) : Out := .next (alRequest 8 true ack s)
def execAlRequestBootstrap (ack : Bool) (s : State) : Out := .next (alRequest 3 true ack s)

/-! ## Process data (R393, R394) -/

/-- The bytes of one sample: every mapped object in the mapping's order. -/
def pdoSample (s : State) : List Byte :=
  (pdoMap s).flatMap fun w => match findObj (fld w 16 16) (fld w 8 8) with
    | some o => objBytes .ethercat s o (fld w 16 16) (fld w 8 8)
    | none => []

/-- TXPDO_SAMPLE: in SafeOp and Op, SM3 takes one sample (R389, R394). -/
def execTxpdoSample (s : State) : Out :=
  .next (if s.mgmt.al = 4 ∨ s.mgmt.al = 8 then { s with mgmt := { s.mgmt with sm3 := pdoSample s } } else s)

/-! ## Files (R399, R481) -/

/-- FoE's verdict on a file: 0 where it is taken. -/
def foeCode (name : String) (password size al : Nat) : Nat :=
  if name ≠ "zp160-recovery" ∧ name ≠ "zp160-update" then 0x8001
  else if (name = "zp160-recovery" ∧ al ≠ 3) ∨ (name = "zp160-update" ∧ al ≠ 2) ∨ password ≠ 0 then 0x8002
  else if maxImage < size then 0x8003
  else 0

/-- FOE_WRITE: the image replaces what was staged; a recovery image's last packet is answered busy until it is verified. -/
def execFoeWrite (name : String) (password : Nat) (data : List Byte) (s : State) : Out :=
  let c := foeCode name password data.length s.mgmt.al
  .next (if s.mgmt.al = 1 ∨ (s.mgmt.al ≠ 3 ∧ firmwareUp s = false) then s
    else if c ≠ 0 then { s with mgmt := { s.mgmt with foeAnswer := c, foeText := "" } }
    else
      let rec_ := decide (s.mgmt.al = 3)
      { s with mgmt := { s.mgmt with staged := some data, recovering := rec_, foeAnswer := b2n rec_, foeText := "" } })

/-! ## Emergencies (R203) and stored settings (R454) -/

/-- EMCY_COALESCED_REPORT: what is held goes out first, then one 0xFF6F, as the budget allows. -/
def execEmcyCoalescedReport (s : State) : Out :=
  let s1 := emcyDrain 8 s
  let n := min 65535 s1.mgmt.coalesced
  .next (if mailboxOff s1 || n == 0 || decide (8 ≤ (recentEmcy s1).length) then s1
    else emcyPut 0xFF6F [n % 256, n / 256] { s1 with mgmt := { s1.mgmt with coalesced := 0 } })

/-- STORED_SETTING_WRITE_THROUGH: MRAM holds every stored setting as it stands. -/
def execStoredSettingWriteThrough (s : State) : Out := .next { s with mram := storedOnly s.od }

end Sys2Proof.Machine
end

