-- ==== Sys2Proof/Machine/Matrix.lean ====
section
/-! DEFINITION. The matrix array: MATRIX descriptors, their validation and start (R88 to R94, R99), the exact and BF16
accumulation (R81 to R83), the array check (R177 to R181), drain and conversion (R84 to R86), completion (R96 to R102). -/

namespace Sys2Proof.Machine

/-- The fields of a MATRIX descriptor with its advances applied (R88, R90). -/
structure Mat where
  fmt : Nat
  rnd : Nat
  ofmt : Nat
  acc : Bool
  split : Nat
  asrc : Bool
  bsrc : Bool
  td : Nat
  tc : Nat
  m : Nat
  n : Nat
  k : Nat
  a : Int
  b : Int
  sa : Int
  sb : Int
  dscale : Word
  srsid : Nat
  idx : Nat
  ipitch : Nat
deriving DecidableEq, Repr

def Mat.half (f : Mat) : Bool := f.split != 0

/-- kpc (R89). -/
def Mat.kpc (f : Mat) : Nat := if f.fmt = 5 then 4 else if f.fmt = 6 then 1 else 2

/-- Steps: ceil(K / kpc). -/
def Mat.steps (f : Mat) : Nat := cdiv f.k f.kpc

/-- Bytes of one step of B. -/
def Mat.bPitch (f : Mat) : Nat := if f.half then 128 else 256

/-- First tile column of the output (R99). -/
def Mat.col0 (f : Mat) : Nat := if f.split = 2 then 64 else 0

/-- Tiles of the output, and of C when ACC is set (R85). -/
def Mat.dTiles (f : Mat) : List Nat := if f.ofmt = 5 then (List.range 4).map fun w => (f.td + w) % 16 else [f.td]
def Mat.cTiles (f : Mat) : List Nat :=
  if f.acc then (if f.ofmt = 5 then (List.range 4).map fun w => (f.tc + w) % 16 else [f.tc]) else []

/-- Read a MATRIX descriptor's fields with the latched loop indices (R88, R90). -/
def matOf (d : Desc) : Mat :=
  let w0 := d.word 0
  let w4 := d.word 4
  let half := fld w0 20 2 != 0
  let sa := sx 16 (fld w4 0 16)
  let sb := sx 16 (fld w4 16 16)
  let ia : Int := d.adv (bitAt w4 42) (fld w4 32 2) sa
  let ib : Int := d.adv (bitAt w4 43) (fld w4 34 2) sb
  let it := (d.adv (bitAt w4 44) (fld w4 40 2) (fld w4 36 4 : Nat)).toNat
  let ii := d.adv (bitAt (d.word 6) 50) (fld (d.word 6) 48 2) (fld (d.word 7) 32 32 : Nat)
  { fmt := fld w0 28 4, rnd := fld w0 26 2, ofmt := fld w0 23 3, acc := bitAt w0 22, split := fld w0 20 2, asrc := bitAt w0 19,
    bsrc := bitAt w0 18, td := (fld w0 12 4 + it) % 16, tc := (fld w0 8 4 + it) % 16, m := fld (d.word 1) 0 8, n := fld (d.word 1) 8 8,
    k := fld (d.word 1) 16 25, a := fld (d.word 2) 0 28 + 256 * ia, b := fld (d.word 2) 32 28 + 256 * ib,
    sa := fld (d.word 3) 0 28 + 16 * ia, sb := fld (d.word 3) 32 28 + (if half then 8 else 16) * ib,
    dscale := BitVec.ofNat 32 (fld (d.word 5) 0 32), srsid := fld (d.word 5) 32 32, idx := m64 (fld (d.word 6) 0 48 + ii.toNat),
    ipitch := fld (d.word 7) 0 32 }

/-- A word whose value is not finite. -/
def notFinite (w : Word) : Bool := (f32 w).isNan || (f32 w).isInf

def one32 : Word := 0x3F800000

/-- The FIELD conditions of R89 to R91. -/
def matField (d : Desc) (f : Mat) : Bool :=
  let w4 := d.word 4
  d.chainRsvd || fld (d.word 0) 16 2 != 0 || fld (d.word 0) 0 8 != 0 ||
  strayBits (d.word 1) [(0, 8), (8, 8), (16, 25)] || strayBits (d.word 2) [(0, 28), (32, 28)] ||
  strayBits (d.word 3) [(0, 28), (32, 28)] || strayBits w4 [(0, 45)] || strayBits (d.word 6) [(0, 51)] ||
  decide (6 < f.fmt) || f.rnd == 3 || decide (5 < f.ofmt) || f.split == 3 ||
  decide (128 < f.m) || decide (128 < f.n) || decide (16777216 < f.k) ||
  (f.fmt == 6 && decide (1 < f.ofmt)) || (f.ofmt == 4 && f.fmt != 4) ||
  notFinite f.dscale || ((f.fmt == 6 || f.ofmt == 4 || f.ofmt == 5) && f.dscale != one32) ||
  (f.half && decide (64 < f.n)) ||
  (f.fmt == 5 && (f.k % 32 != 0 || fld w4 0 16 % 8 != 0 || fld w4 16 16 % 8 != 0)) ||
  (f.ofmt == 5 && (f.td % 4 != 0 || (f.acc && f.tc % 4 != 0))) ||
  d.badLevel (bitAt w4 42) (fld w4 32 2) || d.badLevel (bitAt w4 43) (fld w4 34 2) || d.badLevel (bitAt w4 44) (fld w4 40 2) ||
  d.badLevel (bitAt (d.word 6) 50) (fld (d.word 6) 48 2)

/-- A range of `n` bytes at an offset of a core's store or slice is aligned and inside it. -/
def inSource (near : Bool) (o : Int) (n align : Nat) : Bool :=
  decide (0 ≤ o) && decide (o.toNat % align = 0) && decide (o.toNat + n ≤ (if near then nearSize else storeSize))

def Mat.aLen (f : Mat) : Nat := 256 * f.steps
def Mat.bLen (f : Mat) : Nat := f.bPitch * f.steps
def Mat.saLen (f : Mat) : Nat := 128 * (f.k / 32)
def Mat.sbLen (f : Mat) : Nat := (if f.half then 64 else 128) * (f.k / 32)

/-- The RANGE conditions of R91, for a descriptor that reads panels. -/
def matRange (f : Mat) : Bool :=
  !(inSource f.asrc f.a f.aLen 256 && inSource f.bsrc f.b f.bLen 256 &&
    (f.fmt != 5 || (inSource f.asrc f.sa f.saLen 128 && inSource f.bsrc f.sb f.sbLen 128)))

/-- Validation's verdict (R91, R96, R97). -/
def matCode (d : Desc) (f : Mat) : Nat :=
  if matField d f then 4
  else if f.m = 0 ∨ f.n = 0 ∨ f.k = 0 then 0
  else if matRange f then 5 else 0

/-- Chip address of an offset in the source of core `c`. -/
def srcAddr (near : Bool) (c : Nat) (o : Int) : Nat := if near then nearAddr c o.toNat else storeAddr c o.toNat

/-- Byte ranges a descriptor reads: panels, and scales for FP4. -/
def matSpans (c : Nat) (f : Mat) : List (Nat × Nat) :=
  if f.m = 0 ∨ f.n = 0 ∨ f.k = 0 then []
  else [(srcAddr f.asrc c f.a, f.aLen), (srcAddr f.bsrc c f.b, f.bLen)] ++
    (if f.fmt = 5 then [(srcAddr f.asrc c f.sa, f.saLen), (srcAddr f.bsrc c f.sb, f.sbLen)] else [])

/-- Tiles held: C read, D written (R53). An empty descriptor leaves no trace (R96). -/
def matTiles (f : Mat) : List (Nat × Bool) :=
  if f.m = 0 ∨ f.n = 0 then [] else f.cTiles.map (fun t => (t, false)) ++ f.dTiles.map (fun t => (t, true))

/-- Halves of the array a descriptor uses: left, right (R99). -/
def matUses (f : Mat) (right : Bool) : Bool := f.split == 0 || (f.split == 2) == right

/-- The MA starts no new descriptor from a failed attempt until the retried descriptor completes (R200). -/
def matRetries (k : Core) : Bool := k.ma.run.any fun r => r.vcode == 0 && (decide (0 < r.attempt) || !r.active)

/-- The bank, half and drain rules that a start waits for (R93, R94, R99, R200). -/
def matMayStart (k : Core) (f : Mat) : Bool :=
  let runs := k.ma.run.filter fun r => r.vcode == 0
  let fs := runs.map fun r => matOf r.desc
  let banks := fun right => (fs.filter fun g => matUses g right).length
  !matRetries k && (!matUses f false || decide (banks false < 2)) && (!matUses f true || decide (banks true < 2)) &&
  (f.split != 0 || fs.all fun g => g.split == 0) &&
  !(f.fmt == 6 && f.acc && fs.any fun g => g.dTiles.contains f.tc)

def execMatrix (c : Nat) (s : State) : Out := .next (issue .ma 0x10 7 (fun _ => true) c s)

/-- MATRIX_START: the queue's head starts and is validated (R50, R53, R91 to R95). -/
def execMatrixStart (c : Nat) (s : State) : Out :=
  match ready .ma c s with
  | none => .next s
  | some d =>
    let f := matOf d
    let v := matCode d f
    .next (if matRetries (s.core c) || (v = 0 && !matMayStart (s.core c) f) then s
      else startRun .ma c d v (matTiles f) ((matSpans c f).map fun x => { lo := x.1, len := x.2, wr := false }) s)

/-! ## Computing (R81 to R85) -/

/-- A and B panels and scales as read. -/
structure Panels where
  a : List Byte
  b : List Byte
  sa : List Byte
  sb : List Byte
deriving DecidableEq, Repr

def readPanels (c : Nat) (f : Mat) (s : State) : Panels :=
  if f.k = 0 then { a := [], b := [], sa := [], sb := [] }
  else
    { a := readBytes s (srcAddr f.asrc c f.a) f.aLen, b := readBytes s (srcAddr f.bsrc c f.b) f.bLen,
      sa := if f.fmt = 5 then readBytes s (srcAddr f.asrc c f.sa) f.saLen else [],
      sb := if f.fmt = 5 then readBytes s (srcAddr f.bsrc c f.sb) f.sbLen else [] }

/-- Format of A and of B among the FP8 pairs (R89). -/
def Mat.fa (f : Mat) : Fmt := if f.fmt = 0 ∨ f.fmt = 1 then e4m3 else e5m2
def Mat.fb (f : Mat) : Fmt := if f.fmt = 0 ∨ f.fmt = 2 then e4m3 else e5m2

/-- Codes of element (m, k) of A and (k, n) of B. -/
def aCode (f : Mat) (p : Panels) (m k : Nat) : Nat := panelCode (if f.fmt = 6 then 2 else 1) f.kpc 256 p.a m k
def bCode (f : Mat) (p : Panels) (k n : Nat) : Nat := panelCode (if f.fmt = 6 then 2 else 1) f.kpc f.bPitch p.b n k

/-- E8M0 scales of block `b` for row m of A and column n of B (R79). -/
def aScale (p : Panels) (b m : Nat) : Nat := byteAt p.sa (128 * b + m)
def bScale (f : Mat) (p : Panels) (b n : Nat) : Nat := byteAt p.sb ((if f.half then 64 else 128) * b + n)

/-- Values of A and B as the exact paths use them. -/
def aNum (f : Mat) (p : Panels) (m k : Nat) : Num :=
  if f.fmt = 4 then Num.ofInt (int8 (aCode f p m k)) 0
  else if f.fmt = 6 then bf16.decode (aCode f p m k)
  else if f.fmt = 5 then (match e8m0 (aScale p (k / 32) m) with
    | some x => Num.ofInt (fp4x2 (aCode f p m k)) (x - 1)
    | none => .nan)
  else f.fa.decode (aCode f p m k)
def bNum (f : Mat) (p : Panels) (k n : Nat) : Num :=
  if f.fmt = 4 then Num.ofInt (int8 (bCode f p k n)) 0
  else if f.fmt = 6 then bf16.decode (bCode f p k n)
  else if f.fmt = 5 then (match e8m0 (bScale f p (k / 32) n) with
    | some x => Num.ofInt (fp4x2 (bCode f p k n)) (x - 1)
    | none => .nan)
  else f.fb.decode (bCode f p k n)

/-- An FP8 cell's accumulation over all of K (R81). -/
def fp8Cell (f : Mat) (p : Panels) (m n : Nat) : Cell :=
  (List.range f.k).foldl (fun c k => prodStep c (aNum f p m k) (bNum f p k n)) { bexp := -32 }

/-- An INT8 cell's accumulation (R81). -/
def int8Cell (f : Mat) (p : Panels) (m n : Nat) : Cell :=
  { val := ((List.range f.k).map fun k => int8 (aCode f p m k) * int8 (bCode f p k n)).sum, bexp := 0 }

/-- One block of 32 products of an FP4 cell: the combined exponent, or none for a NaN block, and the sum in quarters. -/
def fp4Block (f : Mat) (p : Panels) (m n b : Nat) : Option Int × Int :=
  let e := match e8m0 (aScale p b m), e8m0 (bScale f p b n) with
    | some x, some y => some (x + y)
    | _, _ => none
  (e, ((List.range 32).map fun i => fp4x2 (aCode f p m (32 * b + i)) * fp4x2 (bCode f p (32 * b + i) n)).sum)

/-- An FP4 cell's accumulation in the 24-binade window (R82). -/
def fp4Cell (f : Mat) (p : Panels) (m n : Nat) : Cell :=
  let c := (List.range (f.k / 32)).foldl (fun (c : Cell) b =>
    let x := fp4Block f p m n b
    match x.1 with
    | none => c.note .nan
    | some e => blockStep 25 c e x.2) {}
  { c with bexp := match c.emax with
      | some e => e - 25
      | none => 0 }

/-- The accumulator of cell (m, n) in an exact format, before any error. -/
def exactCell (f : Mat) (p : Panels) (m n : Nat) : Cell :=
  if f.fmt = 4 then int8Cell f p m n else if f.fmt = 5 then fp4Cell f p m n else fp8Cell f p m n

/-- Sum of an event's errors in cell (row, column). -/
def errAt (errs : List CellErr) (m n : Nat) : Int := ((errs.filter fun e => e.row == m && e.col == n).map (·.delta)).sum

/-- C's word (m, n) and, for LONG, its 128 bits (R85): of a right-half descriptor in column 64 + n, as its output (R99, log 122). -/
def cWord (k : Core) (f : Mat) (m n : Nat) : Word := k.tile f.tc m (f.col0 + n)
def cLong (k : Core) (f : Mat) (m n : Nat) : Nat :=
  ((List.range 4).map fun w => (k.tile ((f.tc + w) % 16) m (f.col0 + n)).toNat <<< (32 * w)).sum

/-- Value of a C word in the output format (R85). -/
def cNum (f : Mat) (w : Word) : Num :=
  match f.ofmt with
  | 0 => fp32.decode w.toNat
  | 1 => bf16.decode (w.toNat % 65536)
  | 2 => e4m3.decode (w.toNat % 256)
  | 3 => e5m2.decode (w.toNat % 256)
  | _ => Num.ofInt (sx 32 w.toNat) 0

/-- Round a value to a non-LONG output format: the tile word and SATURATED (R85). -/
def outRound (ofmt rnd u : Nat) (x : Num) : Nat × Bool :=
  match ofmt with
  | 0 => fp32.round rnd u x
  | 1 => bf16.round rnd u x
  | 2 => e4m3.round rnd u x
  | 3 => e5m2.round rnd u x
  | _ => roundInt 32 true rnd u x

/-- A LONG C joins a cell of fixed weight by alignment, saturating the sum (R154). -/
def joinFixed (x c : Long) : Option Long :=
  if x.domain ≠ c.domain then none
  else if x.special ≠ 0 ∨ c.special ≠ 0 then
    some { val := 0, bexp := x.bexp, special := specialOf (x.num.add c.num), inexact := x.inexact || c.inexact, domain := x.domain }
  else
    let sh := c.bexp - x.bexp
    let v := if 0 ≤ sh then c.val * 2 ^ sh.toNat else asr c.val (-sh).toNat
    let drop := decide (sh < 0) && Machine.lost c.val (-sh).toNat
    let t := x.val + v
    let clip := decide (t < -(2 ^ 95) ∨ 2 ^ 95 ≤ t)
    some { val := if clip then (if 0 < t then 2 ^ 95 - 1 else -(2 ^ 95)) else t, bexp := x.bexp, special := 0,
           inexact := x.inexact || c.inexact || drop || clip, domain := x.domain }

/-- What one output element is: its words, SATURATED, INEXACT, and whether C made it poisoned input (R84, R85, R154). -/
structure Elem where
  words : List Nat
  sat : Bool := false
  inexact : Bool := false
  bad : Bool := false
deriving DecidableEq, Repr

/-- Split 128 bits into four tile words (R85). -/
def words128 (v : Nat) : List Nat := (List.range 4).map fun w => fld v (32 * w) 32

/-- The output of an exact cell (R84, R85, R97). With K = 0 a NaN in C comes out canonical and a LONG C's INEXACT sets no flag (log 122). -/
def exactElem (k : Core) (f : Mat) (u m n : Nat) (c : Cell) : Elem :=
  let dom := if f.fmt = 4 then 2 else 1
  if f.ofmt = 5 then
    if f.acc then
      match Long.ofBits (cLong k f m n) with
      | none => { words := words128 ((c.long dom).bits), bad := true }
      | some cl =>
        if f.k = 0 then { words := words128 (cLong k f m n), bad := cl.domain != dom }
        else
          let x := c.long dom
          match (if f.fmt = 5 then x.combine cl else joinFixed x cl) with
          | none => { words := words128 x.bits, bad := true }
          | some y => { words := words128 y.bits, inexact := y.inexact }
    else { words := words128 ((c.long dom).bits), inexact := c.lost }
  else if f.acc && f.k == 0 then
    let r := outRound f.ofmt f.rnd u (cNum f (cWord k f m n))
    { words := [r.1], sat := r.2 }
  else
    let x := c.num.scaled (f32 f.dscale)
    let v := if f.acc then x.add (cNum f (cWord k f m n)) else x
    let r := outRound f.ofmt f.rnd u v
    { words := [r.1], sat := r.2, inexact := c.lost }

/-- The FP32 chain of a BF16 cell (R83). -/
def bf16Cell (k : Core) (f : Mat) (p : Panels) (m n : Nat) : Word :=
  let start : Word := if f.acc then toF32 (cNum f (cWord k f m n)) else 0
  (List.range f.k).foldl (fun acc i => toF32 ((f32 acc).add ((aNum f p m i).mul (bNum f p i n)))) start

/-- A BF16 cell's output (R84). -/
def bf16Elem (f : Mat) (u : Nat) (acc : Word) : Elem :=
  if f.ofmt = 0 then { words := [acc.toNat] }
  else
    let r := outRound f.ofmt f.rnd u (f32 acc)
    { words := [r.1], sat := r.2 }

/-! ## The check (R177 to R182) -/

/-- Exact sum of values; none when one is special (R177, R181). -/
def sumNum (l : List Num) : Num := l.foldl (fun a x => a.add x) (.fin false 0 0)

/-- The columns that each half-column of the check column serves, as local column numbers: the left half-column, cell 128 of a row,
and the right one, cell 129 (R76, R99, R177). -/
def Mat.halves (f : Mat) : List (Nat × List Nat) :=
  let h := if f.split = 0 then [(128, List.range (min f.n 64)), (129, (List.range (f.n - 64)).map (64 + ·))]
    else [(127 + f.split, List.range f.n)]
  h.filter fun x => !x.2.isEmpty

/-- A check cell of a fixed frame: one exact product of operand sums for each k (R81, R177). -/
def fixedCheck (f : Mat) (terms : List (Num × Num)) : Cell :=
  terms.foldl (fun c t => prodStep c t.1 t.2) { bexp := if f.fmt = 4 then 0 else -32 }

/-- A check cell of the FP4 frame: for each block the exact sum of the cells' products, whose exponent is the largest of them (R82, R177). -/
def floatCheck (blocks : List (List (Option Int × Int))) : Cell :=
  let c := blocks.foldl (fun (c : Cell) xs =>
    let c1 := if xs.any fun x => x.1.isNone then c.note .nan else c
    match xs.filterMap (·.1) with
    | [] => c1
    | e :: r =>
      let q := r.foldl min e
      blockStepAt 25 c1 (r.foldl max e) (q - 2) (xs.map fun x => match x.1 with
        | some y => x.2 * 2 ^ (y - q).toNat
        | none => 0).sum) {}
  { c with bexp := match c.emax with
      | some e => e - 25
      | none => 0 }

/-- A half-column's cell of row m: P(m) = Σ_k A(m,k) × Σ_n B(k,n) over the half's columns (R177). -/
def checkRow (f : Mat) (p : Panels) (m : Nat) (cols : List Nat) : Cell :=
  if f.fmt = 5 then floatCheck ((List.range (f.k / 32)).map fun b => cols.map fun n => fp4Block f p m n b)
  else fixedCheck f ((List.range f.k).map fun k => (aNum f p m k, sumNum (cols.map fun n => bNum f p k n)))

/-- The check row's cell of column n: Q(n) = Σ_k (Σ_m A(m,k)) × B(k,n) (R177). -/
def checkCol (f : Mat) (p : Panels) (n : Nat) : Cell :=
  if f.fmt = 5 then floatCheck ((List.range (f.k / 32)).map fun b => (List.range f.m).map fun m => fp4Block f p m n b)
  else fixedCheck f ((List.range f.k).map fun k => (sumNum ((List.range f.m).map fun m => aNum f p m k), bNum f p k n))

/-- A special value. -/
def isSp (x : Num) : Bool := x.isNan || x.isInf

/-- Difference of two finite values is at most T in magnitude. -/
def within (a b t : Num) : Bool := !(t.lt ((a.add b.neg).abs))

/-- The tolerance of the exact formats (R179): L × ceil(K ÷ 32) × 2^(Emax − 13) for FP4 whose bits were discarded, else 0. Emax is
over the line's cells and their check cell. -/
def exactTol (f : Mat) (lossy : Bool) (cells : List Cell) (chk : Cell) : Num :=
  if lossy && f.fmt == 5 then
    match ((chk :: cells).filterMap (·.emax)) with
    | [] => .fin false 0 0
    | e :: r => .fin false (cells.length * cdiv f.k 32) (r.foldl max e - 13)
  else .fin false 0 0

/-- One comparison of a row half or a column with its check cell (R179, R181). Sums are compared at their exact values (log 121). -/
def compareLine (f : Mat) (lossy : Bool) (cells : List Cell) (chk : Cell) : Bool :=
  let spD := cells.any fun c => c.special.isSome
  if spD || chk.special.isSome then spD && chk.special.isSome
  else within (sumNum (cells.map Cell.num)) chk.num (exactTol f lossy cells chk)

/-- Cells of the output with the attempt's errors in them. -/
def exactGrid (f : Mat) (p : Panels) (errs : List CellErr) : List (List Cell) :=
  (List.range f.m).map fun m => (List.range f.n).map fun n =>
    let c := exactCell f p m n
    { c with val := c.val + errAt errs m n }

/-- The check cells with the attempt's errors in them: of each half, its columns and its cell of every row; of each column, the check
row's cell (R177, R182). -/
structure Checks where
  rows : List (List Nat × List Cell)
  cols : List Cell
deriving DecidableEq, Repr

def checkCells (f : Mat) (p : Panels) (errs : List CellErr) : Checks :=
  let hurt := fun (c : Cell) m n => { c with val := c.val + errAt errs m n }
  { rows := f.halves.map fun h => (h.2, (List.range f.m).map fun m => hurt (checkRow f p m h.2) m h.1),
    cols := (List.range f.n).map fun n => hurt (checkCol f p n) 128 n }

/-- A check cell discarded bits (R179). -/
def Checks.lost (x : Checks) : Bool := (x.rows.any fun h => h.2.any (·.lost)) || x.cols.any (·.lost)

/-- Rows with a half, and columns, whose comparison fails (R177, R179, R181). -/
def exactFails (f : Mat) (lossy : Bool) (g : List (List Cell)) (chk : Checks) : List Nat × List Nat :=
  let at' := fun m n => (g.getD m []).getD n {}
  let rows := (List.range f.m).filter fun m => chk.rows.any fun h =>
    !compareLine f lossy (h.1.map fun n => at' m n) (h.2.getD m {})
  let cols := (List.range f.n).filter fun n =>
    !compareLine f lossy ((List.range f.m).map fun m => at' m n) (chk.cols.getD n {})
  (rows, cols)

/-- T = max(K, 1) × 2^−14 × G + 2^−126 (R180). -/
def bf16Tol (k : Nat) (g : Word) : Num := ((f32 g).mul (.fin false (max k 1) (-14))).add (.fin false 1 (-126))

/-- G's terms are exact products: added with one rounding toward +∞ (R180). -/
def addUpNum (a : Word) (x : Num) : Word :=
  let y := (f32 a).add x
  let z := BitVec.ofNat 32 (fp32.round 1 0 y).1
  if (f32 z).lt y then z + 1 else z

/-- The canonical tree of magnitudes with every addition rounded toward +∞ (R166, R180). -/
def pairsUp : List Word → List Word
  | a :: b :: r => addUp a b :: pairsUp r
  | l => l

def treeUp : Nat → List Word → Word
  | _, [] => 0
  | _, [a] => a
  | 0, a :: _ => a
  | n + 1, l => treeUp n (pairsUp l)

/-- One BF16 comparison (R178, R180, R181): the accumulators of a line, C's words there, the terms of the check cell with their
magnitudes, and the check cell's error. -/
def bf16Line (f : Mat) (cells cs : List Word) (terms : List (Num × Num)) (err : Int) : Bool :=
  let chk := terms.foldl (fun a t => toF32 ((f32 a).add t.1)) (treeSum cs) + BitVec.ofInt 32 err
  let g := terms.foldl (fun a t => addUpNum a t.2) (treeUp 33 (cs.map fun w => w &&& 0x7FFFFFFF))
  let spD := cells.any fun w => isSp (f32 w)
  let spC := isSp (f32 chk)
  if spD || spC then spD && spC else within (f32 (treeSum cells)) (f32 chk) (bf16Tol f.k g)

/-- Rows with a half, and columns, whose BF16 comparison fails (R178, R180, R181). `g` holds the accumulators with errors. -/
def bf16Fails (k : Core) (f : Mat) (p : Panels) (g : List (List Word)) (errs : List CellErr) : List Nat × List Nat :=
  let cAt := fun m n => if f.acc then [toF32 (cNum f (cWord k f m n))] else []
  let at' := fun m n => (g.getD m []).getD n 0
  let rows := (List.range f.m).filter fun m => f.halves.any fun h =>
    let terms := (List.range f.k).map fun i =>
      let bs := h.2.map fun n => bNum f p i n
      ((aNum f p m i).mul (sumNum bs), (aNum f p m i).abs.mul (sumNum (bs.map Num.abs)))
    !bf16Line f (h.2.map fun n => at' m n) (h.2.flatMap fun n => cAt m n) terms (errAt errs m h.1)
  let cols := (List.range f.n).filter fun n =>
    let terms := (List.range f.k).map fun i =>
      let as := (List.range f.m).map fun m => aNum f p m i
      ((sumNum as).mul (bNum f p i n), (sumNum (as.map Num.abs)).mul (bNum f p i n).abs)
    !bf16Line f ((List.range f.m).map fun m => at' m n) ((List.range f.m).flatMap fun m => cAt m n) terms (errAt errs 128 n)
  (rows, cols)

/-! ## Completion -/

/-- What an attempt produced: code, verdict (0 none, 1 exact, 2 tolerance, 3 fail), flags, first failing row and column, words. -/
structure Attempt where
  code : Nat := 0
  verdict : Nat := 0
  inexact : Bool := false
  sat : Bool := false
  row : Nat := 0xFF
  col : Nat := 0xFF
  words : List (Nat × Nat × Nat × Word) := []
deriving DecidableEq, Repr

/-- The elements of a MATRIX attempt with rows and columns. -/
def matElems (s : State) (k : Core) (f : Mat) (p : Panels) (errs : List CellErr) : List (Nat × Nat × Elem) :=
  (List.range f.m).flatMap fun m => (List.range f.n).map fun n =>
    let u := if f.rnd = 2 then srDraw (launchKey s 0) (m64 (f.idx + m * f.ipitch + n)) f.srsid else 0
    if f.fmt = 6 then (m, n, bf16Elem f u (bf16Cell k f p m n + BitVec.ofInt 32 (errAt errs m n)))
    else
      let c := exactCell f p m n
      (m, n, exactElem k f u m n { c with val := c.val + errAt errs m n })

/-- Tile words of the elements (R84, R85, R98). -/
def matWords (f : Mat) (es : List (Nat × Nat × Elem)) : List (Nat × Nat × Nat × Word) :=
  es.flatMap fun e => (List.range e.2.2.words.length).map fun w =>
    ((f.td + w) % 16, e.1, f.col0 + e.2.1, BitVec.ofNat 32 (e.2.2.words.getD w 0))

/-- What the check of an attempt found: the failing rows and columns, and whether a check cell discarded bits. -/
structure Verdict where
  rows : List Nat := []
  cols : List Nat := []
  lost : Bool := false
deriving DecidableEq, Repr

/-- The check of a descriptor with K > 0, when it runs (R87, R205). `lossy`: a cell or a LONG C has discarded bits (R179). -/
def matCheck (s : State) (k : Core) (f : Mat) (p : Panels) (lossy : Bool) (errs : List CellErr) : Verdict :=
  if f.fmt = 6 then
    if odGet s 0x2700 5 = 1 then
      let x := bf16Fails k f p ((List.range f.m).map fun m => (List.range f.n).map fun n =>
        bf16Cell k f p m n + BitVec.ofInt 32 (errAt errs m n)) errs
      { rows := x.1, cols := x.2 }
    else {}
  else
    let chk := checkCells f p errs
    let x := exactFails f (lossy || chk.lost) (exactGrid f p errs) chk
    { rows := x.1, cols := x.2, lost := chk.lost }

/-- The attempt's outcome: `s` as the descriptor reads it, `pin` when an operand read returned poison. Without a K there is no
check (R97). -/
def matAttempt (s : State) (c : Nat) (f : Mat) (pin : Bool) (errs : List CellErr) (convDiff parity : Bool) : Attempt :=
  let k := s.core c
  if parity then { code := 3 }
  else
    let p := readPanels c f s
    let es := matElems s k f p errs
    let lossy := es.any fun e => e.2.2.inexact
    let v := if f.k = 0 then {} else matCheck s k f p lossy errs
    let inexact := lossy || v.lost
    let a : Attempt := { inexact := inexact, sat := es.any fun e => e.2.2.sat, words := matWords f es }
    if pin || f.cTiles.any (fun t => k.tilePois t) || es.any fun e => e.2.2.bad then { a with code := 2 }
    else if convDiff || !v.rows.isEmpty || !v.cols.isEmpty then
      { a with code := 1, verdict := 3, row := v.rows.headD 0xFF,
               col := match v.cols with
                 | [] => 0xFF
                 | n :: _ => f.col0 + n }
    else { a with verdict := if f.k = 0 then 0 else if f.fmt = 6 then (if odGet s 0x2700 5 = 1 then 2 else 0) else if inexact then 2 else 1 }

/-- A descriptor with what its attempt left, and that again as an attempt's outcome. -/
def Run.after (r : Run) (a : Attempt) : Run :=
  { r with code := a.code, verdict := a.verdict, inexact := a.inexact, saturated := a.sat, row := a.row, col := a.col }
def Run.outcome (r : Run) : Attempt := { code := r.code, verdict := r.verdict, inexact := r.inexact, sat := r.saturated, row := r.row, col := r.col }

/-- Poison bits of the destination tiles after an attempt (R100, R194, R196). -/
def settleTiles (ts : List Nat) (code : Nat) (whole : Bool) (k : Core) : Core :=
  if code ≠ 0 then poisonTiles ts k
  else if whole then ts.foldl (fun k t => k.setTilePois t false) k
  else k

/-- `MA_STAT` and `MA_ERRS` at a completion (R102). -/
def maStatus (f : Mat) (a : Attempt) (k : Core) : Core :=
  let seq := (fld (k.reg 0x40) 16 16 + 1) % 65536
  let k1 := k.setReg 0x40 (a.code + 256 * b2n a.inexact + 512 * b2n a.sat + 1024 * a.verdict + 4096 * f.split + 65536 * seq)
  let k2 := if a.code = 1 then k1.bump 0x44 0 16 else k1
  let k3 := if a.inexact then k2.bump 0x44 16 8 else k2
  if a.code = 3 then k3.bump 0x44 24 8 else k3

/-- R199 for a MATRIX descriptor: C does not overlap D, and no later started MATRIX names D as C. -/
def matEligible (k : Core) (f : Mat) : Bool :=
  !(f.cTiles.any fun t => f.dTiles.contains t) &&
  !(k.ma.run.tail.any fun r => r.vcode == 0 && (matOf r.desc).cTiles.any fun t => f.dTiles.contains t)

/-- The end of an attempt of the MA's first running descriptor. -/
def matFinish (c : Nat) (r : Run) (errs : List CellErr) (convDiff parity : Bool) (s : State) : State :=
  let f := matOf r.desc
  let done := fun a (t : State) => t.modCore c (maStatus f a)
  if r.vcode ≠ 0 then done { code := r.vcode } (complete .ma c r r.vcode false s)
  else if f.m = 0 ∨ f.n = 0 then done {} (complete .ma c r 0 false s)
  else
    let rd := touchRead (matSpans c f) s
    let a := matAttempt (raceView r rd.2) c f rd.1 errs convDiff parity
    let s1 := rd.2.modCore c fun k => settleTiles f.dTiles a.code (f.m == 128 && f.n == 128) (writeTiles a.words k)
    let s2 : State := { s1 with free := (raceView r rd.2).free }
    endAttempt .ma c (r.after a) (matEligible (s.core c) f) (done a) s2

/-- MATRIX_COMPLETE: the first running descriptor's attempt ends (R87, R92, R94, R101). -/
def execMatrixComplete (c : Nat) (errs : List CellErr) (convDiff parity : Bool) (s : State) : Out :=
  match headRun .ma c s with
  | some r => .next (if r.phase = .running then matFinish c r errs convDiff parity s else s)
  | none => .next s

/-- IN_PLACE_RETRY (R200). -/
def execInPlaceRetry (c : Nat) (e : Eng) (s : State) : Out := .next (retryInPlace c e s)

end Sys2Proof.Machine
end

