-- ==== Sys2Proof/Machine/Mvp.lean ====
section
/-! DEFINITION. The matrix-vector path: GEMV and LOADX descriptors (R103 to R110), the column-sum check (R184, R185), the X registers'
poison (R109), and the end of proxy attempts (R201). -/

namespace Sys2Proof.Machine

/-- The fields of an MVEC descriptor (R106). -/
structure Mv where
  opc : Nat
  wfmt : Nat
  xfmt : Bool
  rnd : Nat
  bf : Bool
  hbm : Bool
  nv : Nat
  td : Nat
  waddr : Nat
  rows : Nat
  c : Nat
  ldx : Nat
  csaddr : Nat
  dscale : Word
  srsid : Nat
  idx : Nat
  ipitch : Nat
deriving DecidableEq, Repr

def mvOf (d : Desc) : Mv :=
  let w := d.word 0
  { opc := fld w 28 4, wfmt := fld w 26 2, xfmt := bitAt w 25, rnd := fld w 23 2, bf := bitAt w 22, hbm := bitAt w 21, nv := fld w 18 3 + 1,
    td := fld w 12 4, waddr := fld (d.word 1) 0 48, rows := fld (d.word 2) 0 21, c := fld (d.word 2) 32 16, ldx := fld (d.word 3) 0 23,
    csaddr := fld (d.word 4) 0 48, dscale := BitVec.ofNat 32 (fld (d.word 5) 0 32), srsid := fld (d.word 5) 32 32,
    idx := fld (d.word 6) 0 48, ipitch := fld (d.word 7) 0 32 }

/-- Elements of a unit, its bytes, units of a row (R104). -/
def Mv.unitElems (f : Mv) : Nat := if f.wfmt = 2 then 512 else 256
def Mv.unitBytes (f : Mv) : Nat := if f.wfmt = 2 then 272 else 256
def Mv.units (f : Mv) : Nat := cdiv f.c f.unitElems
def Mv.wLen (f : Mv) : Nat := f.rows * f.units * f.unitBytes
def Mv.csLen (f : Mv) : Nat := 16 * f.c

/-- The FIELD conditions of R108: a reserved code, ROWS or C too large, a reserved field or a field the OPC does not use not zero. -/
def mvField (d : Desc) (f : Mv) : Bool :=
  d.chainRsvd || decide (1 < f.opc) || fld (d.word 0) 16 2 != 0 || fld (d.word 0) 0 12 != 0 || decide (2048 < f.rows) ||
  decide (32768 < f.c) || strayBits (d.word 1) [(0, 48)] || strayBits (d.word 2) [(0, 21), (32, 16)] || strayBits (d.word 3) [(0, 23)] ||
  strayBits (d.word 4) [(0, 48)] || strayBits (d.word 6) [(0, 48)] || strayBits (d.word 7) [(0, 32)] ||
  (if f.opc = 0 then f.wfmt == 3 || f.rnd == 3 || f.ldx != 0
   else f.wfmt != 0 || f.xfmt || f.rnd != 0 || f.bf || f.hbm || f.td != 0 || f.rows != 0 || f.csaddr != 0 || d.word 5 != 0 ||
     d.word 6 != 0 || d.word 7 != 0)

/-- `mvp-check` (R185). -/
def mvpCheck (s : State) : Bool := odGet s 0x2700 6 == 1

/-- A GEMV that reads something: it has rows and columns (R110). -/
def Mv.live (f : Mv) : Bool := f.opc == 0 && f.rows != 0 && f.c != 0

/-- The RANGE conditions of R108. -/
def mvRange (s : State) (c : Nat) (f : Mv) : Bool :=
  let hbm := fun a n => hbmSpan s a n && spanReach s (dieOf s c) a n
  if f.opc = 1 then
    !(decide (f.waddr + (f.nv - 1) * f.ldx + f.c ≤ storeSize) && decide (f.ldx ≤ storeSize))
  else if !f.live then false
  else if f.hbm then
    !(f.waddr % 128 == 0 && hbm f.waddr f.wLen && (!mvpCheck s || (f.csaddr % 16 == 0 && hbm f.csaddr f.csLen)))
  else
    !(f.waddr % 16 == 0 && decide (f.waddr + f.wLen ≤ nearSize) &&
      (!mvpCheck s || (f.csaddr % 16 == 0 && decide (f.csaddr + f.csLen ≤ nearSize))))

def mvCode (s : State) (c : Nat) (d : Desc) (f : Mv) : Nat := if mvField d f then 4 else if mvRange s c f then 5 else 0

/-- Chip address of a weight or column-sum address. -/
def Mv.addr (f : Mv) (c a : Nat) : Nat := if f.hbm then a else nearAddr c a

/-- Ranges read. -/
def mvSpans (s : State) (c : Nat) (f : Mv) : List (Nat × Nat) :=
  if f.opc = 1 then (List.range f.nv).map fun v => (storeAddr c (f.waddr + v * f.ldx), f.c)
  else if f.live then (f.addr c f.waddr, f.wLen) :: (if mvpCheck s then [(f.addr c f.csaddr, f.csLen)] else [])
  else []

def mvTiles (f : Mv) : List (Nat × Bool) := if f.opc = 0 ∧ f.rows ≠ 0 then [(f.td, true)] else []

/-- GEMV: the SQ issues an MVEC descriptor of OPC 0, or of a reserved OPC (R106). -/
def execGemv (c : Nat) (s : State) : Out := .next (issue .mvp 0x11 7 (fun w => fld w 28 4 != 1) c s)

/-- LOADX: the SQ issues an MVEC descriptor of OPC 1 (R109). -/
def execLoadx (c : Nat) (s : State) : Out := .next (issue .mvp 0x11 7 (fun w => fld w 28 4 == 1) c s)

/-- GEMV and LOADX never run together (R109). -/
def mvMayStart (k : Core) (f : Mv) : Bool := k.mvp.run.all fun r => r.vcode != 0 || (mvOf r.desc).opc == f.opc

/-- MVEC_START (R108, R109, R110). -/
def execMvecStart (c : Nat) (s : State) : Out :=
  match ready .mvp c s with
  | none => .next s
  | some d =>
    let f := mvOf d
    let v := mvCode s c d f
    .next (if v = 0 && !mvMayStart (s.core c) f then s
      else startRun .mvp c d v (mvTiles f) ((mvSpans s c f).map fun x => { lo := x.1, len := x.2, wr := false }) s)

/-! ## GEMV (R104, R107) -/

/-- Weight (r, col): its code, and the E8M0 scale code of its block for FP4. -/
def wCode (f : Mv) (w : List Byte) (r col : Nat) : Nat :=
  let u := (r * f.units + col / f.unitElems) * f.unitBytes
  if f.wfmt = 2 then nibAt w (2 * (u + 16) + col % 512) else byteAt w (u + col % 256)
def wScale (f : Mv) (w : List Byte) (r b : Nat) : Nat :=
  byteAt w ((r * f.units + b / 16) * f.unitBytes + b % 16)

def Mv.wf8 (f : Mv) : Fmt := if f.wfmt = 0 then e4m3 else e5m2
def Mv.xf8 (f : Mv) : Fmt := if f.xfmt then e5m2 else e4m3

/-- Activation `col` of vector v. -/
def xNum (k : Core) (f : Mv) (v col : Nat) : Num := f.xf8.decode (k.xByte v col).toNat

/-- Activation in units of 2^−16, for a finite code. -/
def xUnits (k : Core) (f : Mv) (v col : Nat) : Int := unitsOfNum (-16) (xNum k f v col)

/-- One block of an FP4 row against one vector, which takes part in full (R104): the exponent, the sum in units of 2^(e − 17), and a special product if any (R107). -/
def mvBlock (k : Core) (f : Mv) (w : List Byte) (v r b : Nat) : Option Int × Int × Option Num :=
  let cols := (List.range 32).map (32 * b + ·)
  match e8m0 (wScale f w r b) with
  | none => (none, 0, some .nan)
  | some e =>
    let sp := cols.filter fun col => isSp (xNum k f v col)
    let spv := sp.foldl (fun (a : Option Num) col =>
      let y := (Num.ofInt (fp4x2 (wCode f w r col)) (-1)).mul (xNum k f v col)
      some (match a with
        | some z => z.add y
        | none => y)) none
    (some e, (cols.map fun col => fp4x2 (wCode f w r col) * xUnits k f v col).sum, spv)

/-- The long accumulator of row r for vector v (R107). -/
def mvCell (k : Core) (f : Mv) (w : List Byte) (v r : Nat) : Cell :=
  if f.wfmt = 2 then
    let c := (List.range (cdiv f.c 32)).foldl (fun (c : Cell) b =>
      let x := mvBlock k f w v r b
      let c1 : Cell := match x.1 with
        -- products are multiples of 2^(e − 17) and bit 0 weighs 2^(emax − 40): the same 23 binades as R82's 2 and 25
        | some e => blockStep 25 c e x.2.1
        | none => c
      match x.2.2 with
      | some z => c1.note z
      | none => c1) {}
    { c with bexp := match c.emax with
        | some e => e - 40
        | none => 0 }
  else (List.range f.c).foldl (fun c col => prodStep c (f.wf8.decode (wCode f w r col)) (xNum k f v col)) { bexp := -32 }

/-- Column sum `col` (R184). -/
def colSum (cs : List Byte) (col : Nat) : Option Long := Long.ofBits (numAt cs (16 * col) 16)

/-- A column sum that is invalid, inexact or not of the products' domain makes the descriptor POISON_IN (R184). -/
def badColSum (f : Mv) (cs : List Byte) : Bool :=
  (List.range f.c).any fun col => match colSum cs col with
    | none => true
    | some l => l.inexact || l.domain != 1

/-- The comparison of vector v (R184); `chkErr` is an error of its check accumulator, in units of 2^−32. -/
def mvCompare (k : Core) (f : Mv) (cs : List Byte) (v : Nat) (chkErr : Int) (cells : List Cell) : Bool :=
  let terms := (List.range f.c).map fun col => match colSum cs col with
    | some l => l.num.mul (xNum k f v col)
    | none => .nan
  let spC := (List.range f.c).any (fun col => match colSum cs col with
    | some l => l.special != 0
    | none => true) || terms.any isSp
  let spD := cells.any fun c => c.special.isSome
  if spC || spD then spC && spD
  else
    let lossy := cells.any (·.lost)
    let tol : Num := if lossy then
        match cells.filterMap (·.emax) with
        | [] => .fin false 0 0
        | e :: r => .fin false (f.rows * cdiv f.c 32) (r.foldl max e - 13)
      else .fin false 0 0
    within (sumNum (cells.map Cell.num)) ((sumNum terms).add (Num.ofInt chkErr (-32))) tol

/-- The outcome of a GEMV attempt. -/
def gemvAttempt (s : State) (c : Nat) (f : Mv) (pin : Bool) (errs : List CellErr) (parity : Bool) : Attempt :=
  let k := s.core c
  if parity then { code := 3 }
  else
    let w := if f.c = 0 then [] else readBytes s (f.addr c f.waddr) f.wLen
    let chk := mvpCheck s && f.c != 0
    let cs := if chk then readBytes s (f.addr c f.csaddr) f.csLen else []
    let grid := (List.range f.nv).map fun v => (List.range f.rows).map fun r =>
      let x := mvCell k f w v r
      { x with val := x.val + errAt errs v r }
    let outs := (List.range f.nv).flatMap fun v => (List.range f.rows).map fun r =>
      let x := (grid.getD v []).getD r {}
      let u := if f.rnd = 2 then srDraw (launchKey s 0) (m64 (f.idx + v * f.ipitch + r)) f.srsid else 0
      let y := if f.c = 0 then Num.fin false 0 0 else x.num.scaled (f32 f.dscale)
      (v, r, (if f.bf then bf16 else fp32).round f.rnd u y)
    let ws := outs.map fun o => (f.td, 16 * o.1 + o.2.1 / 128, o.2.1 % 128, BitVec.ofNat 32 o.2.2.1)
    let lossy := grid.any fun r => r.any (·.lost)
    let sat := outs.any fun o => o.2.2.2
    let xp := (List.range f.nv).any fun v => f.c != 0 && bitAt k.xPoison.toNat v
    if pin || xp || (chk && badColSum f cs) then { code := 2, inexact := lossy, sat := sat, words := ws }
    else
      let bad := if chk then (List.range f.nv).filter fun v => !mvCompare k f cs v (errAt errs v 2048) (grid.getD v []) else []
      if !bad.isEmpty then { code := 1, verdict := 3, inexact := lossy, sat := sat, row := bad.headD 0xFF, words := ws }
      else { code := 0, verdict := if chk then (if lossy then 2 else 1) else 0, inexact := lossy, sat := sat, words := ws }

/-- `MVP_STAT` at a completion (R102). -/
def mvpStatus (a : Attempt) (k : Core) : Core :=
  let seq := (fld (k.reg 0x48) 16 16 + 1) % 65536
  k.setReg 0x48 (a.code + 256 * b2n a.inexact + 512 * b2n a.sat + 1024 * a.verdict + 65536 * seq)

/-- The end of an attempt of a GEMV. -/
def gemvFinish (c : Nat) (r : Run) (errs : List CellErr) (parity : Bool) (s : State) : State :=
  let f := mvOf r.desc
  let done := fun a (t : State) => t.modCore c (mvpStatus a)
  if r.vcode ≠ 0 then done { code := r.vcode } (complete .mvp c r r.vcode false s)
  else if f.rows = 0 then done {} (complete .mvp c r 0 false s)
  else
    let rd := touchRead (mvSpans s c f) s
    let view := raceView r rd.2
    let a := gemvAttempt view c f rd.1 errs parity
    let s1 := rd.2.modCore c fun k =>
      settleTiles [f.td] a.code (f.rows == 2048 && f.nv == 8) (writeTiles a.words k)
    endAttempt .mvp c (r.after a) true (done a) { s1 with free := view.free }

/-- GEMV_COMPLETE (R107, R110, R184). -/
def execGemvComplete (c : Nat) (errs : List CellErr) (parity : Bool) (s : State) : Out :=
  match headRun .mvp c s with
  | some r => .next (if r.phase = .running ∧ (mvOf r.desc).opc ≠ 1 then gemvFinish c r errs parity s else s)
  | none => .next s

/-- Write bytes of an X register. -/
def setX (x : Nat) (bs : List Byte) (k : Core) : Core :=
  { k with xregs := (k.xregs.filter fun e => decide (e.1 < 32768 * x)) ++ cellsOf (32768 * x) bs ++
      (k.xregs.filter fun e => decide (32768 * x + bs.length ≤ e.1)) }

/-- LOADX_COMPLETE: the copy and the X registers' poison bits (R109). -/
def loadxFinish (c : Nat) (r : Run) (s : State) : State :=
  let f := mvOf r.desc
  let done := fun code (t : State) => t.modCore c (mvpStatus { code := code })
  if r.vcode ≠ 0 then done r.vcode (complete .mvp c r r.vcode false s)
  else
    let rd := touchRead (mvSpans s c f) s
    let view := raceView r rd.2
    let code := if rd.1 then 2 else 0
    let bit := fun v => (BitVec.ofNat 8 (2 ^ v) : BitVec 8)
    let s1 := rd.2.modCore c fun k => (List.range f.nv).foldl (fun (k : Core) v =>
      let k1 := setX v (readBytes view (storeAddr c (f.waddr + v * f.ldx)) f.c) k
      if rd.1 then { k1 with xPoison := k1.xPoison ||| bit v }
      else if f.c = 32768 then { k1 with xPoison := k1.xPoison &&& ~~~(bit v) } else k1) k
    done code (complete .mvp c r code false { s1 with free := view.free })

def execLoadxComplete (c : Nat) (s : State) : Out :=
  match headRun .mvp c s with
  | some r => .next (if (mvOf r.desc).opc = 1 then loadxFinish c r s else s)
  | none => .next s

/-- PROXY_RETRY: the MA's or the MVP's failed descriptor (R201). -/
def execProxyRetry (c : Nat) (e : Eng) (s : State) : Out :=
  .next (retryProxy c e (fun r t => t.modCore c fun k => if e = .ma then maStatus (matOf r.desc) r.outcome k else mvpStatus r.outcome k) s)

/-- PROXY_RETRY_COMPLETE: the proxy attempt ends and writes the failing core's destination (R201). -/
def execProxyRetryComplete (c : Nat) (e : Eng) (errs : List CellErr) (convDiff parity : Bool) (s : State) : Out :=
  match headRun e c s with
  | none => .next s
  | some r =>
    .next (match r.phase, e with
      | .proxyRun _, .ma => matFinish c r errs convDiff parity s
      | .proxyRun _, .mvp => gemvFinish c r errs parity s
      | _, _ => s)

end Sys2Proof.Machine
end

