-- ==== Sys2Proof/Machine/Reduce.lean ====
section
/-! DEFINITION. The vector engine's reductions (R128 to R133), compress and expand (R134, R135), scans and recurrences (R136, R137), and
the rows that issue, start and complete VEC descriptors (R121, R138, R139, R141 to R144). -/

namespace Sys2Proof.Machine

/-! ## Reduction states -/

/-- A reduction state: count, the subtree sums or the running value, and whether a reserved word is not 0 (R130). -/
structure RState where
  count : Nat := 0
  ents : List Word := List.replicate 32 0
  bad : Bool := false
deriving DecidableEq, Repr

/-- An RSUM state of FP data keeps 32 subtree sums; the others keep one value (R130). -/
def sumTree (kind dt : Nat) : Bool := kind == 0 && isFP dt

/-- Position of word `w` of state (i, j, h) of an operand (R128). -/
def Vec.statePos (v : Vec) (o : Opnd) (q : Nat × Nat × Nat) (w : Nat) : Nat × Nat :=
  if v.axis = 0 then (o.row + q.1, 128 * o.t + o.col + w) else (o.row + w, 128 * o.t + v.laneCol o q.2.1 q.2.2)

/-- The states of a descriptor as (i, j, h): one per row, or one per lane position and half (R128). -/
def Vec.states (v : Vec) : List (Nat × Nat × Nat) :=
  if v.axis = 0 then (List.range v.nr).map fun i => (i, 0, 0)
  else (List.range v.vl).flatMap fun j => (List.range v.elems).map fun h => (0, j, h)

/-- Read a state. -/
def Vec.readState (v : Vec) (k : Core) (o : Opnd) (kind : Nat) (q : Nat × Nat × Nat) : RState :=
  let ws := (List.range 64).map fun w => k.posWord (v.statePos o q w)
  { count := (ws.getD 0 0).toNat, ents := (ws.drop 1).take 32,
    bad := (ws.drop (if sumTree kind v.dt then 33 else 2)).any fun w => w != 0 }

/-- The words of a state. -/
def RState.words (x : RState) : List Word := BitVec.ofNat 32 x.count :: x.ents ++ List.replicate 31 0

/-- The elements of state (i, j, h) in ascending q, as (i, j, h) (R129). -/
def Vec.stateElems (v : Vec) (q : Nat × Nat × Nat) : List (Nat × Nat × Nat) :=
  if v.axis = 0 then (List.range v.vl).flatMap fun j => (List.range v.elems).map fun h => (q.1, j, h)
  else (List.range v.nr).map fun i => (i, q.2.1, q.2.2)

/-- Value of an element. -/
def Vec.num (v : Vec) (k : Core) (o : Opnd) (e : Nat × Nat × Nat) : Num := veNum v.dt e.2.2 (v.src k o e.1 e.2.1)

/-- The identity of a maximum or a minimum of a type (R132, R136). -/
def extreme (kind dt : Nat) : Num :=
  if isFP dt then .inf (kind == 1)
  else match dt with
    | 4 => if kind = 1 then .fin false 0 0 else .fin false (2 ^ 32 - 1) 0
    | 5 => if kind = 1 then .fin true 128 0 else .fin false 127 0
    | _ => if kind = 1 then .fin true (2 ^ 31) 0 else .fin false (2 ^ 31 - 1) 0

/-- The greater or the smaller of two values. -/
def pick (kind : Nat) (a b : Num) : Num := if kind = 1 then a.max b else a.min b

/-- Integer of a value. -/
def intOfNum (x : Num) : Int := unitsOfNum 0 x

/-- Add one element to a state (R129, R130), and SATURATED. -/
def RState.push (x : RState) (kind dt : Nat) (e : Num) : RState × Bool :=
  if sumTree kind dt then
    let r := treePush x.count x.ents (toF32 e)
    ({ x with count := x.count + 1, ents := r.1 }, r.2)
  else
    let w := x.ents.getD 0 0
    let n : Word :=
      if kind = 0 then w + BitVec.ofInt 32 (intOfNum e)
      else
        let old := if x.count = 0 then extreme kind dt else veNum dt 0 w
        BitVec.ofNat 32 (veRound dt 0 0 (pick kind old e)).1
    ({ x with count := x.count + 1, ents := x.ents.set 0 n }, false)

/-- The kind of an RSUM, RMAX or RMIN descriptor. -/
def Vec.kind (v : Vec) : Nat := if v.isFin then v.cond else v.opc - 0x40

/-- The old states of a reduction: empty when RST holds. -/
def Vec.oldState (v : Vec) (k : Core) (q : Nat × Nat × Nat) : RState := if v.rst then {} else v.readState k v.d v.kind q

/-- The outcome STATE (R133). -/
def Vec.stateErr (v : Vec) (k : Core) : Bool :=
  (v.isRed && v.states.any fun q =>
    let x := v.oldState k q
    x.bad || decide (2 ^ 32 ≤ x.count + (v.stateElems q).length)) ||
  (v.isFin && v.states.any fun q => (v.readState k v.a v.kind q).bad)

/-- Outputs of RSUM, RMAX and RMIN. The count is covered, and an integer sum (R138). -/
def redOuts (k : Core) (v : Vec) : List VOut × Bool :=
  let r := v.states.map fun q =>
    let z := (v.stateElems q).foldl (fun (acc : RState × Bool) e =>
      let y := acc.1.push v.kind v.dt (v.num k v.a e)
      (y.1, acc.2 || y.2)) (v.oldState k q, false)
    let ws := z.1.words
    ((List.range 64).map fun w =>
      ({ i := if v.axis = 0 then q.1 else w, j := if v.axis = 0 then w else v.elems * q.2.1 + q.2.2, pos := v.statePos v.d q w,
         w := ws.getD w 0, cov := w == 0 || (w == 1 && v.kind == 0 && !isFP v.dt) } : VOut), z.2)
  (r.flatMap (·.1), r.any (·.2))

/-- The final value of a state (R132). -/
def RState.final (x : RState) (v : Vec) (u : Nat) : Word × Bool :=
  if sumTree v.kind v.dt then
    let t := treeFinish x.count x.ents
    let z := veRound v.ot v.rnd u (f32 t.1)
    (BitVec.ofNat 32 z.1, t.2 || z.2)
  else if isFP v.dt then
    let z := veRound v.ot v.rnd u (if x.count = 0 then extreme v.kind v.dt else veNum v.dt 0 (x.ents.getD 0 0))
    (BitVec.ofNat 32 z.1, z.2)
  else if x.count = 0 then (if v.kind = 0 then 0 else BitVec.ofInt 32 (intOfNum (extreme v.kind v.dt)), false)
  else (x.ents.getD 0 0, false)

/-- Outputs of RFIN. -/
def finOuts (s : State) (k : Core) (v : Vec) : List VOut × Bool :=
  let r := v.states.map fun q =>
    let z := (v.readState k v.a v.kind q).final v (v.draw s q.1 q.2.1 q.2.2)
    let pos := if v.axis = 0 then (v.d.row + q.1, 128 * v.d.t + v.d.col) else (v.d.row, 128 * v.d.t + v.laneCol v.d q.2.1 q.2.2)
    (({ i := q.1, j := v.elems * q.2.1 + q.2.2, pos := pos, w := z.1, cov := false } : VOut), z.2)
  (r.map (·.1), r.any (·.2))

/-! ## Compress and expand -/

/-- True lane positions of a row. -/
def Vec.trues (v : Vec) (k : Core) (i : Nat) : List Nat := (List.range v.vl).filter fun j => maskTrue v.dt 0 (v.src k v.b i j)

/-- Outputs of CMPR, CMPRI and EXPD: the moved elements, then the counts (R134, R135). -/
def packOuts (k : Core) (v : Vec) : List VOut × Bool :=
  let rows := (List.range v.nr).map fun i => (i, v.count k i, v.trues k i)
  let moved := rows.flatMap fun r => (List.range r.2.2.length).map fun n =>
    let i := r.1
    let j := r.2.2.getD n 0
    let far := fun (o : Opnd) => (o.row + i, 128 * o.t + o.col + r.2.1 + n)
    ({ i := i, j := j, pos := if v.isExpd then v.pos v.d i j else far v.d,
       w := if v.isExpd then heldWord v.dt (k.posWord (far v.a))
            else if v.opc = 0x50 then heldWord v.dt (v.src k v.a i j) else BitVec.ofNat 32 (v.eo + j),
       cov := false } : VOut)
  let counts := rows.map fun r =>
    ({ i := r.1, j := v.vl, pos := (v.c.row + r.1, 128 * v.c.t + v.c.col), w := BitVec.ofNat 32 (r.2.1 + r.2.2.length), cov := true } : VOut)
  (moved ++ counts, false)

/-! ## Scans and recurrences -/

/-- A running scan: the carry word, the outputs as ((i, j, h), code), SATURATED. -/
structure ScanAcc where
  carry : Word
  outs : List ((Nat × Nat × Nat) × Nat) := []
  sat : Bool := false
deriving DecidableEq, Repr

/-- The identity of a scan's carry (R136), +0 for LREC (R137). -/
def Vec.scanId (v : Vec) : Word :=
  if v.opc = 0x62 ∨ v.opc = 0x63 then
    let x := extreme (v.opc - 0x61) v.dt
    if isFP v.dt then toF32 x else BitVec.ofInt 32 (intOfNum x)
  else 0

/-- The carry after one element of a scan, and SATURATED. -/
def Vec.combine (v : Vec) (carry : Word) (x : Num) : Word × Bool :=
  if isFP v.dt then
    if v.opc ≤ 0x61 then addF32s carry (toF32 x) else (toF32 (pick (v.opc - 0x61) (f32 carry) x), false)
  else if v.opc ≤ 0x61 then (carry + BitVec.ofInt 32 (intOfNum x), false)
  else (BitVec.ofInt 32 (intOfNum (pick (v.opc - 0x61) (Num.ofInt (intVal v.dt carry) 0) x)), false)

/-- The code an output writes of a carry (R136). -/
def Vec.scanOut (v : Vec) (u : Nat) (carry : Word) : Nat × Bool :=
  if v.dt = 1 ∨ v.dt = 2 then bf16.round v.rnd u (f32 carry) else (carry.toNat, false)

/-- One element of a scan or recurrence. -/
def scanStep (s : State) (k : Core) (v : Vec) (a : ScanAcc) (e : Nat × Nat × Nat) : ScanAcc :=
  let u := v.draw s e.1 e.2.1 e.2.2
  let x := v.num k v.a e
  if v.isRec then
    let y := (x.mul (f32 a.carry)).add (v.num k v.b e)
    let n := fp32.round (if v.dt = 0 then v.rnd else 0) u y
    let o := v.scanOut u (BitVec.ofNat 32 n.1)
    { carry := BitVec.ofNat 32 n.1, outs := a.outs ++ [(e, o.1)], sat := a.sat || n.2 || o.2 }
  else
    let c0 := if maskTrue v.dt e.2.2 (v.src k v.b e.1 e.2.1) then v.scanId else a.carry
    let n := v.combine c0 x
    let o := v.scanOut u (if v.opc = 0x61 then c0 else n.1)
    { carry := n.1, outs := a.outs ++ [(e, o.1)], sat := a.sat || n.2 || o.2 }

/-- Position of the carry of sequence (i, j, h) (R136). -/
def Vec.carryPos (v : Vec) (q : Nat × Nat × Nat) : Nat × Nat :=
  if v.axis = 0 then (v.c.row + q.1, 128 * v.c.t + v.c.col) else (v.c.row, 128 * v.c.t + v.laneCol v.c q.2.1 q.2.2)

/-- Join the halves of packed outputs. -/
def joinHalves (l : List ((Nat × Nat × Nat) × Nat)) (p : Nat × Nat) : Word :=
  let at' := fun h => ((l.find? fun x => x.1 == (p.1, p.2, h)).map (·.2)).getD 0
  BitVec.ofNat 32 (at' 0 % 65536 + 65536 * (at' 1 % 65536))

/-- Outputs of a scan or recurrence: D, then the carries. -/
def scanOuts (s : State) (k : Core) (v : Vec) : List VOut × Bool :=
  let r := v.states.map fun q =>
    let c0 := if v.rst then v.scanId else k.posWord (v.carryPos q)
    (q, (v.stateElems q).foldl (scanStep s k v) { carry := c0 })
  let all := r.flatMap fun x => x.2.outs
  let cov := v.isScan && isInt v.dt
  let ds : List VOut :=
    if v.dt = 2 then v.grid.map fun p => { i := p.1, j := p.2, pos := v.pos v.d p.1 p.2, w := joinHalves all p, cov := false }
    else all.map fun x =>
      { i := x.1.1, j := x.1.2.1, pos := v.pos v.d x.1.1 x.1.2.1, w := BitVec.ofNat 32 x.2, cov := cov }
  let cs : List VOut := r.map fun x =>
    { i := if v.axis = 0 then x.1.1 else v.nr, j := if v.axis = 0 then v.vl else v.elems * x.1.2.1 + x.1.2.2, pos := v.carryPos x.1,
      w := x.2.carry, cov := cov }
  (ds ++ cs, r.any fun x => x.2.sat)

/-! ## Overlap within a descriptor (R142) -/

/-- Two operands name the same position for every (i, j): D over a source in place. -/
def Vec.inPlace (v : Vec) (o : Opnd) : Bool :=
  decide (o.mode ≤ 1) && v.pos v.d 0 0 == v.pos o 0 0

/-- Regions share a position, by their bounds. -/
def Rect.meets (a b : Rect) : Bool :=
  a.rows != 0 && a.cols != 0 && b.rows != 0 && b.cols != 0 && decide (a.row < b.row + b.rows) && decide (b.row < a.row + a.rows) &&
  decide (128 * a.t + a.col < 128 * b.t + b.col + b.cols) && decide (128 * b.t + b.col < 128 * a.t + a.col + a.cols)

/-- A region of the descriptor meets D's. -/
def Vec.meetsD (v : Vec) (k : Core) (rs : List Rect) : Bool :=
  (if v.isCmpr then v.dynRects k v.d else v.writeRects.take 1).any fun d => rs.any d.meets

/-- The results an element feeds, (i, j) but for a reduction: its state. -/
def Vec.feeds (v : Vec) (i j : Nat) : List (Nat × Nat) :=
  if v.isRed then (if v.axis = 0 then [(i, 0)] else (List.range v.elems).map fun h => (0, v.elems * j + h)) else [(i, j)]

/-- The result an output belongs to. -/
def Vec.outKey (v : Vec) (o : VOut) : Nat × Nat :=
  if v.isRed then (if v.axis = 0 then (o.i, 0) else (0, o.j)) else (o.i, o.j)

/-- Elements of an operand whose region meets D other than in place: the result each feeds, its position. -/
def Vec.sourceOver (v : Vec) (k : Core) (o : Opnd) : List ((Nat × Nat) × (Nat × Nat)) :=
  if o.mode != 5 && (v.isCmpr || v.isRed || !v.inPlace o) && v.meetsD k [o.rect v.eo v.nr v.vl] then
    v.grid.flatMap fun p => (v.feeds p.1 p.2).map fun q => (q, v.pos o p.1 p.2)
  else []

/-- All source elements whose region meets D other than in place. A is a state under RFIN and a packed row under EXPD; the states,
carries and counts that a descriptor rewrites are exempt. -/
def Vec.overlaps (v : Vec) (k : Core) : List ((Nat × Nat) × (Nat × Nat)) :=
  (if v.isFin then
     if v.meetsD k [v.stateRect v.a] then
       v.states.flatMap fun q => (List.range 64).map fun w => ((q.1, v.elems * q.2.1 + q.2.2), v.statePos v.a q w)
     else []
   else if v.isExpd then
     if v.meetsD k (v.dynRects k v.a) then
       (List.range v.nr).flatMap fun i => (List.range (v.trues k i).length).map fun n =>
         ((i, (v.trues k i).getD n 0), (v.a.row + i, 128 * v.a.t + v.a.col + v.count k i + n))
     else []
   else v.sourceOver k v.a) ++
  (if v.usesB then v.sourceOver k v.b else []) ++ (if v.usesC && !v.carries then v.sourceOver k v.c else [])

/-- The written elements whose value R142 leaves unspecified become free words: those whose position another result's source
holds (a reduction's own too: no element of its D is one of its data), and those one of whose sources another result overwrites. -/
def spoil (v : Vec) (k : Core) (outs : List VOut) (s : State) : List VOut × State :=
  let src := v.overlaps k
  if src.isEmpty then (outs, s)
  else
    let hit := fun (o : VOut) =>
      (src.any fun x => x.2 == o.pos && (v.isRed || x.1 != v.outKey o)) ||
      (src.any fun x => x.1 == v.outKey o && outs.any fun y => y.pos == x.2 && v.outKey y != v.outKey o)
    outs.foldl (fun (acc : List VOut × State) o =>
      if hit o then
        let f := nextFreeWord acc.2
        (acc.1 ++ [{ o with w := f.1 }], f.2)
      else (acc.1 ++ [o], acc.2)) ([], s)

/-! ## An attempt -/

/-- It runs in paired-lane mode: by its PAIR bit or by policy (R139). -/
def Vec.paired (s : State) (v : Vec) : Bool := v.pair || odGet s 0x2700 4 == 1

/-- The outputs of a descriptor without physical errors. -/
def vecOuts (s : State) (k : Core) (v : Vec) : List VOut × Bool :=
  if v.isRed then redOuts k v
  else if v.isFin then finOuts s k v
  else if v.isCmpr || v.isExpd then packOuts k v
  else if v.isScan || v.isRec then scanOuts s k v
  else elemOuts s k v

/-- The physical error of a lane result: the sum of the deltas that name its element. -/
def laneErr (errs : List CellErr) (o : VOut) : Int := ((errs.filter fun e => e.row == o.i && e.col == o.j).map (·.delta)).sum

/-- A check sees an error: paired lanes any, a residue one that is no multiple of 3 (R138, R139). -/
def caught (paired : Bool) (errs : List CellErr) (o : VOut) : Bool :=
  let x := laneErr errs o
  decide (x ≠ 0) && (paired || (o.cov && decide (x % 3 ≠ 0)))

/-- The outcome of a VEC attempt, and the state with the free values it used. -/
def vecAttempt (s : State) (c : Nat) (v : Vec) (errs : List CellErr) (parity : Bool) : Attempt × State :=
  let k := s.core c
  if v.stateErr k then ({ code := 6 }, s)
  else if parity then ({ code := 3 }, s)
  else
    let r := vecOuts s k v
    let sp := spoil v k r.1 s
    let bad := sp.1.filter (caught (v.paired s) errs)
    let ws := sp.1.map fun o => (o.pos.2 / 128, o.pos.1, o.pos.2 % 128, o.w + BitVec.ofInt 32 (laneErr errs o))
    let a : Attempt := { sat := r.2, words := ws }
    if (v.reads k).any k.tilePois then ({ a with code := 2 }, sp.2)
    else match bad with
      | o :: _ => ({ a with code := 1, verdict := 3, row := o.i, col := o.j }, sp.2)
      | [] => ({ a with verdict := if v.paired s then 2 else if v.residue then 1 else 0 }, sp.2)

/-- D covers all 128 rows and columns of the tile it writes (R196). -/
def Vec.whole (v : Vec) : Bool :=
  v.nr == 128 && v.vl == 128 && v.d.row == 0 && !v.isRed && !v.isFin && !v.isCmpr && !v.isExpd &&
  (v.d.col + (if v.d.mode = 0 then v.eo else 0)) % 128 == 0

/-- `VE_STAT` and `VE_ERRS` at a completion (R144). -/
def veStatus (paired : Bool) (a : Attempt) (k : Core) : Core :=
  let seq := (fld (k.reg 0x50) 16 16 + 1) % 65536
  let k1 := k.setReg 0x50 (a.code + 256 * b2n a.sat + 1024 * a.verdict + 4096 * b2n paired + 65536 * seq)
  let k2 := if a.code = 1 then k1.bump 0x54 0 16 else k1
  let k3 := if a.code = 6 then k2.bump 0x54 16 8 else k2
  if a.code = 3 then k3.bump 0x54 24 8 else k3

/-- No tile written is also read (R199). -/
def vecEligible (k : Core) (v : Vec) : Bool := (v.reads k).all fun t => !(v.writes k).contains t

/-- The end of an attempt of a VEC descriptor. -/
def vecFinish (c : Nat) (r : Run) (errs : List CellErr) (parity : Bool) (s : State) : State :=
  let v := vecOf r.desc
  let k := s.core c
  if r.vcode ≠ 0 then (complete .ve c r r.vcode false s).modCore c (veStatus false { code := r.vcode })
  else
    let x := vecAttempt s c v errs parity
    let ts := v.writes k
    let wholeTile := (v.d.rect v.eo v.nr v.vl).tiles
    let s1 := x.2.modCore c fun k =>
      let k1 := writeTiles x.1.words k
      if x.1.code = 6 then k1 else settleTiles (if x.1.code = 0 then wholeTile else ts) x.1.code v.whole k1
    endAttempt .ve c (r.after x.1) (vecEligible k v) (fun t => t.modCore c (veStatus (v.paired s) x.1)) s1

/-! ## The rows -/

/-- The SQ issues the VEC descriptor of one operation (R49, R51, R119). -/
def issueVec (opc : Nat) (c : Nat) (s : State) : State := issue .ve 0x12 5 (fun w => fld w 24 8 == opc) c s

/-- A reserved OPC (R123). -/
def vecReserved (opc : Nat) : Bool :=
  !([0x01, 0x02, 0x03, 0x04, 0x05, 0x06, 0x07, 0x08, 0x10, 0x11, 0x18, 0x19, 0x1A, 0x1B, 0x1C, 0x1D, 0x1E, 0x1F, 0x20, 0x21, 0x22, 0x23,
     0x24, 0x30, 0x31, 0x32, 0x33, 0x34, 0x35, 0x36, 0x37, 0x40, 0x41, 0x42, 0x43, 0x50, 0x51, 0x52, 0x60, 0x61, 0x62, 0x63,
     0x64].contains opc)

/-- ADD; a descriptor with a reserved OPC is issued by this row too. -/
def execAdd (c : Nat) (s : State) : Out :=
  .next (issue .ve 0x12 5 (fun w => fld w 24 8 == 0x01 || vecReserved (fld w 24 8)) c s)
/-- SUB -/
def execSub (c : Nat) (s : State) : Out := .next (issueVec 0x02 c s)
/-- MUL -/
def execMul (c : Nat) (s : State) : Out := .next (issueVec 0x03 c s)
/-- FMA -/
def execFma (c : Nat) (s : State) : Out := .next (issueVec 0x04 c s)
/-- MIN -/
def execMin (c : Nat) (s : State) : Out := .next (issueVec 0x05 c s)
/-- MAX -/
def execMax (c : Nat) (s : State) : Out := .next (issueVec 0x06 c s)
/-- ABS -/
def execAbs (c : Nat) (s : State) : Out := .next (issueVec 0x07 c s)
/-- NEG -/
def execNeg (c : Nat) (s : State) : Out := .next (issueVec 0x08 c s)
/-- CMP -/
def execCmp (c : Nat) (s : State) : Out := .next (issueVec 0x10 c s)
/-- SEL -/
def execSel (c : Nat) (s : State) : Out := .next (issueVec 0x11 c s)
/-- AND -/
def execAndOp (c : Nat) (s : State) : Out := .next (issueVec 0x18 c s)
/-- OR -/
def execOrOp (c : Nat) (s : State) : Out := .next (issueVec 0x19 c s)
/-- XOR -/
def execXorOp (c : Nat) (s : State) : Out := .next (issueVec 0x1A c s)
/-- NOT -/
def execNotOp (c : Nat) (s : State) : Out := .next (issueVec 0x1B c s)
/-- SHL -/
def execShl (c : Nat) (s : State) : Out := .next (issueVec 0x1C c s)
/-- SHR -/
def execShr (c : Nat) (s : State) : Out := .next (issueVec 0x1D c s)
/-- SRA -/
def execSra (c : Nat) (s : State) : Out := .next (issueVec 0x1E c s)
/-- POPC -/
def execPopc (c : Nat) (s : State) : Out := .next (issueVec 0x1F c s)
/-- CVT -/
def execCvt (c : Nat) (s : State) : Out := .next (issueVec 0x20 c s)
/-- PACK -/
def execPack (c : Nat) (s : State) : Out := .next (issueVec 0x21 c s)
/-- UNPKL -/
def execUnpkl (c : Nat) (s : State) : Out := .next (issueVec 0x22 c s)
/-- UNPKH -/
def execUnpkh (c : Nat) (s : State) : Out := .next (issueVec 0x23 c s)
/-- MOV -/
def execMov (c : Nat) (s : State) : Out := .next (issueVec 0x24 c s)
/-- EXP -/
def execExp (c : Nat) (s : State) : Out := .next (issueVec 0x30 c s)
/-- LOG -/
def execLog (c : Nat) (s : State) : Out := .next (issueVec 0x31 c s)
/-- RSQRT -/
def execRsqrt (c : Nat) (s : State) : Out := .next (issueVec 0x32 c s)
/-- TANH -/
def execTanh (c : Nat) (s : State) : Out := .next (issueVec 0x33 c s)
/-- SIGM -/
def execSigm (c : Nat) (s : State) : Out := .next (issueVec 0x34 c s)
/-- ERF -/
def execErf (c : Nat) (s : State) : Out := .next (issueVec 0x35 c s)
/-- RCP -/
def execRcp (c : Nat) (s : State) : Out := .next (issueVec 0x36 c s)
/-- SQRT -/
def execSqrt (c : Nat) (s : State) : Out := .next (issueVec 0x37 c s)
/-- RSUM -/
def execRsum (c : Nat) (s : State) : Out := .next (issueVec 0x40 c s)
/-- RMAX -/
def execRmax (c : Nat) (s : State) : Out := .next (issueVec 0x41 c s)
/-- RMIN -/
def execRmin (c : Nat) (s : State) : Out := .next (issueVec 0x42 c s)
/-- RFIN -/
def execRfin (c : Nat) (s : State) : Out := .next (issueVec 0x43 c s)
/-- CMPR -/
def execCmpr (c : Nat) (s : State) : Out := .next (issueVec 0x50 c s)
/-- CMPRI -/
def execCmpri (c : Nat) (s : State) : Out := .next (issueVec 0x51 c s)
/-- EXPD -/
def execExpd (c : Nat) (s : State) : Out := .next (issueVec 0x52 c s)
/-- SCANI -/
def execScani (c : Nat) (s : State) : Out := .next (issueVec 0x60 c s)
/-- SCANX -/
def execScanx (c : Nat) (s : State) : Out := .next (issueVec 0x61 c s)
/-- SMAXI -/
def execSmaxi (c : Nat) (s : State) : Out := .next (issueVec 0x62 c s)
/-- SMINI -/
def execSmini (c : Nat) (s : State) : Out := .next (issueVec 0x63 c s)
/-- LREC -/
def execLrec (c : Nat) (s : State) : Out := .next (issueVec 0x64 c s)

/-- A running VEC descriptor writes a tile that this one reads or writes (R141). -/
def vecHazard (k : Core) (ts : List (Nat × Bool)) : Bool :=
  k.ve.run.any fun r => r.tiles.any fun h => h.2 && ts.any fun t => t.1 == h.1

/-- VEC_START (R113, R117, R118, R121, R141). -/
def execVecStart (c : Nat) (s : State) : Out :=
  match ready .ve c s with
  | none => .next s
  | some d =>
    let v := vecOf d
    let k := s.core c
    let code := vecCode d v
    if code ≠ 0 then .next (startRun .ve c d code [] [] s)
    else
      let ts := v.tiles k
      .next (if vecHazard k ts then s
        else if v.dynRange k then startRun .ve c d 5 [] [] s
        else startRun .ve c d 0 ts [] s)

/-- VEC_COMPLETE: the first running descriptor's attempt ends (R123 to R143). -/
def execVecComplete (c : Nat) (errs : List CellErr) (parity : Bool) (s : State) : Out :=
  match headRun .ve c s with
  | some r => .next (if r.phase = .running then vecFinish c r errs parity s else s)
  | none => .next s

end Sys2Proof.Machine
end

