-- ==== Sys2Proof/Machine/Sgu.lean ====
section
/-! DEFINITION. The sampler and generator unit: RAND (R217 to R220), SAMPLE (R221 to R224), their codes and registers (R225, R226). -/

namespace Sys2Proof.Machine

/-! ## RAND -/

/-- The fields of a RAND descriptor (R217). -/
structure Rnd where
  dist : Nat
  ot : Nat
  ksel : Nat
  rnd : Nat
  td : Nat
  drow : Nat
  nr : Nat
  nc : Nat
  dcol : Nat
  sid : Nat
  idx0 : Nat
  ilv : Nat
  ien : Bool
  ipitch : Nat
  istr : Nat
  p0 : Nat
  p1 : Nat
  draw : Nat
deriving DecidableEq, Repr

def rndOf (d : Desc) : Rnd :=
  let w := d.word 0
  let w1 := d.word 1
  let w2 := d.word 2
  { dist := fld w 28 4, ot := fld w 25 3, ksel := fld w 22 3, rnd := fld w 20 2, td := fld w 16 4, drow := fld w 9 7,
    nr := fld w1 0 7 + 1, nc := fld w1 7 11 + 1, dcol := fld w1 18 11, sid := fld w1 32 32, idx0 := fld w2 0 48, ilv := fld w2 48 2,
    ien := bitAt w2 50, ipitch := fld (d.word 3) 0 32, istr := fld (d.word 3) 32 32, p0 := fld (d.word 4) 0 32, p1 := fld (d.word 4) 32 32,
    draw := fld (d.word 5) 0 32 }

/-- OT is allowed for DIST (R218). -/
def Rnd.otOk (f : Rnd) : Bool :=
  if f.dist ≤ 2 then f.ot == 4
  else if f.dist = 5 then f.ot == 0 || f.ot == 1 || f.ot == 4
  else decide (f.dist ≤ 7) && (f.ot == 0 || f.ot == 1)

/-- An FP32 word is finite. -/
def finite32 (v : Nat) : Bool :=
  match fp32.decode v with
  | .fin _ _ _ => true
  | _ => false

/-- FIELD of R220. -/
def rndField (d : Desc) (f : Rnd) : Bool :=
  d.chainRsvd || fld (d.word 0) 0 9 != 0 || strayBits (d.word 1) [(0, 29), (32, 32)] || strayBits (d.word 2) [(0, 51)] ||
  strayBits (d.word 5) [(0, 32)] || !f.otOk || decide (2 ≤ f.rnd) || d.badLevel f.ien f.ilv ||
  (decide (6 ≤ f.dist) && !(finite32 f.p0 && finite32 f.p1))

/-- RANGE of R220. -/
def rndRange (f : Rnd) : Bool := decide (127 < f.drow + f.nr - 1) || decide (15 < f.td + (f.dcol + f.nc - 1) / 128)

/-- The tiles a RAND writes. -/
def Rnd.tiles (f : Rnd) : List Nat := Rect.tiles ⟨f.td, f.drow, f.nr, f.dcol, f.nc⟩

/-- Logical index of element (i, j) (R217). -/
def Rnd.index (d : Desc) (f : Rnd) (i j : Nat) : Nat := m64 (f.idx0 + (d.adv f.ien f.ilv f.istr).toNat + i * f.ipitch + j)

/-- MU + SIGMA × z: one FMA in FP32, then BF16 under RND (R218). -/
def Rnd.normal (f : Rnd) (z : Word) : Nat × Bool :=
  let y := fp32.round 0 0 (((fp32.decode f.p1).mul (f32 z)).add (fp32.decode f.p0))
  if f.ot = 1 then
    let b := bf16.round f.rnd 0 (fp32.decode y.1)
    (b.1, y.2 || b.2)
  else y

/-- z of NORMAL_TABLE (R219). -/
def tableZ (w0 : Nat) : Word :=
  let k := w0 >>> 24
  toF32 (((f32 (normalSlope k)).mul (Num.ofInt (fld w0 0 24) (-24))).add (f32 (normalBase k)))

/-- The value of an element from its generator words (R218), and SATURATED. -/
def Rnd.value (f : Rnd) (ws : List Nat) : Nat × Bool :=
  let w0 := ws.getD 0 0
  let uni := fun (add : Nat) =>
    if f.ot = 1 then bf16.round 0 0 (Num.ofInt (fld w0 24 8 + add) (-8)) else fp32.round 0 0 (Num.ofInt (fld w0 8 24 + add) (-24))
  match f.dist with
  | 0 => (w0, false)
  | 1 => (fld w0 0 16, false)
  | 2 => (fld w0 0 8, false)
  | 3 => uni 0
  | 4 => uni 1
  | 5 =>
    if f.ot = 4 then (if w0 < f.p0 then 0 else 1, false)
    else if w0 < f.p0 then (0, false)
    else (if f.ot = 1 then bf16 else fp32).round f.rnd 0 (fp32.decode f.p1)
  | 6 => f.normal (normalFree (Config.normalBM (w0 >>> 8) (ws.getD 1 0 >>> 8)) (w0 >>> 8) (ws.getD 1 0 >>> 8))
  | _ => f.normal (tableZ w0)

/-! ## SAMPLE -/

/-- The fields of a SAMPLE descriptor (R221). -/
structure Smp where
  bf : Bool
  near : Bool
  prob : Bool
  ksel : Nat
  k : Nat
  lofs : Nat
  v : Nat
  invt : Nat
  topp : Nat
  step : Nat
  seq : Nat
  oofs : Nat
  draw : Nat
deriving DecidableEq, Repr

/-- With the batch advance applied (R221). -/
def smpOf (d : Desc) : Smp :=
  let w := d.word 0
  let w5 := d.word 5
  let b := (d.adv (bitAt w5 34) (fld w5 32 2) 1).toNat
  { bf := bitAt w 31, near := bitAt w 30, prob := bitAt w 29, ksel := fld w 26 3, k := fld w 16 10 + 1,
    lofs := fld (d.word 1) 0 28 + 128 * fld w5 35 29 * b, v := fld (d.word 1) 32 21, invt := fld (d.word 2) 0 32,
    topp := fld (d.word 2) 32 32, step := d.word 3, seq := m32 (fld (d.word 4) 0 32 + b), oofs := fld (d.word 4) 32 23 + 16 * b,
    draw := fld w5 0 32 }

/-- FIELD of R224. -/
def smpField (d : Desc) (f : Smp) : Bool :=
  let t := fp32.decode f.topp
  d.chainRsvd || fld (d.word 0) 0 16 != 0 || strayBits (d.word 1) [(0, 28), (32, 21)] || strayBits (d.word 4) [(0, 32), (32, 23)] ||
  f.v == 0 || decide (1048576 < f.v) || !(finite32 f.invt) || !(Num.fin false 0 0).lt (fp32.decode f.invt) ||
  !(Num.fin false 0 0).lt t || (Num.fin false 1 0).lt t || d.badLevel (bitAt (d.word 5) 34) (fld (d.word 5) 32 2)

/-- Bytes of a logit, and of all. -/
def Smp.bytes (f : Smp) : Nat := if f.bf then 2 else 4
def Smp.lbase (f : Smp) (c : Nat) : Nat := if f.near then nearAddr c f.lofs else storeAddr c f.lofs

/-- RANGE of R224. -/
def smpRange (f : Smp) : Bool :=
  !(f.lofs % 128 == 0 && decide (f.lofs + f.v * f.bytes ≤ (if f.near then nearSize else storeSize)) && f.oofs % 16 == 0 &&
    decide (f.oofs + 16 ≤ storeSize))

/-- s_v of every token (R222 step 1). -/
def Smp.scores (f : Smp) (bs : List Byte) : List Word :=
  (List.range f.v).map fun i =>
    let n := numAt bs (f.bytes * i) f.bytes
    toF32 ((if f.bf then bf16.decode n else fp32.decode n).mul (fp32.decode f.invt))

/-- Keep the `k` largest in descending order, ties by rising id: one more candidate, of a higher id than all before (R222 step 2). -/
def topInsert (k : Nat) (l : List (Word × Nat)) (x : Word × Nat) : List (Word × Nat) :=
  let go := l.takeWhile fun y => !(f32 y.1).lt (f32 x.1)
  (go ++ x :: l.drop go.length).take k

def topK (k : Nat) (ss : List Word) : List (Word × Nat) :=
  ss.zipIdx.foldl (topInsert k) []

/-- exp to the accuracy of R127's EXP row: its edges, a free function between them. -/
def smpExp (w : Word) : Word :=
  let x := f32 w
  if x.isNan then nan32 else if x.ltDec (-10397208) 5 then 0 else nearFree 2 (Config.sguExp w) (transExact 0x30 x)

/-- What a SAMPLE finds: the code, token, probability, kept count. A record's fields that an ended draw leaves open are none. -/
structure Pick where
  code : Nat
  token : Nat := 0xFFFFFFFF
  prob : Option Word := none
  n : Option Nat := none
deriving DecidableEq, Repr

/-- The 24-bit draw (R222 step 5). -/
def Smp.u (s : State) (f : Smp) : Nat := ((wcg (launchKey s f.ksel) f.step f.seq f.draw).getD 0 0) >>> 8

/-- R222. -/
def samplePick (s : State) (f : Smp) (bs : List Byte) : Pick :=
  let ss := f.scores bs
  if ss.any fun w => (f32 w).isNan || f32 w == .inf false then { code := 7 }
  else
    let top := topK (min f.k f.v) ss
    let m := (top.headD (0, 0)).1
    if f32 m == .inf true then { code := 8 }
    else
      let es := top.map fun x => if f32 x.1 == .inf true then (0 : Word) else smpExp (toF32 ((f32 x.1).add (f32 m).neg))
      let cs := (List.range es.length).map fun j => treeSum (es.take (j + 1))
      let z := cs.getLastD 0
      let lim := f32 (toF32 ((fp32.decode f.topp).mul (f32 z)))
      let n := match cs.findIdx? fun w => !(f32 w).lt lim with
        | some i => i + 1
        | none => cs.length
      let cn := cs.getD (n - 1) 0
      let r := f32 (toF32 ((Num.ofInt (f.u s) (-24)).mul (f32 cn)))
      let j := match (cs.take n).findIdx? fun w => r.lt (f32 w) with
        | some i => i
        | none => n - 1
      { code := 0, token := (top.getD j (0, 0)).2, prob := some (toF32 ((f32 (es.getD j 0)).divPos (f32 cn))), n := some n }

/-- The 16-byte record (R223); a field that R223 leaves open after BAD_LOGIT or NO_CANDIDATE is a free value. -/
def sampleRecord (s : State) (f : Smp) (p : Pick) : List Byte × State :=
  let fw := nextFreeWord s
  let s1 := if p.prob.isNone || p.n.isNone then fw.2 else s
  let prob := if f.prob then (p.prob.getD fw.1).toNat else 0
  let n := match p.n with
    | some x => x
    | none => (Config.freeWord (s.free + 1)).toNat % 65536
  let s2 : State := if p.n.isNone then { s1 with free := s.free + 2 } else s1
  (leBytes 4 p.token ++ leBytes 4 prob ++ leBytes 2 n ++ leBytes 2 (min f.k f.v) ++ leBytes 4 (f.u s), s2)

/-! ## Completion -/

/-- `SGU_STAT` and `SGU_ERRS` at a completion (R226). -/
def sguStatus (kind code : Nat) (sat : Bool) (k : Core) : Core :=
  let seq := (fld (k.reg 0x60) 16 16 + 1) % 65536
  let k1 := k.setReg 0x60 (code + 256 * b2n sat + 512 * kind + 65536 * seq)
  let k2 := if code = 7 ∨ code = 8 then k1.bump 0x64 0 16 else k1
  if code = 3 then k2.bump 0x64 16 8 else k2

/-- A descriptor of this operation code, 0x15 SAMPLE or 0x16 RAND. -/
def Desc.op (d : Desc) : Nat := fld (d.word 0) 56 8

/-- Tiles that a rectangle covers whole. -/
def Rect.fullTiles (r : Rect) : List Nat :=
  if r.row = 0 ∧ r.rows = 128 then r.tiles.filter fun t => decide (r.col ≤ 128 * (t - r.t)) && decide (128 * (t - r.t) + 128 ≤ r.col + r.cols)
  else []

/-- The end of a RAND (R220, R225). -/
def randFinish (c : Nat) (r : Run) (parity : Bool) (s : State) : State :=
  let f := rndOf r.desc
  let done := fun code sat (t : State) => (complete .sgu c r code false t).modCore c (sguStatus 0 code sat)
  if r.vcode ≠ 0 then done r.vcode false s
  else if parity then done 3 false (s.modCore c (poisonTiles f.tiles))
  else
    let outs := (List.range f.nr).flatMap fun i => (List.range f.nc).map fun j =>
      let x := f.value (wcg (launchKey s f.ksel) (f.index r.desc i j) f.sid f.draw)
      ((f.td + (f.dcol + j) / 128, f.drow + i, (f.dcol + j) % 128, BitVec.ofNat 32 x.1), x.2)
    let whole := Rect.fullTiles ⟨f.td, f.drow, f.nr, f.dcol, f.nc⟩
    done 0 (outs.any (·.2)) (s.modCore c fun k => settleTiles whole 0 true (writeTiles (outs.map (·.1)) k))

/-- The end of a SAMPLE (R222 to R225, R227). -/
def sampleFinish (c : Nat) (r : Run) (parity : Bool) (s : State) : State :=
  let f := smpOf r.desc
  let done := fun code (t : State) =>
    let t1 := odInc 0x2830 1 8 1 ((complete .sgu c r code false t).modCore c (sguStatus 1 code false))
    if code = 7 then odInc 0x2830 2 4 1 t1 else if code = 8 then odInc 0x2830 3 4 1 t1 else t1
  let rec0 := storeAddr c f.oofs
  if r.vcode ≠ 0 then done r.vcode s
  else if parity then done 3 (setPoison (rec0 / 128) s)
  else
    let rd := touchRead [(f.lbase c, f.v * f.bytes)] s
    let view := raceView r rd.2
    let p := samplePick view f (readBytes view (f.lbase c) (f.v * f.bytes))
    let o := sampleRecord { rd.2 with free := view.free } f p
    done (if rd.1 then 2 else p.code) (storePieces [(rec0, o.1)] rd.1 o.2)

/-! ## The rows -/

/-- RAND: the SQ issues a RAND descriptor (R49, R217). -/
def execRand (c : Nat) (s : State) : Out := .next (issue .sgu 0x16 5 (fun _ => true) c s)

/-- SAMPLE: the SQ issues a SAMPLE descriptor (R49, R221). -/
def execSample (c : Nat) (s : State) : Out := .next (issue .sgu 0x15 5 (fun _ => true) c s)

/-- SGU_START: the head of the SGU queue starts once the one before it has completed (R220, R224). -/
def execSguStart (c : Nat) (s : State) : Out :=
  match ready .sgu c s with
  | none => .next s
  | some d =>
    .next (if !(s.core c).sgu.run.isEmpty then s
      else if d.op = 0x16 then
        let f := rndOf d
        startRun .sgu c d (if rndField d f then 4 else if rndRange f then 5 else 0) (f.tiles.map (·, true)) [] s
      else
        let f := smpOf d
        startRun .sgu c d (if smpField d f then 4 else if smpRange f then 5 else 0) []
          [{ lo := f.lbase c, len := f.v * f.bytes, wr := false }, { lo := storeAddr c f.oofs, len := 16, wr := true }] s)

/-- RAND_COMPLETE (R220, R225). -/
def execRandComplete (c : Nat) (parity : Bool) (s : State) : Out :=
  match headRun .sgu c s with
  | some r => .next (if r.desc.op = 0x16 then randFinish c r parity s else s)
  | none => .next s

/-- SAMPLE_COMPLETE (R222 to R225). -/
def execSampleComplete (c : Nat) (parity : Bool) (s : State) : Out :=
  match headRun .sgu c s with
  | some r => .next (if r.desc.op = 0x15 then sampleFinish c r parity s else s)
  | none => .next s

end Sys2Proof.Machine
end

