-- ==== Sys2Proof/Machine/Tap.lean ====
section
/-! DEFINITION. Test access: the TAP's instructions, the boundary register, die selection, and the test multiplexer's levels (R496 to R502). -/

namespace Sys2Proof.Machine

/-! ## Instructions (R496) -/

/-- Instructions that only test mode allows. -/
def testOnly (op : Nat) : Bool := [0x00, 0x03, 0x04, 0x10, 0x11].contains op

/-- The opcode table; every other value is BYPASS. -/
def knownOp (op : Nat) : Bool := testOnly op || op == 0x01 || op == 0x02

/-- The TAP takes an instruction: EXTEST and CLAMP drive the lands from the cells. -/
def tapTake (op : Nat) (s : State) : State := { s with test := { s.test with instr := op, driven := op == 0x00 || op == 0x03 } }

/-- An instruction that is not allowed acts as BYPASS and is counted. -/
def tapDenied (s : State) : State := odInc 0x2D00 2 4 1 (tapTake 0xFF s)

/-- Load an instruction; where it is allowed, `f` follows. -/
def tapLoad (op : Nat) (f : State → State) (s : State) : State :=
  if testOnly op && !s.test.mode then tapDenied s else f (tapTake op s)

/-- The boundary register of 15 cells is loaded (R497). -/
def loadCells (v : Nat) (s : State) : State := { s with test := { s.test with cells := v % 2 ^ 15 } }

def execExtest (cells : Nat) (s : State) : Out := .next (tapLoad 0x00 (loadCells cells) s)
def execSamplePreload (cells : Nat) (s : State) : Out := .next (tapLoad 0x01 (loadCells cells) s)
def execIdcode (s : State) : Out := .next (tapLoad 0x02 id s)
def execClampInstruction (s : State) : Out := .next (tapLoad 0x03 id s)
def execHighz (s : State) : Out := .next (tapLoad 0x04 id s)

/-- BYPASS: 0xFF, a value that names no instruction, or one that is not allowed now. -/
def execBypass (opcode : Nat) (s : State) : Out :=
  .next (if testOnly opcode && !s.test.mode then tapDenied s else if knownOp opcode then s else tapTake 0xFF s)

/-! ## Dies and instruments (R499) -/

/-- Selecting an XD stops the forwarding plane as a forwarding-plane reset does; deselecting it restarts the plane. -/
def selectDie (sel : Nat) (s : State) : State :=
  let was := xdSelected s
  let s1 : State := { s with test := { s.test with dieSel := sel, ijtagOpen := false } }
  let now := xdSelected s1
  if now && !was then stopForwarding 2 true { s1 with startup := { s1.startup with fpSteps := [] } }
  else if was && !now then { s1 with startup := { s1.startup with fpSteps := [10] } }
  else s1

/-- DIE_SELECT: a 9-bit one-hot register, or none. -/
def execDieSelect (sel : Nat) (s : State) : Out := .next (tapLoad 0x10 (selectDie sel) s)

/-- IJTAG: the selected die's network opens. -/
def execIjtag (s : State) : Out :=
  .next (tapLoad 0x11 (fun t => { t with test := { t.test with ijtagOpen := t.test.dieSel != 0 } }) s)

/-- TAP_RESET: IDCODE is selected, and no die. -/
def execTapReset (s : State) : Out := .next (tapTake 0x02 (selectDie 0 s))

/-! ## Lands (R497, R498) and the test multiplexer (R501, R502) -/

/-- VSTBY is good; without it every land floats (R492). -/
def landsLive (s : State) : Bool := bitAt s.power.rails.toNat 8

/-- THERMTRIP_N and ALERT_N stand low. A trip drives its land whatever the cells and HIGHZ say; ALERT_N follows the cells, or floats. -/
def thermtripLow (s : State) : Bool := landsLive s && (s.power.thermtripN || (s.test.driven && bitAt s.test.cells 3))
def alertLow (s : State) : Bool := landsLive s && ((s.power.alertN && !s.test.driven && s.test.instr != 0x04) || (s.test.driven && bitAt s.test.cells 5))

/-- `TMUX_SEL[n]`. -/
def tmuxSel (s : State) (n : Nat) : Nat := dieWord s 8 (0x100 + 4 * n)

/-- Rails that feed a die. -/
def dieRails (d : Nat) : List Nat := if d < 4 then [0, 1, 2, 3, 4] else if d < 8 then [5, 6, 7] else [8]

/-- An engine of a core of die `d` has a descriptor ready to start that θ holds (R424). -/
def startHeld (s : State) (d : Nat) : Bool :=
  (List.range (coreCount s)).any fun c => dieOf s c == d && allEngs.any fun e =>
    let g := (s.core c).eng e
    decide (g.credit < 0) && match g.queue with
      | [] => false
      | x :: _ => x.wev.isNone || g.go

/-- Frequency in Hz of the clock that pin n gives, for a code that selects one (R502). -/
def tmuxHz (s : State) (n : Nat) : Option Nat :=
  let w := tmuxSel s n
  let d := fld w 8 4
  let on := match fld w 0 8 with
    | 0x01 => decide (d < 9)
    | 0x02 => decide (d < 8)
    | 0x03 => decide (d < 4)
    | 0x04 => decide (d < 9)
    | 0x05 => decide (d < 9)
    | _ => false
  if on then some (50000000 / 2 ^ fld w 12 4) else none

/-- The level of pin n for a code that selects a level; none for clocks and pulses. -/
def tmuxLevel (s : State) (n : Nat) : Option Bool :=
  let w := tmuxSel s n
  let d := fld w 8 4
  let level : Option Bool := match fld w 0 8 with
    | 0x01 => none
    | 0x02 => if d < 8 then none else some false
    | 0x03 => if d < 4 then none else some false
    | 0x04 => none
    | 0x05 => none
    | 0x06 => some (decide (d < 9) && (s.dies.getD d { strap := 0 }).pllLocked && !s.startup.refLost)
    | 0x07 => some (decide (d < 9) && railsGood s (dieRails d))
    | 0x08 => some (decide (d < 9) && (s.dies.getD d { strap := 0 }).ok)
    | 0x10 => some (decide (d < 4) && startHeld s d)
    | 0x11 => if d < 4 then none else some false
    | 0x12 => if d < 8 then none else some false
    | 0x13 => some (d == 8 && s.power.clamp)
    | 0x14 => some (d == 8 && (s.power.tripped || s.power.tripping))
    | 0x15 => some (d == 8 && !s.power.pinLow)
    | 0x20 => if 4 ≤ d ∧ d < 8 then none else some false
    | 0x21 => if 4 ≤ d ∧ d < 8 then some ((s.port (8 * (d - 4) + fld w 12 3)).safety == 1) else some false
    | 0x22 => if 4 ≤ d ∧ d < 8 then none else some false
    | 0x23 =>
      let p := 8 * (d - 4) + fld w 12 3
      some (decide (4 ≤ d) && decide (d < 8) && litPort (s.port p) && framesBy (txActive (s.port p)) s.now / 8 % 2 == 1)
    | 0x30 => if d = 0 then none else some false
    | 0x31 => if d = 0 then none else some false
    | _ => some false
  level.map fun b => b != bitAt w 16

end Sys2Proof.Machine
end

