-- ==== Sys2Proof/Machine/Dispatch.lean ====
section
/-! DEFINITION. The dispatch table: one arm per row of the opcode table. -/

namespace Sys2Proof.Machine

def exec (i : Instr) (s : State) : Host.Outcome State Fault Refusal :=
  match i with
  | .loop c => Sys2Proof.Machine.execLoop c s
  | .endloop c => Sys2Proof.Machine.execEndloop c s
  | .setvl c => Sys2Proof.Machine.execSetvl c s
  | .wait c => Sys2Proof.Machine.execWait c s
  | .waitRelease c => Sys2Proof.Machine.execWaitRelease c s
  | .waitTimeout c => Sys2Proof.Machine.execWaitTimeout c s
  | .signal c => Sys2Proof.Machine.execSignal c s
  | .brst c => Sys2Proof.Machine.execBrst c s
  | .yieldOp c => Sys2Proof.Machine.execYieldOp c s
  | .fence c => Sys2Proof.Machine.execFence c s
  | .fenceComplete c => Sys2Proof.Machine.execFenceComplete c s
  | .fenceTimeout c => Sys2Proof.Machine.execFenceTimeout c s
  | .tallyClear c => Sys2Proof.Machine.execTallyClear c s
  | .tallyStore c => Sys2Proof.Machine.execTallyStore c s
  | .tallyCompare c => Sys2Proof.Machine.execTallyCompare c s
  | .tallyLoad c => Sys2Proof.Machine.execTallyLoad c s
  | .halt c => Sys2Proof.Machine.execHalt c s
  | .illegalOp c => Sys2Proof.Machine.execIllegalOp c s
  | .launchPeerStop => Sys2Proof.Machine.execLaunchPeerStop s
  | .matrix c => Sys2Proof.Machine.execMatrix c s
  | .matrixStart c => Sys2Proof.Machine.execMatrixStart c s
  | .matrixComplete c errs convDiff parity => Sys2Proof.Machine.execMatrixComplete c errs convDiff parity s
  | .inPlaceRetry c e => Sys2Proof.Machine.execInPlaceRetry c e s
  | .proxyRetry c e => Sys2Proof.Machine.execProxyRetry c e s
  | .proxyRetryComplete c e errs convDiff parity => Sys2Proof.Machine.execProxyRetryComplete c e errs convDiff parity s
  | .gemv c => Sys2Proof.Machine.execGemv c s
  | .loadx c => Sys2Proof.Machine.execLoadx c s
  | .mvecStart c => Sys2Proof.Machine.execMvecStart c s
  | .gemvComplete c errs parity => Sys2Proof.Machine.execGemvComplete c errs parity s
  | .loadxComplete c => Sys2Proof.Machine.execLoadxComplete c s
  | .add c => Sys2Proof.Machine.execAdd c s
  | .sub c => Sys2Proof.Machine.execSub c s
  | .mul c => Sys2Proof.Machine.execMul c s
  | .fma c => Sys2Proof.Machine.execFma c s
  | .min c => Sys2Proof.Machine.execMin c s
  | .max c => Sys2Proof.Machine.execMax c s
  | .abs c => Sys2Proof.Machine.execAbs c s
  | .neg c => Sys2Proof.Machine.execNeg c s
  | .cmp c => Sys2Proof.Machine.execCmp c s
  | .sel c => Sys2Proof.Machine.execSel c s
  | .andOp c => Sys2Proof.Machine.execAndOp c s
  | .orOp c => Sys2Proof.Machine.execOrOp c s
  | .xorOp c => Sys2Proof.Machine.execXorOp c s
  | .notOp c => Sys2Proof.Machine.execNotOp c s
  | .shl c => Sys2Proof.Machine.execShl c s
  | .shr c => Sys2Proof.Machine.execShr c s
  | .sra c => Sys2Proof.Machine.execSra c s
  | .popc c => Sys2Proof.Machine.execPopc c s
  | .cvt c => Sys2Proof.Machine.execCvt c s
  | .pack c => Sys2Proof.Machine.execPack c s
  | .unpkl c => Sys2Proof.Machine.execUnpkl c s
  | .unpkh c => Sys2Proof.Machine.execUnpkh c s
  | .mov c => Sys2Proof.Machine.execMov c s
  | .exp c => Sys2Proof.Machine.execExp c s
  | .log c => Sys2Proof.Machine.execLog c s
  | .rsqrt c => Sys2Proof.Machine.execRsqrt c s
  | .tanh c => Sys2Proof.Machine.execTanh c s
  | .sigm c => Sys2Proof.Machine.execSigm c s
  | .erf c => Sys2Proof.Machine.execErf c s
  | .rcp c => Sys2Proof.Machine.execRcp c s
  | .sqrt c => Sys2Proof.Machine.execSqrt c s
  | .rsum c => Sys2Proof.Machine.execRsum c s
  | .rmax c => Sys2Proof.Machine.execRmax c s
  | .rmin c => Sys2Proof.Machine.execRmin c s
  | .rfin c => Sys2Proof.Machine.execRfin c s
  | .cmpr c => Sys2Proof.Machine.execCmpr c s
  | .cmpri c => Sys2Proof.Machine.execCmpri c s
  | .expd c => Sys2Proof.Machine.execExpd c s
  | .scani c => Sys2Proof.Machine.execScani c s
  | .scanx c => Sys2Proof.Machine.execScanx c s
  | .smaxi c => Sys2Proof.Machine.execSmaxi c s
  | .smini c => Sys2Proof.Machine.execSmini c s
  | .lrec c => Sys2Proof.Machine.execLrec c s
  | .vecStart c => Sys2Proof.Machine.execVecStart c s
  | .vecComplete c errs parity => Sys2Proof.Machine.execVecComplete c errs parity s
  | .rand c => Sys2Proof.Machine.execRand c s
  | .sample c => Sys2Proof.Machine.execSample c s
  | .sguStart c => Sys2Proof.Machine.execSguStart c s
  | .randComplete c parity => Sys2Proof.Machine.execRandComplete c parity s
  | .sampleComplete c parity => Sys2Proof.Machine.execSampleComplete c parity s
  | .copy c => Sys2Proof.Machine.execCopy c s
  | .gather c => Sys2Proof.Machine.execGather c s
  | .scatter c => Sys2Proof.Machine.execScatter c s
  | .panel c => Sys2Proof.Machine.execPanel c s
  | .rread c => Sys2Proof.Machine.execRread c s
  | .rwrite c => Sys2Proof.Machine.execRwrite c s
  | .rwriteAck c => Sys2Proof.Machine.execRwriteAck c s
  | .moveStart c => Sys2Proof.Machine.execMoveStart c s
  | .moveComplete c parity => Sys2Proof.Machine.execMoveComplete c parity s
  | .allreduce c => Sys2Proof.Machine.execAllreduce c s
  | .reduceScatter c => Sys2Proof.Machine.execReduceScatter c s
  | .allgather c => Sys2Proof.Machine.execAllgather c s
  | .broadcast c => Sys2Proof.Machine.execBroadcast c s
  | .a2a c => Sys2Proof.Machine.execA2a c s
  | .a2av c => Sys2Proof.Machine.execA2av c s
  | .dispatch c => Sys2Proof.Machine.execDispatch c s
  | .barrier c => Sys2Proof.Machine.execBarrier c s
  | .collStart c => Sys2Proof.Machine.execCollStart c s
  | .collComplete c g bucket => Sys2Proof.Machine.execCollComplete c g bucket s
  | .chipEventAdd => Sys2Proof.Machine.execChipEventAdd s
  | .chipEventVisible => Sys2Proof.Machine.execChipEventVisible s
  | .launch m data => Sys2Proof.Machine.execLaunch m data s
  | .launchDequeue => Sys2Proof.Machine.execLaunchDequeue s
  | .startBroadcast => Sys2Proof.Machine.execStartBroadcast s
  | .streamFetchStart => Sys2Proof.Machine.execStreamFetchStart s
  | .streamFetchComplete c => Sys2Proof.Machine.execStreamFetchComplete c s
  | .launchEnd => Sys2Proof.Machine.execLaunchEnd s
  | .resumeFrom m data => Sys2Proof.Machine.execResumeFrom m data s
  | .suspend m h => Sys2Proof.Machine.execSuspend m h s
  | .corePark c => Sys2Proof.Machine.execCorePark c s
  | .suspendRecordsWritten => Sys2Proof.Machine.execSuspendRecordsWritten s
  | .resume m h => Sys2Proof.Machine.execResume m h s
  | .cancel m h => Sys2Proof.Machine.execCancel m h s
  | .release m h => Sys2Proof.Machine.execRelease m h s
  | .handleLingerExpiry h => Sys2Proof.Machine.execHandleLingerExpiry h s
  | .fwUpdate m data => Sys2Proof.Machine.execFwUpdate m data s
  | .fwUpdateVerified => Sys2Proof.Machine.execFwUpdateVerified s
  | .fwUpdateCommitted => Sys2Proof.Machine.execFwUpdateCommitted s
  | .quote m data => Sys2Proof.Machine.execQuote m data s
  | .quoteComplete h => Sys2Proof.Machine.execQuoteComplete h s
  | .aliasCertReady produced => Sys2Proof.Machine.execAliasCertReady produced s
  | .scrub m data => Sys2Proof.Machine.execScrub m data s
  | .scrubComplete h => Sys2Proof.Machine.execScrubComplete h s
  | .marginHbmTiming m data => Sys2Proof.Machine.execMarginHbmTiming m data s
  | .marginHbmVddq m data => Sys2Proof.Machine.execMarginHbmVddq m data s
  | .marginNearBond m data => Sys2Proof.Machine.execMarginNearBond m data s
  | .marginD2dEye m data => Sys2Proof.Machine.execMarginD2dEye m data s
  | .marginComplete h results => Sys2Proof.Machine.execMarginComplete h results s
  | .selfTest m data => Sys2Proof.Machine.execSelfTest m data s
  | .selfTestSiteDone h site found => Sys2Proof.Machine.execSelfTestSiteDone h site found s
  | .calibrate m data => Sys2Proof.Machine.execCalibrate m data s
  | .calibrationComplete h => Sys2Proof.Machine.execCalibrationComplete h s
  | .shadow m data => Sys2Proof.Machine.execShadow m data s
  | .shadowStep h => Sys2Proof.Machine.execShadowStep h s
  | .shadowTableReceive h step table => Sys2Proof.Machine.execShadowTableReceive h step table s
  | .shadowResendTimer h => Sys2Proof.Machine.execShadowResendTimer h s
  | .shadowStepLimit h => Sys2Proof.Machine.execShadowStepLimit h s
  | .tripRelease m data => Sys2Proof.Machine.execTripRelease m data s
  | .cautiousAck m data => Sys2Proof.Machine.execCautiousAck m data s
  | .chipWarmReset m arg => Sys2Proof.Machine.execChipWarmReset m arg s
  | .chipWarmResetFwdKept m arg => Sys2Proof.Machine.execChipWarmResetFwdKept m arg s
  | .computePlaneReset m arg => Sys2Proof.Machine.execComputePlaneReset m arg s
  | .forwardingPlaneReset m arg => Sys2Proof.Machine.execForwardingPlaneReset m arg s
  | .coreReset m arg => Sys2Proof.Machine.execCoreReset m arg s
  | .managementReset m arg => Sys2Proof.Machine.execManagementReset m arg s
  | .mdWatchdogExpiry => Sys2Proof.Machine.execMdWatchdogExpiry s
  | .powerOn => Sys2Proof.Machine.execPowerOn s
  | .resetNAssert => Sys2Proof.Machine.execResetNAssert s
  | .resetNRelease => Sys2Proof.Machine.execResetNRelease s
  | .alRequestInit ack => Sys2Proof.Machine.execAlRequestInit ack s
  | .alRequestPreop ack => Sys2Proof.Machine.execAlRequestPreop ack s
  | .alRequestSafeop ack => Sys2Proof.Machine.execAlRequestSafeop ack s
  | .alRequestOp ack => Sys2Proof.Machine.execAlRequestOp ack s
  | .alRequestBootstrap ack => Sys2Proof.Machine.execAlRequestBootstrap ack s
  | .txpdoSample => Sys2Proof.Machine.execTxpdoSample s
  | .sdoRequest m write complete index sub data => Sys2Proof.Machine.execSdoRequest m write complete index sub data s
  | .counterClear m index sub data => Sys2Proof.Machine.execCounterClear m index sub data s
  | .storedSettingWriteThrough => Sys2Proof.Machine.execStoredSettingWriteThrough s
  | .emcyCoalescedReport => Sys2Proof.Machine.execEmcyCoalescedReport s
  | .foeWrite name password data => Sys2Proof.Machine.execFoeWrite name password data s
  | .recoveryVerifyDone => Sys2Proof.Machine.execRecoveryVerifyDone s
  | .openSlice msg => Sys2Proof.Machine.execOpenSlice msg s
  | .openReassemblyTimeout addr port => Sys2Proof.Machine.execOpenReassemblyTimeout addr port s
  | .sessionRead msg => Sys2Proof.Machine.execSessionRead msg s
  | .sessionWrite msg => Sys2Proof.Machine.execSessionWrite msg s
  | .keepalive msg => Sys2Proof.Machine.execKeepalive msg s
  | .closeSession msg => Sys2Proof.Machine.execCloseSession msg s
  | .sessionIdleExpiry n => Sys2Proof.Machine.execSessionIdleExpiry n s
  | .windowEntryWrite m data => Sys2Proof.Machine.execWindowEntryWrite m data s
  | .windowRevoke m data => Sys2Proof.Machine.execWindowRevoke m data s
  | .groupCreate m g => Sys2Proof.Machine.execGroupCreate m g s
  | .groupDelete m g => Sys2Proof.Machine.execGroupDelete m g s
  | .groupClearFault m g => Sys2Proof.Machine.execGroupClearFault m g s
  | .formTimer => Sys2Proof.Machine.execFormTimer s
  | .form fromE pkt => Sys2Proof.Machine.execForm fromE pkt s
  | .membershipWrite m data => Sys2Proof.Machine.execMembershipWrite m data s
  | .jobTagWrite m data => Sys2Proof.Machine.execJobTagWrite m data s
  | .keySlotWrite m slot data => Sys2Proof.Machine.execKeySlotWrite m slot data s
  | .hbmRegionsWrite m region data => Sys2Proof.Machine.execHbmRegionsWrite m region data s
  | .checkPolicyWrite m sub data => Sys2Proof.Machine.execCheckPolicyWrite m sub data s
  | .controllerKeyWrite m slot data => Sys2Proof.Machine.execControllerKeyWrite m slot data s
  | .refusedByClear m data => Sys2Proof.Machine.execRefusedByClear m data s
  | .enterBrumate m => Sys2Proof.Machine.execEnterBrumate m s
  | .leaveBrumate m => Sys2Proof.Machine.execLeaveBrumate m s
  | .wakeComplete => Sys2Proof.Machine.execWakeComplete s
  | .baskEntry => Sys2Proof.Machine.execBaskEntry s
  | .testModeEnter m data => Sys2Proof.Machine.execTestModeEnter m data s
  | .loopbackPortsWrite m data => Sys2Proof.Machine.execLoopbackPortsWrite m data s
  | .eLoopbackWrite m data => Sys2Proof.Machine.execELoopbackWrite m data s
  | .w1cWrite m addr val => Sys2Proof.Machine.execW1cWrite m addr val s
  | .registerWrite m addr val => Sys2Proof.Machine.execRegisterWrite m addr val s
  | .packetReceive p pkt trailer fecBad => Sys2Proof.Machine.execPacketReceive p pkt trailer fecBad s
  | .reorderTimeout sdev sep cls => Sys2Proof.Machine.execReorderTimeout sdev sep cls s
  | .linkStateNotice pkt => Sys2Proof.Machine.execLinkStateNotice pkt s
  | .nullWord p cw => Sys2Proof.Machine.execNullWord p cw s
  | .credit p cw cls level total => Sys2Proof.Machine.execCredit p cw cls level total s
  | .ident0 p cw domain coord ack => Sys2Proof.Machine.execIdent0 p cw domain coord ack s
  | .ident1 p cw shape port => Sys2Proof.Machine.execIdent1 p cw shape port s
  | .cal p cw lane corrected power own => Sys2Proof.Machine.execCal p cw lane corrected power own s
  | .txmon p cw lane stage reading own => Sys2Proof.Machine.execTxmon p cw lane stage reading own s
  | .swap p cw lane spare phase => Sys2Proof.Machine.execSwap p cw lane spare phase s
  | .dropWord p cw lane phase => Sys2Proof.Machine.execDropWord p cw lane phase s
  | .echo p cw time reply turnaround now => Sys2Proof.Machine.execEcho p cw time reply turnaround now s
  | .heartbeat p cw beat kind label compute leaving epoch => Sys2Proof.Machine.execHeartbeat p cw beat kind label compute leaving epoch s
  | .heartbeatSend => Sys2Proof.Machine.execHeartbeatSend s
  | .croakInterval => Sys2Proof.Machine.execCroakInterval s
  | .aggregationWindowEnd kind label => Sys2Proof.Machine.execAggregationWindowEnd kind label s
  | .disagreeLimit code device => Sys2Proof.Machine.execDisagreeLimit code device s
  | .read xd pkt => Sys2Proof.Machine.execRead xd pkt s
  | .write xd pkt => Sys2Proof.Machine.execWrite xd pkt s
  | .writeAck xd pkt => Sys2Proof.Machine.execWriteAck xd pkt s
  | .targetAccessComplete xd entry => Sys2Proof.Machine.execTargetAccessComplete xd entry s
  | .readRsp pkt => Sys2Proof.Machine.execReadRsp pkt s
  | .wackRsp pkt => Sys2Proof.Machine.execWackRsp pkt s
  | .refuseBackoffExpiry c slot => Sys2Proof.Machine.execRefuseBackoffExpiry c slot s
  | .remoteTimeout c slot => Sys2Proof.Machine.execRemoteTimeout c slot s
  | .grantIssue g bucket peer level phase first count => Sys2Proof.Machine.execGrantIssue g bucket peer level phase first count s
  | .grant pkt => Sys2Proof.Machine.execGrant pkt s
  | .data pkt => Sys2Proof.Machine.execData pkt s
  | .abort pkt => Sys2Proof.Machine.execAbort pkt s
  | .token pkt => Sys2Proof.Machine.execToken pkt s
  | .xack pkt => Sys2Proof.Machine.execXack pkt s
  | .xackTimer g peer => Sys2Proof.Machine.execXackTimer g peer s
  | .xdomRtoExpiry g peer seq => Sys2Proof.Machine.execXdomRtoExpiry g peer seq s
  | .latecomerTimeout g rank => Sys2Proof.Machine.execLatecomerTimeout g rank s
  | .eDatagramReceive n d => Sys2Proof.Machine.execEDatagramReceive n d s
  | .ptpMessage n msg => Sys2Proof.Machine.execPtpMessage n msg s
  | .calendarSet time => Sys2Proof.Machine.execCalendarSet time s
  | .linkBringupStepDone p ok => Sys2Proof.Machine.execLinkBringupStepDone p ok s
  | .fecLinkDown p => Sys2Proof.Machine.execFecLinkDown p s
  | .losDeclared p => Sys2Proof.Machine.execLosDeclared p s
  | .probeTimer p => Sys2Proof.Machine.execProbeTimer p s
  | .lightDetected p => Sys2Proof.Machine.execLightDetected p s
  | .ringLockLost p receive lane => Sys2Proof.Machine.execRingLockLost p receive lane s
  | .ringRelockTimeout p receive lane => Sys2Proof.Machine.execRingRelockTimeout p receive lane s
  | .fadeWarn p laser output => Sys2Proof.Machine.execFadeWarn p laser output s
  | .fadeAct p laser output => Sys2Proof.Machine.execFadeAct p laser output s
  | .fadeRecover p laser => Sys2Proof.Machine.execFadeRecover p laser s
  | .spareLocked p spare => Sys2Proof.Machine.execSpareLocked p spare s
  | .spareLockTimeout p spare => Sys2Proof.Machine.execSpareLockTimeout p spare s
  | .swapProposeRetry p => Sys2Proof.Machine.execSwapProposeRetry p s
  | .swapSwitchover p => Sys2Proof.Machine.execSwapSwitchover p s
  | .eLaserReplace n lane => Sys2Proof.Machine.execELaserReplace n lane s
  | .railGood r => Sys2Proof.Machine.execRailGood r s
  | .railLost r => Sys2Proof.Machine.execRailLost r s
  | .railAbsentTimeout r => Sys2Proof.Machine.execRailAbsentTimeout r s
  | .refclockLost => Sys2Proof.Machine.execRefclockLost s
  | .pllLockLost die => Sys2Proof.Machine.execPllLockLost die s
  | .d2dCrcReplay link rev group => Sys2Proof.Machine.execD2dCrcReplay link rev group s
  | .powerSample watts => Sys2Proof.Machine.execPowerSample watts s
  | .capLoopEval => Sys2Proof.Machine.execCapLoopEval s
  | .slewInterval busy => Sys2Proof.Machine.execSlewInterval busy s
  | .limiterCheck rise excused => Sys2Proof.Machine.execLimiterCheck rise excused s
  | .pwrcapNAssert => Sys2Proof.Machine.execPwrcapNAssert s
  | .pinCeilingLapse => Sys2Proof.Machine.execPinCeilingLapse s
  | .pwrcapNRelease => Sys2Proof.Machine.execPwrcapNRelease s
  | .sensorSample ix temp time => Sys2Proof.Machine.execSensorSample ix temp time s
  | .clampEnd => Sys2Proof.Machine.execClampEnd s
  | .warnClear ix => Sys2Proof.Machine.execWarnClear ix s
  | .sampleRateLower ix => Sys2Proof.Machine.execSampleRateLower ix s
  | .tripPowerDown => Sys2Proof.Machine.execTripPowerDown s
  | .refreshBlock stack => Sys2Proof.Machine.execRefreshBlock stack s
  | .patrolScrubRead line => Sys2Proof.Machine.execPatrolScrubRead line s
  | .samplerTrackStep stack channel lane up => Sys2Proof.Machine.execSamplerTrackStep stack channel lane up s
  | .lifetimeWriteThrough => Sys2Proof.Machine.execLifetimeWriteThrough s
  | .extest cells => Sys2Proof.Machine.execExtest cells s
  | .samplePreload cells => Sys2Proof.Machine.execSamplePreload cells s
  | .idcode => Sys2Proof.Machine.execIdcode s
  | .clampInstruction => Sys2Proof.Machine.execClampInstruction s
  | .highz => Sys2Proof.Machine.execHighz s
  | .dieSelect sel => Sys2Proof.Machine.execDieSelect sel s
  | .ijtag => Sys2Proof.Machine.execIjtag s
  | .bypass opcode => Sys2Proof.Machine.execBypass opcode s
  | .tapReset => Sys2Proof.Machine.execTapReset s
  | .startUpStepDone r => Sys2Proof.Machine.execStartUpStepDone r s
  | .referenceClockReturn => Sys2Proof.Machine.execReferenceClockReturn s
  | .badControlWord p type => Sys2Proof.Machine.execBadControlWord p type s
  | .ePortDown n lane => Sys2Proof.Machine.execEPortDown n lane s
  | .ePortUp n => Sys2Proof.Machine.execEPortUp n s
  | .eFrameReceive n f => Sys2Proof.Machine.execEFrameReceive n f s
  | .biasTrendSample => Sys2Proof.Machine.execBiasTrendSample s
  | .operationSuspendObeyed h => Sys2Proof.Machine.execOperationSuspendObeyed h s
  | .operationCancelObeyed h => Sys2Proof.Machine.execOperationCancelObeyed h s

end Sys2Proof.Machine
end

