-- ==== Sys2Proof/Safety.lean ====
section
/-! DEFINITION. The terms the claims use: a sound state (memory in its canonical form, and the numbers of cores, fibre ports,
handles and group records that the part has: R1, R5, R228, R326, R411), the word that a core's sequencer executes, the rows that issue
an engine descriptor, a descriptor that has started, the tally of a set of elements. -/

namespace Sys2Proof.Machine

/-- The canonical form of memory: addresses strictly rising, and no entry equal to what its address reads when unlisted. -/
def memWf (wild : List (Nat × Nat × Nat)) : List Host.Cell → Bool
  | [] => true
  | (a, b) :: r => decide (b ≠ blankByte wild a) && above a r && memWf wild r

/-- Memory is in its canonical form. -/
def Memory.wf (s : State) : Bool := memWf s.wild s.mem

/-- 160 logical cores, 32 fibre ports, 64 handles, 16 group records. -/
def State.shaped (s : State) : Bool :=
  decide (s.cores.length = 160) && decide (s.ports.length = 32) && decide (s.handles.length = 64) && decide (s.groups.length = 16)

/-- The invariant of the block. -/
def State.Inv (s : State) : Prop := Memory.wf s = true ∧ s.shaped = true

/-- The SQ of core `c` executes word `w` of operation `op` with `xw` extension doubles: it runs, and the word and its extension lie in
the stream (R46, R47, R67). -/
def Executes (s : State) (c op xw w : Nat) : Prop :=
  (s.core c).mode = .running ∧ (s.core c).pc + xw < (s.core c).streamLen ∧ streamWord s c (s.core c).pc = w ∧
  fld w 56 8 = op ∧ fld w 52 4 = xw

/-- Outside OP, XW and the named fields (low bit, width), the word's bits are 0, as R47 demands. -/
def ReservedZero (w : Nat) (fields : List (Nat × Nat)) : Prop := strayBits w (fields ++ wordHead) = false

/-- A row that issues engine descriptors (R47, R49): its core, the engine, OP and XW of its words, and the place and value of the code
that tells it from the other rows of that OP (width 0 where it is the only one). -/
structure IssueRow where
  core : Nat
  eng : Eng
  op : Nat
  xw : Nat
  lo : Nat
  width : Nat
  code : Nat
deriving DecidableEq, Repr

/-- The rows that issue an engine descriptor, with their codes (R47, R106, R109, R123, R249, R341). -/
def issueRow : Instr → Option IssueRow
  | .matrix c => some { core := c, eng := .ma, op := 0x10, xw := 7, lo := 0, width := 0, code := 0x00 }
  | .gemv c => some { core := c, eng := .mvp, op := 0x11, xw := 7, lo := 28, width := 4, code := 0x00 }
  | .loadx c => some { core := c, eng := .mvp, op := 0x11, xw := 7, lo := 28, width := 4, code := 0x01 }
  | .add c => some { core := c, eng := .ve, op := 0x12, xw := 5, lo := 24, width := 8, code := 0x01 }
  | .sub c => some { core := c, eng := .ve, op := 0x12, xw := 5, lo := 24, width := 8, code := 0x02 }
  | .mul c => some { core := c, eng := .ve, op := 0x12, xw := 5, lo := 24, width := 8, code := 0x03 }
  | .fma c => some { core := c, eng := .ve, op := 0x12, xw := 5, lo := 24, width := 8, code := 0x04 }
  | .min c => some { core := c, eng := .ve, op := 0x12, xw := 5, lo := 24, width := 8, code := 0x05 }
  | .max c => some { core := c, eng := .ve, op := 0x12, xw := 5, lo := 24, width := 8, code := 0x06 }
  | .abs c => some { core := c, eng := .ve, op := 0x12, xw := 5, lo := 24, width := 8, code := 0x07 }
  | .neg c => some { core := c, eng := .ve, op := 0x12, xw := 5, lo := 24, width := 8, code := 0x08 }
  | .cmp c => some { core := c, eng := .ve, op := 0x12, xw := 5, lo := 24, width := 8, code := 0x10 }
  | .sel c => some { core := c, eng := .ve, op := 0x12, xw := 5, lo := 24, width := 8, code := 0x11 }
  | .andOp c => some { core := c, eng := .ve, op := 0x12, xw := 5, lo := 24, width := 8, code := 0x18 }
  | .orOp c => some { core := c, eng := .ve, op := 0x12, xw := 5, lo := 24, width := 8, code := 0x19 }
  | .xorOp c => some { core := c, eng := .ve, op := 0x12, xw := 5, lo := 24, width := 8, code := 0x1A }
  | .notOp c => some { core := c, eng := .ve, op := 0x12, xw := 5, lo := 24, width := 8, code := 0x1B }
  | .shl c => some { core := c, eng := .ve, op := 0x12, xw := 5, lo := 24, width := 8, code := 0x1C }
  | .shr c => some { core := c, eng := .ve, op := 0x12, xw := 5, lo := 24, width := 8, code := 0x1D }
  | .sra c => some { core := c, eng := .ve, op := 0x12, xw := 5, lo := 24, width := 8, code := 0x1E }
  | .popc c => some { core := c, eng := .ve, op := 0x12, xw := 5, lo := 24, width := 8, code := 0x1F }
  | .cvt c => some { core := c, eng := .ve, op := 0x12, xw := 5, lo := 24, width := 8, code := 0x20 }
  | .pack c => some { core := c, eng := .ve, op := 0x12, xw := 5, lo := 24, width := 8, code := 0x21 }
  | .unpkl c => some { core := c, eng := .ve, op := 0x12, xw := 5, lo := 24, width := 8, code := 0x22 }
  | .unpkh c => some { core := c, eng := .ve, op := 0x12, xw := 5, lo := 24, width := 8, code := 0x23 }
  | .mov c => some { core := c, eng := .ve, op := 0x12, xw := 5, lo := 24, width := 8, code := 0x24 }
  | .exp c => some { core := c, eng := .ve, op := 0x12, xw := 5, lo := 24, width := 8, code := 0x30 }
  | .log c => some { core := c, eng := .ve, op := 0x12, xw := 5, lo := 24, width := 8, code := 0x31 }
  | .rsqrt c => some { core := c, eng := .ve, op := 0x12, xw := 5, lo := 24, width := 8, code := 0x32 }
  | .tanh c => some { core := c, eng := .ve, op := 0x12, xw := 5, lo := 24, width := 8, code := 0x33 }
  | .sigm c => some { core := c, eng := .ve, op := 0x12, xw := 5, lo := 24, width := 8, code := 0x34 }
  | .erf c => some { core := c, eng := .ve, op := 0x12, xw := 5, lo := 24, width := 8, code := 0x35 }
  | .rcp c => some { core := c, eng := .ve, op := 0x12, xw := 5, lo := 24, width := 8, code := 0x36 }
  | .sqrt c => some { core := c, eng := .ve, op := 0x12, xw := 5, lo := 24, width := 8, code := 0x37 }
  | .rsum c => some { core := c, eng := .ve, op := 0x12, xw := 5, lo := 24, width := 8, code := 0x40 }
  | .rmax c => some { core := c, eng := .ve, op := 0x12, xw := 5, lo := 24, width := 8, code := 0x41 }
  | .rmin c => some { core := c, eng := .ve, op := 0x12, xw := 5, lo := 24, width := 8, code := 0x42 }
  | .rfin c => some { core := c, eng := .ve, op := 0x12, xw := 5, lo := 24, width := 8, code := 0x43 }
  | .cmpr c => some { core := c, eng := .ve, op := 0x12, xw := 5, lo := 24, width := 8, code := 0x50 }
  | .cmpri c => some { core := c, eng := .ve, op := 0x12, xw := 5, lo := 24, width := 8, code := 0x51 }
  | .expd c => some { core := c, eng := .ve, op := 0x12, xw := 5, lo := 24, width := 8, code := 0x52 }
  | .scani c => some { core := c, eng := .ve, op := 0x12, xw := 5, lo := 24, width := 8, code := 0x60 }
  | .scanx c => some { core := c, eng := .ve, op := 0x12, xw := 5, lo := 24, width := 8, code := 0x61 }
  | .smaxi c => some { core := c, eng := .ve, op := 0x12, xw := 5, lo := 24, width := 8, code := 0x62 }
  | .smini c => some { core := c, eng := .ve, op := 0x12, xw := 5, lo := 24, width := 8, code := 0x63 }
  | .lrec c => some { core := c, eng := .ve, op := 0x12, xw := 5, lo := 24, width := 8, code := 0x64 }
  | .rand c => some { core := c, eng := .sgu, op := 0x16, xw := 5, lo := 0, width := 0, code := 0x00 }
  | .sample c => some { core := c, eng := .sgu, op := 0x15, xw := 5, lo := 0, width := 0, code := 0x00 }
  | .copy c => some { core := c, eng := .dm, op := 0x13, xw := 14, lo := 28, width := 4, code := 0x00 }
  | .gather c => some { core := c, eng := .dm, op := 0x13, xw := 14, lo := 28, width := 4, code := 0x01 }
  | .scatter c => some { core := c, eng := .dm, op := 0x13, xw := 14, lo := 28, width := 4, code := 0x02 }
  | .panel c => some { core := c, eng := .dm, op := 0x13, xw := 14, lo := 28, width := 4, code := 0x03 }
  | .rread c => some { core := c, eng := .dm, op := 0x13, xw := 14, lo := 28, width := 4, code := 0x04 }
  | .rwrite c => some { core := c, eng := .dm, op := 0x13, xw := 14, lo := 28, width := 4, code := 0x05 }
  | .rwriteAck c => some { core := c, eng := .dm, op := 0x13, xw := 14, lo := 28, width := 4, code := 0x06 }
  | .allreduce c => some { core := c, eng := .coll, op := 0x14, xw := 8, lo := 28, width := 4, code := 0x00 }
  | .reduceScatter c => some { core := c, eng := .coll, op := 0x14, xw := 8, lo := 28, width := 4, code := 0x01 }
  | .allgather c => some { core := c, eng := .coll, op := 0x14, xw := 8, lo := 28, width := 4, code := 0x02 }
  | .broadcast c => some { core := c, eng := .coll, op := 0x14, xw := 8, lo := 28, width := 4, code := 0x03 }
  | .a2a c => some { core := c, eng := .coll, op := 0x14, xw := 8, lo := 28, width := 4, code := 0x04 }
  | .a2av c => some { core := c, eng := .coll, op := 0x14, xw := 8, lo := 28, width := 4, code := 0x05 }
  | .dispatch c => some { core := c, eng := .coll, op := 0x14, xw := 8, lo := 28, width := 4, code := 0x06 }
  | .barrier c => some { core := c, eng := .coll, op := 0x14, xw := 8, lo := 28, width := 4, code := 0x07 }
  | _ => none

/-- The state in which the head `d` of queue `e` of core `c` has started: it has left the queue, WCLR has cleared its event, it holds its
tiles, and it and the running descriptors have noted the bytes they race for (R48, R50, R52, R53). -/
def started (e : Eng) (c : Nat) (d : Desc) (tiles : List (Nat × Bool)) (spans : List Span) (s : State) : State :=
  (noteRaces spans (s.modCore c (takeHead e))).modCore c fun k => k.setEng e { k.eng e with run := (k.eng e).run ++
    [{ desc := d, vcode := 0, tiles := tiles, spans := spans, raced := racesOf spans (liveSpans s) }] }

/-- The tally of a list of (index, bits) pairs (R188). -/
def tallyOf (wide : Bool) (l : List (Nat × Nat)) : Nat := m64 ((l.map fun x => mix x.1 x.2 wide).sum)

/-- What comparing the two tables of step `n` leaves of a shadow comparison (R473, R474): it fails at a tally that differs, is done with the
last step needed, and else counts the step. -/
def judgedStep (h n : Nat) (o : ShadowOp) (own theirs : List Byte) (t : State) : Prop :=
  match firstDiff o.tallies own theirs with
  | some _ => (t.handle h).state = 8 ∧ (t.handle h).result = 0x0201
  | none =>
    if o.matched + 1 = o.need then (t.handle h).state = 7 ∧ (t.handle h).result = 0
    else (t.handle h).state = 2 ∧ ∃ q, (t.handle h).shadow = some q ∧ q.matched = o.matched + 1 ∧ n ∈ q.judged

/-- The state in which a command of master `m` has been accepted (R409): answered with its handle, and the handle `h` taken for an
operation of `kind` in state `st`, with `f` for the operation's own fields. -/
def accepted (m : Master) (h kind st : Nat) (f : Handle → Handle) (s : State) : State :=
  let t := setResp m 0 (leBytes 1 h) s
  { t.modHandle h (fun _ => f { kind := kind, state := st, owner := ownerOf m, created := calendar s, order := s.mgmt.opCount }) with
    mgmt := { t.mgmt with opCount := s.mgmt.opCount + 1, issued := aset (ownerOf m) h s.mgmt.issued } }

/-- The state in which launch `h` is being validated (R43, R44, R203, R212): it runs and is the active one, its keys and policy are
latched, what a launch reports once may be reported again. -/
def launching (h : Nat) (s : State) : State :=
  let t := freshReports ((wakeCores s).modHandle h fun x => { x with state := 2, keys := keysNow s, digest := policyDigest s })
  { t with mgmt := { t.mgmt with active := some h, launchHandle := h } }

/-- The entries of 0x2700 that R205 gives a range: subindex, bytes, default, lowest, highest. -/
def policyEntries : List (Nat × Nat × Nat × Nat × Nat) :=
  [(1, 1, 1, 0, 3), (2, 1, 1, 0, 1), (3, 1, 0, 0, 2), (4, 1, 0, 0, 1), (5, 1, 1, 0, 1), (6, 1, 1, 0, 1), (7, 2, 3, 1, 65535), (8, 4, 86400, 60, 31536000)]

end Sys2Proof.Machine
end

