-- ==== Sys2Proof/WellFormed.lean ====
section
/-! DEFINITION. Which commands are well formed: every operand names a unit the part has (R1, R5, R11, R20) and every
field of a packet or message fits its width (R282, R363, R401). A command that is not well formed names nothing the block has; the
claims say nothing about what it does. -/

namespace Sys2Proof

/-- The part has 160 logical cores (R1). -/
def okCore (c : Nat) : Bool := decide (c < 160)

/-- 32 fibre ports (R5). -/
def okPort (p : Nat) : Bool := decide (p < 32)

/-- 4 E ports (R380). -/
def okEPort (n : Nat) : Bool := decide (n < 4)

/-- 4 exchange dies (R1). -/
def okXd (x : Nat) : Bool := decide (x < 4)

/-- Handles 1 to 64 (R411). -/
def okHandle (h : Nat) : Bool := decide (1 ≤ h) && decide (h ≤ 64)

/-- Group records 0 to 15 (R326). -/
def okGroup (g : Nat) : Bool := decide (g < 16)

/-- Sessions 1 to 4 (R400). -/
def okMaster : Master → Bool
  | .session n => decide (1 ≤ n) && decide (n ≤ 4)
  | .ethercat => true
  | .secure => true
  | .unprivileged => true

/-- Every field of a packet fits its width, and the payload has LEN lines of 128 bytes (R282). -/
def okPacket (k : Packet) : Bool :=
  decide (k.cls < 16) && decide (k.ver < 16) && decide (k.op < 256) && decide (k.len < 32) && decide (k.h < 8) &&
  decide (k.order < 32) && decide (k.ddim < 4) && decide (k.ddev < 4096) && decide (k.dep < 256) && decide (k.sdev < 4096) &&
  decide (k.sep < 256) && decide (k.domain < 65536) && decide (k.jobtag < 65536) && decide (k.seq < 2 ^ 24) &&
  decide (k.poison < 2 ^ 16) && decide (k.dval < 8) && decide (k.hc < 8) && decide (k.rsvd < 512) && decide (k.arg < 2 ^ 64) &&
  decide (k.crc < 2 ^ 32) && decide (k.bytes.length = 128 * k.len)

/-- A control word's credit position fits its fields (R363). -/
def okCw (w : CwHead) : Bool := decide (w.start < 256) && decide (w.shared < 2 ^ 16) && w.errs.all fun e => decide (e.1 < 4) && decide (e.2.1 < 20)

/-- A datagram's address, ports, traffic class and hop limit fit their widths, and its packet does (R382). -/
def okDatagram (d : Datagram) : Bool :=
  d.addr.length == 16 && decide (d.port < 65536) && decide (d.ownPort < 65536) && decide (d.dscp < 64) && decide (d.hops < 256) && okPacket d.pkt

/-- A message's fields fit their widths (R401). -/
def okSdo (m : SdoMsg) : Bool :=
  decide (m.magic < 2 ^ 32) && decide (m.session < 2 ^ 32) && decide (m.seq < 2 ^ 64) && decide (m.index < 2 ^ 16) &&
  decide (m.sub < 256) && decide (m.flags < 256) && decide (m.offset < 2 ^ 32) && decide (m.len < 2 ^ 32) &&
  decide (m.port < 65536)

/-- A cell of the array, its check row and check column with them, of the matrix-vector path with its check accumulator, or of the vector
engine's lanes (R75, R76, R103, R112, R184). -/
def okErrs (l : List CellErr) : Bool := l.all fun e => decide (e.row < 1024) && decide (e.col < 2049)

/-- Monitor readings name one of the 67 of a port (R386). -/
def okMon (l : List (Nat × Int)) : Bool := l.all fun e => decide (e.1 < 91)

/-- What a self-test found names the nine lane groups, the 132 columns and the eight layers of a site (R76, R111, R231). -/
def okSite (f : SiteResult) : Bool :=
  f.lanes.all (fun g => decide (g < 9)) && f.columns.all (fun c => decide (c < 132)) && f.nearRows.all fun r => decide (r.1 < 8)

/-- A report of a start-up step: nine straps of six bits, twelve stacks, 176 sites, twelve links (R23, R29, R445). -/
def okReport (r : StepReport) : Bool :=
  r.straps.all (fun v => decide (v < 64)) && r.stacksFailed.all (fun n => decide (n < 12)) &&
  r.sites.all (fun x => decide (x.1 < 176) && okSite x.2) && (r.badGroups.all fun g => decide (g.1 < 12) && decide (g.2 < 130)) &&
  decide (r.ms < 65536)

/-- The check of every command. -/
def wellFormed : Instr → Bool
  | .loop c | .endloop c | .setvl c | .wait c | .waitRelease c | .waitTimeout c | .signal c | .brst c | .yieldOp c
  | .fence c | .fenceComplete c | .fenceTimeout c | .tallyClear c | .tallyStore c | .tallyCompare c | .tallyLoad c
  | .halt c | .illegalOp c | .matrix c | .matrixStart c | .gemv c | .loadx c | .mvecStart c | .loadxComplete c
  | .add c | .sub c | .mul c | .fma c | .min c | .max c | .abs c | .neg c | .cmp c | .sel c | .andOp c | .orOp c
  | .xorOp c | .notOp c | .shl c | .shr c | .sra c | .popc c | .cvt c | .pack c | .unpkl c | .unpkh c | .mov c
  | .exp c | .log c | .rsqrt c | .tanh c | .sigm c | .erf c | .rcp c | .sqrt c | .rsum c | .rmax c | .rmin c
  | .rfin c | .cmpr c | .cmpri c | .expd c | .scani c | .scanx c | .smaxi c | .smini c | .lrec c | .vecStart c
  | .rand c | .sample c | .sguStart c | .copy c | .gather c | .scatter c | .panel c | .rread c | .rwrite c
  | .rwriteAck c | .moveStart c | .allreduce c | .reduceScatter c | .allgather c | .broadcast c | .a2a c | .a2av c
  | .dispatch c | .barrier c | .collStart c | .streamFetchComplete c | .corePark c => okCore c
  | .inPlaceRetry c _ | .proxyRetry c _ => okCore c
  | .randComplete c _ | .sampleComplete c _ | .moveComplete c _ => okCore c
  | .refuseBackoffExpiry c i | .remoteTimeout c i => okCore c && decide (i < 4096)
  | .matrixComplete c e _ _ => okCore c && okErrs e
  | .gemvComplete c e _ | .vecComplete c e _ => okCore c && okErrs e
  | .proxyRetryComplete c _ e _ _ => okCore c && okErrs e
  | .collComplete c g b => okCore c && okGroup g && decide (b < 2 ^ 16)
  | .launchPeerStop | .chipEventAdd | .chipEventVisible | .launchDequeue | .startBroadcast | .streamFetchStart
  | .launchEnd | .suspendRecordsWritten | .fwUpdateVerified | .fwUpdateCommitted | .mdWatchdogExpiry | .powerOn
  | .resetNAssert | .resetNRelease | .txpdoSample | .storedSettingWriteThrough | .emcyCoalescedReport
  | .recoveryVerifyDone | .formTimer | .wakeComplete | .baskEntry | .heartbeatSend | .croakInterval | .refclockLost
  | .capLoopEval | .pwrcapNAssert | .pinCeilingLapse | .pwrcapNRelease | .clampEnd | .tripPowerDown
  | .lifetimeWriteThrough | .idcode | .clampInstruction | .highz | .ijtag | .tapReset | .referenceClockReturn
  | .biasTrendSample => true
  | .aliasCertReady _ => true
  | .launch m _ | .resumeFrom m _ | .fwUpdate m _ | .quote m _ | .scrub m _ | .marginHbmTiming m _ | .marginHbmVddq m _
  | .marginNearBond m _ | .marginD2dEye m _ | .selfTest m _ | .calibrate m _ | .shadow m _ | .tripRelease m _
  | .cautiousAck m _ | .windowEntryWrite m _ | .windowRevoke m _ | .membershipWrite m _ | .jobTagWrite m _
  | .refusedByClear m _ | .testModeEnter m _ | .loopbackPortsWrite m _ | .eLoopbackWrite m _ => okMaster m
  | .enterBrumate m | .leaveBrumate m => okMaster m
  | .suspend m h | .resume m h | .cancel m h | .release m h => okMaster m && okHandle h
  | .handleLingerExpiry h | .quoteComplete h | .scrubComplete h | .calibrationComplete h | .shadowStep h
  | .shadowResendTimer h | .shadowStepLimit h | .operationSuspendObeyed h | .operationCancelObeyed h => okHandle h
  | .marginComplete h _ => okHandle h
  | .selfTestSiteDone h i f => okHandle h && decide (i < 176) && okSite f
  | .shadowTableReceive h _ _ => okHandle h
  | .chipWarmReset m a | .chipWarmResetFwdKept m a | .computePlaneReset m a | .forwardingPlaneReset m a
  | .coreReset m a | .managementReset m a => okMaster m && decide (a < 256)
  | .alRequestInit _ | .alRequestPreop _ | .alRequestSafeop _ | .alRequestOp _ | .alRequestBootstrap _ => true
  | .sdoRequest m _ _ i u _ => okMaster m && decide (i < 2 ^ 16) && decide (u < 256)
  | .counterClear m i u _ => okMaster m && decide (i < 2 ^ 16) && decide (u < 256)
  | .foeWrite _ p _ => decide (p < 2 ^ 32)
  | .openSlice m | .sessionRead m | .sessionWrite m | .keepalive m | .closeSession m => okSdo m
  | .openReassemblyTimeout _ p => decide (p < 65536)
  | .sessionIdleExpiry n => decide (1 ≤ n) && decide (n ≤ 4)
  | .groupCreate m g | .groupDelete m g | .groupClearFault m g => okMaster m && okGroup g
  | .form _ k => okPacket k
  | .keySlotWrite m i _ => okMaster m && decide (i < 8)
  | .hbmRegionsWrite m i _ => okMaster m && decide (i < 64)
  | .checkPolicyWrite m u _ => okMaster m && decide (u < 256)
  | .controllerKeyWrite m i _ => okMaster m && decide (i < 4)
  | .w1cWrite m a _ | .registerWrite m a _ => okMaster m && decide (a < 2 ^ 42)
  | .packetReceive p k _ _ => okPort p && okPacket k
  | .reorderTimeout a b k => decide (a < 4096) && decide (b < 256) && decide (k < 16)
  | .linkStateNotice k | .readRsp k | .wackRsp k | .grant k | .data k | .abort k | .token k | .xack k => okPacket k
  | .nullWord p w => okPort p && okCw w
  | .credit p w k l t => okPort p && okCw w && decide (k < 16) && decide (l < 16) && decide (t < 65536)
  | .ident0 p w d k _ => okPort p && okCw w && decide (d < 65536) && decide (k < 2 ^ 16)
  | .ident1 p w h q => okPort p && okCw w && decide (h < 2 ^ 16) && decide (q < 32)
  | .cal p w l k _ m => okPort p && okCw w && decide (l < 20) && decide (k < 65536) && okMon m
  | .txmon p w l g _ m => okPort p && okCw w && (decide (l < 24) || l == 31) && decide (1 ≤ g) && decide (g ≤ 4) && okMon m
  | .swap p w l a f => okPort p && okCw w && decide (l < 20) && decide (a < 4) && decide (f < 4)
  | .dropWord p w l f => okPort p && okCw w && decide (l < 20) && decide (f < 4)
  | .echo p w _ _ _ _ => okPort p && okCw w
  | .heartbeat p w b k l _ _ e => okPort p && okCw w && decide (b < 256) && decide (k < 4) && decide (l < 65536) && decide (e < 64)
  | .aggregationWindowEnd k l => decide (k < 4) && decide (l < 65536)
  | .disagreeLimit _ d => decide (d < 4096)
  | .read x k | .write x k | .writeAck x k => okXd x && okPacket k
  | .targetAccessComplete x _ => okXd x
  | .grantIssue g b r _ _ _ _ => okGroup g && decide (b < 2 ^ 16) && decide (r < 2 ^ 18)
  | .xackTimer g _ | .xdomRtoExpiry g _ _ | .latecomerTimeout g _ => okGroup g
  | .eDatagramReceive n d => okEPort n && okDatagram d
  | .ptpMessage n _ => okEPort n
  | .calendarSet t => decide (t < 2 ^ 64)
  | .linkBringupStepDone x _ | .losDeclared x | .probeTimer x | .lightDetected x => okPort x.port && okMon x.own
  | .swapSwitchover x => okPort x.port
  | .fecLinkDown p | .swapProposeRetry p => okPort p
  | .ringLockLost p _ l | .ringRelockTimeout p _ l => okPort p && decide (l < 20)
  | .fadeWarn p l o | .fadeAct p l o => okPort p && decide (l < 24) && decide (o < 4096)
  | .fadeRecover p l => okPort p && decide (l < 24)
  | .spareLocked p k | .spareLockTimeout p k => okPort p && decide (k < 4)
  | .eLaserReplace n l => okEPort n && decide (l < 4)
  | .railGood r | .railLost r | .railAbsentTimeout r => decide (r < 9)
  | .pllLockLost d => decide (d < 9)
  | .d2dCrcReplay l _ g => decide (l < 12) && decide (g < (if l < 4 then 130 else if l < 8 then 66 else 80))
  | .powerSample w => decide (w < 2 ^ 32)
  | .slewInterval b => decide (b ≤ 65536)
  | .limiterCheck _ _ => true
  | .sensorSample i x _ => decide (i < 261) && decide (-32768 ≤ x) && decide (x < 32768)
  | .warnClear i | .sampleRateLower i => decide (i < 261)
  | .refreshBlock k => decide (k < 4)
  | .patrolScrubRead l => decide (l < 2 ^ 35)
  | .samplerTrackStep k ch l _ => decide (k < 12) && decide (ch < 32) && decide (l < 64)
  | .extest n | .samplePreload n => decide (n < 2 ^ 64)
  | .dieSelect v => v == 0 || (List.range 9).any fun k => v == 2 ^ k
  | .bypass v => decide (v < 256)
  | .startUpStepDone r => okReport r
  | .badControlWord p t => okPort p && decide (t < 256)
  | .ePortDown n l => okEPort n && decide (l < 4)
  | .ePortUp n | .eFrameReceive n _ => okEPort n

end Sys2Proof
end

