-- ==== Sys2Proof/Certificates/Slice0/Obligations.lean ====
section
/-! DEFINITION. The statements for the provers: what the commands do by the rules of the spec, what they leave alone, and what every
step keeps. A rule number in a docstring names the rule the statement formalises. -/

open Sys2Proof Sys2Proof.Machine

/-! ## The block -/

/-- A step runs the command at the front of the queue, on the state with the queue's rest. -/
def Obligations.StepRunsFront : Prop :=
  ∀ (s : State) (c : Instr) (r : List Instr), s.pending = c :: r → step s = exec c { s with pending := r }

/-- With no command waiting, 1 ns passes (the model's own choice, log 2): where no port has light, no packet waits and no emergency message
is held, the engines' credits alone move. -/
def Obligations.IdleStepIsATick : Prop :=
  ∀ s : State, s.pending = [] → s.mgmt.heldEmcy = [] → s.fab.wait = [] → (∀ p < 32, sending s p = false) →
    step s = .next { s with now := s.now + 1, cores := s.cores.map (coreTick (theta s)) }

/-- Every command answers a next state and leaves the queue alone: none is refused and none stops the block. -/
def Obligations.EveryCommandAnswers : Prop :=
  ∀ (i : Instr) (s : State), ∃ t, exec i s = .next t ∧ t.pending = s.pending

/-- Every step, whatever the state and the command in front, keeps memory in its canonical form and the part's 160 cores, 32 ports,
64 handles and 16 group records. -/
def Obligations.StepKeepsInv : Prop :=
  ∀ s t : State, s.Inv → step s = .next t → t.Inv

/-- The state after reset is sound. -/
def Obligations.ResetInv : Prop := State.reset.Inv

/-- R480: the anti-rollback counter only rises, within its 64 fuse bits, only in the commit of a firmware update, and to the image's
svn (0 to 64 by R478). -/
def Obligations.RollbackCounterRises : Prop :=
  ∀ (i : Instr) (s t : State), exec i s = .next t →
    s.sec.fused ≤ t.sec.fused ∧ (s.sec.fused ≤ 64 → t.sec.fused ≤ 64) ∧
    (t.sec.fused ≠ s.sec.fused → i = .fwUpdateVerified ∧
      ∃ img, s.mgmt.staged = some img ∧ (numAt img 0x0C 4 ≤ 64 → t.sec.fused = numAt img 0x0C 4))

/-- R500: test mode ends only at power-on (VSTBY lost, or good again) and at RESET_N; every other command keeps it. -/
def Obligations.TestModeLasts : Prop :=
  ∀ (i : Instr) (s t : State), (∀ r, i ≠ .railLost r) → i ≠ .powerOn → i ≠ .resetNAssert → i ≠ .resetNRelease →
    exec i s = .next t → s.test.mode = true → t.test.mode = true

/-- R440: a tripped device stays tripped under every command but a dictionary write (TRIP_RELEASE, or an SDO or session message that
may carry it) and the loss or return of VSTBY. -/
def Obligations.TripLasts : Prop :=
  ∀ (i : Instr) (s t : State), (∀ r, i ≠ .railLost r) → i ≠ .powerOn → (∀ m d, i ≠ .tripRelease m d) →
    (∀ m w k x u d, i ≠ .sdoRequest m w k x u d) → (∀ m, i ≠ .sessionWrite m) →
    exec i s = .next t → s.power.tripped = true → t.power.tripped = true

/-! ## Sequencer words -/

/-- R57: LOOP opens a level whose body begins at the next word, up to four deep; with COUNT 0 it goes on behind its ENDLOOP. -/
def Obligations.LoopOpensALevel : Prop :=
  ∀ (s : State) (c w : Nat), Executes s c 0x01 0 w → ReservedZero w [(51, 1), (32, 16), (0, 32)] →
    fld w 32 16 ≠ 0 → (s.core c).pc + fld w 32 16 < (s.core c).streamLen →
    fld (streamWord s c ((s.core c).pc + fld w 32 16)) 56 8 = 0x02 →
    (fld w 0 32 = 0 → exec (.loop c) s = .next (s.modCore c fun k => { k with pc := k.pc + fld w 32 16 + 1 })) ∧
    (fld w 0 32 ≠ 0 → (s.core c).loops.length < 4 →
      exec (.loop c) s = .next (s.modCore c fun k => { k with
        pc := k.pc + 1
        loops := k.loops ++ [{ head := (s.core c).pc, fin := (s.core c).pc + fld w 32 16, strip := bitAt w 51, iter := 0,
                               remaining := fld w 0 32, eo := 0, vl := 0, set := false }] })) ∧
    (fld w 0 32 ≠ 0 → 4 ≤ (s.core c).loops.length → exec (.loop c) s = .next (stopCore c 0x04 s))

/-- R57, R58: ENDLOOP returns to the word behind its LOOP while iterations (of a strip loop: elements) remain, and goes on past the
loop once none does. A strip loop uses up this iteration's VL and advances EO by it. -/
def Obligations.EndloopRepeatsOrEnds : Prop :=
  ∀ (s : State) (c w : Nat) (l : Loop), Executes s c 0x02 0 w → ReservedZero w [] →
    (s.core c).loops.getLast? = some l → l.fin = (s.core c).pc → (l.strip = true → l.set = true) →
    ((if l.strip then l.vl else 1) < l.remaining → exec (.endloop c) s = .next (s.modCore c fun k => { k with
        pc := l.head + 1
        loops := k.loops.dropLast ++ [{ l with remaining := l.remaining - (if l.strip then l.vl else 1), iter := l.iter + 1,
                                               eo := if l.strip then l.eo + l.vl else l.eo, set := false }] })) ∧
    (l.remaining ≤ (if l.strip then l.vl else 1) → exec (.endloop c) s = .next (s.modCore c fun k => { k with
        pc := k.pc + 1, loops := k.loops.dropLast }))

/-- R58: SETVL, the first word of a strip loop's body, sets VL to the least of REQ, VLMAX and what remains. -/
def Obligations.SetvlTakesTheLeast : Prop :=
  ∀ (s : State) (c w : Nat) (l : Loop), Executes s c 0x03 0 w → ReservedZero w [(0, 16)] → fld w 0 16 ≠ 0 →
    (s.core c).loops.getLast? = some l → l.strip = true → (s.core c).pc = l.head + 1 →
    exec (.setvl c) s = .next (s.modCore c fun k => { k with
      pc := k.pc + 1
      vl := min (fld w 0 16) (min (s.core c).vlmax l.remaining)
      loops := k.loops.dropLast ++ [{ l with vl := min (fld w 0 16) (min (s.core c).vlmax l.remaining), set := true }] })

/-- R55, R59: WAIT on a core event that is set goes on, clearing the event where CLR is set; on one that is clear the SQ blocks. A blocked
WAIT finds its event, and clears it where CLR is set, as soon as it is set; it is then released. Before, its limit stops the core with
WAIT_TIMEOUT. -/
def Obligations.WaitOnACoreEvent : Prop :=
  ∀ (s : State) (c w : Nat), ReservedZero w [(51, 1), (50, 1), (40, 8), (0, 32)] → bitAt w 51 = false → fld w 0 32 = 0 →
    fld w 40 8 ≤ 63 →
    (Executes s c 0x04 0 w → (s.core c).event (fld w 40 8) = true →
      exec (.wait c) s = .next (s.modCore c fun k => { (if bitAt w 50 then k.setEvent (fld w 40 8) false else k) with
        pc := k.pc + 1, mode := .running })) ∧
    (Executes s c 0x04 0 w → (s.core c).event (fld w 40 8) = false →
      exec (.wait c) s = .next (s.modCore c fun k => { k with mode := .waiting, sqWait := some (fld w 40 8, bitAt w 50) })) ∧
    (∀ (k : Core) (x : Nat) (clr : Bool), k.sqWait = some (x, clr) → k.event x = true →
      k.settleWaits.sqWait = none ∧ (clr = true → k.settleWaits.event x = false)) ∧
    ((s.core c).mode = .waiting → streamWord s c (s.core c).pc = w → (s.core c).sqWait = none →
      exec (.waitRelease c) s = .next (s.modCore c fun k => { k with pc := k.pc + 1, mode := .running })) ∧
    ((s.core c).mode = .waiting → streamWord s c (s.core c).pc = w → (s.core c).sqWait.isSome = true →
      (s.core c).waitLimit ≠ 0 → exec (.waitTimeout c) s = .next (stopCore c 0x0B s))

/-- R54 to R56, R60: SIGNAL sets or clears a core event of its own core at once, or sends an increment towards the root; the root adds
what has arrived to the newest value of the event, saturating at 2^32 − 1; broadcasts become visible at every core in their order. -/
def Obligations.SignalsAndChipEvents : Prop :=
  (∀ (s : State) (c w : Nat), Executes s c 0x05 0 w → ReservedZero w [(51, 1), (50, 1), (40, 8), (0, 32)] →
    (bitAt w 51 = false → fld w 0 32 = 0 → fld w 40 8 ≤ 63 →
      exec (.signal c) s = .next (s.modCore c fun k => { (k.setEvent (fld w 40 8) (!bitAt w 50)).settleWaits with pc := k.pc + 1 })) ∧
    (bitAt w 51 = true → bitAt w 50 = false →
      exec (.signal c) s = .next { s.modCore c (fun k => { k with pc := k.pc + 1 }) with
        eventIn := s.eventIn ++ [(fld w 40 8, fld w 0 32)] })) ∧
  (∀ (s : State) (e n : Nat), s.eventIn = [(e, n)] → (∀ x ∈ s.eventOut, x.1 ≠ e) →
    exec .chipEventAdd s = .next { s with
      eventIn := [], eventOut := s.eventOut ++ [(e, min 0xFFFFFFFF (lget 0 s.chipEvents e + n))] }) ∧
  (∀ (s : State) (e n v : Nat) (r : List (Nat × Nat)), s.eventIn = [(e, n)] → s.eventOut = r ++ [(e, v)] →
    exec .chipEventAdd s = .next { s with eventIn := [], eventOut := r ++ [(e, v), (e, min 0xFFFFFFFF (v + n))] }) ∧
  (∀ (s : State) (e v : Nat) (r : List (Nat × Nat)), s.eventOut = (e, v) :: r →
    exec .chipEventVisible s = .next { s with chipEvents := lset 0 e v s.chipEvents, eventOut := r })

/-- R61: BRST on a status bit whose queue has completed (or on a bit above 5) branches forward when the bit equals its sense, and
clears the bit where CLR is set. -/
def Obligations.BranchOnStatus : Prop :=
  ∀ (s : State) (c w : Nat), Executes s c 0x06 0 w → ReservedZero w [(51, 1), (50, 1), (40, 8), (32, 8), (0, 16)] →
    fld w 40 8 ≤ 9 → (fld w 40 8 ≤ 5 → maskIdle (2 ^ fld w 40 8) (s.core c) = true) → fld w 0 16 ≠ 0 →
    (s.core c).pc + fld w 0 16 < (s.core c).streamLen →
    (∀ l, (s.core c).loops.getLast? = some l → (s.core c).pc + fld w 0 16 ≤ l.fin) →
    exec (.brst c) s = .next (s.modCore c fun k => { k with
      stat := if bitAt w 50 then k.stat &&& ~~~(BitVec.ofNat 10 (2 ^ fld w 40 8)) else k.stat
      pc := if bitAt (s.core c).stat.toNat (fld w 40 8) = bitAt w 51 then k.pc + fld w 0 16 else k.pc + 1 })

/-- R62, R71: YIELD, the first word of a loop's body, goes on where no suspend is pending, and otherwise begins to park: it waits for all
six queues and for the remote epoch. The park is done once they have completed; vector registers are empty at a parked YIELD (R73). -/
def Obligations.YieldParks : Prop :=
  ∀ (s : State) (c : Nat),
    (∀ (w : Nat) (l : Loop), Executes s c 0x07 0 w → ReservedZero w [] → (s.core c).loops.getLast? = some l → l.head + 1 = (s.core c).pc →
      ((s.core c).suspPend = false → exec (.yieldOp c) s = .next (s.modCore c fun k => { k with pc := k.pc + 1 })) ∧
      ((s.core c).suspPend = true → maskIdle 63 (s.core c) = false → exec (.yieldOp c) s = .next (s.modCore c fun k => { k with
        mode := .fencing, fence := some { kind := 2, mask := 63, remote := true, limit := 0, exit := 0, closed := none } })) ∧
      ((s.core c).suspPend = true → maskIdle 63 (s.core c) = true → exec (.yieldOp c) s = .next (s.modCore c fun k => { k with
        mode := .fencing, epoch := (k.epoch + 1) % 4
        fence := some { kind := 2, mask := 63, remote := true, limit := 0, exit := 0, closed := some (s.core c).epoch } }))) ∧
    (∀ (f : FenceWait) (e : Nat), (s.core c).mode = .fencing → (s.core c).fence = some f → f.kind = 2 → f.remote = true → f.closed = some e →
      maskIdle f.mask (s.core c) = true → (∀ x ∈ (s.core c).slots, x.2.epoch ≠ e) → epochErr (s.core c) e = false →
      exec (.corePark c) s = .next (s.modCore c fun k => { k with
        mode := .parked, fence := none, xregs := [], xPoison := 0, epochDests := k.epochDests.filter fun d => d.epoch != e }))

/-- R63, R65, R311: FENCE and HALT begin their wait; one with a REMOTE part closes the open epoch at the moment when every selected
queue has completed, here at once where they are idle already. HALT selects all six queues and the remote part. -/
def Obligations.FenceBegins : Prop :=
  ∀ (s : State) (c w : Nat),
    (Executes s c 0x08 0 w → ReservedZero w [(40, 6), (39, 1), (0, 32)] →
      ((bitAt w 39 = false ∨ maskIdle (fld w 40 6) (s.core c) = false) → exec (.fence c) s = .next (s.modCore c fun k => { k with
        mode := .fencing
        fence := some { kind := 0, mask := fld w 40 6, remote := bitAt w 39, limit := fld w 0 32, exit := 0, closed := none } })) ∧
      (bitAt w 39 = true → maskIdle (fld w 40 6) (s.core c) = true → exec (.fence c) s = .next (s.modCore c fun k => { k with
        mode := .fencing, epoch := (k.epoch + 1) % 4
        fence := some { kind := 0, mask := fld w 40 6, remote := true, limit := fld w 0 32, exit := 0,
                        closed := some (s.core c).epoch } }))) ∧
    (Executes s c 0x0A 0 w → ReservedZero w [(0, 16)] →
      (maskIdle 63 (s.core c) = false → exec (.halt c) s = .next (s.modCore c fun k => { k with
        mode := .fencing
        fence := some { kind := 1, mask := 63, remote := true, limit := 0, exit := fld w 0 16, closed := none } })) ∧
      (maskIdle 63 (s.core c) = true → exec (.halt c) s = .next (s.modCore c fun k => { k with
        mode := .fencing, epoch := (k.epoch + 1) % 4
        fence := some { kind := 1, mask := 63, remote := true, limit := 0, exit := fld w 0 16, closed := some (s.core c).epoch } })))

/-- R312, R313, R317: a fence releases once its queues have completed and its epoch holds no slot, setting `SQ_STAT` bit 3 and writing the
report where a request of the epoch ended other than OK; a HALT so released stops the core with code 0 and its EXIT. A fence with a
REMOTE part whose limit passes stops the core with FENCE_TIMEOUT, releasing the slots the epoch still holds and counting once. -/
def Obligations.FenceEnds : Prop :=
  ∀ (s : State) (c : Nat) (f : FenceWait), (s.core c).mode = .fencing → (s.core c).fence = some f →
    (f.kind = 0 → f.remote = false → f.closed = none → maskIdle f.mask (s.core c) = true →
      exec (.fenceComplete c) s = .next (s.modCore c fun k => { k with mode := .running, pc := k.pc + 1, fence := none })) ∧
    (∀ e, f.kind = 0 → f.remote = true → f.closed = some e → maskIdle f.mask (s.core c) = true →
      (∀ x ∈ (s.core c).slots, x.2.epoch ≠ e) →
      exec (.fenceComplete c) s = .next (s.modCore c fun k => { closeBooks e 0 (if epochErr k e then k.setStat 3 else k) with
        mode := .running, pc := k.pc + 1, fence := none })) ∧
    (∀ e, f.kind = 1 → f.remote = true → f.closed = some e → maskIdle f.mask (s.core c) = true →
      (∀ x ∈ (s.core c).slots, x.2.epoch ≠ e) →
      ∃ t, exec (.fenceComplete c) s = .next t ∧ (c < s.cores.length → (t.core c).mode = .stopped ∧ (t.core c).stopCode = 0 ∧
        (t.core c).exit = f.exit) ∧ (∀ d, d ≠ c → t.core d = s.core d) ∧ t.mem = s.mem) ∧
    (∀ e, f.remote = true → f.closed = some e → (∃ x ∈ (s.core c).slots, x.2.epoch = e) → c < s.cores.length →
      ∃ t, exec (.fenceTimeout c) s = .next t ∧ (t.core c).mode = .stopped ∧ (t.core c).stopCode = 0x0C ∧
        (∀ x ∈ (t.core c).slots, x.2.epoch ≠ e) ∧ t.od = (odInc 0x2470 0x0A 4 1 s).od)

/-- R64: TALLY clears, stores, compares or loads one of the eight accumulators, once the data mover is idle; a comparison that differs sets
`SQ_STAT` bit 8. (For operands whose lines carry no poison and no error mark and that no running descriptor writes.) -/
def Obligations.TallyOps : Prop :=
  ∀ (s : State) (c w x : Nat), Executes s c 0x09 1 w → streamWord s c ((s.core c).pc + 1) = x → ReservedZero w [(45, 3), (42, 3)] →
    (s.core c).dm.idle = true →
    (fld w 42 3 = 0 → x = 0 → exec (.tallyClear c) s = .next (s.modCore c fun k => { k with
      pc := k.pc + 2, ta := k.ta.set (fld w 45 3) 0 })) ∧
    (fld w 42 3 = 1 → x % 8 = 0 → x + 8 ≤ storeSize → exec (.tallyStore c) s = .next
      (storePieces [(storeAddr c x, leBytes 8 ((s.core c).ta.getD (fld w 45 3) 0).toNat)] false
        (noteWrites [(storeAddr c x, 8)] (s.modCore c fun k => { k with pc := k.pc + 2 })))) ∧
    (fld w 42 3 = 2 → x % 8 = 0 → x + 8 ≤ storeSize → touchRead [(storeAddr c x, 8)] s = (false, s) →
      racesOf [{ lo := storeAddr c x, len := 8, wr := false }] (liveSpans s) = [] →
      exec (.tallyCompare c) s = .next (s.modCore c fun k => { k with
        pc := k.pc + 2
        stat := if readNum s (storeAddr c x) 8 = (k.ta.getD (fld w 45 3) 0).toNat then k.stat else k.stat ||| 0x100 })) ∧
    (fld w 42 3 = 3 → x % 8 = 0 → x + 8 ≤ storeSize → touchRead [(storeAddr c x, 8)] s = (false, s) →
      racesOf [{ lo := storeAddr c x, len := 8, wr := false }] (liveSpans s) = [] →
      exec (.tallyLoad c) s = .next (s.modCore c fun k => { k with
        pc := k.pc + 2, ta := k.ta.set (fld w 45 3) (BitVec.ofNat 64 (readNum s (storeAddr c x) 8)) }))

/-- R47, R67: a word whose operation is none of R47's stops its core with ILLEGAL_OP; once a core of the active launch has stopped with
an error, every other core that has not stopped is stopped with PEER_STOP (no collective is open here and no retry requested). -/
def Obligations.StopsOfCores : Prop :=
  (∀ (s : State) (c : Nat), (s.core c).mode = .running → (s.core c).pc < (s.core c).streamLen →
    opDefined (fld (streamWord s c (s.core c).pc) 56 8) = false → exec (.illegalOp c) s = .next (stopCore c 0x01 s)) ∧
  (∀ (s : State) (c code : Nat), c < s.cores.length →
    ((stopCore c code s).core c).mode = .stopped ∧ ((stopCore c code s).core c).stopCode = code ∧
    (∀ e, (((stopCore c code s).core c).eng e).queue = []) ∧ (∀ d, d ≠ c → (stopCore c code s).core d = s.core d) ∧
    (stopCore c code s).mem = s.mem) ∧
  (∀ (s : State) (h : Nat), s.mgmt.active = some h → (s.handle h).firstStop.isSome = true → (s.handle h).peersStopped = false →
    (s.handle h).state ≠ 6 → s.ops = [] → s.proxyReqs = [] → exec .launchPeerStop s = .next
      ({ s with cores := s.cores.map fun (k : Core) => if k.mode = SqMode.off ∨ k.mode = SqMode.stopped then k else cancelCore 0x12 k }.modHandle h
        fun x => { x with peersStopped := true }))

/-! ## Engines -/

/-- R49, R51, R58: the SQ issues a descriptor to the engine its operation names, latching the open levels' indices, EO and VL, and goes on
behind its extension doubles; a full queue of eight stalls the SQ; a VEC descriptor outside every strip loop stops the core. -/
def Obligations.DescriptorIssue : Prop :=
  ∀ (i : Instr) (row : IssueRow) (s : State) (w : Nat), issueRow i = some row → Executes s row.core row.op row.xw w →
    fld w row.lo row.width = row.code →
    ((row.op = 0x12 → (s.core row.core).loops.any (·.strip) = true) → ((s.core row.core).eng row.eng).queue.length < 8 →
      exec i s = .next (s.modCore row.core fun k => { k.enqueue row.eng
        { pc := k.pc, words := (List.range (row.xw + 1)).map fun j => BitVec.ofNat 64 (streamWord s row.core (k.pc + j))
          idx := k.loops.map (·.iter), eo := ((k.loops.reverse.find? (·.strip)).map (·.eo)).getD 0, vl := k.vl
          rst := row.op == 0x12 && rstHolds (k.latch k.pc [] false) w } with pc := k.pc + 1 + row.xw })) ∧
    ((row.op = 0x12 → (s.core row.core).loops.any (·.strip) = true) → 8 ≤ ((s.core row.core).eng row.eng).queue.length →
      exec i s = .next s) ∧
    (row.op = 0x12 → (s.core row.core).loops.any (·.strip) = false → exec i s = .next (stopCore row.core 0x0E s))

/-- R50, R53, R93, R109, R117, R220, R263: the head of a queue whose WEV is set starts, if its fields and ranges are valid and the engine
can take it; where another engine's running descriptor holds a tile in conflict, the core stops with TILE_HAZARD. (MOVE: a local one.) -/
def Obligations.DescriptorStart : Prop :=
  ∀ (s : State) (c : Nat) (d : Desc),
    (ready .ma c s = some d → matCode d (matOf d) = 0 → matMayStart (s.core c) (matOf d) = true →
      (tileHazard .ma (matTiles (matOf d)) (s.core c) = false → exec (.matrixStart c) s = .next
        (started .ma c d (matTiles (matOf d)) ((matSpans c (matOf d)).map fun x => { lo := x.1, len := x.2, wr := false }) s)) ∧
      (tileHazard .ma (matTiles (matOf d)) (s.core c) = true → exec (.matrixStart c) s = .next
        (stopCore c 0x0D (s.modCore c (takeHead .ma))))) ∧
    (ready .mvp c s = some d → mvCode s c d (mvOf d) = 0 → mvMayStart (s.core c) (mvOf d) = true →
      tileHazard .mvp (mvTiles (mvOf d)) (s.core c) = false → exec (.mvecStart c) s = .next
        (started .mvp c d (mvTiles (mvOf d)) ((mvSpans s c (mvOf d)).map fun x => { lo := x.1, len := x.2, wr := false }) s)) ∧
    (ready .ve c s = some d → vecCode d (vecOf d) = 0 → vecHazard (s.core c) ((vecOf d).tiles (s.core c)) = false →
      (vecOf d).dynRange (s.core c) = false → tileHazard .ve ((vecOf d).tiles (s.core c)) (s.core c) = false →
      exec (.vecStart c) s = .next (started .ve c d ((vecOf d).tiles (s.core c)) [] s)) ∧
    (ready .sgu c s = some d → (s.core c).sgu.run = [] → d.op = 0x16 → rndField d (rndOf d) = false → rndRange (rndOf d) = false →
      tileHazard .sgu ((rndOf d).tiles.map (·, true)) (s.core c) = false →
      exec (.sguStart c) s = .next (started .sgu c d ((rndOf d).tiles.map (·, true)) [] s)) ∧
    (ready .sgu c s = some d → (s.core c).sgu.run = [] → d.op = 0x15 → smpField d (smpOf d) = false → smpRange (smpOf d) = false →
      exec (.sguStart c) s = .next (started .sgu c d []
        [{ lo := (smpOf d).lbase c, len := (smpOf d).v * (smpOf d).bytes, wr := false },
         { lo := storeAddr c (smpOf d).oofs, len := 16, wr := true }] s)) ∧
    (ready .dm c s = some d → (s.core c).dm.run = [] → moCode s c d (moOf d) = 0 → (moOf d).empty = false → (moOf d).remote = false →
      (moOf d).accum = false → tileHazard .dm (moTiles (moOf d) (moRows (moOf d) (moIndices s c (moOf d)))) (s.core c) = false →
      exec (.moveStart c) s = .next (started .dm c d (moTiles (moOf d) (moRows (moOf d) (moIndices s c (moOf d))))
        (spansOf s false (srcSpans c (moOf d) (moRows (moOf d) (moIndices s c (moOf d)))) ++
         spansOf s true (dstSpans (moOf d) (moRows (moOf d) (moIndices s c (moOf d))))) s))

/-- R198, R200, R201, R204: a failed attempt is retried in place with the same latched values, once its engine has credit; a proxy request is
taken up, once there is credit, by the die's first proxy site in the order of request. -/
def Obligations.Retries : Prop :=
  ∀ (s : State) (c : Nat) (e : Eng) (r : Run), headRun e c s = some r → s.power.tripping = false → s.power.tripped = false →
    (r.phase = .failedTry → 0 ≤ ((s.core c).eng e).credit → exec (.inPlaceRetry c e) s = .next (s.modCore c fun k => k.setEng e
      { k.eng e with run := { r with phase := .running, attempt := r.attempt + 1 } :: (k.eng e).run.tail })) ∧
    (∀ site, r.phase = .proxyQueued → 0 ≤ ((s.core c).eng e).credit → proxySite s (dieOf s c) = some site →
      s.proxyReqs.find? (fun q => dieOf s q.1 == dieOf s c) = some (c, engNum e) →
      exec (.proxyRetry c e) s = .next (s.modCore c fun k => k.setEng e
        { k.eng e with run := { r with phase := .proxyRun site } :: (k.eng e).run.tail }))

/-- R87, R92, R97 to R101, R109, R110, R201: a first attempt that ends in no check fault completes its descriptor: its tile words are
written, its tiles take or lose their poison marks, its status is written. (For a descriptor without races, whose reads change nothing.)
A proxy attempt of the matrix array ends likewise. -/
def Obligations.MatrixEnginesComplete : Prop :=
  ∀ (s : State) (c : Nat) (r : Run) (errs : List CellErr) (pin cd par : Bool), r.vcode = 0 → r.raced = [] →
    (∀ a, headRun .ma c s = some r → r.phase = .running → r.attempt = 0 → (matOf r.desc).m ≠ 0 → (matOf r.desc).n ≠ 0 →
      touchRead (matSpans c (matOf r.desc)) s = (pin, s) → matAttempt s c (matOf r.desc) pin errs cd par = a → isCheckFault a.code = false →
      exec (.matrixComplete c errs cd par) s = .next ((complete .ma c r a.code a.inexact (dropProxy c .ma (s.modCore c fun k =>
        settleTiles (matOf r.desc).dTiles a.code ((matOf r.desc).m == 128 && (matOf r.desc).n == 128) (writeTiles a.words k)))).modCore c
        (maStatus (matOf r.desc) a))) ∧
    (∀ a, headRun .mvp c s = some r → r.phase = .running → r.attempt = 0 → (mvOf r.desc).opc = 0 → (mvOf r.desc).rows ≠ 0 →
      touchRead (mvSpans s c (mvOf r.desc)) s = (pin, s) → gemvAttempt s c (mvOf r.desc) pin errs par = a → isCheckFault a.code = false →
      exec (.gemvComplete c errs par) s = .next ((complete .mvp c r a.code a.inexact (dropProxy c .mvp (s.modCore c fun k =>
        settleTiles [(mvOf r.desc).td] a.code ((mvOf r.desc).rows == 2048 && (mvOf r.desc).nv == 8) (writeTiles a.words k)))).modCore c
        (mvpStatus a))) ∧
    (headRun .mvp c s = some r → (mvOf r.desc).opc = 1 → (mvOf r.desc).c ≠ 32768 → touchRead (mvSpans s c (mvOf r.desc)) s = (false, s) →
      exec (.loadxComplete c) s = .next ((complete .mvp c r 0 false (s.modCore c fun k => (List.range (mvOf r.desc).nv).foldl
        (fun k v => setX v (readBytes s (storeAddr c ((mvOf r.desc).waddr + v * (mvOf r.desc).ldx)) (mvOf r.desc).c) k) k)).modCore c
        (mvpStatus {}))) ∧
    (∀ a site, headRun .ma c s = some r → r.phase = .proxyRun site → (matOf r.desc).m ≠ 0 → (matOf r.desc).n ≠ 0 →
      touchRead (matSpans c (matOf r.desc)) s = (pin, s) → matAttempt s c (matOf r.desc) pin errs cd par = a → isCheckFault a.code = false →
      ∃ t, exec (.proxyRetryComplete c .ma errs cd par) s = .next t ∧ t.proxyReqs = s.proxyReqs.filter (fun q => !(q.1 == c && q.2 == 0)) ∧
        t.mem = s.mem ∧ (∀ d, d ≠ c → t.core d = s.core d) ∧
        (c < s.cores.length → (t.core c).ma.run = (s.core c).ma.run.tail ∧ (t.core c).tiles = (writeTiles a.words (s.core c)).tiles ∧
          (∀ x ∈ (matOf r.desc).dTiles, x < 16 → a.code = 2 → (t.core c).tilePois x = true)))

/-- R81, R85: an INT8 output element without C, scale 1.0 and INT32 output is the sum of its products, saturated to 32 bits. -/
def Obligations.Int8CellsAreSums : Prop :=
  ∀ (k : Core) (f : Mat) (p : Panels) (u m n : Nat) (x : Int), f.fmt = 4 → f.ofmt = 4 → f.acc = false → f.dscale = one32 →
    ((List.range f.k).map fun j => int8 (aCode f p m j) * int8 (bCode f p j n)).sum = x →
    (exactElem k f u m n (exactCell f p m n)).words = [unsx 32 (max (-(2 ^ 31)) (min (2 ^ 31 - 1) x))] ∧
    (exactElem k f u m n (exactCell f p m n)).sat = decide (x < -(2 ^ 31) ∨ 2 ^ 31 - 1 < x)

/-- R115, R123, R139, R144: an elementwise VEC descriptor whose regions do not overlap, that reads no poisoned tile and meets no physical
error writes each element's result to its place in D, leaves all other words of the tiles, and completes with code 0. -/
def Obligations.ElementwiseCompletes : Prop :=
  ∀ (s : State) (c : Nat) (r : Run), c < s.cores.length → headRun .ve c s = some r → r.vcode = 0 → r.phase = .running → r.attempt = 0 →
    ((vecOf r.desc).hasState || (vecOf r.desc).isFin) = false → (vecOf r.desc).overlaps (s.core c) = [] →
    ((vecOf r.desc).reads (s.core c)).any (s.core c).tilePois = false →
    ∃ t, exec (.vecComplete c [] false) s = .next t ∧ (t.core c).ve.run = (s.core c).ve.run.tail ∧
      (t.core c).tiles = (writeTiles ((vecOf r.desc).grid.map fun p =>
        (((vecOf r.desc).pos (vecOf r.desc).d p.1 p.2).2 / 128, ((vecOf r.desc).pos (vecOf r.desc).d p.1 p.2).1,
         ((vecOf r.desc).pos (vecOf r.desc).d p.1 p.2).2 % 128,
         (vecElem (vecOf r.desc) ((vecOf r.desc).draw s p.1 p.2) ((vecOf r.desc).src (s.core c) (vecOf r.desc).a p.1 p.2)
           (if (vecOf r.desc).usesB then (vecOf r.desc).src (s.core c) (vecOf r.desc).b p.1 p.2 else 0)
           (if (vecOf r.desc).usesC then (vecOf r.desc).src (s.core c) (vecOf r.desc).c p.1 p.2 else 0)).1)) (s.core c)).tiles ∧
      (t.core c).regs = (veStatus ((vecOf r.desc).paired s) (vecAttempt s c (vecOf r.desc) [] false).1 (s.core c)).regs ∧ t.mem = s.mem ∧ (∀ d, d ≠ c → t.core d = s.core d)

/-- R123, R124: results of the integer and bit operations on INT32 words: a sum or difference that fits is exact (one that does not fit
is a value the spec leaves open, log 20), a product keeps its low 32 bits, shifts take their count modulo 32. -/
def Obligations.IntegerElements : Prop :=
  ∀ (v : Vec) (draw : Nat → Nat) (a b c : Word), v.dt = 3 →
    (v.opc = 0x01 → -(2 ^ 31) ≤ a.toInt + b.toInt → a.toInt + b.toInt < 2 ^ 31 → vecElem v draw a b c = (a + b, false)) ∧
    (v.opc = 0x02 → -(2 ^ 31) ≤ a.toInt - b.toInt → a.toInt - b.toInt < 2 ^ 31 → vecElem v draw a b c = (a - b, false)) ∧
    (v.opc = 0x03 → vecElem v draw a b c = (a * b, false)) ∧
    (v.opc = 0x05 → vecElem v draw a b c = (if a.sle b then a else b, false)) ∧
    (v.opc = 0x06 → vecElem v draw a b c = (if a.sle b then b else a, false)) ∧
    (v.opc = 0x07 → a ≠ 0x80000000 → vecElem v draw a b c = (if a.slt 0 then -a else a, false)) ∧
    (v.opc = 0x08 → a ≠ 0x80000000 → vecElem v draw a b c = (-a, false)) ∧
    (v.opc = 0x10 → v.cond = 2 → vecElem v draw a b c = (if a.slt b then 1 else 0, false)) ∧
    (v.opc = 0x11 → vecElem v draw a b c = (if b = 0 then c else a, false)) ∧
    (v.opc = 0x18 → vecElem v draw a b c = (a &&& b, false)) ∧ (v.opc = 0x19 → vecElem v draw a b c = (a ||| b, false)) ∧
    (v.opc = 0x1A → vecElem v draw a b c = (a ^^^ b, false)) ∧ (v.opc = 0x1B → vecElem v draw a b c = (~~~a, false)) ∧
    (v.opc = 0x1C → vecElem v draw a b c = (a <<< (b.toNat % 32), false)) ∧
    (v.opc = 0x1D → vecElem v draw a b c = (a >>> (b.toNat % 32), false)) ∧
    (v.opc = 0x1E → vecElem v draw a b c = (a.sshiftRight (b.toNat % 32), false)) ∧
    (v.opc = 0x24 → vecElem v draw a b c = (a, false))

/-- R218, R220, R222 to R225: a RAND writes the values of its generator words to its rectangle; a SAMPLE writes its record, poisoned where
a logit was; each completes with its code and its status. (For a SAMPLE without races, whose reads change nothing.) -/
def Obligations.SamplerCompletes : Prop :=
  ∀ (s : State) (c : Nat) (r : Run) (pin : Bool), headRun .sgu c s = some r → r.vcode = 0 →
    (∀ f, r.desc.op = 0x16 → rndOf r.desc = f → exec (.randComplete c false) s = .next ((complete .sgu c r 0 false (s.modCore c fun k =>
      (Rect.fullTiles ⟨f.td, f.drow, f.nr, f.dcol, f.nc⟩).foldl (fun k t => k.setTilePois t false)
        (writeTiles ((List.range f.nr).flatMap fun i => (List.range f.nc).map fun j =>
          (f.td + (f.dcol + j) / 128, f.drow + i, (f.dcol + j) % 128,
           BitVec.ofNat 32 (f.value (wcg (launchKey s f.ksel) (f.index r.desc i j) f.sid f.draw)).1)) k))).modCore c
      (sguStatus 0 0 (((List.range f.nr).flatMap fun i => (List.range f.nc).map fun j =>
        (f.value (wcg (launchKey s f.ksel) (f.index r.desc i j) f.sid f.draw)).2).any id)))) ∧
    (∀ f p, r.desc.op = 0x15 → r.raced = [] → smpOf r.desc = f → touchRead [(f.lbase c, f.v * f.bytes)] s = (pin, s) →
      samplePick s f (readBytes s (f.lbase c) (f.v * f.bytes)) = p → p.code = 0 →
      exec (.sampleComplete c false) s = .next (odInc 0x2830 1 8 1 ((complete .sgu c r (if pin then 2 else 0) false
        (storePieces [(storeAddr c f.oofs, (sampleRecord s f p).1)] pin (sampleRecord s f p).2)).modCore c
        (sguStatus 1 (if pin then 2 else 0) false))))

/-- R252, R260, R264, R265: a local MOVE without a parity error completes with POISON_IN or OK and writes its status; a COPY of one row
between memories leaves at its destination the bytes of its source. With a parity error it completes MOVER_FAULT: the
destination lines written by then, the first one among them, are poisoned, and nothing outside its destinations changes. (How many lines
are written by then is free: log 38.) -/
def Obligations.LocalMoveCompletes : Prop :=
  ∀ (s : State) (c : Nat) (r : Run), headRun .dm c s = some r → r.vcode = 0 → (moOf r.desc).remote = false → (moOf r.desc).empty = false →
    (∀ m, moveLocal c (moOf r.desc) r s = m → exec (.moveComplete c false) s = .next ((complete .dm c r (if m.pois then 2 else 0) m.inexact
      m.st).modCore c fun k => dmStatus (if m.pois then 2 else 0) m.sat m.inexact (if m.pois then k.setStat 7 else k))) ∧
    (∀ f a b n, moOf r.desc = f → f.saddr.toNat = a → f.daddr.toNat = b → fmtBytes f.sfmt f.n0 = n → r.raced = [] → f.kind = 0 →
      f.dfmt = f.sfmt → f.sfmt ≤ 5 → f.n1 = 1 → f.n2 = 1 → f.n3 = 1 → f.ssp = false → f.dsp = false → f.accum = false → f.ten = false →
      (place s a).isMem = true → (place s b).isMem = true → (a + n ≤ b ∨ b + n ≤ a) → touchRead [(a, n)] s = (false, s) →
      (∀ l ∈ linesOf a n, poisoned s l = false) →
      ∃ t, exec (.moveComplete c false) s = .next t ∧ t.mem = (writeBytes b (readBytes s a n) s).mem ∧ (∀ d, d ≠ c → t.core d = s.core d) ∧
        (c < s.cores.length → (t.core c).dm.run = (s.core c).dm.run.tail ∧ fld ((t.core c).reg 0x70) 0 8 = 0)) ∧
    (∀ rows, rows = moRows (moOf r.desc) (moIndices s c (moOf r.desc)) → ∃ t, exec (.moveComplete c true) s = .next t ∧
      (∀ l, (destLines s (moOf r.desc) rows).head? = some l → poisoned t l = true) ∧
      (∀ l, l ∉ destLines s (moOf r.desc) rows → poisoned t l = poisoned s l) ∧
      (Memory.wf s = true → ∀ a, (∀ x ∈ dstSpans (moOf r.desc) rows, a < x.1 ∨ x.1 + x.2 ≤ a) → readByte t a = readByte s a) ∧
      (∀ d, d ≠ c → t.core d = s.core d) ∧
      (c < s.cores.length → (t.core c).dm.run = (s.core c).dm.run.tail ∧ fld ((t.core c).reg 0x70) 0 8 = 9))

/-- R341, R343, R346: a valid reduction of a group of more than one member starts: its bucket's use advances and the operation is open,
nothing sent yet; it completes once every segment has been received and sent, with POISON_IN where poison reached its output. Every byte
of memory outside its scratch (R325) and, at its end, outside what its source and destination share (R341) reads as before. -/
def Obligations.CollectiveStartsAndCompletes : Prop :=
  ∀ (s : State) (c g : Nat) (f : Co),
    (∀ d, ready .coll c s = some d → coOf d = f → coGroup s f = some g → coCode s c d f = 0 → f.opc ≤ 1 → levelCount s g ≠ 0 →
      s.ops.length < 64 → (s.ops.filter fun o => o.g == g).length < 16 → (s.group g).aborts = [] → (s.group g).early = [] →
      (s.group g).asked = [] →
      ∃ t, exec (.collStart c) s = .next t ∧
        t.ops = s.ops ++ [{ core := c, g := g, bucket := f.bucket, use := (aget f.bucket (s.group g).uses).getD 0, desc := d }] ∧
        (g < s.groups.length → (t.group g).uses = aset f.bucket (((aget f.bucket (s.group g).uses).getD 0 + 1) % 4) (s.group g).uses) ∧
        (c < s.cores.length → (t.core c).coll.queue = (s.core c).coll.queue.tail ∧
          (t.core c).coll.run.length = (s.core c).coll.run.length + 1) ∧
        (Memory.wf s = true → ∀ a, (∀ x ∈ scratchOf s g f, a < x.1 ∨ x.1 + x.2 ≤ a) → readByte t a = readByte s a)) ∧
    (∀ r o, headRun .coll c s = some r → coOf r.desc = f → r.vcode = 0 → o.desc = r.desc → aget f.ch s.chans = some g →
      s.ops.find? (fun o => o.core == c && o.g == g && o.bucket == f.bucket) = some o → o.fin = none → opDone s o = true →
      reportBytes f (ranksOf s o.g) = 0 → o.dropped = [] → f.ceven = true →
      ∃ t, exec (.collComplete c g f.bucket) s = .next t ∧ t.eventIn = s.eventIn ++ [(f.cev, 1)] ∧
        t.ops = s.ops.filter (fun x => !(x.g == g && x.bucket == f.bucket && x.use == o.use)) ∧
        (c < s.cores.length → (t.core c).coll.run = (s.core c).coll.run.tail ∧
          ∃ pass, (t.core c).regs = (collStatus (if o.poison then 2 else 0) (some o) pass (s.core c)).regs) ∧
        (Memory.wf s = true → ∀ a, (∀ x ∈ lostBytes s g f, a < x.1 ∨ x.1 + x.2 ≤ a) → readByte t a = readByte s a))

/-- R189: tallies of disjoint parts add modulo 2^64 to the tally of the whole, in any order and grouping, so that the value depends only
on the set of (index, bits) pairs. It is a double, and the rows that a MOVE tallies give exactly these contributions. -/
def Obligations.TalliesAdd : Prop :=
  ∀ (wide : Bool) (a b : List (Nat × Nat)),
    tallyOf wide (a ++ b) = (tallyOf wide a + tallyOf wide b) % 2 ^ 64 ∧ (a.Perm b → tallyOf wide a = tallyOf wide b) ∧
    tallyOf wide a < 2 ^ 64 ∧
    ∀ fmt base xs, isMx fmt = false → tallyRow fmt base xs [] = tallyOf (fmt == 9) (xs.zipIdx.map fun x => (m64 (base + x.2), x.1))

/-- R190, first sentence: for a fixed index a narrow contribution determines its bits, so a change to one element always changes the
tally. -/
def Obligations.TallySeesAChange : Prop :=
  ∀ (i u v : Nat), u < 2 ^ 64 → v < 2 ^ 64 → mix i u false = mix i v false → u = v

/-! ## Launches and long operations -/

/-- R248, R409, R413, R414, R461, R472, R482, R486: an accepted command is answered with the lowest free handle, which now holds its
operation: running at once, or queued behind a launch or a quote that has not ended. Nothing else of the device changes. -/
def Obligations.CommandsCreateHandles : Prop :=
  ∀ (m : Master) (b : List Byte) (s : State) (h : Nat), s.shaped = true → reaches m s = true → freeHandle s = some h →
    (odCheck m 0x2100 5 b s = 0 → exec (.scrub m b) s = .next (accepted m h 4 2 (fun x => { x with params := b }) s)) ∧
    (odCheck m 0x2100 6 b s = 0 →
      (numAt b 0 1 = 0 → exec (.marginHbmTiming m b) s = .next (accepted m h 5 2 (fun x => { x with params := b }) s)) ∧
      (numAt b 0 1 = 1 → exec (.marginHbmVddq m b) s = .next (accepted m h 5 2 (fun x => { x with params := b }) s)) ∧
      (numAt b 0 1 = 2 → exec (.marginNearBond m b) s = .next (accepted m h 5 2 (fun x => { x with params := b }) s)) ∧
      (numAt b 0 1 = 3 → exec (.marginD2dEye m b) s = .next (accepted m h 5 2 (fun x => { x with params := b }) s))) ∧
    (odCheck m 0x2100 8 b s = 0 → exec (.calibrate m b) s = .next (accepted m h 7 2 (fun x => { x with params := b }) s)) ∧
    (odCheck m 0x2100 3 b s = 0 → exec (.fwUpdate m b) s = .next (accepted m h 2 2 (fun x => { x with params := b }) s)) ∧
    (odCheck m 0x2100 4 b s = 0 → quoteRuns s = true → exec (.quote m b) s = .next (accepted m h 3 1 (fun x => { x with params := b }) s)) ∧
    (odCheck m 0x2100 7 b s = 0 → s.power.pstate ≠ 1 → numAt b 0 22 ≠ 0 →
      exec (.selfTest m b) s = .next (accepted m h 6 2 (fun x => { x with params := b }) s)) ∧
    (odCheck m 0x2100 9 b s = 0 → exec (.shadow m b) s = .next { accepted m h 8 2
      (fun x => { x with params := b, shadow := some (shadowOf b) }) s with fleet := { s.fleet with suspect := false } }) ∧
    (odCheck m 0x2100 1 b s = 0 → launchBusy s = true → exec (.launch m b) s = .next (accepted m h 1 1
      (fun x => { x with addr := ofLE b, detail := bytesAt (leBytes 2 0xFFFF) 0 64 }) s)) ∧
    (odCheck m 0x2100 2 b s = 0 → launchBusy s = true → exec (.resumeFrom m b) s = .next (accepted m h 1 1
      (fun x => { x with ctx := ofLE b, isResume := true, keys := keysNow s, detail := bytesAt (leBytes 2 0xFFFF) 0 64 }) s))

/-- R43 to R45: the one queued launch starts when none is active: a plan in order is kept, a faulty one fails the launch with its code;
then the events and the groups' channels are written, every participating sequencer fetches its stream, and its first word runs. -/
def Obligations.LaunchStarts : Prop :=
  (∀ (s : State) (h : Nat), 1 ≤ h → h ≤ 64 → s.mgmt.active = none → (s.handle h).kind = 1 → (s.handle h).state = 1 →
    (s.handle h).isResume = false → (∀ i, 1 ≤ i → i ≤ 64 → i ≠ h → (s.handle i).kind ≠ 1 ∨ (s.handle i).state ≠ 1) →
    (∀ code x u, readPlan ((launching h s).handle h).addr (launching h s) = (code, x, u) → code ≠ 0 →
      exec .launchDequeue s = .next (endLaunch h 8 code u)) ∧
    (∀ x u, readPlan ((launching h s).handle h).addr (launching h s) = (0, x, u) → x.n ≠ 0 →
      exec .launchDequeue s = .next (u.modHandle h fun y => { y with
        phase := .validated, n := x.n, flags := x.flags, cores := x.cores, events := x.events, groups := x.groups }))) ∧
  (∀ (s : State) (h : Nat) (x : Handle), s.mgmt.active = some h → s.handle h = x → x.isResume = false → x.state = 2 →
    (x.phase = .validated → ∃ t, exec .startBroadcast s = .next t ∧ t.chipEvents = x.events.foldl (fun l e => lset 0 e.1 e.2 l) s.chipEvents ∧
      t.chans = x.groups.filterMap (fun e => (readyGroup s e.2).map fun g => (e.1, g)) ∧ t.mem = s.mem ∧
      (∀ c ∈ x.parts, c < s.cores.length → (t.core c).events = BitVec.ofNat 64 (x.cores.getD c { addr := 0, len := 0, events := 0 }).events) ∧
      (h - 1 < s.handles.length → t.handle h = { x with phase := .broadcast })) ∧
    (x.phase = .broadcast → ∃ t, exec .streamFetchStart s = .next t ∧ t.mem = s.mem ∧
      (∀ c ∈ x.parts, c < s.cores.length → t.core c = { s.core c with
        mode := .fetching, streamAddr := (x.cores.getD c { addr := 0, len := 0, events := 0 }).addr
        streamLen := (x.cores.getD c { addr := 0, len := 0, events := 0 }).len, pc := 0, loops := [], vl := 0, ta := List.replicate 8 0
        suspPend := false, stopCode := 0, exit := 0, fence := none, sqWait := none, epochDests := [] }) ∧
      (∀ c, c ∉ x.parts → t.core c = s.core c) ∧ (h - 1 < s.handles.length → t.handle h = { x with phase := .started }))) ∧
  (∀ (s u : State) (c : Nat) (bad : Bool), (s.core c).mode = .fetching →
    touchRead [((s.core c).streamAddr, 8 * (s.core c).streamLen)] s = (bad, u) →
    (bad = false → exec (.streamFetchComplete c) s = .next ((storePieces [(storeAddr c 0,
      readBytes s (s.core c).streamAddr (8 * (s.core c).streamLen))] false u).modCore c fun k => { k with mode := .running })) ∧
    (bad = true → exec (.streamFetchComplete c) s = .next (stopCore c 0x11 (u.modCore c fun k => k.setStat 7))))

/-- R44, R67, R71, R411, R412: a launch whose cores have all stopped is done, failed where one stopped with an error and all its requests
have ended, cancelled where it was being cancelled; a suspending one whose cores have parked or halted is suspended once the records are
written. Each leaves no active launch and no bound channel. -/
def Obligations.LaunchEnds : Prop :=
  ∀ (s : State) (h : Nat) (x : Handle), s.mgmt.active = some h → s.handle h = x → x.phase = .started → h - 1 < s.handles.length →
    ((∀ c ∈ x.parts, (s.core c).mode = .stopped ∨ (s.core c).mode = .off) →
      (x.state = 2 → x.firstStop = none → ∃ t, exec .launchEnd s = .next t ∧ (t.handle h).state = 7 ∧ (t.handle h).result = 0 ∧
        t.mgmt.active = none ∧ t.chans = [] ∧ t.mem = s.mem ∧ t.cores = s.cores) ∧
      (x.state = 2 → x.firstStop.isSome = true → (∀ c ∈ x.parts, (s.core c).slots = []) →
        ∃ t, exec .launchEnd s = .next t ∧ (t.handle h).state = 8 ∧ (t.handle h).result = 9 ∧ t.mgmt.active = none ∧ t.chans = [] ∧
          t.mem = s.mem ∧ t.cores = s.cores) ∧
      (x.state = 6 → (∀ c ∈ x.parts, (s.core c).slots = []) → ∃ t, exec .launchEnd s = .next t ∧ (t.handle h).state = 9 ∧
        t.mgmt.active = none ∧ t.chans = [] ∧ t.mem = s.mem ∧ t.cores = s.cores)) ∧
    ((∀ c ∈ x.parts, (s.core c).mode = .parked ∨ ((s.core c).mode = .stopped ∧ (s.core c).stopCode = 0)) → x.state = 3 →
      x.firstStop = none → ∃ t, exec .suspendRecordsWritten s = .next t ∧ (t.handle h).state = 4 ∧ (t.handle h).isResume = true ∧
        t.mgmt.active = none ∧ t.chans = [] ∧ aget x.ctx t.mgmt.saves = some s.startup.cpStarts ∧ ∀ k ∈ t.cores, k.suspPend = false)

/-- R411 to R414: the four controls of a handle, in the states that allow them, and what follows by itself: an operation obeys, an ended
handle frees itself. -/
def Obligations.Controls : Prop :=
  ∀ (m : Master) (s : State) (h : Nat), 1 ≤ h → h ≤ 64 →
    (reaches m s = true → (odCheck m (0x2200 + h) 3 [1] s = 0 → (s.handle h).state = 2 → (s.handle h).kind = 4 →
        exec (.suspend m h) s = .next ((setResp m 0 [] s).modHandle h fun x => { x with state := 3, result := 0xFFFF })) ∧
      (odCheck m (0x2200 + h) 3 [2] s = 0 → (s.handle h).state = 4 → (s.handle h).kind ≠ 1 →
        exec (.resume m h) s = .next ((setResp m 0 [] s).modHandle h fun x => { x with state := 2, result := 0xFFFF })) ∧
      (odCheck m (0x2200 + h) 3 [3] s = 0 → ((s.handle h).state = 1 ∨ (s.handle h).state = 4) →
        exec (.cancel m h) s = .next (setHandle h 9 0 (setResp m 0 [] s))) ∧
      (odCheck m (0x2200 + h) 3 [3] s = 0 → (s.handle h).state = 2 → (s.handle h).kind = 4 →
        exec (.cancel m h) s = .next ((setResp m 0 [] s).modHandle h fun x => { x with state := 6, result := 0xFFFF })) ∧
      (odCheck m (0x2200 + h) 3 [4] s = 0 → [4, 7, 8, 9].contains (s.handle h).state = true →
        exec (.release m h) s = .next ((setResp m 0 [] s).modHandle h fun _ => {}))) ∧
    ([7, 8, 9].contains (s.handle h).state = true → exec (.handleLingerExpiry h) s = .next (s.modHandle h fun _ => {})) ∧
    ((s.handle h).kind ≠ 1 → (s.handle h).state = 3 → exec (.operationSuspendObeyed h) s = .next (setHandle h 4 0 s)) ∧
    ((s.handle h).kind ≠ 1 → (s.handle h).state = 6 → (∀ i, (s.handle i).kind ≠ 3) →
      exec (.operationCancelObeyed h) s = .next (setHandle h 9 0 (s.modHandle h fun x => { x with quote := [] })))

/-- R248, R411, R414, R461, R481, R482, R485: how the other operations end. `setHandle` puts a handle into a state with a result and sends
0xFF11 for one that is suspended or has ended; other handles keep what they hold. -/
def Obligations.OperationsEnd : Prop :=
  (∀ (s : State) (h st res : Nat), h - 1 < s.handles.length → ((setHandle h st res s).handle h).state = st ∧
    ((setHandle h st res s).handle h).result = (if st = 7 ∨ st = 8 then res else 0xFFFF) ∧
    (∀ i, i - 1 ≠ h - 1 → (setHandle h st res s).handle i = s.handle i) ∧ (setHandle h st res s).mem = s.mem) ∧
  (∀ (s : State) (h : Nat), (s.handle h).state = 2 →
    ((s.handle h).kind = 4 → s.ecc = [] → exec (.scrubComplete h) s = .next (setHandle h 7 0 (s.modHandle h fun x => { x with progress := 1000 }))) ∧
    (∀ b, (s.handle h).kind = 5 → exec (.marginComplete h b) s = .next (setHandle h 7 0
      ({ s with margin := marginRecord s (numAt (s.handle h).params 0 1) (numAt (s.handle h).params 2 2) b }.modHandle h fun x =>
        { x with progress := 1000 }))) ∧
    ((s.handle h).kind = 7 → exec (.calibrationComplete h) s = .next (setHandle h 7 0
      ((((List.range 32).filter (bitAt (numAt (s.handle h).params 0 4))).foldl (fun t p => rebuildTable p t) s).modHandle h fun x =>
        { x with progress := 1000 }))) ∧
    ((s.handle h).kind = 3 → s.sec.aliasReady = true → (∀ i, 1 ≤ i → i ≠ h → (s.handle i).kind ≠ 3) → 1 ≤ h →
      exec (.quoteComplete h) s = .next (setHandle h 7 0 (s.modHandle h fun x => { x with
        progress := 1000, quote := x.quote ++ bytesAt (Config.aliasSign s.sec.aliasSeeds x.quote) 0 29792 }))) ∧
    (∀ site, (s.handle h).kind = 6 → testSites (s.handle h) = [site] → (s.handle h).tested = [] → bitAt (numAt (s.handle h).params 23 1) 0 = false →
      withinSpares (s.fleet.sites.getD site {}) = true →
      ∃ t, exec (.selfTestSiteDone h site { lanes := [], columns := [], nearRows := [], hard := false }) s = .next t ∧ t.fleet = s.fleet ∧
        (h - 1 < s.handles.length → (t.handle h).state = 7 ∧ (t.handle h).passed = (s.handle h).passed + 1 ∧ (t.handle h).tested = [site])) ∧
    (∀ img, updating s = some h → s.mgmt.staged = some img →
      ((s.handle h).commit = false → imageCheck s.sec.fused img = 0 → exec .fwUpdateVerified s = .next
        { s.modHandle h (fun x => { x with commit := true }) with sec := { s.sec with fused := max s.sec.fused (min 64 (numAt img 0x0C 4)) } }) ∧
      (∀ n, (s.handle h).commit = false → imageCheck s.sec.fused img = n → n ≠ 0 →
        exec .fwUpdateVerified s = .next (setHandle h 8 (updateResult n) s)) ∧
      ((s.handle h).commit = true → ∃ t, exec .fwUpdateCommitted s = .next t ∧ t.sec.body = some img ∧
        t.sec.header = bytesAt img 0 256 ∧ t.sec.fwVersion = numAt img 8 4 ∧ t.sec.svn = numAt img 0x0C 4 ∧ t.sec.torn = false))) ∧
  (∀ (s : State) (kind mask : Nat) (b : List Byte), (kind ≠ 3 → marginRecord s kind mask b = (b.map (marginEdge kind)).take 49152) ∧
    (∀ i g, (eyeGroups mask)[i]? = some g → 2 * i + 1 < 49152 → spareWireUsed s g = true →
      (marginRecord s 3 mask b).getD (2 * i) 0 = 0x80 ∧ (marginRecord s 3 mask b).getD (2 * i + 1) 0 = 0x80)) ∧
  (∀ (kind : Nat) (x : Byte), -marginSpan kind ≤ (marginEdge kind x).toInt ∧ (marginEdge kind x).toInt ≤ marginSpan kind)

/-- R472 to R474, R477: a shadow comparison reads and sends its table when its event rises, and answers the peer's table of a step with its
own. Once both tables of a step are there they are compared: a tally that differs fails it with 0x0201, the last step needed ends it done.
It sends again until the peer's table has come, and fails with 0xFF97 when that stays out. -/
def Obligations.ShadowComparisons : Prop :=
  ∀ (s : State) (h : Nat) (o : ShadowOp), (s.handle h).shadow = some o → (s.handle h).kind = 8 → (s.handle h).state = 2 →
    h - 1 < s.handles.length →
    (∀ n bad u own, chipEvent s o.ev = n → touchRead [(o.table, o.size)] s = (bad, u) → readBytes s o.table o.size = own →
      (aget n o.theirs = none → exec (.shadowStep h) s = .next (sendTable { o with step := n, own := aset n own o.own } n
        (u.modHandle h fun x => { x with shadow := some { o with step := n, own := aset n own o.own } }))) ∧
      (∀ b, aget n o.theirs = some b → o.judged.contains n = false → ∃ t, exec (.shadowStep h) s = .next t ∧ t.mem = s.mem ∧
        t.cores = s.cores ∧ judgedStep h n o own b t)) ∧
    (∀ n b e, s.inbox.find? (tableFrom o n b) = some e →
      (aget n o.own = none → exec (.shadowTableReceive h n b) s = .next ({ s with inbox := s.inbox.erase e }.modHandle h fun x =>
        { x with shadow := some { o with theirs := aset n b o.theirs } })) ∧
      (∀ own, aget n o.own = some own → o.judged.contains n = false → ∃ t, exec (.shadowTableReceive h n b) s = .next t ∧ t.mem = s.mem ∧
        t.cores = s.cores ∧ judgedStep h n o own b t)) ∧
    (aget o.step o.theirs = none → exec (.shadowResendTimer h) s = .next (sendTable o o.step s)) ∧
    (aget o.step o.theirs = none → (aget o.step o.own).isSome = true → exec (.shadowStepLimit h) s = .next
      (emcy 0xFF97 [h, o.peer % 256, o.peer / 256, 2, b2n o.only] (setHandle h 8 0x0202 s)))

/-! ## Writes of the dictionary -/

/-- R205, R212, R239, R300, R318, R487: an accepted write (R397 gives 0) of the tables that have rows of their own: the success is
answered, and the table takes the value. A region whose mode changes loses what it held (R266; the bytes it then reads are free, log 5), and no
other byte of memory changes. A new job tag takes the membership away; a new membership sets the epoch and the set, and where no group is
formed and no comparison is held it changes nothing else (R469, R475). -/
def Obligations.TableWrites : Prop :=
  ∀ (m : Master) (b : List Byte) (s : State), reaches m s = true →
    (odCheck m 0x2450 2 b s = 0 → exec (.windowEntryWrite m b) s = .next { setResp m 0 [] s with
      windows := aset (odGet s 0x2450 1) { base := numAt b 0 6, tag := numAt b 6 2, length := numAt b 8 4, perm := numAt b 12 1, ftag := numAt b 13 1 } s.windows }) ∧
    (odCheck m 0x2450 3 b s = 0 → exec (.windowRevoke m b) s = .next { setResp m 0 [] s with
      windows := s.windows.map fun w => (w.1, if w.2.tag = ofLE b then { w.2 with length := 0, rejected := false } else w.2) }) ∧
    (odCheck m 0x2471 2 b s = 0 → ofLE b = 1 → exec (.refusedByClear m b) s = .next { setResp m 0 [] s with refusedBy := [] }) ∧
    (∀ slot, slot < 8 → odCheck m 0x2810 (slot + 1) b s = 0 →
      exec (.keySlotWrite m slot b) s = .next (odSet 0x2810 (slot + 1) (ofLE b) (setResp m 0 [] s))) ∧
    (∀ sub, odCheck m 0x2700 sub b s = 0 → exec (.checkPolicyWrite m sub b) s = .next (odSet 0x2700 sub (ofLE b) (setResp m 0 [] s))) ∧
    (∀ slot, slot < 4 → odCheck m 0x2C20 (slot + 1) b s = 0 → exec (.controllerKeyWrite m slot b) s = .next { setResp m 0 [] s with
      sec := { s.sec with keys := s.sec.keys.set slot b, counters := s.sec.counters.set slot 0 } }) ∧
    (∀ r, r < 64 → odCheck m 0x2600 (r + 1) b s = 0 →
      (regionMode s r = ofLE b → exec (.hbmRegionsWrite m r b) s = .next (odSet 0x2600 (r + 1) (ofLE b) (setResp m 0 [] s))) ∧
      (regionMode s r ≠ ofLE b → Memory.wf s = true → ∃ t, exec (.hbmRegionsWrite m r b) s = .next t ∧ t.od = (odSet 0x2600 (r + 1) (ofLE b) s).od ∧
        t.cores = s.cores ∧ (∀ a, a / regionSize ≠ r → readByte t a = readByte s a) ∧
        (∀ a, a / regionSize = r → readByte t a = Config.freeByte (s.free + a)))) ∧
    (odCheck m 0x2300 2 b s = 0 → exec (.jobTagWrite m b) s = .next (odSet 0x2300 2 (ofLE b)
      { setResp m 0 [] s with fleet := { s.fleet with epoch := 0, members := [], reported := [] } })) ∧
    (odCheck m 0x2300 3 b s = 0 → ∃ t, exec (.membershipWrite m b) s = .next t ∧ t.mem = s.mem ∧
      t.fleet.epoch = numAt b 0 4 ∧ t.fleet.members = memberList (b.drop 4) ∧
      ((∀ g < 16, (s.group g).state ≠ 1 ∧ (s.group g).state ≠ 2) → (∀ i, (s.handle (i + 1)).shadow = none) → t = { setResp m 0 [] s with
        fleet := { s.fleet with epoch := numAt b 0 4, members := memberList (b.drop 4), reported := [] } }))

/-- R319, R321, R323: creating a group gives it its rank, digest and mode, and its slots on every XD; deleting it frees them; clearing a fault
forms it anew. FORM from a level peer is compared, while the group forms and when it is READY (log 56), and the timer sends FORM to every
level peer. -/
def Obligations.GroupCommands : Prop :=
  (∀ (m : Master) (g : Nat) (s : State), reaches m s = true → g < 16 → s.shaped = true →
    (odCheck m (grpObj g) 9 [1] s = 0 → ∃ t, exec (.groupCreate m g) s = .next t ∧ t.mem = s.mem ∧ t.cores = s.cores ∧
      ((t.group g).state = 1 ∨ (t.group g).state = 2) ∧ (t.group g).digest = groupDigest s g ∧
      (t.group g).rank = (rankOf s g (own s) (ownDom s g)).getD 0 ∧
      (odGet s (grpObj g) 7 = 0 → (t.group g).mode = 1 ∧ t.slotsFree = s.slotsFree) ∧
      (odGet s (grpObj g) 7 ≠ 0 → (∀ n ∈ s.slotsFree, odGet s (grpObj g) 7 ≤ n) →
        (t.group g).mode = 0 ∧ (t.group g).slots = odGet s (grpObj g) 7 ∧ t.slotsFree = s.slotsFree.map (· - odGet s (grpObj g) 7)) ∧
      (odGet s (grpObj g) 7 ≠ 0 → (∃ n ∈ s.slotsFree, n < odGet s (grpObj g) 7) →
        (t.group g).mode = 2 ∧ (t.group g).slots = 0 ∧ t.slotsFree = s.slotsFree)) ∧
    (odCheck m (grpObj g) 9 [2] s = 0 → exec (.groupDelete m g) s = .next { (setResp m 0 [] s).modGroup g (fun _ => {}) with
      slotsFree := s.slotsFree.map (· + (s.group g).slots), xflows := s.xflows.filter fun x => x.g != g }) ∧
    (odCheck m (grpObj g) 9 [3] s = 0 → ∃ t, exec (.groupClearFault m g) s = .next t ∧ t.slotsFree = s.slotsFree ∧ t.mem = s.mem ∧
      (t.group g).reason = 0 ∧ (t.group g).formed = [] ∧ (t.group g).state = (if levelPeers s g = [] then 2 else 1))) ∧
  (∀ (p : Packet) (o : Bool) (e : Ejected) (s : State) (g r : Nat), s.shaped = true → (s.inbox.find? fun e => e.pkt == p && e.fromE.isSome == o) = some e →
    p.op = 0x1F → ((List.range 16).find? fun g => ((s.group g).state == 1 || (s.group g).state == 2) && odGet s (grpObj g) 1 == fld p.arg 0 16) = some g →
    senderRank s g p = some r → p.jobtag = odGet s 0x2300 2 → (levelPeers s g).contains r = true →
    (fld p.arg 16 32 ≠ (s.group g).digest → ∃ t, exec (.form o p) s = .next t ∧ t.inbox = s.inbox.erase e ∧
      (t.group g).state = 3 ∧ (t.group g).reason = 1 ∧ (t.group g).faultRank = r) ∧
    (fld p.arg 16 32 = (s.group g).digest → ∃ t, exec (.form o p) s = .next t ∧ t.inbox = s.inbox.erase e ∧
      (t.group g).formed.contains r = true ∧ ((t.group g).state = 1 ∨ (t.group g).state = 2) ∧ (∀ h, h ≠ g → t.group h = s.group h))) ∧
  (∀ (s : State) (g : Nat), g < 16 → ((s.group g).state = 1 ∨ (s.group g).state = 2) →
    (∀ h < 16, h ≠ g → (s.group h).state ≠ 1 ∧ (s.group h).state ≠ 2) →
    exec .formTimer s = .next ((levelPeers s g).foldl (fun u r => sendForm g r u) s))

/-- R431 to R433, R440, R441, R500, R503, R508: the writes that change the device's mode. -/
def Obligations.ModeWrites : Prop :=
  ∀ (m : Master) (b : List Byte) (s : State), reaches m s = true →
    (odCheck m 0x2A20 1 [2] s = 0 → s.power.pstate ≠ 2 → ∃ t, exec (.enterBrumate m) s = .next t ∧ t.power.pstate = 2 ∧
      t.fab.fwd = 0 ∧ t.fleet.leaving = true ∧ t.mem = s.mem ∧ t.cores = s.cores ∧ t.handles = s.handles) ∧
    (odCheck m 0x2A20 1 [0] s = 0 → s.power.pstate = 2 → ∃ t, exec (.leaveBrumate m) s = .next t ∧ t.power.pstate = 3 ∧
      t.fleet.leaving = false ∧ t.power.refresh = List.replicate 4 8 ∧ t.mem = s.mem ∧ t.cores = s.cores ∧ t.handles = s.handles) ∧
    (odCheck m 0x2D00 1 b s = 0 → ∃ t, exec (.testModeEnter m b) s = .next t ∧ t.test.mode = true ∧ t.cores = List.replicate 160 {} ∧
      t.startup.computeUp = false ∧ t.mgmt.sessions = List.replicate 4 {} ∧ t.sec.aliasReady = false ∧ t.sec.aliasSeeds = [] ∧
      t.sec.kemSeed = [] ∧ t.sec.keys = s.sec.keys ∧ t.sec.fused = s.sec.fused) ∧
    (odCheck m 0x2D10 1 b s = 0 → ∃ t, exec (.loopbackPortsWrite m b) s = .next t ∧ t.od = (odSet 0x2D10 1 (ofLE b) s).od ∧
      t.mem = s.mem ∧ t.cores = s.cores ∧ ((∀ p < 32, loopedBack s p = bitAt (ofLE b) p) → t = odSet 0x2D10 1 (ofLE b) (setResp m 0 [] s))) ∧
    (∀ p u, p < u.ports.length →
      (loopedBack u p = false → (u.port p).carries = false → ((setLoopback p true u).port p).safety = 3 ∧ ((setLoopback p true u).port p).bring = 1 ∧
        ((setLoopback p true u).port p).loopState = 1 ∧ ∀ q, q ≠ p → (setLoopback p true u).port q = u.port q) ∧
      (loopedBack u p = false → (u.port p).carries = true → ((setLoopback p true u).port p).carries = false ∧
        ((setLoopback p true u).port p).downReason = 1 ∧ ((setLoopback p true u).port p).loopState = 1) ∧
      (loopedBack u p = true → ((setLoopback p false u).port p).safety = (if txEnabled u p then 2 else 4) ∧ ((setLoopback p false u).port p).bring = 0 ∧
        ((setLoopback p false u).port p).loopState = 0 ∧ ∀ q, q ≠ p → (setLoopback p false u).port q = u.port q)) ∧
    (odCheck m 0x2D10 2 b s = 0 → exec (.eLoopbackWrite m b) s = .next (odSet 0x2D10 2 (ofLE b) (setResp m 0 [] s))) ∧
    (odCheck m 0x2100 0xA b s = 0 → ∃ t, exec (.tripRelease m b) s = .next t ∧ t.power.tripped = false ∧ t.power.thermtripN = false ∧
      t.power.pin = false ∧ t.power.pstate = 1 ∧ t.startup.steps = [4, 5, 6, 7, 8, 9, 10, 11]) ∧
    (odCheck m 0x2100 0xB b s = 0 → exec (.cautiousAck m b) s = .next { setResp m 0 [] s with power := { s.power with cautious := false } })

/-- R39, R410, R450 to R452, R455: the resets. Each stops what it restarts and starts the steps of its kind; what lies outside it stays. -/
def Obligations.Resets : Prop :=
  ∀ (m : Master) (a : Nat) (s : State), reaches m s = true →
    (odCheck m 0x2100 0xC (leBytes 1 1 ++ leBytes 1 a) s = 0 → coveredBy s 1 = false → ∃ t, exec (.chipWarmReset m a) s = .next t ∧
      t.startup.steps = [1, 2, 3, 4, 5, 6, 7, 8, 9, 10, 11] ∧ t.startup.kind = 1 ∧ t.mgmt.al = 1 ∧ t.fab.fwd = 0 ∧
      t.cores = List.replicate 160 {} ∧ t.handles = List.replicate 64 {} ∧ t.groups = List.replicate 16 {} ∧
      (∀ e ∈ s.mem, e.1 < nearBase → e ∈ t.mem) ∧ t.mram = s.mram) ∧
    (odCheck m 0x2100 0xC (leBytes 1 2 ++ leBytes 1 a) s = 0 → coveredBy s 2 = false → s.startup.needFull = false →
      ∃ t, exec (.chipWarmResetFwdKept m a) s = .next t ∧
      t.startup.steps = [1, 2, 3, 4, 6, 7, 8, 9] ∧ t.startup.kind = 2 ∧ t.mgmt.al = 1 ∧ t.fab.fwd = s.fab.fwd ∧
      t.cores = List.replicate 160 {} ∧ t.handles = List.replicate 64 {} ∧ (∀ e ∈ s.mem, e.1 < nearBase → e ∈ t.mem)) ∧
    (odCheck m 0x2100 0xC (leBytes 1 3 ++ leBytes 1 a) s = 0 → coveredBy s 3 = false → ∃ t, exec (.computePlaneReset m a) s = .next t ∧
      t.startup.steps = [7, 8, 9] ∧ t.startup.kind = 3 ∧ t.mgmt.al ≠ 8 ∧ t.cores = List.replicate 160 {} ∧ t.fab.fwd = s.fab.fwd ∧
      t.groups.length = s.groups.length ∧ (∀ e ∈ s.mem, e.1 < nearBase → e ∈ t.mem) ∧ (∀ e ∈ t.mem, e ∈ s.mem ∧ e.1 < nearBase)) ∧
    (odCheck m 0x2100 0xC (leBytes 1 4 ++ leBytes 1 a) s = 0 → restartsFwd s = false → s.startup.fpSteps = [] →
      ∃ t, exec (.forwardingPlaneReset m a) s = .next t ∧ t.fab.fwd = 2 ∧ t.startup = { s.startup with fpSteps := [10] } ∧
      t.mem = s.mem ∧ t.cores = s.cores ∧ t.handles = s.handles ∧ t.slotsFree = s.slotsFree) ∧
    (odCheck m 0x2100 0xC (leBytes 1 5 ++ leBytes 1 a) s = 0 → coveredBy s 5 = false → exec (.coreReset m a) s =
      .next (coreReset (ofLE (leBytes 1 a)) (setResp m 0 [] s))) ∧
    (∀ c u, (coreReset c u).fab = u.fab ∧ (coreReset c u).handles = u.handles ∧ (∀ k, k ≠ c → (coreReset c u).core k = u.core k) ∧
      (c < u.cores.length → ((coreReset c u).core c).mode = .off ∧ ((coreReset c u).core c).events = 0 ∧
        ((coreReset c u).core c).vlmax = (u.core c).vlmax) ∧
      ∀ x, x ∈ (coreReset c u).mem ↔ x ∈ u.mem ∧ (x.1 < storeAddr c 0 ∨ storeAddr c 0 + storeSize ≤ x.1)) ∧
    (odCheck m 0x2100 0xC (leBytes 1 6 ++ leBytes 1 a) s = 0 → restartsMd s = false → s.startup.mgSteps = [] →
      ∃ t, exec (.managementReset m a) s = .next t ∧ t.startup.mgSteps = [1, 2, 3] ∧ t.startup.preopReady = false ∧ t.mgmt.al = 1 ∧
        t.mem = s.mem ∧ t.cores = s.cores ∧ t.fab = s.fab ∧ t.groups = s.groups) ∧
    (restartsMd s = false → s.startup.mgSteps = [] → ∃ t, exec .mdWatchdogExpiry s = .next t ∧ t.startup.mgSteps = [1, 2, 3] ∧
      t.startup.preopReady = false ∧ t.mgmt.al = 1 ∧ t.mem = s.mem ∧ t.cores = s.cores ∧ t.fab = s.fab ∧ t.groups = s.groups)

/-- R11, R70, R397, R416: access through the dictionary and to register words. A read answers with the value, a plain write sets it, a
refused write leaves no trace but its answer, a counter is cleared by 0. -/
def Obligations.DictionaryAccess : Prop :=
  (∀ (m : Master) (i u : Nat) (b : List Byte) (o : Obj) (s : State), reaches m s = true → findObj i u = some o → hidden m o = false →
    hasIndex i = true →
    (computed m s i u = none → o.acc ≠ .wo → exec (.sdoRequest m false false i u b) s =
      .next (setResp m 0 (leBytes o.ty.size (odGet s i u)) s)) ∧
    (∀ v, computed m s i u = some v → o.acc ≠ .wo → exec (.sdoRequest m false false i u b) s = .next (setResp m 0 v s)) ∧
    (∀ c, odCheck m i u b s = c → c ≠ 0 → exec (.sdoRequest m true false i u b) s = .next (setResp m c [] s)) ∧
    ((o.life = .stored ∨ o.life = .job) → (o.wh = .any ∨ o.wh = .preop) → i ≠ 0x2600 → i ≠ 0x2300 → odCheck m i u b s = 0 →
      exec (.sdoRequest m true false i u b) s = .next (odSet i u (ofLE b) (setResp m 0 [] s))) ∧
    (o.life = .counter → i ≠ 0x2914 → i ≠ 0x2924 → odCheck m i u b s = 0 →
      exec (.counterClear m i u b) s = .next (odSet i u 0 (setResp m 0 [] s)))) ∧
  (∀ (m : Master) (i u : Nat) (b : List Byte) (s : State), hasIndex i = false → odCheck m i u b s = 0x06020000) ∧
  (∀ (m : Master) (i u : Nat) (b : List Byte) (o : Obj) (s : State), findObj i u = some o → hasIndex i = true → hidden m o = false →
    (o.acc = .ro → odCheck m i u b s = 0x06010002) ∧
    (o.acc = .rw → b.length ≠ o.ty.size → odCheck m i u b s = 0x06070010) ∧
    (o.acc = .rw → b.length = o.ty.size → o.wh = .preop → s.mgmt.al ≠ 2 → odCheck m i u b s = 0x08000022)) ∧
  (∀ (s : State) (c a : Nat) (v : Word), c < coreCount s → coreCount s ≤ 160 → a = coreRegBase + 0x10000 * c →
    exec (.w1cWrite .unprivileged a v) s = .next (s.modCore c fun k => { k with stat := k.stat &&& ~~~(BitVec.ofNat 10 v.toNat) }) ∧
    exec (.registerWrite .unprivileged (a + 0x10) v) s = .next (s.modCore c fun k => { k with waitLimit := BitVec.ofNat 32 v.toNat }) ∧
    exec (.registerWrite .unprivileged (a + 0x04) v) s = .next s)

/-! ## EtherCAT, files, sessions -/

/-- R389, R390, R393, R394: a request for a state that is refused leaves it and sets the code; an accepted one takes it, Init only once no
handle holds it back; a sample takes every mapped object in order. -/
def Obligations.AlTransitions : Prop :=
  (∀ (s : State) (ack sm3 : Bool) (sync0 : Nat), (s.mgmt.al = 3 ∨ firmwareUp s = true) →
    (∀ want inputs c i, (want, inputs, i) ∈ [(2, true, Instr.alRequestPreop ack), (4, inputsOk sm3 sync0 s, .alRequestSafeop ⟨ack, sm3, sync0⟩),
        (8, true, .alRequestOp ack), (3, true, .alRequestBootstrap ack)] → alRefusal want inputs s = c → c ≠ 0 →
      exec i s = .next { s with mgmt := { s.mgmt with alErr := true, alCode := c } }) ∧
    (s.mgmt.al = 2 → (sm3 = false ∨ (odGet s 0x1C33 1 = 2 ∧ sync0 ≠ odGet s 0x1C33 2)) → exec (.alRequestSafeop ⟨ack, sm3, sync0⟩) s =
      .next { s with mgmt := { s.mgmt with alErr := true, alCode := 0x001E } }) ∧
    (alRefusal 2 true s = 0 → s.mgmt.al = 1 → ∃ t, exec (.alRequestPreop ack) s = .next t ∧ t.mgmt.al = 2 ∧ t.mem = s.mem ∧ t.handles = s.handles) ∧
    (alRefusal 4 (inputsOk sm3 sync0 s) s = 0 → s.mgmt.al = 2 → exec (.alRequestSafeop ⟨false, sm3, sync0⟩) s = .next { s with mgmt := { s.mgmt with al := 4 } }) ∧
    (alRefusal 8 true s = 0 → s.mgmt.al = 4 → exec (.alRequestOp false) s = .next { s with mgmt := { s.mgmt with al := 8 } }) ∧
    (s.mgmt.al ≠ 1 → (∀ i, (s.handle (i + 1)).state = 0) → (∀ x ∈ s.handles, x.state = 0 ∧ x.kind = 0) →
      exec (.alRequestInit false) s = .next { s with mgmt := { s.mgmt with al := 1, alPending := none } }) ∧
    (s.mgmt.al = 1 → (∀ i, (s.handle (i + 1)).state = 0) → (∀ x ∈ s.handles, x.state = 0 ∧ x.kind = 0) →
      exec (.alRequestBootstrap false) s = .next { s with mgmt := { s.mgmt with al := 3, alPending := none } })) ∧
  (∀ s : State, (s.mgmt.al = 4 ∨ s.mgmt.al = 8) → ∃ t, exec .txpdoSample s = .next t ∧ t = { s with mgmt := { s.mgmt with sm3 := t.mgmt.sm3 } } ∧
    (pdoMap s = [0x20500108, 0x20500410] → t.mgmt.sm3 = leBytes 1 s.mgmt.al ++ leBytes 2 s.power.lastWatts))

/-- R203, R399, R454, R464, R481: coalesced emergencies go out as one 0xFF6F, stored settings are written through, files are taken by their
rules, and a recovery image is judged. -/
def Obligations.MailboxAndFiles : Prop :=
  (∀ s : State, mailboxOff s = false → s.mgmt.heldEmcy = [] → 0 < s.mgmt.coalesced → s.mgmt.coalesced < 65536 → (recentEmcy s).length < 8 →
    exec .emcyCoalescedReport s = .next (emcyPut 0xFF6F [s.mgmt.coalesced % 256, s.mgmt.coalesced / 256]
      { s with mgmt := { s.mgmt with coalesced := 0 } })) ∧
  (∀ s : State, exec .storedSettingWriteThrough s = .next { s with mram := s.od.filter fun e => lifeOf e.1 == .stored }) ∧
  (∀ (s : State) (data : List Byte), data.length ≤ 16777216 →
    (s.mgmt.al = 3 → exec (.foeWrite "zp160-recovery" 0 data) s = .next
      { s with mgmt := { s.mgmt with staged := some data, recovering := true, foeAnswer := 1, foeText := "" } }) ∧
    (s.mgmt.al = 2 → firmwareUp s = true → exec (.foeWrite "zp160-update" 0 data) s = .next
      { s with mgmt := { s.mgmt with staged := some data, recovering := false, foeAnswer := 0, foeText := "" } }) ∧
    (s.mgmt.al = 3 → exec (.foeWrite "zp160-update" 0 data) s = .next
      { s with mgmt := { s.mgmt with foeAnswer := 0x8002, foeText := "" } })) ∧
  (∀ (s : State) (img : List Byte) (n : Nat), s.mgmt.recovering = true → s.mgmt.staged = some img → imageCheck s.sec.fused img = n →
    (n ≠ 0 → exec .recoveryVerifyDone s = .next { s with mgmt := { s.mgmt with
      recovering := false, staged := none, foeAnswer := 0x800B, foeText := checkName n } }) ∧
    (n = 0 → coveredBy s 9 = false → ∃ t, exec .recoveryVerifyDone s = .next t ∧ t.sec.body = some img ∧ t.mgmt.recovering = false ∧
      t.startup.steps = [1, 2, 3, 4, 5, 6, 7, 8, 9, 10, 11] ∧ t.startup.kind = 9))

/-- R400 to R403, R484, R487 to R489: sessions. The last slice of an OPEN whose checks pass opens the lowest free session; KEEPALIVE is
answered, READ serves a value, WRITE changes it, CLOSE and the idle timer end the session, and a failed check of R488 is counted. -/
def Obligations.Sessions : Prop :=
  (∀ (s : State) (msg : SdoMsg) (b : List Byte), msg.type = 1 → udpListens s = true → sdoFieldsOk msg = true → msg.session = 0 →
    zeros msg.tag = true → msg.len = msg.data.length → msg.offset + msg.data.length ≤ 32768 →
    (s.mgmt.reasm = [] → s.mgmt.reasmTimes = [] → assembled [(msg.offset, msg.data)] = none →
      exec (.openSlice msg) s = .next { s with mgmt := { s.mgmt with
        reasmTimes := [s.now], reasm := [{ addr := msg.addr, port := msg.port, slices := [(msg.offset, msg.data)] }] } }) ∧
    (∀ r, s.mgmt.reasm = [r] → r.addr = msg.addr → r.port = msg.port → assembled (r.slices ++ [(msg.offset, msg.data)]) = some b →
      (∀ c, openCheck (b.take openSize) s = c → 1 ≤ c → ∃ t, exec (.openSlice msg) s = .next t ∧ t.mgmt.reasm = [] ∧
        t.sec = s.sec ∧ ∀ n, (t.session n).isOpen = (s.session n).isOpen) ∧
      (openCheck (b.take openSize) s = 0 → ∀ n, 1 ≤ n → n ≤ 4 → (s.session n).isOpen = false → (∀ k, 1 ≤ k → k < n → (s.session k).isOpen = true) →
        s.mgmt.sessions.length = 4 → ∃ t, exec (.openSlice msg) s = .next t ∧ (t.session n).isOpen = true ∧ (t.session n).slot = numAt (b.take openSize) 4 1 ∧
          (t.session n).key = sessionKey s (b.take openSize) n ∧ t.sec.counters = s.sec.counters.set (numAt (b.take openSize) 4 1) (numAt (b.take openSize) 8 8)))) ∧
  (∀ (s : State) (addr : List Byte) (port : Nat), exec (.openReassemblyTimeout addr port) s =
    .next { s with mgmt := { s.mgmt with reasm := s.mgmt.reasm.filter fun r => !(r.addr == addr && r.port == port) } }) ∧
  (∀ (s : State) (msg : SdoMsg), udpListens s = true → sessionOk msg s = true → seqVerdict (s.session msg.session) msg.seq = 0 →
    (msg.type = 8 → exec (.keepalive msg) s = .next (replyTo msg 5 [] s)) ∧
    (msg.type = 9 → exec (.closeSession msg) s = .next (emcy 0xFF13 [msg.session, 2, 0, 0, 0]
      ((replyTo msg 5 [] s).modSession msg.session fun _ => {}))) ∧
    (∀ v, msg.type = 3 → msg.flags = 0 → msg.offset = 0 → msg.len ≤ 1024 → odRead (.session msg.session) msg.index msg.sub s = (0, v) →
      exec (.sessionRead msg) s = .next (replyTo msg 5 (v.take msg.len) (s.modSession msg.session fun y => { y with
        snap := some (256 * msg.index + msg.sub, 0, v.length, v), snapTime := s.now }))) ∧
    (msg.type = 4 → msg.flags = 0 → msg.offset = 0 → msg.len = msg.data.length → msg.len ≤ 1024 →
      odCheck (.session msg.session) msg.index msg.sub msg.data s = 0 → exec (.sessionWrite msg) s =
        .next (odWrite (.session msg.session) msg.index msg.sub msg.data (replyTo msg 5 (writeAnswer msg.index msg.sub s) s))) ∧
    (∀ c, msg.type = 4 → msg.flags = 0 → msg.offset = 0 → msg.len = msg.data.length → msg.len ≤ 1024 →
      odCheck (.session msg.session) msg.index msg.sub msg.data s = c → c ≠ 0 → exec (.sessionWrite msg) s =
        .next (replyTo msg 6 (leBytes 4 c) s))) ∧
  (∀ (s : State) (n : Nat), (s.session n).isOpen = true → exec (.sessionIdleExpiry n) s =
    .next (emcy 0xFF13 [n, 1, 0, 0, 0] (s.modSession n fun _ => {}))) ∧
  (∀ s : State, s.sec.aliasReady = false → s.sec.kemSeed ≠ [] → firmwareUp s = true → ∃ t, exec (.aliasCertReady true) s = .next t ∧
    t.sec.aliasReady = true ∧ t.sec.certTag = measurement s ++ leBytes 4 s.sec.svn ∧ t.mgmt = s.mgmt)

/-! ## The fabric -/

/-- R281 to R287, R361, R362: packets stand in superframes as data words, which give back the packet and its trailer. One that arrives on a
port that carries packets is discarded and counted where the FEC, the trailer, the CRC or the header fails, delivered to its endpoint, or
forwarded on the next hop's port with its hop index raised, its buffer cells coming free; what has gone out of one that then proves broken
ends with ABORT. It is discarded, counted at the egress port, where that link is down; an overdue flow is given up to its oldest held
packet; a link-state notice sets its origin's bits. That a packet the ring no longer leads on is discarded in the same way is the model's
choice (log 115). -/
def Obligations.PacketsOnAPort : Prop :=
  (∀ (k : Packet) (tr : Trailer) (rest : List Nat), okPacket k = true → readPacket (packetWords k tr ++ rest) = some (k, tr, rest)) ∧
  (∀ (ctl : Nat) (data : List Nat), ctl < 2 ^ 64 → data.length ≤ 159 → (∀ w ∈ data, w < 2 ^ 64) →
    (superframe ctl data).length = 1280 ∧ frameParts (superframe ctl data) = (ctl, data ++ List.replicate (159 - data.length) 0)) ∧
  (∀ (s : State) (p : Nat) (k : Packet), s.fab.fwd = 1 → portCarries s p = true →
    (∀ tr, exec (.packetReceive p k tr true) s = .next (odInc 0x2420 (p + 1) 4 1 (passCells p k s))) ∧
    exec (.packetReceive p k .abortMark false) s = .next (passCells p k s) ∧
    (∀ tr, tr ≠ .abortMark → k.h + k.hc ≠ 7 → exec (.packetReceive p k tr false) s = .next (odInc 0x2420 (p + 1) 4 1 (passCells p k s))) ∧
    (∀ tr, tr ≠ .abortMark → k.h + k.hc = 7 → (tr = .bad ∨ k.crc ≠ packetCrc k) →
      ((headerOk s k = false ∨ k.len = 0 ∨ k.ddev = own s ∨ s.fab.wait ≠ []) →
        exec (.packetReceive p k tr false) s = .next (odInc 0x2420 (p + 1) 4 1 (passCells p k s))) ∧
      (∀ q way k' q', headerOk s k = true → k.len ≠ 0 → k.ddev ≠ own s → s.fab.wait = [] → onward (p / 8) k (passCells p k s) = .ok (q, way, k') →
        mayStart ((passCells p k s).port q) k' = true → mayRate ((passCells p k s).port q) k' = true →
        chargePort ((passCells p k s).port q) k' .abortMark = some q' → exec (.packetReceive p k tr false) s = .next (odInc 0x2420 (p + 1) 4 1
          { (passCells p k s).modPort q (fun _ => q') with egress := (q, k', .abortMark) :: s.egress }))) ∧
    (k.h + k.hc = 7 → k.crc = packetCrc k → (formatOk k = false ∨ k.domain ≠ ownDomain s ∨ hopsOk s k = false) →
      exec (.packetReceive p k .endMark false) s = .next (odInc 0x2421 (p + 1) 4 1 (passCells p k s))) ∧
    (k.h + k.hc = 7 → k.crc = packetCrc k → formatOk k = true → k.domain = ownDomain s → hopsOk s k = true →
      (k.ddev = own s → ringJoins s (p / 8) (ejectXd s k (p / 8)) = true → s.fleet.epoch ≠ 0 → s.fleet.members.contains k.sdev = false →
        isShadowPeer s k.sdev = false → exec (.packetReceive p k .endMark false) s = .next (odInc 0x2300 5 8 1 (passCells p k s))) ∧
      (k.ddev = own s → ringJoins s (p / 8) (ejectXd s k (p / 8)) = false →
        exec (.packetReceive p k .endMark false) s = .next (odInc 0x2421 (p + 1) 4 1 (passCells p k s))) ∧
      (k.ddev = own s → ringJoins s (p / 8) (ejectXd s k (p / 8)) = true → s.fleet.epoch = 0 → k.cls = 0 →
        exec (.packetReceive p k .endMark false) s = .next { passCells p k s with
          inbox := s.inbox ++ [{ xd := ejectXd s k (p / 8), fromE := none, pkt := k, port := some p }] }) ∧
      (∀ d v q q' k', k.ddev ≠ own s → nextHop (own s) k.ddev k.order (if k.detour then some (k.ddim, k.dval) else none) = some (d, v) →
        holder s d v (if d = 0 ∧ s.fab.shape = 0 then b2n k.xcopy else 0) = some q → k' = { k with h := k.h + 1, hc := 7 - (k.h + 1) } →
        (portCarries s q = true → ringJoins s (p / 8) (q / 8) = true → s.fab.wait = [] → mayStart (s.port q) k' = true →
          mayRate (s.port q) k' = true → chargePort (s.port q) k' .endMark = some q' →
          exec (.packetReceive p k .endMark false) s = .next (freeCells p (landsShared s p k) k.cls k.h (cells k)
            { s.modPort q (fun _ => q') with egress := (q, k', .endMark) :: s.egress })) ∧
        (portCarries s q = false ∨ ringJoins s (p / 8) (q / 8) = false →
          exec (.packetReceive p k .endMark false) s = .next (odInc 0x2421 (q + 1) 4 1 (passCells p k s)))))) ∧
  (∀ (s : State) (p : Nat) (k : Packet) (tr : Trailer) (b : Bool), (portCarries s p = false ∨ s.fab.fwd ≠ 1) →
    exec (.packetReceive p k tr b) s = .next s) ∧
  (∀ (s : State) (dev sep n q xd : Nat) (k : Packet), (flowOf s 10 dev 0).held = [(q, xd, k)] → (flowOf s 10 dev 0).expected = n →
    n < 2 ^ 24 → q < 2 ^ 24 →
    ∃ t, exec (.reorderTimeout dev sep 10) s = .next t ∧ t.od = (odInc 0x2430 1 8 ((q + 2 ^ 24 - n) % 2 ^ 24) s).od ∧
      t.inbox = s.inbox ++ [{ xd := xd, fromE := none, pkt := k }] ∧
      (flowOf t 10 dev 0).expected = (q + 1) % 2 ^ 24 ∧ (flowOf t 10 dev 0).held = []) ∧
  (∀ (s : State) (k : Packet) (e : Ejected), (s.inbox.find? fun e => e.pkt == k) = some e → k.op = 0x40 → k.dep = 0xFC →
    fld k.arg 32 12 ≠ own s → fld k.arg 44 4 = 0 → exec (.linkStateNotice k) s = .next { s with
      inbox := s.inbox.erase e
      fab := { s.fab with linkDown := lset 0 (fld k.arg 32 12) (fld k.arg 0 32) s.fab.linkDown } })

/-- R301 to R305: the target's checks in their order; a request that passes is written at once, or takes an entry of its XD whose access then
answers; one that fails moves no data, and is answered with its code, or dropped where it is a posted WRITE. -/
def Obligations.RemoteTarget : Prop :=
  (∀ (w : Window) (p : Packet),
    (p.jobtag ≠ w.tag → windowCode w p = 1) ∧
    (p.jobtag = w.tag → w.length < fld p.arg 0 28 + reqLines p → windowCode w p = 2) ∧
    (p.jobtag = w.tag → fld p.arg 0 28 + reqLines p ≤ w.length → bitAt w.perm (if p.op = 0 then 0 else 1) = false → windowCode w p = 3) ∧
    (p.jobtag = w.tag → fld p.arg 0 28 + reqLines p ≤ w.length → bitAt w.perm (if p.op = 0 then 0 else 1) = true → w.ftag < 16 →
      windowCode w p = if w.ftag = 15 ∨ w.ftag = fld p.arg 42 4 then 0 else 4)) ∧
  (∀ (s : State) (xd : Nat) (p : Packet) (e : Ejected) (w : Window) (c : Nat), (s.inbox.find? fun e => e.pkt == p && e.xd == xd) = some e →
    endpointUp s p.dep = true → (p.dep < 0xA0 ∨ p.dep = 0xF4) → s.window (fld p.arg 30 12) = w → windowCode w p = c →
    (c = 0 → p.op = 1 → xdReach s e.xd (w.base + 128 * fld p.arg 0 28) (128 * reqLines p) = true → exec (.write xd p) s = .next (writeLines (w.base + 128 * fld p.arg 0 28) p { s with inbox := s.inbox.erase e })) ∧
    (∀ i, c = 0 → p.op = 0 → xdReach s e.xd (w.base + 128 * fld p.arg 0 28) (128 * reqLines p) = true → freeInbound e.xd s = some i → exec (.read xd p) s = .next { s with
      inbox := s.inbox.erase e
      inbound := s.inbound ++ [{ xd := e.xd, entry := i, req := p, addr := w.base + 128 * fld p.arg 0 28, fromE := e.fromE }] }) ∧
    (∀ i, c = 0 → p.op = 2 → xdReach s e.xd (w.base + 128 * fld p.arg 0 28) (128 * reqLines p) = true → freeInbound e.xd s = some i → exec (.writeAck xd p) s = .next { s with
      inbox := s.inbox.erase e
      inbound := s.inbound ++ [{ xd := e.xd, entry := i, req := p, addr := w.base + 128 * fld p.arg 0 28, fromE := e.fromE }] }) ∧
    (c = 0 → p.op = 0 → xdReach s e.xd (w.base + 128 * fld p.arg 0 28) (128 * reqLines p) = true → freeInbound e.xd s = none → exec (.read xd p) s = .next (respond p e.fromE 0x08 0x05 0 0 []
      (odInc 0x2470 6 8 1 { s with inbox := s.inbox.erase e }))) ∧
    (c ≠ 0 → p.op = 1 → ∃ t, exec (.write xd p) s = .next t ∧ t.mem = s.mem ∧ t.inbound = s.inbound ∧ t.egress = s.egress ∧
      t.eOut = s.eOut ∧ (t.window (fld p.arg 30 12)).rejected = true) ∧
    (c ≠ 0 → p.op = 0 → ∃ u, exec (.read xd p) s = .next (respond p e.fromE 0x08 c 0 0 [] u) ∧ u.mem = s.mem ∧ u.inbound = s.inbound) ∧
    (c ≠ 0 → p.op = 2 → ∃ u, exec (.writeAck xd p) s = .next (respond p e.fromE 0x09 c 0 0 [] u) ∧ u.mem = s.mem ∧ u.inbound = s.inbound)) ∧
  (∀ (s : State) (xd n : Nat) (x : Inbound), (s.inbound.find? fun x => x.xd == xd && x.entry == n) = some x →
    (x.req.op = 0 → s.poison = [] → s.poisonFlips = [] → s.ecc = [] →
      racesOf [{ lo := x.addr, len := 128 * reqLines x.req, wr := false }] (liveSpans s) = [] → exec (.targetAccessComplete xd n) s = .next (respond x.req x.fromE 0x08 0 (reqLines x.req) 0
      ((List.range (reqLines x.req)).flatMap fun i => readBytes s (x.addr + 128 * i) 128) { s with inbound := s.inbound.erase x })) ∧
    (x.req.op ≠ 0 → exec (.targetAccessComplete xd n) s = .next (respond x.req x.fromE 0x09 0 0 0 []
      (writeLines x.addr x.req { s with inbound := s.inbound.erase x }))))

/-- R299, R306 to R309, R314: at the requester, a response that matches a slot frees it (a READ's lines are kept for its MOVE), REFUSED
starts a backoff after which the request goes again, a READ that is out of time ends TIMEOUT, and a response no slot awaits is counted.
(Where no other MOVE waits for a slot.) -/
def Obligations.RemoteRequester : Prop :=
  ∀ (s : State) (p : Packet) (e : Ejected) (c i : Nat) (x : Slot),
    ((s.inbox.find? fun e => e.pkt == p) = some e → (∀ r ∈ (s.core c).dm.run, r.issued = true) → c < s.cores.length → x.cancelled = false →
      (p.op = 0x08 → matchSlot false p s = none → exec (.readRsp p) s = .next (odInc 0x2470 7 4 1 { s with inbox := s.inbox.erase e })) ∧
      (p.op = 0x08 → matchSlot false p s = some (c, i, x) → x.wr = false → fld p.arg 0 8 = 0 → p.len = x.lines → ∃ t, exec (.readRsp p) s = .next t ∧ t.mem = s.mem ∧
        t.inbox = s.inbox.erase e ∧ (t.core c).slots = (s.core c).slots.filter (fun y => y.1 != i) ∧
        (t.core c).dm.run = (s.core c).dm.run.map fun r => if r.id == x.run then { r with
          arrived := r.arrived ++ rspLines p x.line, remPoison := r.remPoison || p.poison != 0, linesLeft := r.linesLeft - x.lines,
          badLines := r.badLines ++ ((List.range p.len).filter (bitAt p.poison)).map (x.line + ·) } else r) ∧
      (p.op = 0x09 → matchSlot true p s = some (c, i, x) → x.wr = true → fld p.arg 0 8 = 0 → ∃ t, exec (.wackRsp p) s = .next t ∧ t.mem = s.mem ∧
        t.inbox = s.inbox.erase e ∧ (t.core c).slots = (s.core c).slots.filter (fun y => y.1 != i) ∧ (t.core c).dm.run = (s.core c).dm.run) ∧
      (p.op = 0x09 → matchSlot true p s = some (c, i, x) → fld p.arg 0 8 = 5 → ∃ t, exec (.wackRsp p) s = .next t ∧ t.mem = s.mem ∧
        (t.core c).slots = (s.core c).slots.map (fun y => if y.1 == i then
          (i, { x with refusals := x.refusals + 1, backoff := true, lastRefused := true }) else y))) ∧
    (slotOf c i s = some x → x.backoff = true → x.cancelled = false → ∀ t,
      sendRequest c { desc := x.desc, vcode := 0 } (moOf x.desc) x.epoch x.line x.lines i x.gen (s.modCore c fun k =>
        { k with slots := k.slots.map fun e => if e.1 == i then (i, { x with backoff := false }) else e }) = (true, t) →
      exec (.refuseBackoffExpiry c i) s = .next t) ∧
    (slotOf c i s = some x → x.wr = false → x.cancelled = false → (∀ r ∈ (s.core c).dm.run, r.issued = true) → c < s.cores.length →
      ∃ t, exec (.remoteTimeout c i) s = .next t ∧ t.mem = s.mem ∧ (t.core c).slots = (s.core c).slots.filter (fun y => y.1 != i) ∧
        (t.core c).dm.run = (s.core c).dm.run.map fun r => if r.id == x.run then { r with
          remErr := if x.lastRefused then 0x05 else 0x10, linesLeft := r.linesLeft - x.lines } else r)

/-! ## Collectives -/

/-- R324, R330 to R333, R340, R342, R344: the messages of a collective. A grant is issued where there is room and else waits; a grant received
is checked and its segments are owed; data is counted against its tally and taken; tokens are noted; an ABORT ends the operation; a
silent peer faults the group. What arrives before its operation has started is kept, where its use is one that the bucket's next
operations will have (log 125). -/
def Obligations.CollectiveMessages : Prop :=
  (∀ (s t : State) (g b peer level phase first n cls : Nat) (o : CollOp), (s.ops.find? fun o => o.g == g && o.bucket == b) = some o →
    classOf s g = some cls → o.live = true → 1 ≤ n → n ≤ 64 → first < 2 ^ 24 →
    (∀ i < n, ((segments o.co (ranksOf s g)).flatMap (needsOf s o)).contains (level, phase, first + i, peer) = true ∧
      o.got.contains (level, phase, first + i, peer) = false ∧
      ∀ r ∈ opGiven s o, ¬ (r.peer = peer ∧ r.level = level ∧ r.phase = phase ∧ r.seg = first + i)) →
    t = s.modGroup g (fun x => { x with given := x.given ++ grantRecs o.bucket o.use peer level phase first n (first % 4) }) →
    (grantRoom t o = true → exec (.grantIssue g b peer level phase first n) s = .next (memberSend (first % 4) g peer o.bucket o.use o.co.det
      (blank cls 0x11 0 (segEngine first) (segEngine first) 0 (grantArg s o level phase first n) 0 []) t)) ∧
    (grantRoom t o = false → exec (.grantIssue g b peer level phase first n) s = .next (odInc 0x2500 7 8 1 s))) ∧
  (∀ (s u : State) (p : Packet) (g r : Nat), takeFlow p.op p s = some (g, u) → senderRank u g p = some r → g < u.groups.length →
    (findOp u g (fld p.arg 0 16) (fld p.arg 16 2) = none → laterUse u g (fld p.arg 0 16) (fld p.arg 16 2) = true →
      (p.op = 0x11 → exec (.grant p) s = .next ((u.modGroup g fun x => { x with early := x.early ++ [p] }).modGroup g fun x =>
        { x with asked := x.asked ++ askedBy r p })) ∧
      (p.op = 0x13 → exec (.token p) s = .next (u.modGroup g fun x => { x with early := x.early ++ [p] }))) ∧
    (findOp u g (fld p.arg 0 16) (fld p.arg 16 2) = none → laterUse u g (fld p.arg 0 16) (fld p.arg 16 2) = false →
      (p.op = 0x11 → exec (.grant p) s = .next u) ∧ (p.op = 0x13 → exec (.token p) s = .next u)) ∧
    (∀ o, findOp u g (fld p.arg 0 16) (fld p.arg 16 2) = some o → o.live = true →
      (p.op = 0x11 → fld p.arg 52 12 ≠ grantCheck u o → exec (.grant p) s = .next (failOp o 0x0E u)) ∧
      (p.op = 0x11 → fld p.arg 52 12 = grantCheck u o → ((segments o.co (ranksOf u o.g)).flatMap (owesOf u o)) = [] → (u.group o.g).asked = [] →
        o.g < u.groups.length → ∃ t, exec (.grant p) s = .next t ∧ t.mem = u.mem ∧ (t.group o.g).asked = [] ∧ t.ops = u.ops) ∧
      (p.op = 0x13 → ∃ t, exec (.token p) s = .next t ∧ t.mem = u.mem ∧
        ∀ q, findOp t g (fld p.arg 0 16) (fld p.arg 16 2) = some q → q.tokens = (fld p.arg 18 3, r) :: o.tokens) ∧
      (p.op = 0x12 → fld p.arg 18 8 ≠ 0x0B → ∃ t, exec (.abort p) s = .next t ∧ t.mem = u.mem ∧
        ∀ q, findOp t g (fld p.arg 0 16) (fld p.arg 16 2) = some q → q.fin = some 0x0D)) ∧
    (p.op = 0x12 → fld p.arg 18 8 = 0x0B → (u.group g).state = 2 → ∃ t, exec (.abort p) s = .next t ∧ (t.group g).state = 3 ∧
      (t.group g).reason = 2 ∧ (t.group g).faultRank = fld p.arg 26 18) ∧
    (p.op = 0x10 → (∀ a ∈ (u.group g).given, a.peer ≠ r) → (u.group g).asked = [] → exec (.data p) s = .next (odInc 0x2500 6 4 1 u)) ∧
    (∀ a o, p.op = 0x10 → ((u.group g).given.find? fun a => a.peer == r && 0xF0 + a.ep == p.sep) = some a → findOp u g a.bucket a.use = some o →
      o.live = true →
      (regionTally 0 p.bytes ≠ p.arg → ∃ t, exec (.data p) s = .next t ∧ ∀ q, findOp t g a.bucket a.use = some q → q.fin = some 0x0F) ∧
      (regionTally 0 p.bytes = p.arg → a.level = 7 → ∃ t, exec (.data p) s = .next t ∧
        ∀ q, findOp t g a.bucket a.use = some q → q.got.contains (7, a.phase, a.seg, a.peer) = true))) ∧
  (∀ (s : State) (g rank : Nat) (o : CollOp) (a : GrantRec), g < s.groups.length → (s.group g).state = 2 → o ∈ s.ops → o.g = g → o.live = true →
    a ∈ (s.group g).given → a.peer = rank → a.bucket = o.bucket → a.use = o.use → ∃ t, exec (.latecomerTimeout g rank) s = .next t ∧
      (t.group g).state = 3 ∧ (t.group g).reason = 2 ∧ (t.group g).faultRank = rank)

/-- R345: between domains. The timer acknowledges what has arrived, an XACK drops what it acknowledges, and an overdue datagram is sent again
until its retries are used up, which ends its operation. (To a neighbour whose link address is known, on a port that is not dark.) -/
def Obligations.CrossDomain : Prop :=
  (∀ (s : State) (g peer cls : Nat) (p : Packet), classOf s g = some cls → (xflowOf s g peer).sinceAck ≠ 0 → (s.eport 0).darkUntil ≤ s.now →
    (s.eport 0).neighbours.contains (xpeer s (memberDom s g peer)).1 = true →
    p = { blank cls 0x18 0 0xF0 0xF0 (memberDev s g peer) (xackArg (xflowOf s g peer)) 0 [] with
      domain := ownDomain s, sdev := own s, jobtag := odGet s 0x2300 2 } → ∃ t, exec (.xackTimer g peer) s = .next t ∧
    t.eOut = (0, encapsulate s false (xpeer s (memberDom s g peer)).1 (xpeer s (memberDom s g peer)).2.1 p) :: s.eOut ∧
    (xflowOf t g peer).sinceAck = 0 ∧ (xflowOf t g peer).nextIn = (xflowOf s g peer).nextIn ∧ t.mem = s.mem ∧ t.groups = s.groups) ∧
  (∀ (s : State) (p : Packet) (e : Ejected) (g peer : Nat), (s.inbox.find? fun e => e.pkt == p && e.fromE.isSome) = some e → p.op = 0x18 →
    boundGroup s p.cls = some g → senderRank s g p = some peer → fld p.arg 24 40 = 0 → exec (.xack p) s = .next
      (setXflow { xflowOf s g peer with
        unacked := (xflowOf s g peer).unacked.filter fun u => decide ((u.seq + 2 ^ 24 - fld p.arg 0 24) % 2 ^ 24 < 2 ^ 23) }
        { s with inbox := s.inbox.erase e })) ∧
  (∀ (s : State) (g peer seq : Nat) (u : Unacked), ((xflowOf s g peer).unacked.find? fun u => u.seq == seq) = some u →
    (u.tries < odGet s 0x2520 2 → (s.eport u.port).darkUntil ≤ s.now →
      (s.eport u.port).neighbours.contains (xpeer s (memberDom s g peer)).1 = true →
      ∃ t, exec (.xdomRtoExpiry g peer seq) s = .next t ∧ t.mem = s.mem ∧ t.ops = s.ops ∧
      t.eOut = (u.port, encapsulate s false (xpeer s (memberDom s g peer)).1 (xpeer s (memberDom s g peer)).2.1 u.pkt) :: s.eOut ∧
      t.od = (odInc 0x2520 3 8 1 s).od) ∧
    (∀ o, odGet s 0x2520 2 ≤ u.tries → findOp s g u.bucket u.use = some o → o.live = true → ∃ t, exec (.xdomRtoExpiry g peer seq) s = .next t ∧
      ∀ q, findOp t g u.bucket u.use = some q → q.fin = some 0x0C))

/-! ## Ordinary-network ports -/

/-- R380 to R384, R465: an E port counts what arrives, answers echo and neighbour discovery for its own address, drops what it does not
support and what is longer than 9 216 bytes, admits a host request that is formed as R383 says from a bulk peer and drops another. It follows
the best clock master, whose exchange sets the offset (what the clock makes of one exchange is the model's reading, log 131), and loses a
lane only after its spare laser. -/
def Obligations.EthernetPorts : Prop :=
  ∀ (s : State) (n : Nat), n < s.eports.length →
    ((s.eport n).up = true → (s.eport n).darkUntil ≤ s.now →
      (∀ d : Datagram, d.checksumOk = true → d.ownPort = odGet s 0x2921 1 → d.pkt.sep = 0xFE → bulkPeer s d.addr = true → hostOk s d.pkt = true →
        exec (.eDatagramReceive n d) s = .next { s.modEport n (fun e => { e with rx := e.rx + 1 }) with
          inbox := s.inbox ++ [{ xd := n, fromE := some (n, d.addr, d.port), pkt := d.pkt }] }) ∧
      (∀ d : Datagram, d.checksumOk = false ∨ d.ownPort ≠ odGet s 0x2921 1 ∨
          (d.pkt.sep = 0xFE ∧ (bulkPeer s d.addr = false ∨ hostOk s d.pkt = false)) →
        exec (.eDatagramReceive n d) s = .next (s.modEport n fun e => { e with rx := e.rx + 1, dropped := e.dropped + 1 })) ∧
      (∀ l, exec (.eFrameReceive n ⟨l, .fcsError⟩) s = .next (s.modEport n fun e => { e with fcs := e.fcs + 1 })) ∧
      (∀ l, exec (.eFrameReceive n ⟨l, .uncorrectable⟩) s = .next (s.modEport n fun e => { e with unc := e.unc + 1 })) ∧
      (∀ l f, f ≠ .fcsError → f ≠ .uncorrectable → (9216 < l ∨ f ∈ [EFrame.fragment, .extensionHeader, .ipv4, .tcp]) →
        exec (.eFrameReceive n ⟨l, f⟩) s = .next (s.modEport n fun e => { e with rx := e.rx + 1, dropped := e.dropped + 1 })) ∧
      (∀ l, l ≤ 9216 →
        exec (.eFrameReceive n ⟨l, .pause⟩) s = .next (s.modEport n fun e => { e with rx := e.rx + 1, pause := e.pause + 1 }) ∧
        (∀ f g, (f, g) ∈ [(EFrame.neighbourSolicit (eAddress s n), EFrame.neighbourAdvert (eAddress s n))] ∨
            (∃ b, f = .icmpEcho (eAddress s n) b ∧ g = f) →
          ∃ t, exec (.eFrameReceive n ⟨l, f⟩) s = .next t ∧ t.frameOut = (n, g) :: s.frameOut ∧
            (t.eport n).rx = (s.eport n).rx + 1 ∧ (t.eport n).tx = (s.eport n).tx + 1 ∧ t.mem = s.mem) ∧
        (∀ d : Datagram, (s.eport n).unresolved = [d] → ∃ t, exec (.eFrameReceive n ⟨l, .neighbourAdvert d.addr⟩) s = .next t ∧
          t.eOut = (n, d) :: s.eOut ∧ (t.eport n).unresolved = [] ∧ (t.eport n).neighbours.contains d.addr = true ∧ t.mem = s.mem)) ∧
      (∀ l, exec (.ePortDown n l) s = .next (emcy 0xFF88 [0x40 + n, l, 0, l, 0] (s.modEport n fun e => { e with up := false }))) ∧
      (∀ a k, (s.eport n).spareLane = some a → exec (.eLaserReplace n k) s =
        .next (emcy 0xFF88 [0x40 + n, k, 0, k, 0] (s.modEport n fun e => { e with up := false }))) ∧
      (∀ d, (s.ptp.state = 0 ∨ (s.ptp.state = 1 ∧ s.ptp.port ≠ n ∧ d < s.ptp.master)) → exec (.ptpMessage n (.announce (odGet s 0x2930 1) d)) s =
        .next { s with ptp := { s.ptp with state := 1, port := n, master := d, t1 := none, t3 := none } }) ∧
      (s.ptp.state ≠ 0 → s.ptp.port = n →
        (∀ k a, exec (.ptpMessage n (.sync (odGet s 0x2930 1) k none a)) s =
          .next { s with ptp := { s.ptp with syncSeq := k, t1 := none, t2 := a } }) ∧
        (∀ k o, k = s.ptp.syncSeq → s.ptp.t1 = none → ∃ t x, exec (.ptpMessage n (.followUp (odGet s 0x2930 1) k o)) s = .next t ∧
          t.ptp.t1 = some o ∧ t.ptp.t3 = some x ∧ (calendar s : Int) - 8 ≤ x ∧ x ≤ (calendar s : Int) + 8 ∧
          t.ptp.delaySeq = (s.ptp.delaySeq + 1) % 65536 ∧ t.ptpOut = (n, (s.ptp.delaySeq + 1) % 65536) :: s.ptpOut ∧ t.mem = s.mem) ∧
        (∀ k arr t1 t3, s.ptp.t1 = some t1 → s.ptp.t3 = some t3 → k = s.ptp.delaySeq →
          exec (.ptpMessage n (.delayResp (odGet s 0x2930 1) k arr)) s = .next { s with ptp := { s.ptp with
            state := 2, offset := ((s.ptp.t2 - t1) - (arr - t3)) / 2, t3 := none } }))) ∧
    ((s.eport n).up = true → s.now < (s.eport n).darkUntil →
      (∀ d, exec (.eDatagramReceive n d) s = .next (s.modEport n fun e => { e with dropped := e.dropped + 1 })) ∧
      (∀ l f, exec (.eFrameReceive n ⟨l, f⟩) s = .next (s.modEport n fun e => { e with dropped := e.dropped + 1 }))) ∧
    ((s.eport n).up = false → eOn s n = true → exec (.ePortUp n) s =
      .next (emcy 0xFF88 [0x40 + n, 0xFF, 1, 0, 0] (s.modEport n fun e => { e with up := true }))) ∧
    (∀ l, (s.eport n).spareLane = none → ∃ t, exec (.eLaserReplace n l) s = .next t ∧ (t.eport n).spareLane = some l ∧
      (t.eport n).up = (s.eport n).up ∧ s.now ≤ (t.eport n).darkUntil ∧ (t.eport n).darkUntil ≤ s.now + 1000000 ∧ t.mem = s.mem) ∧
    (∀ time, s.ptp.state = 2 → ∃ t, exec (.calendarSet time) s = .next t ∧ calendar t = time ∧ t.fleet.calSource = 1 ∧ t.mem = s.mem)

/-! ## Fibre ports -/

/-- R287, R363 to R366, R372, R378, R379, R466: a control word's 64 bits give back its fields, and a phase of a swap or drop leaves before a
heartbeat, and that before the rest. A word that a port decodes first gives its common part (the peer's forwarding state, its shared
credits), then does what its type says. -/
def Obligations.ControlWords : Prop :=
  (∀ w : CtlWord, w.type ≤ 9 → w.start < 256 → w.shared < 65536 → w.body.length = (bodyFields w.type).length →
    (∀ e ∈ (bodyFields w.type).zip w.body, e.2 < 2 ^ e.1.2) → decodeCtl (encodeCtl w) = some w) ∧
  (∀ (s : State) (p : Nat) (w : Nat × List Nat) (q : Port), (queuedWord [6, 7] (s.port p) = some (w, q) ∨
      (queuedWord [6, 7] (s.port p) = none ∧ queuedWord [9] (s.port p) = some (w, q))) →
    (sendFrame p s).cwOut =
      (p, encodeCtl ⟨w.1, s.fab.fwd == 1, startIndex (frameData (s.port p)), (s.port p).rxFreedShared, w.2⟩) :: s.cwOut) ∧
  (∀ (s u : State) (p : Nat) (w : CwHead), (s.port p).fecLock = true → decodes (s.port p) w.errs 0 = true → loopedBack s p = false →
    cwCommon p w (takeFrame p w.errs s) = u → p < u.ports.length →
    ((u.port p).peerFwd = w.fwd) ∧ (p < s.ports.length → (s.port p).peerFwd = true → w.fwd = false → (u.port p).ident = none) ∧
    exec (.nullWord p w) s = .next (settlePeer p u) ∧
    (∀ c l n, c ≤ 10 → 1 ≤ l → l ≤ 5 → u.fab.wait = [] → ∃ t, exec (.credit p w c l n) s = .next t ∧
      aget (16 * c + l) (t.port p).credTot = some n ∧ aget (16 * c + l) (t.port p).credUsed =
        some ((aget (16 * c + l) (u.port p).credUsed).getD 0 - (n + 65536 - (aget (16 * c + l) (u.port p).credTot).getD 0) % 65536)) ∧
    (∀ d k a, exec (.ident0 p w d k a) s = .next (u.modPort p fun q => { q with id0 := some (d, k), acked := a })) ∧
    (∀ d k sh n, (u.port p).id0 = some (d, k) → exec (.ident1 p w sh n) s = .next (settlePeer p (u.modPort p fun q =>
      { q with ident := some { domain := d, coord := k, shape := sh, port := n }, id0 := none }))) ∧
    (∀ time ta now, (u.port p).bring = 6 → exec (.echo p w time true ta now) s = .next (u.modPort p fun q =>
      { q with echoes := q.echoes ++ [(now + 2 ^ 24 - time % 2 ^ 24) % 2 ^ 24 - ta] })) ∧
    (∀ time ta now, exec (.echo p w time false ta now) s = .next ({ u with free := u.free + 1 }.modPort p fun q =>
      { q with cwNext := q.cwNext ++ [(8, [time, 1, (Config.freeWord u.free).toNat % 128])] })) ∧
    (∀ n, 9 < n → exec (.badControlWord p n) s = .next (odInc 0x2901 5 4 1 s)) ∧
    (∀ l x, ∃ t, exec (.cal p w l 0 x []) s = .next t ∧ aget (160 + l) (t.port p).far = some x ∧ aget l (t.port p).lastCorr = some 0 ∧ t.mem = u.mem) ∧
    (∀ l st x, ∃ t, exec (.txmon p w l st x []) s = .next t ∧ aget (32 * st + l) (t.port p).far = some x ∧ t.mem = u.mem) ∧
    (∀ l k, (u.port p).rxShake = none → exec (.swap p w l k 0) s = .next (u.modPort p fun q => { q with
      rxShake := some { drop := false, lane := l, spare := k, phase := 1, proposer := false, why := 0 }
      cwNext := q.cwNext ++ [(6, [l, k, 1])] })) ∧
    (∀ l k h, (u.port p).shake = some h → h.drop = false → h.phase = 0 → h.lane = l → exec (.swap p w l k 1) s = .next (u.modPort p fun q =>
      { q with shake := some { h with phase := 2 }, toSwitch := 64, cwNext := q.cwNext ++ [(6, [l, h.spare, 2])] })) ∧
    (∀ l k h, (u.port p).rxShake = some h → h.drop = false → h.phase = 1 → h.lane = l → exec (.swap p w l k 2) s = .next (u.modPort p fun q =>
      { q with rxShake := some { h with phase := 2 } })) ∧
    (∀ l h, (u.port p).shake = some h → h.drop = true → h.phase = 0 → h.lane = l → exec (.dropWord p w l 1) s = .next (u.modPort p fun q =>
      { q with shake := some { h with phase := 2 }, toSwitch := 64, cwNext := q.cwNext ++ [(7, [l, 2])] })) ∧
    (∀ b k l c v e dev, portPeer (u.port p) = some dev → (neighbour u dev).st = 1 → (neighbour u dev).ports.contains p = true →
      exec (.heartbeat p w b k l c v e) s = .next (setNeighbour { neighbour u dev with
        misses := 0, heard := true, st := 1, compute := c, leaving := v, epoch := e, labels := aset k l (neighbour u dev).labels } u)))

/-- R366, R367, R374 to R376: bring-up goes step by step, and at its end the port has its delay; a failed step turns the port dark; FEC failure
returns to step 3 with the light on; loss of signal turns the transmitter off; a dark port probes, and light found while it probes brings
it up. `s` is the state after the port's own readings have been taken. -/
def Obligations.LinkBringUp : Prop :=
  (∀ (s0 s : State) (p : Nat) (own : List (Nat × Int)), measure p own s0 = s → p < s.ports.length → loopedBack s p = false →
    (∀ n, (s.port p).bring = n → 1 ≤ n → n ≤ 3 → exec (.linkBringupStepDone ⟨p, own⟩ true) s0 = .next (s.modPort p fun q => { q with bring := n + 1 })) ∧
    ((s.port p).bring = 4 → ∃ t, exec (.linkBringupStepDone ⟨p, own⟩ true) s0 = .next t ∧ (t.port p).bring = 5 ∧ (t.port p).fecLock = true ∧
      (t.port p).pstate = (s.port p).pstate ∧ t.mem = s.mem) ∧
    ((s.port p).bring = 5 → (s.port p).ident.isSome = true → (s.port p).acked = true →
      exec (.linkBringupStepDone ⟨p, own⟩ true) s0 = .next (s.modPort p fun q => { q with bring := 6 })) ∧
    ((s.port p).bring = 6 → 16 ≤ (s.port p).echoes.length → ∃ t, exec (.linkBringupStepDone ⟨p, own⟩ true) s0 = .next t ∧
      (t.port p).delay = delayOf (s.port p).echoes ∧ (t.port p).bring = 0 ∧ (t.port p).safety = 0 ∧ t.mem = s.mem ∧ t.cores = s.cores) ∧
    ((s.port p).bring ≠ 0 → ∃ t, exec (.linkBringupStepDone ⟨p, own⟩ false) s0 = .next t ∧ (t.port p).safety = 1 ∧ (t.port p).bring = 0 ∧
      (t.port p).fecLock = false ∧ (t.port p).ident = none) ∧
    ((s.port p).safety = 0 ∨ (s.port p).safety = 3 → ∃ t, exec (.losDeclared ⟨p, own⟩) s0 = .next t ∧ (t.port p).safety = 1 ∧ (t.port p).bring = 0 ∧
      (t.port p).carries = false ∧ t.mem = s.mem ∧ t.cores = s.cores) ∧
    ((s.port p).safety = 1 ∨ (s.port p).safety = 2 → mayProbe s p = true →
      exec (.probeTimer ⟨p, own⟩) s0 = .next (s.modPort p fun q => { q with safety := 2, probeAt := some s.now })) ∧
    ((s.port p).safety = 1 ∨ (s.port p).safety = 2 → probing s p = false → mayProbe s p = true →
      exec (.lightDetected ⟨p, own⟩) s0 = .next (s.modPort p fun q => { q with safety := 2, probeAt := some s.now })) ∧
    (probing s p = true → mayProbe s p = true → ∃ t, exec (.lightDetected ⟨p, own⟩) s0 = .next t ∧ (t.port p).safety = 3 ∧ (t.port p).bring = 1 ∧
      (t.port p).ident = none ∧ t.mem = s.mem)) ∧
  (∀ (s : State) (p : Nat), p < s.ports.length → (s.port p).fecLock = true → ∃ t, exec (.fecLinkDown p) s = .next t ∧ (t.port p).safety = 3 ∧
    (t.port p).bring = 3 ∧ (t.port p).fecLock = false ∧ (t.port p).carries = false ∧ t.mem = s.mem ∧ t.cores = s.cores)

/-- R370, R377 to R379: a fading laser warns, its spare warms and locks, the swap is proposed and moves the lane; a spare that fails, or none,
drops the lane; ring losses are reported. -/
def Obligations.FadesAndSpares : Prop :=
  ∀ (s : State) (p l k n : Nat), p < s.ports.length → l < 20 → k < 4 →
    (n < 10 * odGet s 0x2900 1 → (s.port p).fade.getD l 0 = 0 → exec (.fadeWarn p l n) s = .next
      (emcy 0xFF81 [p, l, 0, n % 256, n / 256] (laserOutput p l n (s.modPort p fun q => { q with fade := q.fade.set l 1 })))) ∧
    (n < 300 → (s.port p).fade.getD l 0 ≤ 1 → k = l / 5 → bitAt (s.port p).sparesUsed.toNat k = false → bitAt (s.port p).sparesFailed.toNat k = false →
      aget k (s.port p).spareLane = none → odGet s 0x2900 3 = 1 →
      (∃ t, exec (.fadeAct p l n) s = .next t ∧ (t.port p).fade = (s.port p).fade.set l 2 ∧ aget k (t.port p).spareLane = some l ∧ t.mem = s.mem) ∧
      ((s.port p).safety = 0 → ∃ t, exec (.ringRelockTimeout p false l) s = .next t ∧ (t.port p).fade = (s.port p).fade.set l 2 ∧
        aget k (t.port p).spareLane = some l ∧ t.mem = s.mem)) ∧
    ((s.port p).fade.getD l 0 = 1 → exec (.fadeRecover p l) s = .next (s.modPort p fun q => { q with fade := q.fade.set l 0 })) ∧
    ((s.port p).spareLane = [(k, l)] → (s.port p).fade.getD l 0 = 2 → (s.port p).shake = none → (s.port p).safety = 0 → (s.port p).fade.length = 24 →
      (∀ i < 20, i ≠ l → (s.port p).fade.getD i 0 ≠ 3) → (s.port p).dropNext = [] →
      (∃ t, exec (.spareLocked p k) s = .next t ∧ (t.port p).cwNext = (s.port p).cwNext ++ [(6, [l, k, 0])] ∧
        (t.port p).shake = some { drop := false, lane := l, spare := k, phase := 0, proposer := true, why := 0 } ∧ t.mem = s.mem) ∧
      ((s.port p).dropTx = 0x1F → odGet s 0x2900 4 = 1 → ∃ t, exec (.spareLockTimeout p k) s = .next t ∧
        (t.port p).sparesFailed = (s.port p).sparesFailed ||| BitVec.ofNat 4 (2 ^ k) ∧ (t.port p).cwNext = (s.port p).cwNext ++ [(7, [l, 0])] ∧
        (t.port p).shake = some { drop := true, lane := l, spare := 0, phase := 0, proposer := true, why := 2 } ∧ t.mem = s.mem)) ∧
    (∀ h, (s.port p).shake = some h → h.phase = 0 → h.drop = false → h.proposer = true → (s.port p).rxShake = none → exec (.swapProposeRetry p) s =
      .next (s.modPort p fun q => { q with cwNext := q.cwNext ++ [(6, [h.lane, h.spare, 0])] })) ∧
    (∀ h, (s.port p).shake = some h → h.phase = 2 → h.drop = false → (s.port p).dropNext = [] → ∃ t, exec (.swapSwitchover ⟨p, false⟩) s = .next t ∧
      (t.port p).sparesUsed = (s.port p).sparesUsed ||| BitVec.ofNat 4 (2 ^ h.spare) ∧ (t.port p).fade = (s.port p).fade.set h.lane 4 ∧
      (t.port p).txLanes = (s.port p).txLanes ∧ t.mem = s.mem) ∧
    (∀ h, (s.port p).rxShake = some h → h.phase = 2 → h.drop = true → (s.port p).dropNext = [] → ∃ t, exec (.swapSwitchover ⟨p, true⟩) s = .next t ∧
      (t.port p).rxLanes = (s.port p).rxLanes &&& ~~~(BitVec.ofNat 20 (2 ^ h.lane)) ∧ (t.port p).dropRx = h.lane ∧
      (t.port p).txLanes = (s.port p).txLanes ∧ t.mem = s.mem) ∧
    ((s.port p).safety = 0 → exec (.ringLockLost p false l) s = .next (emcy 0xFF86 [p, l, 0, 0, 0] (odInc 0x2901 4 4 1 s)))

/-! ## Fleet and upkeep -/

/-- R464, R466 to R468, R471: heartbeats go out on every lit port, a neighbour that stays silent for eight intervals is lost, a window that has
grown is reported again, a disagreement is reported once; the records are written through. -/
def Obligations.FleetRecords : Prop :=
  (∀ s : State, s.ports.length = 32 → ∃ t, exec .heartbeatSend s = .next t ∧ t.fleet = { s.fleet with beat := (s.fleet.beat + 1) % 256 } ∧
    (∀ p < 32, t.port p = if sending s p then { s.port p with cwNext := (s.port p).cwNext ++ [(9, beatBody s)] } else s.port p) ∧
    t.mem = s.mem ∧ t.cores = s.cores) ∧
  (∀ s : State, (∀ n ∈ s.fleet.neighbours, n.st = 1 ∧ n.heard = true) → ∃ t, exec .croakInterval s = .next t ∧ t.mgmt = s.mgmt ∧
    t.fleet.neighbours = s.fleet.neighbours.map fun n => { n with misses := 0, heard := false }) ∧
  (∀ (s : State) (n : Neighbour), s.fleet.neighbours = [n] → n.st = 1 → n.heard = false → n.misses = 7 → ∃ t, exec .croakInterval s = .next t ∧
    t.fleet.neighbours = [{ n with misses := 8, heard := false, st := if n.leaving then 3 else 2 }] ∧ t.mem = s.mem) ∧
  (∀ (s : State) (k l : Nat) (w : AggWin), (s.fleet.windows.find? fun w => w.kind == k && w.label == l) = some w →
    ∃ u, u = { s with fleet := { s.fleet with windows := s.fleet.windows.filter fun x => !(x.kind == k && x.label == l) } } ∧
      (w.count ≤ w.reported → exec (.aggregationWindowEnd k l) s = .next u) ∧
      (w.reported < w.count → exec (.aggregationWindowEnd k l) s =
        .next (emcy 0xFF92 [w.kind, w.label % 256, w.label / 256, min 255 w.count, w.lowest % 256] u))) ∧
  (∀ (s : State) (c d : Nat), disagrees s c d = true → s.fleet.reported.contains (c, d) = false → exec (.disagreeLimit c d) s =
    .next (emcy 0xFF93 [c, d % 256, d / 256, 0, s.fleet.epoch % 256]
      (odInc 0x2B30 4 4 1 { s with fleet := { s.fleet with reported := (c, d) :: s.fleet.reported } }))) ∧
  (∀ s : State, ∃ t, exec .lifetimeWriteThrough s = .next t ∧ t.fleet.onSeconds = s.fleet.onSeconds + (if s.startup.computeUp ∨ s.fab.fwd ≠ 0 then 60 else 0) ∧
    t.fleet.saved.onSeconds = t.fleet.onSeconds ∧ t.fleet.saved.sites = s.fleet.sites ∧ t.fleet.saved.trips = s.fleet.trips ∧ t.mem = s.mem) ∧
  (∀ s : State, (∀ n < 4, (s.eport n).up = false) → exec .biasTrendSample s = .next
    (((List.range 32).flatMap fun p => ((List.range 24).filter fun j => fld (laserWord s p j) 24 2 == 2).map fun j => (24 * p + j, fld (laserWord s p j) 0 12)).foldl
      (fun t e => laserHour e.1 e.2 t) s)) ∧
  (∀ (s : State) (k b : Nat), aget k (laserHour k b s).fleet.laserHours = some ((aget k s.fleet.laserHours).getD 0 + 1) ∧
    (aget k s.fleet.laserBias = none → aget k (laserHour k b s).fleet.laserBias = some [b]))

/-- R234, R244, R245, R247: at a block boundary the refresh interval follows; a patrol read of a line that is not poisoned leaves no correctable
error in it and no byte changed; a tracking step moves its sampler by one. -/
def Obligations.MemoryUpkeep : Prop :=
  (∀ (s : State) (n : Nat), exec (.refreshBlock n) s = .next { s with
    power := { s.power with refresh := s.power.refresh.set n (s.power.refreshNext.getD n 8) } }) ∧
  (∀ (s : State) (l : Nat), odGet s 0x2620 2 ≠ 0 → poisoned s l = false → ((∃ r, place s (128 * l) = .hbm r) ∨ ∃ c o, place s (128 * l) = .near c o) →
    ∃ t, exec (.patrolScrubRead l) s = .next t ∧ (∀ e ∈ t.ecc, ¬ (e.1 / 16 = l ∧ unitFinds s l e.1 = 1)) ∧ t.mem = s.mem ∧ t.cores = s.cores ∧
      (s.ecc = [] → t = s)) ∧
  (∀ (s : State) (a b c rate : Nat) (up : Bool) (v : Int), v = lget 0 s.lanes (8192 * a + 256 * b + c) + (if up then 1 else -1) → v.natAbs < 24 →
    rate ≤ 16 → exec (.samplerTrackStep a b c ⟨up, rate⟩) s = .next (odInc 0x2630 1 8 1 { s with lanes := lset 0 (8192 * a + 256 * b + c) v s.lanes }))

/-! ## Rails, clocks and starts -/

/-- R33, R39, R421, R422, R445 to R450: rails and the reference as they come and go, and the steps of a start. A lost rail or reference stops
what it feeds; nothing but a start brings it back. -/
def Obligations.RailsAndStarts : Prop :=
  (∀ (s : State) (r : Nat), bitAt s.power.railWasGood.toNat r = true → exec (.railGood r) s = .next { s with power := { s.power with
    rails := s.power.rails ||| BitVec.ofNat 9 (2 ^ r), railWasGood := s.power.railWasGood ||| BitVec.ofNat 9 (2 ^ r) } }) ∧
  (∀ (s : State) (r : Nat), bitAt s.power.rails.toNat r = false → bitAt s.power.railWasGood.toNat r = false → exec (.railAbsentTimeout r) s =
    .next (emcy 0xFF26 [r, 0, 0, s.power.rails.toNat % 256, s.power.rails.toNat / 256] s)) ∧
  (∀ (s : State) (r : Nat), r < 2 → bitAt s.power.rails.toNat r = true → s.startup.computeUp = true → ∃ t, exec (.railLost r) s = .next t ∧
    t.power.rails = s.power.rails &&& ~~~(BitVec.ofNat 9 (2 ^ r)) ∧ t.startup.computeUp = false ∧ t.cores = List.replicate 160 {} ∧
    t.mgmt.al ≠ 8 ∧ t.fab.fwd = s.fab.fwd ∧ (∀ e ∈ s.mem, e.1 < nearBase → e ∈ t.mem) ∧ (∀ e ∈ t.mem, e.1 < nearBase)) ∧
  (∀ s : State, bitAt s.power.rails.toNat 8 = true → ∃ t, exec (.railLost 8) s = .next t ∧ t.mem = [] ∧ t.startup.steps = [] ∧
    t.cores = List.replicate 160 {} ∧ t.mram = s.mram ∧ t.fleet.softMap = s.fleet.softMap ∧ t.power.tripLog = s.power.tripLog ∧ t.sec.fused = s.sec.fused) ∧
  (∀ s : State, s.startup.refLost = false → s.ports.length = 32 → ∃ t, exec .refclockLost s = .next t ∧ t.startup.refLost = true ∧
    t.startup.needFull = true ∧ t.fab.fwd = 0 ∧ t.cores = List.replicate 160 {} ∧ (∀ p < 32, (t.port p).safety = 1 ∨ (t.port p).safety = 4) ∧
    (∀ e ∈ s.mem, e.1 < nearBase → e ∈ t.mem)) ∧
  (∀ s : State, exec .referenceClockReturn s = .next { s with startup := { s.startup with refLost := false } }) ∧
  (∀ (s : State) (d : Nat), d < 4 → s.startup.refLost = false → (s.dies.getD d { strap := 0 }).isolated = false → exec (.pllLockLost d) s =
    .next (emcy 0xFF03 [d] { s with dies := s.dies.modify d fun x => { x with isolated := true, pllLocked := false } })) ∧
  (∀ (s : State) (l g : Nat) (rev : Bool), (s.d2d.getD (2 * l + b2n rev) {}).recent.length < 1000 → exec (.d2dCrcReplay l rev g) s = .next { s with
    d2d := s.d2d.modify (2 * l + b2n rev) fun d =>
      { d with recent := (s.now, g) :: d.recent.filter (fun e => decide (s.now < e.1 + 1000000)), counts := incAt g 1 d.counts } }) ∧
  (∀ s : State, s.startup.resetLow = false → ∃ t, exec .powerOn s = .next t ∧ t.startup.steps = [1, 2, 3, 4, 5, 6, 7, 8, 9, 10, 11] ∧ t.startup.kind = 0 ∧
    t.mem = [] ∧ t.cores = List.replicate 160 {} ∧ t.mgmt.al = 1 ∧ t.mram = s.mram ∧ t.sec.keys = s.sec.keys ∧ t.test.mode = false) ∧
  (∀ s : State, s.startup.resetLow = false → ∃ t, exec .resetNAssert s = .next t ∧ t.startup.resetLow = true ∧ t.startup.steps = [] ∧
    t.cores = List.replicate 160 {} ∧ t.fab.fwd = 0 ∧ t.test.mode = false ∧ t.mram = s.mram ∧ (∀ e ∈ t.mem, hbmTop ≤ e.1 ∧ e.1 < nearBase)) ∧
  (∀ s : State, s.startup.resetLow = true → ∃ t, exec .resetNRelease s = .next t ∧ t.startup.resetLow = false ∧
    (s.power.tripped = false → s.power.tripping = false → t.startup.steps = [1, 2, 3, 4, 5, 6, 7, 8, 9, 10, 11] ∧ t.startup.kind = 7) ∧
    (s.power.tripped = true → t.startup.mgSteps = [1, 2, 3] ∧ t.startup.steps = [] ∧ t.power.tripped = true)) ∧
  (∀ (s : State) (r : StepReport) (n : Nat) (l : List Nat), s.startup.mgSteps = [] → s.startup.fpSteps = [] → s.startup.steps = n :: l →
    (n = 1 → l ≠ [] → exec (.startUpStepDone r) s = .next { s with startup := { s.startup with steps := l } }) ∧
    (n = 2 → mramOk s = false → ∃ t, exec (.startUpStepDone r) s = .next t ∧ t.mgmt.al = 3 ∧ t.startup.steps = [] ∧ t.sec = s.sec) ∧
    (n = 7 → l ≠ [] → computeMay s = true → ∃ t, exec (.startUpStepDone r) s = .next t ∧ t.startup.steps = l ∧ (∀ e ∈ t.mem, e.1 < nearBase) ∧
      t.power.refresh = List.replicate 4 8) ∧
    (n = 11 → l = [] → s.startup.kind ≠ 10 → ∃ t, exec (.startUpStepDone r) s = .next t ∧ t.startup.steps = [] ∧ t.startup.preopReady = true ∧
      t.mem = s.mem ∧ t.cores = s.cores))

/-! ## Power and heat -/

/-- R423, R426 to R429, R431, R433, R435, R436, R438: Salamander's samples, ceilings, thresholds and states. -/
def Obligations.PowerAndHeat : Prop :=
  (∀ (s : State) (w : Nat), ∃ t, exec (.powerSample w) s = .next t ∧ t.power.lastWatts = w ∧ t.power.samples = (w :: s.power.samples).take 100 ∧ t.mem = s.mem) ∧
  (∀ s : State, (capInForce s < powerAvg s → mayStep s s.power.stepDownAt = true → 1 < s.power.capCeil → exec .capLoopEval s = .next { s with
      power := { s.power with capCeil := s.power.capCeil - 1, stepDownAt := some s.now } }) ∧
    (powerAvg s ≤ capInForce s → 100 * powerAvg s < 97 * capInForce s → s.power.capCeil = theta s → s.power.capCeil < 16 → mayStep s s.power.stepUpAt = true →
      exec .capLoopEval s = .next { s with power := { s.power with capCeil := s.power.capCeil + 1, stepUpAt := some s.now } })) ∧
  (∀ (s : State) (b : Nat), exec (.slewInterval b) s = .next { s with power := { s.power with
    slewCeil := min 16 (cdiv (16 * b) 65536 + 1), demand := cdiv (16 * b) 65536
    ballast := min (min (s.power.demand + s.power.ballast) (theta s + 1) - 1) ((capInForce s - 310) * 16 / 1490) - cdiv (16 * b) 65536 } }) ∧
  (∀ (s : State) (r : Nat), (2 * odGet s 0x2A00 2 + 50 < r → ∃ t, exec (.limiterCheck r false) s = .next t ∧ t.power.limiterFault = true ∧
      t.power.clamp = true ∧ t.mem = s.mem) ∧ (r ≤ 2 * odGet s 0x2A00 2 + 50 → ∀ x, exec (.limiterCheck r x) s = .next s)) ∧
  (∀ s : State, s.power.pin = false →
    (pinObeyed s = true → ∃ t, exec .pwrcapNAssert s = .next t ∧ t.power.pinLow = true ∧ t.power.pin = true ∧ t.power.pinCeil = 4) ∧
    (pinObeyed s = false → exec .pwrcapNAssert s = .next { s with power := { s.power with pinLow := true } })) ∧
  (∀ s : State, s.power.pinCeil ≠ 16 → exec .pinCeilingLapse s = .next { s with power := { s.power with pinCeil := 16, slewCeil := min s.power.slewCeil 5 } }) ∧
  (∀ s : State, s.power.pin = true → ∃ t, exec .pwrcapNRelease s = .next t ∧ t.power.pinLow = false ∧ t.power.pin = false ∧ t.power.pinCeil = 16 ∧
    t.power.slewCeil = min s.power.slewCeil (theta s + 1)) ∧
  (∀ s : State, s.power.clamp = true → (∀ i < 261, (s.sensor i).temp < level s i 5 - 500 ∧ (s.sensor i).rate ≤ rateAt s i 1) →
    ∃ t, exec .clampEnd s = .next t ∧ t.power.clamp = false ∧ t.power.slewCeil = min s.power.slewCeil 9 ∧ t.mem = s.mem) ∧
  (∀ (s : State) (i n : Nat) (x : Int), i < s.power.sensors.length → ∃ t, exec (.sensorSample i x n) s = .next t ∧ (t.sensor i).temp = x ∧ t.mem = s.mem ∧
    (level s i 6 ≤ x → (s.sensor i).prev.getD 2 false = true → (s.sensor i).crossed.getD 2 false = false → s.power.tripped = false → s.power.tripping = false →
      t.power.tripping = true ∧ t.power.cautious = true) ∧
    (x < level s i 6 → x < level s i 5 → x < level s i 4 → (s.sensor i).hist = [] → 0 < rateAt s i 1 → 0 < rateAt s i 2 → 0 < rateAt s i 3 →
      t.mgmt = s.mgmt ∧ t.power.tripping = s.power.tripping ∧ t.power.clamp = s.power.clamp)) ∧
  (∀ (s : State) (i : Nat), 208 ≤ i → i < s.power.sensors.length → ∃ t, exec (.sampleRateLower i) s = .next t ∧
    (t.sensor i).srate = min (s.sensor i).srate (rateCalled s i) ∧ t.mem = s.mem) ∧
  (∀ (s : State) (i : Nat), i < s.power.sensors.length → (s.sensor i).temp < level s i 4 - 300 → 2 * (s.sensor i).rate < rateAt s i 1 →
    ∃ t, exec (.warnClear i) s = .next t ∧ (t.sensor i).crossed = ((s.sensor i).crossed.set 0 false).set 3 false ∧ t.mem = s.mem) ∧
  (∀ s : State, s.power.tripping = true → ∃ t, exec .tripPowerDown s = .next t ∧ t.power.tripped = true ∧ t.power.tripping = false ∧
    t.power.thermtripN = true ∧ t.power.pstate = 4 ∧ t.fab.fwd = 0 ∧ t.cores = List.replicate 160 {} ∧ t.startup.steps = [] ∧ t.startup.computeUp = false) ∧
  (∀ s : State, s.power.pstate = 0 → coresUsed s = false → s.power.ballast = 0 → exec .baskEntry s =
    .next (emcy 0xFF28 [0xFF, 0xFF, 1, 0, 0] { s with power := { s.power with pstate := 1 } })) ∧
  (∀ s : State, s.power.pstate = 3 → ∃ t, exec .wakeComplete s = .next t ∧ t.power.pstate = 1 ∧ t.mem = s.mem ∧ t.cores = s.cores ∧
    t.fab.fwd = (if forwardOk s then (if inRange s.fab.shape s.fab.coord && odGet s 0x2400 2 != 0 then 1 else 3) else 0))

/-! ## Test access -/

/-- R496, R497, R499: the TAP's instructions. Those that test mode alone allows act as BYPASS outside it, and are counted. -/
def Obligations.TestAccess : Prop :=
  ∀ (s : State) (v : Nat),
    exec (.samplePreload v) s = .next { s with test := { s.test with instr := 0x01, driven := false, cells := v % 2 ^ 15 } } ∧
    exec .idcode s = .next { s with test := { s.test with instr := 0x02, driven := false } } ∧
    exec (.bypass 0xFF) s = .next { s with test := { s.test with instr := 0xFF, driven := false } } ∧
    (s.test.mode = true → exec (.extest v) s = .next { s with test := { s.test with instr := 0x00, driven := true, cells := v % 2 ^ 15 } } ∧
      exec .clampInstruction s = .next { s with test := { s.test with instr := 0x03, driven := true } } ∧
      exec .highz s = .next { s with test := { s.test with instr := 0x04, driven := false } } ∧
      exec .ijtag s = .next { s with test := { s.test with instr := 0x11, driven := false, ijtagOpen := s.test.dieSel != 0 } } ∧
      (xdSelected s = false → v < 16 → exec (.dieSelect v) s = .next { s with
        test := { s.test with instr := 0x10, driven := false, dieSel := v, ijtagOpen := false } })) ∧
    (s.test.mode = false → ∀ i ∈ [Instr.extest v, .clampInstruction, .highz, .ijtag, .dieSelect v],
      exec i s = .next (odInc 0x2D00 2 4 1 { s with test := { s.test with instr := 0xFF, driven := false } })) ∧
    (xdSelected s = false → exec .tapReset s = .next { s with test := { s.test with instr := 0x02, driven := false, dieSel := 0, ijtagOpen := false } })

/-! ## The checking policy -/

/-- R205: every entry of `check-policy` has its default and its range and is written only in PreOp; in any other state a write is refused and the
value stands; the digest is SHAKE256 of the entries in order, each in its size, and is read-only, as the highest subindex 9 is. -/
def Obligations.CheckPolicy : Prop :=
  (∀ e ∈ policyEntries, odGet State.reset 0x2700 e.1 = e.2.2.1) ∧
  (∀ (m : Master) (s : State) (b : List Byte), reaches m s = true →
    (∀ e ∈ policyEntries,
      (s.mgmt.al ≠ 2 → b.length = e.2.1 → exec (.checkPolicyWrite m e.1 b) s = .next (setResp m 0x08000022 [] s)) ∧
      (s.mgmt.al = 2 → b.length = e.2.1 → e.2.2.2.1 ≤ ofLE b → ofLE b ≤ e.2.2.2.2 →
        exec (.checkPolicyWrite m e.1 b) s = .next (odSet 0x2700 e.1 (ofLE b) (setResp m 0 [] s))) ∧
      (s.mgmt.al = 2 → b.length = e.2.1 → (ofLE b < e.2.2.2.1 ∨ e.2.2.2.2 < ofLE b) →
        exec (.checkPolicyWrite m e.1 b) s = .next (setResp m 0x06090030 [] s)) ∧
      exec (.sdoRequest m false false 0x2700 e.1 []) s = .next (setResp m 0 (leBytes e.2.1 (odGet s 0x2700 e.1)) s)) ∧
    (∀ u, u = 0 ∨ u = 9 → exec (.checkPolicyWrite m u b) s = .next (setResp m 0x06010002 [] s)) ∧
    (s.od = [] → exec (.sdoRequest m false false 0x2700 0 []) s = .next (setResp m 0 [9] s)) ∧
    exec (.sdoRequest m false false 0x2700 9 []) s = .next (setResp m 0
      (shake256 (policyEntries.flatMap fun e => leBytes e.2.1 (odGet s 0x2700 e.1)) 32) s))
end

