-- ==== Sys2Proof/Laws/Keeps.lean ====
section
/-! SUPPORT. What every operation of the machine keeps, said once as a relation of two states, and how it passes through
record updates, conditions and folds. -/

namespace Sys2Proof.Machine

/-- What is asked beyond what every operation keeps: that test mode lasts (R500), that a trip lasts (R440), that the fused counter
stands (R480). -/
structure Asks where
  test : Bool
  trip : Bool
  fuse : Bool

/-- From `s` to `t` the queue stands, the anti-rollback counter does not fall (R480), what is asked holds, memory stays canonical, and
the part keeps its numbers of cores, ports, handles and groups. -/
structure Keeps (ask : Asks) (s t : State) : Prop where
  pending : t.pending = s.pending
  rise : s.sec.fused ≤ t.sec.fused
  fuse : ask.fuse = true → t.sec.fused = s.sec.fused
  test : ask.test = true → s.test.mode = true → t.test.mode = true
  trip : ask.trip = true → s.power.tripped = true → t.power.tripped = true
  mem : Memory.wf s = true → Memory.wf t = true
  cores : s.cores.length = 160 → t.cores.length = 160
  ports : s.ports.length = 32 → t.ports.length = 32
  handles : s.handles.length = 64 → t.handles.length = 64
  groups : s.groups.length = 16 → t.groups.length = 16

variable {ask : Asks} {s t u : State}

theorem Keeps.refl : Keeps ask s s := ⟨rfl, Nat.le_refl _, fun _ => rfl, fun _ h => h, fun _ h => h, id, id, id, id, id⟩

theorem Keeps.trans (h : Keeps ask s t) (k : Keeps ask t u) : Keeps ask s u :=
  ⟨k.pending.trans h.pending, Nat.le_trans h.rise k.rise, fun a => (k.fuse a).trans (h.fuse a), fun a b => k.test a (h.test a b), fun a b => k.trip a (h.trip a b),
    fun a => k.mem (h.mem a), fun a => k.cores (h.cores a), fun a => k.ports (h.ports a), fun a => k.handles (h.handles a),
    fun a => k.groups (h.groups a)⟩

/-- A record update keeps what it does not touch. -/
theorem Keeps.upd
    {x_now : Nat} {x_free : Nat} {κ : List Core} {x_poison : List Nat} {x_poisonFlips : List (Nat × Nat)} {x_ecc : List (Nat × Nat)} {x_corrTimes : List
    (Nat × List Nat)} {x_corrOver : List Nat} {x_nearTimes : List (Nat × List Nat)} {x_lanes : List (Nat × Int)}
    {x_flagged : List Nat} {x_margin : List Byte} {x_chipEvents : List (Nat × Nat)} {x_eventIn : List (Nat × Nat)}
    {x_eventOut : List (Nat × Nat)} {x_chans : List (Nat × Nat)} {η : List Handle} {γ : List Group} {x_slotsFree :
    List Nat} {x_ops : List CollOp} {x_proxyReqs : List (Nat × Nat)} {x_xflows : List XFlow} {π : List Port} {x_fab :
    Fabric} {x_inbound : List Inbound} {x_inbox : List Ejected} {x_windows : List (Nat × Window)} {x_refusedBy : List
    (Nat × Nat)} {x_egress : List (Nat × Packet × Trailer)} {x_eOut : List (Nat × Datagram)} {x_frameOut : List (Nat × EFrame)}
    {x_cwOut : List (Nat × Nat)} {x_ptpOut : List (Nat × Nat)} {x_od : List (Nat × Nat)} {x_mram : List (Nat × Nat)} {x_dieRegs : List
    (Nat × Nat)} {x_mgmt : Mgmt} {ω : Power} {x_dies : List Die} {x_d2d : List D2d} {x_startup : Startup} {x_fleet :
    Fleet} {σ : Security} {x_eports : List EPort} {τ : Test} {x_ptp : Ptp}
    (h : Keeps ask s u) (h1 : σ.fused = u.sec.fused) (h2 : ask.test = true → u.test.mode = true → τ.mode = true)
    (h3 : ask.trip = true → u.power.tripped = true → ω.tripped = true) (h4 : u.cores.length = 160 → κ.length = 160)
    (h5 : u.ports.length = 32 → π.length = 32) (h6 : u.handles.length = 64 → η.length = 64)
    (h7 : u.groups.length = 16 → γ.length = 16) :
    Keeps ask s
      ⟨u.pending, x_now, x_free, κ, u.mem, u.wild, x_poison, x_poisonFlips, x_ecc, x_corrTimes, x_corrOver, x_nearTimes, x_lanes,
       x_flagged, x_margin, x_chipEvents, x_eventIn, x_eventOut, x_chans, η, γ, x_slotsFree, x_ops, x_proxyReqs,
       x_xflows, π, x_fab, x_inbound, x_inbox, x_windows, x_refusedBy, x_egress, x_eOut, x_frameOut, x_cwOut, x_ptpOut, x_od,
       x_mram, x_dieRegs, x_mgmt, ω, x_dies, x_d2d, x_startup, x_fleet, σ, x_eports, τ, x_ptp⟩ :=
  h.trans ⟨rfl, Nat.le_of_eq h1.symm, fun _ => h1, h2, h3, id, h4, h5, h6, h7⟩

/-- A condition keeps what both its branches keep. -/
theorem Keeps.ite {c : Prop} [Decidable c] (h : c → Keeps ask s t) (k : ¬c → Keeps ask s u) :
    Keeps ask s (if c then t else u) := by
  split
  · exact h ‹_›
  · exact k ‹_›

/-- The same of answers that carry a value, or two, beside the state. -/
theorem Keeps.ite_snd {β : Type} {c : Prop} [Decidable c] {x y : β × State} (h : c → Keeps ask s x.2) (k : ¬c → Keeps ask s y.2) :
    Keeps ask s (if c then x else y).2 := by
  split
  · exact h ‹_›
  · exact k ‹_›

theorem Keeps.ite_snd_snd {β γ : Type} {c : Prop} [Decidable c] {x y : β × γ × State} (h : c → Keeps ask s x.2.2)
    (k : ¬c → Keeps ask s y.2.2) : Keeps ask s (if c then x else y).2.2 := by
  split
  · exact h ‹_›
  · exact k ‹_›

/-- A fold keeps what each of its steps keeps. -/
theorem Keeps.foldl {α : Type} {f : State → α → State} {l : List α} {z : State} (h : Keeps ask s z)
    (k : ∀ t a, Keeps ask s t → Keeps ask s (f t a)) : Keeps ask s (l.foldl f z) := by
  induction l generalizing z with
  | nil => exact h
  | cons a l ih => exact ih (k _ _ h)

/-- The same of a fold that carries a value beside the state. -/
theorem Keeps.foldl_snd {α β : Type} {f : β × State → α → β × State} {l : List α} {z : β × State}
    (h : Keeps ask s z.2) (k : ∀ t a, Keeps ask s t.2 → Keeps ask s (f t a).2) : Keeps ask s (l.foldl f z).2 := by
  induction l generalizing z with
  | nil => exact h
  | cons a l ih => exact ih (k _ _ h)

/-- The same of a fold that carries two values beside the state. -/
theorem Keeps.foldl_snd_snd {α β γ : Type} {f : β × γ × State → α → β × γ × State} {l : List α} {z : β × γ × State}
    (h : Keeps ask s z.2.2) (k : ∀ t a, Keeps ask s t.2.2 → Keeps ask s (f t a).2.2) : Keeps ask s (l.foldl f z).2.2 := by
  induction l generalizing z with
  | nil => exact h
  | cons a l ih => exact ih (k _ _ h)

/-- The state of an answer that a match has taken apart. -/
theorem Keeps.of_snd {β : Type} {r : β × State} {a : β} (h : r = (a, t)) (k : Keeps ask s r.2) : Keeps ask s t := by
  subst h; exact k

/-- What an answer keeps: a next state keeps it; the machine gives no other answer. -/
def OutKeeps (ask : Asks) (s : State) (o : Out) : Prop := ∃ t, o = .next t ∧ Keeps ask s t

theorem OutKeeps.next (h : Keeps ask s t) : OutKeeps ask s (.next t) := ⟨t, rfl, h⟩

end Sys2Proof.Machine
end

