-- ==== Sys2Proof/Laws/Memory.lean ====
section
/-! SUPPORT. Memory stays in its canonical form under every operation that writes it, and what a byte reads after a write. -/

namespace Sys2Proof.Machine

theorem above_iff {α : Type} {k : Nat} {l : List (Nat × α)} : above k l = true ↔ ∀ e ∈ l, k < e.1 := by
  simp [above]

/-- The canonical form as a statement about every pair of entries. -/
theorem memWf_iff {w : List (Nat × Nat × Nat)} {m : List Host.Cell} :
    memWf w m = true ↔ m.Pairwise (fun a b => a.1 < b.1) ∧ ∀ e ∈ m, e.2 ≠ blankByte w e.1 := by
  induction m with
  | nil => simp [memWf]
  | cons a r ih =>
    simp only [memWf, Bool.and_eq_true, decide_eq_true_eq, above_iff, ih, List.pairwise_cons, List.mem_cons,
      forall_eq_or_imp]
    exact ⟨fun ⟨⟨a, b⟩, c, d⟩ => ⟨⟨b, c⟩, a, d⟩, fun ⟨⟨b, c⟩, a, d⟩ => ⟨⟨a, b⟩, c, d⟩⟩

/-- The entries of a written run lie in the run and differ from what they read unlisted. -/
theorem memCells_mem {w : List (Nat × Nat × Nat)} {bs : List Byte} {a : Nat} {e : Host.Cell} (h : e ∈ memCells w a bs) :
    a ≤ e.1 ∧ e.1 < a + bs.length ∧ e.2 ≠ blankByte w e.1 := by
  induction bs generalizing a with
  | nil => simp [memCells] at h
  | cons b r ih =>
    simp only [memCells] at h
    split at h
    · have := ih h; simp only [List.length_cons]; exact ⟨by omega, by omega, this.2.2⟩
    · rcases List.mem_cons.1 h with rfl | h
      · simp; assumption
      · have := ih h; simp only [List.length_cons]; exact ⟨by omega, by omega, this.2.2⟩

theorem memCells_rising {w : List (Nat × Nat × Nat)} {bs : List Byte} {a : Nat} :
    (memCells w a bs).Pairwise (fun x y => x.1 < y.1) := by
  induction bs generalizing a with
  | nil => simp [memCells]
  | cons b r ih =>
    simp only [memCells]
    split
    · exact ih
    · refine List.pairwise_cons.2 ⟨fun e he => ?_, ih⟩
      have := (memCells_mem he).1
      show a < e.1
      omega

/-- Writing a run of bytes keeps the canonical form. -/
theorem memPut_wf {w : List (Nat × Nat × Nat)} {m : List Host.Cell} {a : Nat} {bs : List Byte} (h : memWf w m = true) :
    memWf w (memPut w m a bs) = true := by
  rw [memWf_iff] at *
  obtain ⟨hp, hd⟩ := h
  constructor
  · simp only [memPut, List.pairwise_append, List.mem_append, List.mem_filter, decide_eq_true_eq]
    refine ⟨⟨hp.filter _, memCells_rising, fun x hx y hy => ?_⟩, hp.filter _, fun x hx y hy => ?_⟩
    · have := (memCells_mem hy).1; omega
    · rcases hx with hx | hx
      · omega
      · have := (memCells_mem hx).2.1; omega
  · intro e he
    simp only [memPut, List.mem_append, List.mem_filter] at he
    rcases he with (he | he) | he
    · exact hd e he.1
    · exact (memCells_mem he).2.2
    · exact hd e he.1

/-- Dropping entries keeps the canonical form. -/
theorem memWf_filter {w : List (Nat × Nat × Nat)} {m : List Host.Cell} {f : Host.Cell → Bool} (h : memWf w m = true) :
    memWf w (m.filter f) = true := by
  rw [memWf_iff] at *
  exact ⟨h.1.filter _, fun e he => h.2 e (List.mem_filter.1 he).1⟩

/-- The canonical form under another table of unspecified regions, where the listed bytes read the same unlisted. -/
theorem memWf_congr {w v : List (Nat × Nat × Nat)} {m : List Host.Cell} (h : memWf w m = true)
    (k : ∀ e ∈ m, blankByte v e.1 = blankByte w e.1) : memWf v m = true := by
  rw [memWf_iff] at *
  exact ⟨h.1, fun e he => by rw [k e he]; exact h.2 e he⟩

/-- Dropping ranges that do not hold an address leaves what it reads unlisted. -/
theorem blankByte_filter {w : List (Nat × Nat × Nat)} {p : Nat × Nat × Nat → Bool} {a : Nat}
    (h : ∀ e ∈ w, p e = false → ¬(e.1 ≤ a ∧ a < e.2.1)) : blankByte (w.filter p) a = blankByte w a := by
  have hf : (w.filter p).find? (fun e => decide (e.1 ≤ a) && decide (a < e.2.1)) = w.find? fun e => decide (e.1 ≤ a) && decide (a < e.2.1) := by
    induction w with
    | nil => rfl
    | cons e l ih =>
      have ih := ih fun x hx => h x (List.mem_cons_of_mem _ hx)
      cases hp : p e
      · have hn := h e (List.mem_cons_self ..) hp
        have hb : (decide (e.1 ≤ a) && decide (a < e.2.1)) = false := by
          simp only [Bool.and_eq_false_iff, decide_eq_false_iff_not]; omega
        rw [List.filter_cons_of_neg (by simp [hp]), List.find?_cons_of_neg (by simp [hb]), ih]
      · rw [List.filter_cons_of_pos hp, List.find?_cons, List.find?_cons, ih]
  simp only [blankByte, hf]

/-- The entry of a key in a rising list. -/
theorem lget_of_mem {d : Byte} {m : List Host.Cell} {a : Nat} {b : Byte} (h : m.Pairwise (fun x y => x.1 < y.1))
    (hm : (a, b) ∈ m) : lget d m a = b := by
  induction m with
  | nil => simp at hm
  | cons x r ih =>
    obtain ⟨k, v⟩ := x
    rw [List.pairwise_cons] at h
    rcases List.mem_cons.1 hm with e | hm
    · cases e; simp [lget]
    · have : k < a := h.1 _ hm
      rw [lget, if_neg (by omega), if_neg (by omega)]
      exact ih h.2 hm

/-- A key that no entry has reads as the default. -/
theorem lget_of_not_mem {d : Byte} {m : List Host.Cell} {a : Nat} (h : m.Pairwise (fun x y => x.1 < y.1)) (hm : ∀ e ∈ m, e.1 ≠ a) :
    lget d m a = d := by
  induction m with
  | nil => rfl
  | cons x r ih =>
    obtain ⟨k, v⟩ := x
    rw [List.pairwise_cons] at h
    have := hm (k, v) (by simp)
    simp only [lget]
    split
    · rfl
    · rw [if_neg (by simp at this; omega)]
      exact ih h.2 fun e he => hm e (by simp [he])

/-- Two rising lists with the same entries at an address read the same there. -/
theorem lget_congr {d : Byte} {m n : List Host.Cell} {a : Nat} (hm : m.Pairwise (fun x y => x.1 < y.1))
    (hn : n.Pairwise (fun x y => x.1 < y.1)) (h : ∀ b, (a, b) ∈ m ↔ (a, b) ∈ n) : lget d m a = lget d n a := by
  by_cases k : ∃ b, (a, b) ∈ m
  · obtain ⟨b, hb⟩ := k
    rw [lget_of_mem hm hb, lget_of_mem hn ((h b).1 hb)]
  · have k1 : ∀ e ∈ m, e.1 ≠ a := fun e he eq => k ⟨e.2, by rw [← eq]; exact he⟩
    have k2 : ∀ e ∈ n, e.1 ≠ a := fun e he eq => k ⟨e.2, (h _).2 (by rw [← eq]; exact he)⟩
    rw [lget_of_not_mem hm k1, lget_of_not_mem hn k2]

theorem memCells_iff {w : List (Nat × Nat × Nat)} {bs : List Byte} {a x : Nat} {b : Byte} :
    (x, b) ∈ memCells w a bs ↔ a ≤ x ∧ bs[x - a]? = some b ∧ b ≠ blankByte w x := by
  induction bs generalizing a with
  | nil => simp [memCells]
  | cons c r ih =>
    have step : (x, b) ∈ memCells w (a + 1) r ↔ a < x ∧ (c :: r)[x - a]? = some b ∧ b ≠ blankByte w x := by
      rw [ih]
      by_cases hx : a < x
      · have : x - a = (x - (a + 1)) + 1 := by omega
        rw [this, List.getElem?_cons_succ]; simp [hx] <;> omega
      · simp [hx] <;> omega
    simp only [memCells]
    split
    · rename_i hc
      rw [step]
      constructor
      · rintro ⟨h, k⟩; exact ⟨by omega, k⟩
      · rintro ⟨h, k1, k2⟩
        refine ⟨?_, k1, k2⟩
        rcases Nat.lt_or_ge a x with h' | h'
        · exact h'
        · have : x = a := by omega
          subst this
          simp at k1; subst k1; exact absurd hc k2
    · rename_i hc
      rw [List.mem_cons, step]
      constructor
      · rintro (h | ⟨h, k⟩)
        · cases h; exact ⟨Nat.le_refl _, by simp, hc⟩
        · exact ⟨by omega, k⟩
      · rintro ⟨h, k1, k2⟩
        rcases Nat.lt_or_ge a x with h' | h'
        · exact Or.inr ⟨h', k1, k2⟩
        · have : x = a := by omega
          subst this
          simp at k1; subst k1; exact Or.inl rfl

/-- A byte that a write covers reads as written. -/
theorem readByte_writeBytes_in {s : State} {a x : Nat} {bs : List Byte} (h : Memory.wf s = true) (h1 : a ≤ x) (h2 : x < a + bs.length) :
    readByte (writeBytes a bs s) x = bs.getD (x - a) 0 := by
  have hr := (memWf_iff.1 (memPut_wf (a := a) (bs := bs) h)).1
  have hlen : x - a < bs.length := by omega
  have hget : bs[x - a]? = some (bs.getD (x - a) 0) := by simp [List.getD, hlen]
  show lget (blankByte s.wild x) (memPut s.wild s.mem a bs) x = _
  by_cases hb : bs.getD (x - a) 0 = blankByte s.wild x
  · rw [hb]
    refine lget_of_not_mem hr fun e he eq => ?_
    simp only [memPut, List.mem_append, List.mem_filter, decide_eq_true_eq] at he
    rcases he with (he | he) | he
    · omega
    · obtain ⟨e1, e2⟩ := e
      have := (memCells_iff.1 he)
      simp only at eq; subst eq
      rw [hget] at this
      exact this.2.2 (by rw [← hb]; exact (Option.some.inj this.2.1).symm)
    · omega
  · refine lget_of_mem hr ?_
    simp only [memPut, List.mem_append]
    exact Or.inl (Or.inr (memCells_iff.2 ⟨h1, hget, hb⟩))

/-- A byte outside a write reads as before. -/
theorem readByte_writeBytes_out {s : State} {a x : Nat} {bs : List Byte} (h : Memory.wf s = true) (hx : x < a ∨ a + bs.length ≤ x) :
    readByte (writeBytes a bs s) x = readByte s x := by
  refine lget_congr (memWf_iff.1 (memPut_wf (a := a) (bs := bs) h)).1 (memWf_iff.1 h).1 fun b => ?_
  show (x, b) ∈ memPut s.wild s.mem a bs ↔ _
  simp only [memPut, List.mem_append, List.mem_filter, decide_eq_true_eq]
  constructor
  · rintro ((k | k) | k)
    · exact k.1
    · have := memCells_mem k; simp only at this; omega
    · exact k.1
  · intro k
    rcases hx with hx | hx
    · exact Or.inl (Or.inl ⟨k, hx⟩)
    · exact Or.inr ⟨k, hx⟩

end Sys2Proof.Machine
end

