-- ==== Sys2Proof/Laws/KeepsOps.lean ====
section
/-! SUPPORT. What the operations of Machine/Ops.lean keep. -/

namespace Sys2Proof.Machine

variable {ask : Asks}

theorem State.modCore_keeps {base : State} {s : State} {c : Nat} {f : Core → Core} (hk : Keeps ask base s) :
    Keeps ask base (State.modCore s c f) := by
  unfold State.modCore
  repeat' first | (with_reducible first | assumption | intro _ | exact rfl) | (rw [List.length_modify]; assumption) | split
                | with_reducible apply Keeps.upd | dsimp only | assumption

theorem odSet_keeps {base : State} {i sub v : Nat} {s : State} (hk : Keeps ask base s) :
    Keeps ask base (odSet i sub v s) := by
  unfold odSet
  repeat' first | (with_reducible first | assumption | intro _ | exact rfl) | split | with_reducible apply Keeps.upd
                | dsimp only | assumption

theorem odInc_keeps {base : State} {i sub n k : Nat} {s : State} (hk : Keeps ask base s) :
    Keeps ask base (odInc i sub n k s) := by
  unfold odInc
  repeat' first | (with_reducible first | assumption | apply odSet_keeps) | split | dsimp only

theorem setDieReg_keeps {base : State} {d ofs v : Nat} {s : State} (hk : Keeps ask base s) :
    Keeps ask base (setDieReg d ofs v s) := by
  unfold setDieReg
  repeat' first | (with_reducible first | assumption | intro _ | exact rfl) | split | with_reducible apply Keeps.upd
                | dsimp only | assumption

theorem State.modPort_keeps {base : State} {s : State} {p : Nat} {f : Port → Port} (hk : Keeps ask base s) :
    Keeps ask base (State.modPort s p f) := by
  unfold State.modPort
  repeat' first | (with_reducible first | assumption | intro _ | exact rfl) | (rw [List.length_modify]; assumption) | split
                | with_reducible apply Keeps.upd | dsimp only | assumption

theorem sendEvents_keeps {base : State} {e : Emcy} {s : State} (hk : Keeps ask base s) :
    Keeps ask base (sendEvents e s) := by
  unfold sendEvents
  dsimp only
  repeat' first | (with_reducible first | assumption | apply Keeps.ite | apply Keeps.foldl | apply Keeps.foldl_snd | intro _
                                        | exact rfl) | split | with_reducible apply Keeps.upd | dsimp only | assumption

theorem emcyPut_keeps {base : State} {code : Nat} {bytes : List Nat} {s : State} (hk : Keeps ask base s) :
    Keeps ask base (emcyPut code bytes s) := by
  unfold emcyPut
  dsimp only
  repeat' first | (with_reducible first | assumption | apply emcy_keeps | apply sendEvents_keeps | intro _ | exact rfl)
                | exact List.length_replicate | split | with_reducible apply Keeps.upd | dsimp only | assumption

theorem emcyCoalesce_keeps {base : State} {s : State} (hk : Keeps ask base s) :
    Keeps ask base (emcyCoalesce s) := by
  unfold emcyCoalesce
  repeat' first | (with_reducible first | assumption | apply odInc_keeps | intro _ | exact rfl) | split
                | with_reducible apply Keeps.upd | dsimp only | assumption

theorem emcySend_keeps {base : State} {trip : Bool} {code : Nat} {bytes : List Nat} {s : State} (hk : Keeps ask base s) :
    Keeps ask base (emcySend trip code bytes s) := by
  unfold emcySend
  repeat' first | (with_reducible first | assumption | apply emcyCoalesce_keeps | apply emcyPut_keeps | apply Keeps.ite
                                        | intro _ | exact rfl) | exact List.length_replicate | split
                | with_reducible apply Keeps.upd | dsimp only | assumption

theorem emcy_keeps {base : State} {code : Nat} {bytes : List Nat} {s : State} (hk : Keeps ask base s) :
    Keeps ask base (emcy code bytes s) := by
  unfold emcy
  repeat' first | (with_reducible first | assumption | apply emcySend_keeps) | split | dsimp only

theorem emcyDrain_keeps {base : State} {n : Nat} {s : State} (hk : Keeps ask base s) :
    Keeps ask base (emcyDrain n s) := by
  induction n generalizing s with
  | zero => exact hk
  | succ n ih =>
    unfold emcyDrain
    split
    · exact hk
    · split
      · exact hk
      · exact ih (emcyPut_keeps (hk.upd rfl (fun _ h => h) (fun _ h => h) id id id id))

theorem logCheck_keeps {base : State} {core engAtt row col code low pc : Nat} {s : State} (hk : Keeps ask base s) :
    Keeps ask base (logCheck core engAtt row col code low pc s) := by
  unfold logCheck
  dsimp only
  repeat' first | (with_reducible first | assumption | intro _ | exact rfl) | split | with_reducible apply Keeps.upd
                | dsimp only | assumption

/-- A write of bytes keeps the canonical form of memory. -/
theorem writeBytes_keeps {base : State} {a : Nat} {bs : List Byte} {s : State} (hk : Keeps ask base s) :
    Keeps ask base (writeBytes a bs s) :=
  hk.trans ⟨rfl, Nat.le_refl _, fun _ => rfl, fun _ h => h, fun _ h => h, fun h => by
    simp only [Memory.wf] at h
    simp only [Memory.wf, writeBytes]
    exact memPut_wf h, id, id, id, id⟩

/-- What an address outside reads unlisted stands when a range becomes unspecified. -/
theorem makeWild_blank {s : State} {lo hi a : Nat} (ha : a < lo ∨ hi ≤ a) : blankByte (makeWild lo hi s).wild a = blankByte s.wild a := by
  have hb : (decide (lo ≤ a) && decide (a < hi)) = false := by simp only [Bool.and_eq_false_iff, decide_eq_false_iff_not]; omega
  have h1 : blankByte ((lo, hi, s.free) :: s.wild.filter fun e => decide (e.1 < lo) || decide (hi < e.2.1)) a =
      blankByte (s.wild.filter fun e => decide (e.1 < lo) || decide (hi < e.2.1)) a := by
    simp only [blankByte, List.find?_cons, hb]
  refine h1.trans (blankByte_filter fun e _ hp => ?_)
  simp only [Bool.or_eq_false_iff, decide_eq_false_iff_not] at hp
  omega

/-- A range whose contents become unspecified is listed nowhere, so that memory stays canonical. -/
theorem makeWild_keeps {base : State} {lo hi : Nat} {s : State} (hk : Keeps ask base s) : Keeps ask base (makeWild lo hi s) :=
  hk.trans ⟨rfl, Nat.le_refl _, fun _ => rfl, fun _ h => h, fun _ h => h, fun h => by
    simp only [Memory.wf] at h ⊢
    refine memWf_congr (memWf_filter h) fun e he => makeWild_blank ?_
    simpa using (List.mem_filter.1 he).2, id, id, id, id⟩

theorem wildAll_keeps {base : State} {l : List (Nat × Nat)} {s : State} (hk : Keeps ask base s) : Keeps ask base (wildAll l s) :=
  Keeps.foldl hk fun _ _ h => makeWild_keeps h

/-- A byte outside a range that becomes unspecified reads as before. -/
theorem readByte_makeWild_out {s : State} {lo hi a : Nat} (h : Memory.wf s = true) (ha : a < lo ∨ hi ≤ a) :
    readByte (makeWild lo hi s) a = readByte s a := by
  show lget (blankByte (makeWild lo hi s).wild a) (s.mem.filter _) a = lget (blankByte s.wild a) s.mem a
  rw [makeWild_blank ha]
  have hs := (memWf_iff.1 h).1
  refine lget_congr (hs.filter _) hs fun b => ?_
  simp only [List.mem_filter, Bool.or_eq_true, decide_eq_true_eq]
  exact ⟨fun k => k.1, fun k => ⟨k, ha⟩⟩

/-- A byte outside all the ranges that become unspecified reads as before. -/
theorem readByte_wildAll_out {l : List (Nat × Nat)} {s : State} {a : Nat} (h : Memory.wf s = true) (ha : ∀ x ∈ l, a < x.1 ∨ x.1 + x.2 ≤ a) :
    readByte (wildAll l s) a = readByte s a := by
  induction l generalizing s with
  | nil => rfl
  | cons x l ih =>
    have k : Keeps ⟨false, false, false⟩ s (makeWild x.1 (x.1 + x.2) s) := makeWild_keeps Keeps.refl
    exact (ih (k.mem h) fun y hy => ha y (List.mem_cons_of_mem _ hy)).trans (readByte_makeWild_out h (ha x (List.mem_cons_self ..)))

theorem noteCorrected_keeps {base : State} {key : Nat} {b0 b1 : Nat} {s : State} (hk : Keeps ask base s) :
    Keeps ask base (noteCorrected key b0 b1 s) := by
  unfold noteCorrected
  dsimp only
  repeat' first | (with_reducible first | assumption | apply emcy_keeps | apply Keeps.ite | intro _ | exact rfl) | split
                | with_reducible apply Keeps.upd | dsimp only | assumption

theorem modSite_keeps {base : State} {i : Nat} {f : Site → Site} {s : State} (hk : Keeps ask base s) :
    Keeps ask base (modSite i f s) := by
  unfold modSite
  repeat' first | (with_reducible first | assumption | intro _ | exact rfl) | (rw [List.length_modify]; assumption) | split
                | with_reducible apply Keeps.upd | dsimp only | assumption

theorem recordRepair_keeps {base : State} {kind unit index repl source state : Nat} {s : State} (hk : Keeps ask base s) :
    Keeps ask base (recordRepair kind unit index repl source state s) := by
  unfold recordRepair
  dsimp only
  repeat' first | (with_reducible first | assumption | apply emcy_keeps | apply Keeps.ite | intro _ | exact rfl) | split
                | with_reducible apply Keeps.upd | dsimp only | assumption

theorem recordSite_keeps {base : State} {i source : Nat} {s : State} (hk : Keeps ask base s) :
    Keeps ask base (recordSite i source s) := by
  unfold recordSite
  repeat' first | (with_reducible first | assumption | apply recordRepair_keeps) | split | dsimp only

theorem recordRow_keeps {base : State} {c o : Nat} {s : State} (hk : Keeps ask base s) :
    Keeps ask base (recordRow c o s) := by
  unfold recordRow
  dsimp only
  repeat' first | (with_reducible first | assumption | apply recordRepair_keeps) | split | dsimp only

theorem noteNear_keeps {base : State} {l c o : Nat} {s : State} (hk : Keeps ask base s) :
    Keeps ask base (noteNear l c o s) := by
  unfold noteNear
  dsimp only
  repeat' first | (with_reducible first | assumption | apply recordRow_keeps | apply Keeps.ite | intro _ | exact rfl)
                | split | with_reducible apply Keeps.upd | dsimp only | assumption

theorem countCorrected_keeps {base : State} {l n : Nat} {s : State} (hk : Keeps ask base s) :
    Keeps ask base (countCorrected l n s) := by
  unfold countCorrected
  dsimp only
  repeat' first | (with_reducible first | assumption | apply noteNear_keeps | apply modSite_keeps
                                        | apply noteCorrected_keeps | apply odInc_keeps | apply Keeps.ite
                                        | apply Keeps.foldl | apply Keeps.foldl_snd | intro _ | exact rfl) | split
                | with_reducible apply Keeps.upd | dsimp only | assumption

theorem countUncorrected_keeps {base : State} {l : Nat} {bursts : List Nat} {s : State} (hk : Keeps ask base s) :
    Keeps ask base (countUncorrected l bursts s) := by
  unfold countUncorrected
  dsimp only
  repeat' first | (with_reducible first | assumption | apply recordRow_keeps | apply modSite_keeps | apply emcy_keeps
                                        | apply odInc_keeps | apply Keeps.ite | intro _ | exact rfl) | split
                | with_reducible apply Keeps.upd | dsimp only | assumption

theorem settleFlips_keeps {base : State} {l : Nat} {s : State} (hk : Keeps ask base s) :
    Keeps ask base (settleFlips l s) := by
  unfold settleFlips
  repeat' first | (with_reducible first | assumption | intro _ | exact rfl) | split | with_reducible apply Keeps.upd
                | dsimp only | assumption

theorem setPoison_keeps {base : State} {l : Nat} {s : State} (hk : Keeps ask base s) :
    Keeps ask base (setPoison l s) := by
  unfold setPoison
  repeat' first | (with_reducible first | assumption | apply settleFlips_keeps | intro _ | exact rfl) | split
                | with_reducible apply Keeps.upd | dsimp only | assumption

theorem clearPoison_keeps {base : State} {l : Nat} {s : State} (hk : Keeps ask base s) :
    Keeps ask base (clearPoison l s) := by
  unfold clearPoison
  repeat' first | (with_reducible first | assumption | apply settleFlips_keeps | intro _ | exact rfl) | split
                | with_reducible apply Keeps.upd | dsimp only | assumption

theorem clearEcc_keeps {base : State} {l : Nat} {s : State} (hk : Keeps ask base s) :
    Keeps ask base (clearEcc l s) := by
  unfold clearEcc
  repeat' first | (with_reducible first | assumption | intro _ | exact rfl) | split | with_reducible apply Keeps.upd
                | dsimp only | assumption

theorem readUnits_keeps {base : State} {l : Nat} {us : List Nat} {s : State} (hk : Keeps ask base s) :
    Keeps ask base (readUnits l us s).2 := by
  unfold readUnits
  dsimp only
  repeat' first | (with_reducible first | assumption | dsimp only | apply setPoison_keeps | apply countUncorrected_keeps
                                        | apply countCorrected_keeps | apply Keeps.ite | apply Keeps.ite_snd | intro _
                                        | exact rfl) | (rw [List.length_map]; assumption) | split
                | with_reducible apply Keeps.upd | dsimp only | assumption

theorem readLine_keeps {base : State} {l : Nat} {s : State} (hk : Keeps ask base s) :
    Keeps ask base (readLine l s).2 := by
  unfold readLine
  repeat' first | (with_reducible first | assumption | dsimp only | apply readUnits_keeps) | split | dsimp only

theorem touchRead_keeps {base : State} {spans : List (Nat × Nat)} {s : State} (hk : Keeps ask base s) :
    Keeps ask base (touchRead spans s).2 := by
  unfold touchRead
  dsimp only
  repeat' first | (with_reducible first | assumption | dsimp only | apply readUnits_keeps | apply Keeps.foldl
                                        | apply Keeps.foldl_snd | intro _ | exact rfl) | split | dsimp only

theorem settleLine_keeps {base : State} {ps : List (Nat × Nat)} {bad : Bool} {l : Nat} {s : State} (hk : Keeps ask base s) :
    Keeps ask base (settleLine ps bad l s) := by
  unfold settleLine
  dsimp only
  repeat' first | (with_reducible first | assumption | apply readUnits_keeps | apply clearEcc_keeps
                                        | apply clearPoison_keeps | apply setPoison_keeps | apply Keeps.ite | intro _
                                        | exact rfl) | (with_reducible refine Keeps.of_snd ‹_› ?_) | split
                | with_reducible apply Keeps.upd | dsimp only | assumption

theorem storePieces_keeps {base : State} {ps : List (Nat × List Byte)} {bad : Bool} {s : State} (hk : Keeps ask base s) :
    Keeps ask base (storePieces ps bad s) := by
  unfold storePieces
  dsimp only
  repeat' first | (with_reducible first | assumption | apply settleLine_keeps | apply writeBytes_keeps | apply Keeps.foldl
                                        | apply Keeps.foldl_snd | intro _ | exact rfl) | split | dsimp only

theorem freeBytes_keeps {base : State} {n : Nat} {s : State} (hk : Keeps ask base s) :
    Keeps ask base (freeBytes n s).2 := by
  unfold freeBytes
  repeat' first | (with_reducible first | assumption | dsimp only | intro _ | exact rfl)
                | (rw [List.length_map]; assumption) | split | with_reducible apply Keeps.upd | dsimp only | assumption

theorem nextFreeWord_keeps {base : State} {s : State} (hk : Keeps ask base s) :
    Keeps ask base (nextFreeWord s).2 := by
  unfold nextFreeWord
  repeat' first | (with_reducible first | assumption | dsimp only | intro _ | exact rfl) | split
                | with_reducible apply Keeps.upd | dsimp only | assumption

theorem State.modHandle_keeps {base : State} {s : State} {h : Nat} {f : Handle → Handle} (hk : Keeps ask base s) :
    Keeps ask base (State.modHandle s h f) := by
  unfold State.modHandle
  repeat' first | (with_reducible first | assumption | intro _ | exact rfl) | (rw [List.length_modify]; assumption) | split
                | with_reducible apply Keeps.upd | dsimp only | assumption

theorem stopCore_keeps {base : State} {c code : Nat} {s : State} (hk : Keeps ask base s) :
    Keeps ask base (stopCore c code s) := by
  unfold stopCore
  dsimp only
  repeat' first | (with_reducible first | assumption | apply State.modHandle_keeps | apply State.modCore_keeps
                                        | apply Keeps.ite | intro _ | exact rfl) | split | with_reducible apply Keeps.upd
                | dsimp only | assumption

theorem settleAl_keeps {base : State} {s : State} (hk : Keeps ask base s) :
    Keeps ask base (settleAl s) := by
  unfold settleAl
  repeat' first | (with_reducible first | assumption | apply Keeps.ite | intro _ | exact rfl) | split
                | with_reducible apply Keeps.upd | dsimp only | assumption

theorem setHandle_keeps {base : State} {h st result : Nat} {s : State} (hk : Keeps ask base s) :
    Keeps ask base (setHandle h st result s) := by
  unfold setHandle
  dsimp only
  repeat' first | (with_reducible first | assumption | apply settleAl_keeps | apply State.modHandle_keeps | apply emcy_keeps
                                        | apply Keeps.ite | intro _ | exact rfl) | split | with_reducible apply Keeps.upd
                | dsimp only | assumption

end Sys2Proof.Machine
end

