-- ==== Sys2Proof/Laws/KeepsEngines.lean ====
section
/-! SUPPORT. What the operations of Machine/Engines.lean keep. -/

namespace Sys2Proof.Machine

variable {ask : Asks}

theorem withWord_keeps {base : State} {op xw c : Nat} {s : State} {body : Nat → State} (hk : Keeps ask base s) (hkbody : ∀ x0, Keeps ask base (body x0)) :
    Keeps ask base (withWord op xw c s body) := by
  unfold withWord
  dsimp only
  repeat' first | (with_reducible first | assumption | apply hkbody | apply stopCore_keeps | apply Keeps.ite | intro _
                                        | exact rfl) | split | dsimp only

theorem issue_keeps {base : State} {e : Eng} {op xw : Nat} {p : Nat → Bool} {c : Nat} {s : State} (hk : Keeps ask base s) :
    Keeps ask base (issue e op xw p c s) := by
  unfold issue
  dsimp only
  repeat' first | (with_reducible first | assumption | apply withWord_keeps | apply stopCore_keeps
                                        | apply State.modCore_keeps | apply Keeps.ite | intro _ | exact rfl)
                | (rw [List.length_map]; assumption) | split | with_reducible apply Keeps.upd | dsimp only | assumption

theorem noteRaces_keeps {base : State} {spans : List Span} {s : State} (hk : Keeps ask base s) :
    Keeps ask base (noteRaces spans s) := by
  unfold noteRaces
  dsimp only
  repeat' first | (with_reducible first | assumption | apply Keeps.ite | apply Keeps.foldl | apply Keeps.foldl_snd | intro _
                                        | exact rfl) | (rw [List.length_map]; assumption) | split
                | with_reducible apply Keeps.upd | dsimp only | assumption

theorem startRun_keeps {base : State} {e : Eng} {c : Nat} {d : Desc} {vcode : Nat} {ts : List (Nat × Bool)} {spans : List Span} {s : State} (hk : Keeps ask base s) :
    Keeps ask base (startRun e c d vcode ts spans s) := by
  unfold startRun
  dsimp only
  repeat' first | (with_reducible first | assumption | apply noteRaces_keeps | apply stopCore_keeps
                                        | apply State.modCore_keeps | apply Keeps.ite | intro _ | exact rfl) | split
                | with_reducible apply Keeps.upd | dsimp only | assumption

theorem viewRaced_keeps {base : State} {l : List Span} {s : State} (hk : Keeps ask base s) :
    Keeps ask base (viewRaced l s) := by
  unfold viewRaced
  dsimp only
  repeat' first | (with_reducible first | assumption | apply freeBytes_keeps | apply writeBytes_keeps | apply Keeps.foldl
                                        | apply Keeps.foldl_snd | intro _ | exact rfl) | split | dsimp only

theorem raceView_keeps {base : State} {r : Run} {s : State} (hk : Keeps ask base s) :
    Keeps ask base (raceView r s) := by
  unfold raceView
  repeat' first | (with_reducible first | assumption | apply viewRaced_keeps) | split | dsimp only

theorem readView_keeps {base : State} {rs : List (Nat × Nat)} {s : State} (hk : Keeps ask base s) :
    Keeps ask base (readView rs s) := by
  unfold readView
  repeat' first | (with_reducible first | assumption | apply viewRaced_keeps | intro _ | exact rfl) | split | dsimp only

theorem noteWrites_keeps {base : State} {ps : List (Nat × Nat)} {s : State} (hk : Keeps ask base s) :
    Keeps ask base (noteWrites ps s) := by
  unfold noteWrites
  repeat' first | (with_reducible first | assumption | apply noteRaces_keeps | intro _ | exact rfl) | split | dsimp only

theorem reportCheck_keeps {base : State} {low c : Nat} {e : Eng} {r : Run} {row col code : Nat} {s : State} (hk : Keeps ask base s) :
    Keeps ask base (reportCheck low c e r row col code s) := by
  unfold reportCheck
  repeat' first | (with_reducible first | assumption | apply logCheck_keeps | apply emcy_keeps) | split | dsimp only

theorem markSite_keeps {base : State} {c : Nat} {e : Eng} {r : Run} {row col code : Nat} {s : State} (hk : Keeps ask base s) :
    Keeps ask base (markSite c e r row col code s) := by
  unfold markSite
  dsimp only
  repeat' first | (with_reducible first | assumption | apply reportCheck_keeps | apply recordSite_keeps
                                        | apply modSite_keeps | apply odInc_keeps | apply Keeps.ite | intro _ | exact rfl)
                | split | with_reducible apply Keeps.upd | dsimp only | assumption

theorem noteFirstFault_keeps {base : State} {c : Nat} {e : Eng} {r : Run} {row col code : Nat} {s : State} (hk : Keeps ask base s) :
    Keeps ask base (noteFirstFault c e r row col code s) := by
  unfold noteFirstFault
  dsimp only
  repeat' first | (with_reducible first | assumption | apply markSite_keeps | apply modSite_keeps | apply Keeps.ite
                                        | intro _ | exact rfl) | split | with_reducible apply Keeps.upd | dsimp only
                | assumption

theorem failAttempt_keeps {base : State} {c : Nat} {e : Eng} {r : Run} {row col code : Nat} {s : State} (hk : Keeps ask base s) :
    Keeps ask base (failAttempt c e r row col code s) := by
  unfold failAttempt
  dsimp only
  repeat' first | (with_reducible first | assumption | apply noteFirstFault_keeps | apply reportCheck_keeps
                                        | apply recordSite_keeps | apply modSite_keeps | apply odInc_keeps | apply Keeps.ite
                                        | intro _ | exact rfl) | split | with_reducible apply Keeps.upd | dsimp only
                | assumption

theorem dropProxy_keeps {base : State} {c : Nat} {e : Eng} {s : State} (hk : Keeps ask base s) :
    Keeps ask base (dropProxy c e s) := by
  unfold dropProxy
  repeat' first | (with_reducible first | assumption | intro _ | exact rfl) | split | with_reducible apply Keeps.upd
                | dsimp only | assumption

theorem finalAction_keeps {base : State} {c : Nat} {e : Eng} {r : Run} {row col code : Nat} {s : State} (hk : Keeps ask base s) :
    Keeps ask base (finalAction c e r row col code s) := by
  unfold finalAction
  dsimp only
  repeat' first | (with_reducible first | assumption | apply markSite_keeps | apply stopCore_keeps | apply Keeps.ite
                                        | intro _ | exact rfl) | split | dsimp only

theorem complete_keeps {base : State} {e : Eng} {c : Nat} {r : Run} {code : Nat} {inexact : Bool} {s : State} (hk : Keeps ask base s) :
    Keeps ask base (complete e c r code inexact s) := by
  unfold complete
  dsimp only
  repeat' first | (with_reducible first | assumption | apply reportCheck_keeps | apply odInc_keeps
                                        | apply State.modCore_keeps | apply Keeps.ite | intro _ | exact rfl) | split
                | with_reducible apply Keeps.upd | dsimp only | assumption

theorem endFailed_keeps {base : State} {e : Eng} {c : Nat} {r : Run} {done : State → State} {s : State} (hk : Keeps ask base s) (hkdone : ∀ t, Keeps ask base t → Keeps ask base (done t)) :
    Keeps ask base (endFailed e c r done s) := by
  unfold endFailed
  dsimp only
  repeat' first | (with_reducible first | assumption | apply hkdone | apply complete_keeps | apply finalAction_keeps
                                        | apply dropProxy_keeps | apply reportCheck_keeps | apply modSite_keeps
                                        | apply odInc_keeps | intro _ | exact rfl) | split | with_reducible apply Keeps.upd
                | dsimp only | assumption

theorem noteRecovery_keeps {base : State} {e : Eng} {c : Nat} {r : Run} {code : Nat} {s : State} (hk : Keeps ask base s) :
    Keeps ask base (noteRecovery e c r code s) := by
  unfold noteRecovery
  repeat' first | (with_reducible first | assumption | apply reportCheck_keeps | apply odInc_keeps | apply Keeps.ite
                                        | intro _ | exact rfl) | split | with_reducible apply Keeps.upd | dsimp only
                | assumption

theorem endAttempt_keeps {base : State} {e : Eng} {c : Nat} {a : Run} {eligible : Bool} {done : State → State} {s : State} (hk : Keeps ask base s) (hkdone : ∀ t, Keeps ask base t → Keeps ask base (done t)) :
    Keeps ask base (endAttempt e c a eligible done s) := by
  unfold endAttempt
  dsimp only
  repeat' first | (with_reducible first | assumption | apply hkdone | apply noteRecovery_keeps | apply endFailed_keeps
                                        | apply complete_keeps | apply dropProxy_keeps | apply failAttempt_keeps
                                        | apply State.modCore_keeps | apply Keeps.ite | intro _ | exact rfl) | split
                | with_reducible apply Keeps.upd | dsimp only | assumption

theorem retryInPlace_keeps {base : State} {c : Nat} {e : Eng} {s : State} (hk : Keeps ask base s) :
    Keeps ask base (retryInPlace c e s) := by
  unfold retryInPlace
  repeat' first | (with_reducible first | assumption | apply State.modCore_keeps | apply Keeps.ite | intro _ | exact rfl)
                | split | with_reducible apply Keeps.upd | dsimp only | assumption

theorem retryProxy_keeps {base : State} {c : Nat} {e : Eng} {done : Run → State → State} {s : State} (hk : Keeps ask base s) (hkdone : ∀ x0 t, Keeps ask base t → Keeps ask base (done x0 t)) :
    Keeps ask base (retryProxy c e done s) := by
  unfold retryProxy
  dsimp only
  repeat' first | (with_reducible first | assumption | apply hkdone | apply endFailed_keeps | apply State.modCore_keeps
                                        | apply Keeps.ite | intro _ | exact rfl) | split | with_reducible apply Keeps.upd
                | dsimp only | assumption

end Sys2Proof.Machine
end

