-- ==== Sys2Proof/Laws/KeepsFabric.lean ====
section
/-! SUPPORT. What the operations of Machine/Fabric.lean keep. -/

namespace Sys2Proof.Machine

variable {ask : Asks}

theorem chooseRoute_keeps {base : State} {s : State} {b : Nat} {permit : Bool} (hk : Keeps ask base s) :
    Keeps ask base (chooseRoute s b permit).2 := by
  unfold chooseRoute
  dsimp only
  repeat' first | (with_reducible first | assumption | dsimp only | apply odInc_keeps | apply Keeps.ite
                                        | apply Keeps.ite_snd | intro _ | exact rfl) | split
                | with_reducible apply Keeps.upd | dsimp only | assumption

theorem routeDiscard_keeps {base : State} {p : Nat} {s : State} (hk : Keeps ask base s) :
    Keeps ask base (routeDiscard p s) := by
  unfold routeDiscard
  repeat' first | (with_reducible first | assumption | apply odInc_keeps) | split | dsimp only

theorem crcDiscard_keeps {base : State} {p : Nat} {s : State} (hk : Keeps ask base s) :
    Keeps ask base (crcDiscard p s) := by
  unfold crcDiscard
  repeat' first | (with_reducible first | assumption | apply odInc_keeps) | split | dsimp only

theorem freeCells_keeps {base : State} {p : Nat} {shared : Bool} {cls level n : Nat} {s : State} (hk : Keeps ask base s) :
    Keeps ask base (freeCells p shared cls level n s) := by
  unfold freeCells
  dsimp only
  repeat' first | (with_reducible first | assumption | apply State.modPort_keeps | apply Keeps.ite | intro _ | exact rfl)
                | split | with_reducible apply Keeps.upd | dsimp only | assumption

theorem passCells_keeps {base : State} {p : Nat} {k : Packet} {s : State} (hk : Keeps ask base s) :
    Keeps ask base (passCells p k s) := by
  unfold passCells
  repeat' first | (with_reducible first | assumption | apply freeCells_keeps) | split | dsimp only

theorem leaveRx_keeps {base : State} {w : Wait} {s : State} (hk : Keeps ask base s) :
    Keeps ask base (leaveRx w s) := by
  unfold leaveRx
  repeat' first | (with_reducible first | assumption | apply freeCells_keeps | apply Keeps.ite | intro _ | exact rfl)
                | split | with_reducible apply Keeps.upd | dsimp only | assumption

theorem crossAll_keeps {base : State} {done l : List Wait} {s : State} (hk : Keeps ask base s) :
    Keeps ask base (crossAll done l s).2 := by
  induction l generalizing done s with
  | nil => exact hk
  | cons w r ih =>
    refine ih ?_
    split
    · exact leaveRx_keeps hk
    · exact hk

theorem settleRing_keeps {base : State} {s : State} (hk : Keeps ask base s) : Keeps ask base (settleRing s) := by
  have h := crossAll_keeps (done := []) (l := s.fab.wait) hk
  exact h.upd rfl (fun _ h => h) (fun _ h => h) id id id id

theorem settleBuffers_keeps {base : State} {s : State} (hk : Keeps ask base s) :
    Keeps ask base (settleBuffers s) := by
  unfold settleBuffers
  repeat' first | (with_reducible first | assumption | apply settleRing_keeps | intro _ | exact rfl) | split
                | with_reducible apply Keeps.upd | dsimp only | assumption

theorem leavePort_keeps {base : State} {port : Nat} {q : Port} {p : Packet} {t : Trailer} {s : State} (hk : Keeps ask base s) :
    Keeps ask base (leavePort port q p t s) := by
  unfold leavePort
  repeat' first | (with_reducible first | assumption | apply State.modPort_keeps | intro _ | exact rfl) | split
                | with_reducible apply Keeps.upd | dsimp only | assumption

theorem noteStall_keeps {base : State} {s : State} {w : Wait} (hk : Keeps ask base s) :
    Keeps ask base (noteStall s w) := by
  unfold noteStall
  dsimp only
  repeat' first | (with_reducible first | assumption | apply emcy_keeps | apply State.modPort_keeps | apply odInc_keeps
                                        | apply Keeps.ite | intro _ | exact rfl) | (rw [List.length_map]; assumption)
                | split | with_reducible apply Keeps.upd | dsimp only | assumption

theorem sendOut_keeps {base : State} {p n : Nat} {s : State} (hk : Keeps ask base s) : Keeps ask base (sendOut p n s) := by
  induction n generalizing s with
  | zero => exact hk
  | succ n ih =>
    unfold sendOut
    split
    · exact hk
    · split
      · exact hk
      · exact ih (settleBuffers_keeps (leaveRx_keeps (leavePort_keeps (hk.upd rfl (fun _ h => h) (fun _ h => h) id id id id))))

theorem drainPort_keeps {base : State} {p : Nat} {s : State} (hk : Keeps ask base s) : Keeps ask base (drainPort p s) :=
  Keeps.foldl (sendOut_keeps (settleBuffers_keeps hk)) fun _ _ h => noteStall_keeps h

theorem emit_keeps {base : State} {port : Nat} {p : Packet} {src : Option Nat} {xd : Nat} {way : List Nat} {s : State} (hk : Keeps ask base s) :
    Keeps ask base (emit port p src xd way s) := by
  unfold emit
  dsimp only
  repeat' first | (with_reducible first | assumption | apply drainPort_keeps | apply leavePort_keeps | apply leaveRx_keeps
                                        | apply Keeps.ite | intro _ | exact rfl) | split | with_reducible apply Keeps.upd
                | dsimp only | assumption

theorem nextSeq_keeps {base : State} {p : Packet} {s : State} (hk : Keeps ask base s) :
    Keeps ask base (nextSeq p s) := by
  unfold nextSeq
  repeat' first | (with_reducible first | assumption | intro _ | exact rfl) | split | with_reducible apply Keeps.upd
                | dsimp only | assumption

theorem deliver_keeps {base : State} {port : Option Nat} {xd : Nat} {p : Packet} {s : State} (hk : Keeps ask base s) :
    Keeps ask base (deliver port xd p s) := by
  unfold deliver
  repeat' first | (with_reducible first | assumption | intro _ | exact rfl) | split | with_reducible apply Keeps.upd
                | dsimp only | assumption

theorem setFlow_keeps {base : State} {f : Flow} {s : State} (hk : Keeps ask base s) :
    Keeps ask base (setFlow f s) := by
  unfold setFlow
  repeat' first | (with_reducible first | assumption | intro _ | exact rfl) | split | with_reducible apply Keeps.upd
                | dsimp only | assumption

theorem releaseHeld_keeps {base : State} {n : Nat} {f : Flow} {s : State} (hk : Keeps ask base s) :
    Keeps ask base (releaseHeld n f s) := by
  induction n generalizing f s with
  | zero => exact setFlow_keeps hk
  | succ n ih =>
    unfold releaseHeld
    split
    · exact ih (deliver_keeps hk)
    · exact setFlow_keeps hk

theorem reorder_keeps {base : State} {xd : Nat} {p : Packet} {s : State} (hk : Keeps ask base s) :
    Keeps ask base (reorder xd p s) := by
  unfold reorder
  dsimp only
  repeat' first | (with_reducible first | assumption | apply releaseHeld_keeps | apply setFlow_keeps | apply deliver_keeps
                                        | apply odInc_keeps | apply odSet_keeps | apply Keeps.ite | intro _ | exact rfl)
                | split | with_reducible apply Keeps.upd | dsimp only | assumption

theorem declareLost_keeps {base : State} {f : Flow} {s : State} (hk : Keeps ask base s) :
    Keeps ask base (declareLost f s).2 := by
  unfold declareLost
  dsimp only
  repeat' first | (with_reducible first | assumption | dsimp only | apply releaseHeld_keeps | apply deliver_keeps
                                        | apply odInc_keeps | apply Keeps.foldl | apply Keeps.foldl_snd | intro _
                                        | exact rfl) | split | with_reducible apply Keeps.upd | dsimp only | assumption

theorem eject_keeps {base : State} {port : Option Nat} {p : Packet} {s : State} (hk : Keeps ask base s) :
    Keeps ask base (eject port p s) := by
  unfold eject
  dsimp only
  repeat' first | (with_reducible first | assumption | apply reorder_keeps | apply deliver_keeps | apply routeDiscard_keeps
                                        | apply odInc_keeps | apply Keeps.ite | intro _ | exact rfl) | split
                | with_reducible apply Keeps.upd | dsimp only | assumption

theorem inject_keeps {base : State} {port : Nat} {p : Packet} {s : State} (hk : Keeps ask base s) :
    Keeps ask base (inject port p s) := by
  unfold inject
  repeat' first | (with_reducible first | assumption | apply emit_keeps | apply routeDiscard_keeps | apply Keeps.ite
                                        | intro _ | exact rfl) | split | dsimp only

theorem sendRaw_keeps {base : State} {permit : Bool} {p0 : Packet} {s : State} (hk : Keeps ask base s) :
    Keeps ask base (sendRaw permit p0 s).2 := by
  unfold sendRaw
  dsimp only
  split
  · exact odInc_keeps hk
  · split
    · dsimp only
      split
      · exact eject_keeps (nextSeq_keeps hk)
      · exact nextSeq_keeps hk
    · have h1 := chooseRoute_keeps (b := (stamp s p0).ddev) (permit := permit) hk
      generalize chooseRoute s (stamp s p0).ddev permit = r at h1 ⊢
      obtain ⟨o, s1⟩ := r
      cases o with
      | none => exact h1
      | some u =>
        dsimp only at h1 ⊢
        split
        · exact h1
        · split
          · exact inject_keeps (nextSeq_keeps h1)
          · exact h1

theorem send_keeps {base : State} {permit : Bool} {p : Packet} {s : State} (hk : Keeps ask base s) :
    Keeps ask base (send permit p s).2 := by
  unfold send
  repeat' first | (with_reducible first | assumption | dsimp only | apply sendRaw_keeps | intro _ | exact rfl) | split
                | with_reducible apply Keeps.upd | dsimp only | assumption

theorem relayNotice_keeps {base : State} {bits origin dims : Nat} {s : State} (hk : Keeps ask base s) :
    Keeps ask base (relayNotice bits origin dims s) := by
  unfold relayNotice
  repeat' first | (with_reducible first | assumption | apply send_keeps | apply Keeps.foldl | apply Keeps.foldl_snd
                                        | intro _ | exact rfl) | split | with_reducible apply Keeps.upd | dsimp only
                | assumption

theorem issueNotice_keeps {base : State} {s : State} (hk : Keeps ask base s) :
    Keeps ask base (issueNotice s) := by
  unfold issueNotice
  repeat' first | (with_reducible first | assumption | apply relayNotice_keeps | apply odInc_keeps | apply Keeps.ite
                                        | intro _ | exact rfl) | split | dsimp only

theorem markLink_keeps {base : State} {l : Nat} {down : Bool} {s : State} (hk : Keeps ask base s) :
    Keeps ask base (markLink l down s) := by
  unfold markLink
  dsimp only
  repeat' first | (with_reducible first | assumption | apply Keeps.ite | intro _ | exact rfl) | split
                | with_reducible apply Keeps.upd | dsimp only | assumption

theorem flushPort_keeps {base : State} {p : Nat} {s : State} (hk : Keeps ask base s) :
    Keeps ask base (flushPort p s) := by
  unfold flushPort
  dsimp only
  repeat' first | (with_reducible first | assumption | apply leaveRx_keeps | apply State.modPort_keeps | apply odInc_keeps
                                        | apply Keeps.foldl | apply Keeps.foldl_snd | intro _ | exact rfl) | split
                | with_reducible apply Keeps.upd | dsimp only | assumption

theorem mendRing_keeps {base : State} {s : State} (hk : Keeps ask base s) :
    Keeps ask base (mendRing s) := by
  unfold mendRing
  dsimp only
  repeat' first | (with_reducible first | assumption | apply leaveRx_keeps | apply routeDiscard_keeps | apply Keeps.ite
                                        | apply Keeps.foldl | apply Keeps.foldl_snd | intro _ | exact rfl)
                | (rw [List.length_map]; assumption) | split | with_reducible apply Keeps.upd | dsimp only | assumption

theorem cutHop_keeps {base : State} {hop : Nat} {s : State} (hk : Keeps ask base s) :
    Keeps ask base (cutHop hop s) := by
  unfold cutHop
  repeat' first | (with_reducible first | assumption | apply mendRing_keeps | apply Keeps.ite | intro _ | exact rfl) | split
                | with_reducible apply Keeps.upd | dsimp only | assumption

theorem linkDownAs_keeps {base : State} {p reason st : Nat} {s : State} (hk : Keeps ask base s) :
    Keeps ask base (linkDownAs p reason st s) := by
  unfold linkDownAs
  dsimp only
  repeat' first | (with_reducible first | assumption | apply flushPort_keeps | apply markLink_keeps
                                        | apply issueNotice_keeps | apply emcy_keeps | apply State.modPort_keeps
                                        | apply Keeps.ite | intro _ | exact rfl) | split | with_reducible apply Keeps.upd
                | dsimp only | assumption

theorem linkUp_keeps {base : State} {p : Nat} {s : State} (hk : Keeps ask base s) :
    Keeps ask base (linkUp p s) := by
  unfold linkUp
  dsimp only
  repeat' first | (with_reducible first | assumption | apply markLink_keeps | apply issueNotice_keeps | apply emcy_keeps
                                        | apply State.modPort_keeps | apply Keeps.ite | intro _ | exact rfl) | split
                | with_reducible apply Keeps.upd | dsimp only | assumption

theorem setRole_keeps {base : State} {p role d v copy : Nat} {s : State} (hk : Keeps ask base s) :
    Keeps ask base (setRole p role d v copy s) := by
  unfold setRole
  dsimp only
  repeat' first | (with_reducible first | assumption | apply State.modPort_keeps | apply Keeps.ite | intro _ | exact rfl)
                | split | with_reducible apply Keeps.upd | dsimp only | assumption

theorem roleEvent_keeps {base : State} {p : Nat} {s : State} (hk : Keeps ask base s) :
    Keeps ask base (roleEvent p s) := by
  unfold roleEvent
  dsimp only
  repeat' first | (with_reducible first | assumption | apply emcy_keeps) | split | dsimp only

theorem roleLate_keeps {base : State} {p : Nat} {s : State} (hk : Keeps ask base s) :
    Keeps ask base (roleLate p s) := by
  unfold roleLate
  dsimp only
  repeat' first | (with_reducible first | assumption | apply roleEvent_keeps | apply setRole_keeps | apply Keeps.ite
                                        | intro _ | exact rfl) | split | with_reducible apply Keeps.upd | dsimp only
                | assumption

theorem reportMissing_keeps {base : State} {s : State} (hk : Keeps ask base s) :
    Keeps ask base (reportMissing s) := by
  unfold reportMissing
  dsimp only
  repeat' first | (with_reducible first | assumption | apply roleEvent_keeps | apply Keeps.ite | apply Keeps.foldl
                                        | apply Keeps.foldl_snd | intro _ | exact rfl) | split | dsimp only

theorem reportDelay_keeps {base : State} {p : Nat} {s : State} (hk : Keeps ask base s) :
    Keeps ask base (reportDelay p s) := by
  unfold reportDelay
  dsimp only
  repeat' first | (with_reducible first | assumption | apply emcy_keeps | apply Keeps.ite | intro _ | exact rfl) | split
                | dsimp only

theorem assignRoles_keeps {base : State} {s : State} (hk : Keeps ask base s) :
    Keeps ask base (assignRoles s) := by
  unfold assignRoles
  dsimp only
  repeat' first | (with_reducible first | assumption | apply reportDelay_keeps | apply reportMissing_keeps
                                        | apply roleEvent_keeps | apply setRole_keeps | apply Keeps.foldl
                                        | apply Keeps.foldl_snd | intro _ | exact rfl) | split
                | with_reducible apply Keeps.upd | dsimp only | assumption

theorem forward_keeps {base : State} {p : Nat} {pkt : Packet} {s : State} (hk : Keeps ask base s) :
    Keeps ask base (forward p pkt s) := by
  unfold forward
  repeat' first | (with_reducible first | assumption | apply emit_keeps | apply passCells_keeps | apply routeDiscard_keeps
                                        | intro _ | exact rfl) | split | with_reducible apply Keeps.upd | dsimp only
                | assumption

theorem forwardBroken_keeps {base : State} {p : Nat} {pkt : Packet} {s : State} (hk : Keeps ask base s) :
    Keeps ask base (forwardBroken p pkt s) := by
  unfold forwardBroken
  dsimp only
  repeat' first | (with_reducible first | assumption | apply leavePort_keeps | apply Keeps.ite | intro _ | exact rfl)
                | split | with_reducible apply Keeps.upd | dsimp only | assumption

theorem arrive_keeps {base : State} {p : Nat} {pkt : Packet} {trailer : Trailer} {fecBad : Bool} {s : State} (hk : Keeps ask base s) :
    Keeps ask base (arrive p pkt trailer fecBad s) := by
  unfold arrive
  dsimp only
  repeat' first | (with_reducible first | assumption | apply forwardBroken_keeps | apply forward_keeps | apply eject_keeps
                                        | apply passCells_keeps | apply crcDiscard_keeps | apply routeDiscard_keeps
                                        | apply Keeps.ite | intro _ | exact rfl) | split | dsimp only

theorem execPacketReceive_keeps {p : Nat} {pkt : Packet} {trailer : Trailer} {fecBad : Bool} {s : State} : OutKeeps ask s (execPacketReceive p pkt trailer fecBad s) := by
  unfold execPacketReceive
  repeat' first | (with_reducible first | assumption | apply OutKeeps.next | apply arrive_keeps | exact Keeps.refl) | split
                | dsimp only

theorem execLinkStateNotice_keeps {pkt : Packet} {s : State} : OutKeeps ask s (execLinkStateNotice pkt s) := by
  unfold execLinkStateNotice
  dsimp only
  repeat' first | (with_reducible first | assumption | apply OutKeeps.next | apply relayNotice_keeps | apply Keeps.ite
                                        | intro _ | exact rfl | exact Keeps.refl) | split | with_reducible apply Keeps.upd
                | dsimp only | assumption

end Sys2Proof.Machine
end

