-- ==== Sys2Proof/Laws/KeepsRegs.lean ====
section
/-! SUPPORT. What the operations of Machine/Regs.lean keep. -/

namespace Sys2Proof.Machine

variable {ask : Asks}

theorem coreRegWrite_keeps {base : State} {c ofs v : Nat} {s : State} (hk : Keeps ask base s) :
    Keeps ask base (coreRegWrite c ofs v s) := by
  unfold coreRegWrite
  dsimp only
  repeat' first | (with_reducible first | assumption | apply State.modCore_keeps | apply Keeps.ite | intro _ | exact rfl)
                | split | with_reducible apply Keeps.upd | dsimp only | assumption

theorem setDieWord_keeps {base : State} {d ofs v : Nat} {s : State} (hk : Keeps ask base s) :
    Keeps ask base (setDieWord d ofs v s) := by
  unfold setDieWord
  repeat' first | (with_reducible first | assumption | apply setDieReg_keeps) | split | dsimp only

theorem countDenied_keeps {base : State} {d : Nat} {s : State} (hk : Keeps ask base s) :
    Keeps ask base (countDenied d s) := by
  unfold countDenied
  repeat' first | (with_reducible first | assumption | apply setDieReg_keeps) | split | dsimp only

theorem dieRegWrite_keeps {base : State} {d ofs : Nat} {s : State} (hk : Keeps ask base s) :
    Keeps ask base (dieRegWrite d ofs s) := by
  unfold dieRegWrite
  repeat' first | (with_reducible first | assumption | apply countDenied_keeps | apply Keeps.ite | intro _ | exact rfl)
                | split | dsimp only

theorem regWrite_keeps {base : State} {a v : Nat} {s : State} (hk : Keeps ask base s) :
    Keeps ask base (regWrite a v s) := by
  unfold regWrite
  repeat' first | (with_reducible first | assumption | apply dieRegWrite_keeps | apply coreRegWrite_keeps | intro _
                                        | exact rfl) | split | with_reducible apply Keeps.upd | dsimp only | assumption

end Sys2Proof.Machine
end

