-- ==== Sys2Proof/Laws/KeepsMover.lean ====
section
/-! SUPPORT. What the operations of Machine/Mover.lean keep. -/

namespace Sys2Proof.Machine

variable {ask : Asks}

/-- A fold over the rows of a MOVE keeps what each row keeps. -/
theorem Keeps.foldl_st {α : Type} {base : State} {f : MAcc → α → MAcc} {l : List α} {z : MAcc} (h : Keeps ask base z.st)
    (k : ∀ t a, Keeps ask base t.st → Keeps ask base (f t a).st) : Keeps ask base (l.foldl f z).st := by
  induction l generalizing z with
  | nil => exact h
  | cons a l ih => exact ih (k _ _ h)

theorem putRegs_keeps {base : State} {a : Nat} {bs : List Byte} {s : State} (hk : Keeps ask base s) :
    Keeps ask base (putRegs a bs s) := by
  unfold putRegs
  repeat' first | (with_reducible first | assumption | apply regWrite_keeps | apply Keeps.foldl | apply Keeps.foldl_snd
                                        | intro _ | exact rfl) | split | dsimp only

theorem putRun_keeps {base : State} {a : Nat} {bs : List Byte} {fmt : Nat} {bad : Option Nat} {m : MAcc} (hk : Keeps ask base m.st) :
    Keeps ask base (putRun a bs fmt bad m).st := by
  unfold putRun
  dsimp only
  repeat' first | (with_reducible first | assumption | dsimp only | apply putRegs_keeps | apply writeBytes_keeps
                                        | apply Keeps.ite | intro _ | exact rfl) | split | with_reducible apply Keeps.upd
                | dsimp only | assumption

theorem putPanel_keeps {base : State} {f : Mo} {r : Nat} {x : Conv} {bad : Option Nat} {m : MAcc} (hk : Keeps ask base m.st) :
    Keeps ask base (putPanel f r x bad m).st := by
  unfold putPanel
  dsimp only
  repeat' first | (with_reducible first | assumption | dsimp only | apply Keeps.ite | apply Keeps.foldl
                                        | apply Keeps.foldl_snd | apply Keeps.foldl_st | intro _ | exact rfl)
                | (rw [List.length_map]; assumption) | (rw [List.length_set]; assumption)
                | (rw [List.length_map, List.length_zipIdx]; assumption) | split | with_reducible apply Keeps.upd
                | dsimp only | assumption

theorem putRow_keeps {base : State} {c : Nat} {f : Mo} {m : MAcc} {r : MRow} {ri : Nat} {e : List Nat × List Nat × Conv × Option Nat} (hk : Keeps ask base m.st) :
    Keeps ask base (putRow c f m r ri e).st := by
  unfold putRow
  dsimp only
  repeat' first | (with_reducible first | assumption | dsimp only | apply tally_keeps | apply putPanel_keeps
                                        | apply putRun_keeps | apply State.modCore_keeps | apply Keeps.ite | intro _
                                        | exact rfl) | (rw [List.length_map]; assumption) | split
                | with_reducible apply Keeps.upd | dsimp only | assumption

theorem moveRow_keeps {base : State} {view : State} {c : Nat} {f : Mo} {m : MAcc} {ri : MRow × Nat} (hk : Keeps ask base m.st) :
    Keeps ask base (moveRow view c f m ri).st := by
  unfold moveRow
  repeat' first | (with_reducible first | assumption | dsimp only | apply putRow_keeps) | split | dsimp only

theorem freeRanges_keeps {base : State} {l : List (Nat × Nat)} {s : State} (hk : Keeps ask base s) :
    Keeps ask base (freeRanges l s) := by
  unfold freeRanges
  dsimp only
  repeat' first | (with_reducible first | assumption | apply freeBytes_keeps | apply writeBytes_keeps | apply Keeps.foldl
                                        | apply Keeps.foldl_snd | intro _ | exact rfl) | split | dsimp only

theorem freeWords_keeps {base : State} {c : Nat} {l : List (Nat × Nat × Nat)} {s : State} (hk : Keeps ask base s) :
    Keeps ask base (freeWords c l s) := by
  unfold freeWords
  dsimp only
  repeat' first | (with_reducible first | assumption | apply nextFreeWord_keeps | apply State.modCore_keeps
                                        | apply Keeps.foldl | apply Keeps.foldl_snd | intro _ | exact rfl) | split
                | dsimp only

theorem settleRanges_keeps {base : State} {rs : List (Nat × Nat)} {bad : Bool} {s : State} (hk : Keeps ask base s) :
    Keeps ask base (settleRanges rs bad s) := by
  unfold settleRanges
  repeat' first | (with_reducible first | assumption | apply settleLine_keeps | apply Keeps.foldl | apply Keeps.foldl_snd
                                        | intro _ | exact rfl) | split | dsimp only

theorem dmDone_keeps {base : State} {c : Nat} {r : Run} {code : Nat} {sat inexact pois : Bool} {s : State} (hk : Keeps ask base s) :
    Keeps ask base (dmDone c r code sat inexact pois s) := by
  unfold dmDone
  repeat' first | (with_reducible first | assumption | apply complete_keeps | apply State.modCore_keeps | apply Keeps.ite
                                        | intro _ | exact rfl) | split | dsimp only

theorem addTally_keeps {base : State} {c ta v : Nat} {s : State} (hk : Keeps ask base s) :
    Keeps ask base (addTally c ta v s) := by
  unfold addTally
  repeat' first | (with_reducible first | assumption | apply State.modCore_keeps | intro _ | exact rfl)
                | (rw [List.length_modify]; assumption) | split | with_reducible apply Keeps.upd | dsimp only | assumption

theorem moveLocal_keeps {base : State} {c : Nat} {f : Mo} {r : Run} {s : State} (hk : Keeps ask base s) :
    Keeps ask base (moveLocal c f r s).st := by
  unfold moveLocal
  dsimp only
  repeat' first | (with_reducible first | assumption | dsimp only | apply tally_keeps | apply addTally_keeps
                                        | apply settleRanges_keeps | apply freeWords_keeps | apply freeRanges_keeps
                                        | apply moveRow_keeps | apply putRun_keeps | apply raceView_keeps
                                        | apply touchRead_keeps | apply State.modCore_keeps | apply Keeps.ite
                                        | apply Keeps.foldl | apply Keeps.foldl_snd | apply Keeps.foldl_st | intro _
                                        | exact rfl) | (rw [List.length_map, List.length_zipIdx]; assumption)
                | exact List.length_replicate | split | with_reducible apply Keeps.upd | dsimp only | assumption

theorem moverFault_keeps {base : State} {c : Nat} {f : Mo} {s : State} (hk : Keeps ask base s) :
    Keeps ask base (moverFault c f s) := by
  unfold moverFault
  dsimp only
  repeat' first | (with_reducible first | assumption | apply freeWords_keeps | apply freeRanges_keeps
                                        | apply nextFreeWord_keeps | apply setPoison_keeps | apply State.modCore_keeps
                                        | apply Keeps.foldl | apply Keeps.foldl_snd | intro _ | exact rfl)
                | (rw [List.length_map]; assumption) | (with_reducible refine Keeps.of_snd ‹_› ?_) | split
                | with_reducible apply Keeps.upd | dsimp only | assumption

theorem moveFinish_keeps {base : State} {c : Nat} {r : Run} {parity : Bool} {s : State} (hk : Keeps ask base s) :
    Keeps ask base (moveFinish c r parity s) := by
  unfold moveFinish
  dsimp only
  repeat' first | (with_reducible first | assumption | apply moverFault_keeps | apply moveLocal_keeps | apply dmDone_keeps
                                        | apply Keeps.ite | intro _ | exact rfl) | split | dsimp only

end Sys2Proof.Machine
end

