-- ==== Sys2Proof/Laws/KeepsSequencer.lean ====
section
/-! SUPPORT. What the operations of Machine/Sequencer.lean keep. -/

namespace Sys2Proof.Machine

variable {ask : Asks}

theorem doLoop_keeps {base : State} {c w : Nat} {s : State} (hk : Keeps ask base s) :
    Keeps ask base (doLoop c w s) := by
  unfold doLoop
  dsimp only
  repeat' first | (with_reducible first | assumption | apply stopCore_keeps | apply State.modCore_keeps | apply Keeps.ite
                                        | intro _ | exact rfl) | (rw [List.length_set]; assumption) | split
                | with_reducible apply Keeps.upd | dsimp only | assumption

theorem execLoop_keeps {c : Nat} {s : State} : OutKeeps ask s (execLoop c s) := by
  unfold execLoop
  repeat' first | (with_reducible first | assumption | apply OutKeeps.next | apply doLoop_keeps | apply withWord_keeps
                                        | intro _ | exact rfl | exact Keeps.refl) | split | with_reducible apply Keeps.upd
                | dsimp only | assumption

theorem doEndloop_keeps {base : State} {c w : Nat} {s : State} (hk : Keeps ask base s) :
    Keeps ask base (doEndloop c w s) := by
  unfold doEndloop
  dsimp only
  repeat' first | (with_reducible first | assumption | apply stopCore_keeps | apply State.modCore_keeps | apply Keeps.ite
                                        | intro _ | exact rfl) | (rw [List.length_set]; assumption) | split
                | with_reducible apply Keeps.upd | dsimp only | assumption

theorem execEndloop_keeps {c : Nat} {s : State} : OutKeeps ask s (execEndloop c s) := by
  unfold execEndloop
  repeat' first | (with_reducible first | assumption | apply OutKeeps.next | apply doEndloop_keeps | apply withWord_keeps
                                        | intro _ | exact rfl | exact Keeps.refl) | split | with_reducible apply Keeps.upd
                | dsimp only | assumption

theorem doSetvl_keeps {base : State} {c w : Nat} {s : State} (hk : Keeps ask base s) :
    Keeps ask base (doSetvl c w s) := by
  unfold doSetvl
  dsimp only
  repeat' first | (with_reducible first | assumption | apply stopCore_keeps | apply State.modCore_keeps | apply Keeps.ite
                                        | intro _ | exact rfl) | (rw [List.length_set]; assumption) | split
                | with_reducible apply Keeps.upd | dsimp only | assumption

theorem execSetvl_keeps {c : Nat} {s : State} : OutKeeps ask s (execSetvl c s) := by
  unfold execSetvl
  repeat' first | (with_reducible first | assumption | apply OutKeeps.next | apply doSetvl_keeps | apply withWord_keeps
                                        | intro _ | exact rfl | exact Keeps.refl) | split | with_reducible apply Keeps.upd
                | dsimp only | assumption

theorem releaseWait_keeps {base : State} {c w : Nat} {s : State} (hk : Keeps ask base s) :
    Keeps ask base (releaseWait c w s) := by
  unfold releaseWait
  dsimp only
  repeat' first | (with_reducible first | assumption | apply State.modCore_keeps | apply Keeps.ite | intro _ | exact rfl)
                | split | with_reducible apply Keeps.upd | dsimp only | assumption

theorem blockWait_keeps {base : State} {c w : Nat} {s : State} (hk : Keeps ask base s) :
    Keeps ask base (blockWait c w s) := by
  unfold blockWait
  repeat' first | (with_reducible first | assumption | apply State.modCore_keeps | apply Keeps.ite | intro _ | exact rfl)
                | split | with_reducible apply Keeps.upd | dsimp only | assumption

theorem doWait_keeps {base : State} {c w : Nat} {s : State} (hk : Keeps ask base s) :
    Keeps ask base (doWait c w s) := by
  unfold doWait
  repeat' first | (with_reducible first | assumption | apply blockWait_keeps | apply releaseWait_keeps
                                        | apply stopCore_keeps | apply Keeps.ite | intro _ | exact rfl) | split | dsimp only

theorem execWait_keeps {c : Nat} {s : State} : OutKeeps ask s (execWait c s) := by
  unfold execWait
  repeat' first | (with_reducible first | assumption | apply OutKeeps.next | apply doWait_keeps | apply withWord_keeps
                                        | intro _ | exact rfl | exact Keeps.refl) | split | with_reducible apply Keeps.upd
                | dsimp only | assumption

theorem execWaitRelease_keeps {c : Nat} {s : State} : OutKeeps ask s (execWaitRelease c s) := by
  unfold execWaitRelease
  dsimp only
  repeat' first | (with_reducible first | assumption | apply OutKeeps.next | apply State.modCore_keeps | apply Keeps.ite
                                        | intro _ | exact rfl | exact Keeps.refl) | split | with_reducible apply Keeps.upd
                | dsimp only | assumption

theorem execWaitTimeout_keeps {c : Nat} {s : State} : OutKeeps ask s (execWaitTimeout c s) := by
  unfold execWaitTimeout
  dsimp only
  repeat' first | (with_reducible first | assumption | apply OutKeeps.next | apply stopCore_keeps | apply Keeps.ite
                                        | intro _ | exact rfl | exact Keeps.refl) | split | dsimp only

theorem doSignal_keeps {base : State} {c w : Nat} {s : State} (hk : Keeps ask base s) :
    Keeps ask base (doSignal c w s) := by
  unfold doSignal
  dsimp only
  repeat' first | (with_reducible first | assumption | apply stopCore_keeps | apply State.modCore_keeps | apply Keeps.ite
                                        | intro _ | exact rfl) | split | with_reducible apply Keeps.upd | dsimp only
                | assumption

theorem execSignal_keeps {c : Nat} {s : State} : OutKeeps ask s (execSignal c s) := by
  unfold execSignal
  repeat' first | (with_reducible first | assumption | apply OutKeeps.next | apply doSignal_keeps | apply withWord_keeps
                                        | intro _ | exact rfl | exact Keeps.refl) | split | with_reducible apply Keeps.upd
                | dsimp only | assumption

theorem execChipEventAdd_keeps {s : State} : OutKeeps ask s (execChipEventAdd s) := by
  unfold execChipEventAdd
  dsimp only
  repeat' first | (with_reducible first | assumption | apply OutKeeps.next | apply Keeps.foldl | apply Keeps.foldl_snd
                                        | intro _ | exact rfl | exact Keeps.refl) | split | with_reducible apply Keeps.upd
                | dsimp only | assumption

theorem execChipEventVisible_keeps {s : State} : OutKeeps ask s (execChipEventVisible s) := by
  unfold execChipEventVisible
  repeat' first | (with_reducible first | assumption | apply OutKeeps.next | intro _ | exact rfl | exact Keeps.refl) | split
                | with_reducible apply Keeps.upd | dsimp only | assumption

theorem doBrst_keeps {base : State} {c w : Nat} {s : State} (hk : Keeps ask base s) :
    Keeps ask base (doBrst c w s) := by
  unfold doBrst
  dsimp only
  repeat' first | (with_reducible first | assumption | apply stopCore_keeps | apply State.modCore_keeps | apply Keeps.ite
                                        | intro _ | exact rfl) | split | with_reducible apply Keeps.upd | dsimp only
                | assumption

theorem execBrst_keeps {c : Nat} {s : State} : OutKeeps ask s (execBrst c s) := by
  unfold execBrst
  repeat' first | (with_reducible first | assumption | apply OutKeeps.next | apply doBrst_keeps | apply withWord_keeps
                                        | intro _ | exact rfl | exact Keeps.refl) | split | with_reducible apply Keeps.upd
                | dsimp only | assumption

theorem doYield_keeps {base : State} {c w : Nat} {s : State} (hk : Keeps ask base s) :
    Keeps ask base (doYield c w s) := by
  unfold doYield
  dsimp only
  repeat' first | (with_reducible first | assumption | apply stopCore_keeps | apply State.modCore_keeps | apply Keeps.ite
                                        | intro _ | exact rfl) | split | with_reducible apply Keeps.upd | dsimp only
                | assumption

theorem execYieldOp_keeps {c : Nat} {s : State} : OutKeeps ask s (execYieldOp c s) := by
  unfold execYieldOp
  repeat' first | (with_reducible first | assumption | apply OutKeeps.next | apply doYield_keeps | apply withWord_keeps
                                        | intro _ | exact rfl | exact Keeps.refl) | split | with_reducible apply Keeps.upd
                | dsimp only | assumption

theorem doFence_keeps {base : State} {c w : Nat} {s : State} (hk : Keeps ask base s) :
    Keeps ask base (doFence c w s) := by
  unfold doFence
  repeat' first | (with_reducible first | assumption | apply stopCore_keeps | apply State.modCore_keeps | apply Keeps.ite
                                        | intro _ | exact rfl) | split | dsimp only

theorem execFence_keeps {c : Nat} {s : State} : OutKeeps ask s (execFence c s) := by
  unfold execFence
  repeat' first | (with_reducible first | assumption | apply OutKeeps.next | apply doFence_keeps | apply withWord_keeps
                                        | intro _ | exact rfl | exact Keeps.refl) | split | with_reducible apply Keeps.upd
                | dsimp only | assumption

theorem doHalt_keeps {base : State} {c w : Nat} {s : State} (hk : Keeps ask base s) :
    Keeps ask base (doHalt c w s) := by
  unfold doHalt
  repeat' first | (with_reducible first | assumption | apply stopCore_keeps | apply State.modCore_keeps | apply Keeps.ite
                                        | intro _ | exact rfl) | split | dsimp only

theorem execHalt_keeps {c : Nat} {s : State} : OutKeeps ask s (execHalt c s) := by
  unfold execHalt
  repeat' first | (with_reducible first | assumption | apply OutKeeps.next | apply doHalt_keeps | apply withWord_keeps
                                        | intro _ | exact rfl | exact Keeps.refl) | split | with_reducible apply Keeps.upd
                | dsimp only | assumption

theorem execFenceComplete_keeps {c : Nat} {s : State} : OutKeeps ask s (execFenceComplete c s) := by
  unfold execFenceComplete
  dsimp only
  repeat' first | (with_reducible first | assumption | apply OutKeeps.next | apply State.modCore_keeps | apply Keeps.ite
                                        | intro _ | exact rfl | exact Keeps.refl) | split | with_reducible apply Keeps.upd
                | dsimp only | assumption

theorem execFenceTimeout_keeps {c : Nat} {s : State} : OutKeeps ask s (execFenceTimeout c s) := by
  unfold execFenceTimeout
  dsimp only
  repeat' first | (with_reducible first | assumption | apply OutKeeps.next | apply stopCore_keeps | apply odInc_keeps
                                        | apply State.modCore_keeps | apply Keeps.ite | apply Keeps.foldl
                                        | apply Keeps.foldl_snd | intro _ | exact rfl | exact Keeps.refl) | split
                | with_reducible apply Keeps.upd | dsimp only | assumption

theorem tally_keeps {base : State} {act : Nat} {f : Nat → Nat → Nat → State → State} {c : Nat} {s : State} (hk : Keeps ask base s) (hkf : ∀ x0 x1 x2 t, Keeps ask base t → Keeps ask base (f x0 x1 x2 t)) :
    Keeps ask base (tally act f c s) := by
  unfold tally
  dsimp only
  repeat' first | (with_reducible first | assumption | apply hkf | apply withWord_keeps | apply stopCore_keeps
                                        | apply Keeps.ite | intro _ | exact rfl) | split | with_reducible apply Keeps.upd
                | dsimp only | assumption

theorem execTallyClear_keeps {c : Nat} {s : State} : OutKeeps ask s (execTallyClear c s) := by
  unfold execTallyClear
  repeat' first | (with_reducible first | assumption | apply OutKeeps.next | apply tally_keeps | apply State.modCore_keeps
                                        | intro _ | exact rfl | exact Keeps.refl) | split | dsimp only

theorem execTallyStore_keeps {c : Nat} {s : State} : OutKeeps ask s (execTallyStore c s) := by
  unfold execTallyStore
  repeat' first | (with_reducible first | assumption | apply OutKeeps.next | apply tally_keeps | apply noteWrites_keeps
                                        | apply storePieces_keeps | apply State.modCore_keeps | intro _ | exact rfl
                                        | exact Keeps.refl) | split | dsimp only

theorem tallyRead_keeps {base : State} {c ofs : Nat} {s : State} (hk : Keeps ask base s) :
    Keeps ask base (tallyRead c ofs s).2 := by
  unfold tallyRead
  dsimp only
  repeat' first | (with_reducible first | assumption | dsimp only | apply readView_keeps | apply touchRead_keeps
                                        | apply State.modCore_keeps | apply Keeps.ite | apply Keeps.ite_snd | intro _
                                        | exact rfl) | split | with_reducible apply Keeps.upd | dsimp only | assumption

theorem execTallyCompare_keeps {c : Nat} {s : State} : OutKeeps ask s (execTallyCompare c s) := by
  unfold execTallyCompare
  dsimp only
  repeat' first | (with_reducible first | assumption | apply OutKeeps.next | apply tallyRead_keeps | apply tally_keeps
                                        | apply State.modCore_keeps | apply Keeps.ite | intro _ | exact rfl
                                        | exact Keeps.refl) | split | dsimp only

theorem execTallyLoad_keeps {c : Nat} {s : State} : OutKeeps ask s (execTallyLoad c s) := by
  unfold execTallyLoad
  dsimp only
  repeat' first | (with_reducible first | assumption | apply OutKeeps.next | apply tallyRead_keeps | apply tally_keeps
                                        | apply State.modCore_keeps | intro _ | exact rfl | exact Keeps.refl) | split
                | dsimp only

theorem execIllegalOp_keeps {c : Nat} {s : State} : OutKeeps ask s (execIllegalOp c s) := by
  unfold execIllegalOp
  dsimp only
  repeat' first | (with_reducible first | assumption | apply OutKeeps.next | apply stopCore_keeps | apply Keeps.ite
                                        | intro _ | exact rfl | exact Keeps.refl) | split | dsimp only

theorem cancelCores_keeps {base : State} {code : Nat} {s : State} (hk : Keeps ask base s) :
    Keeps ask base (cancelCores code s) := by
  unfold cancelCores
  repeat' first | (with_reducible first | assumption | intro _ | exact rfl) | (rw [List.length_map]; assumption) | split
                | with_reducible apply Keeps.upd | dsimp only | assumption

theorem peerStopCores_keeps {base : State} {s : State} (hk : Keeps ask base s) :
    Keeps ask base (peerStopCores s) := by
  unfold peerStopCores
  repeat' first | (with_reducible first | assumption | intro _ | exact rfl) | (rw [List.length_map]; assumption) | split
                | with_reducible apply Keeps.upd | dsimp only | assumption

end Sys2Proof.Machine
end

