-- ==== Sys2Proof/Laws/KeepsRemote.lean ====
section
/-! SUPPORT. What the operations of Machine/Remote.lean keep. -/

namespace Sys2Proof.Machine

variable {ask : Asks}

theorem moveWord_keeps {base : State} {p : Nat → Bool} {c : Nat} {s : State} (hk : Keeps ask base s) :
    Keeps ask base (moveWord p c s) := by
  unfold moveWord
  repeat' first | (with_reducible first | assumption | apply issue_keeps | intro _ | exact rfl) | split | dsimp only

theorem execCopy_keeps {c : Nat} {s : State} : OutKeeps ask s (execCopy c s) := by
  unfold execCopy
  repeat' first | (with_reducible first | assumption | apply OutKeeps.next | apply moveWord_keeps | intro _ | exact rfl
                                        | exact Keeps.refl) | split | dsimp only

theorem execGather_keeps {c : Nat} {s : State} : OutKeeps ask s (execGather c s) := by
  unfold execGather
  repeat' first | (with_reducible first | assumption | apply OutKeeps.next | apply moveWord_keeps | exact Keeps.refl)
                | split | dsimp only

theorem execScatter_keeps {c : Nat} {s : State} : OutKeeps ask s (execScatter c s) := by
  unfold execScatter
  repeat' first | (with_reducible first | assumption | apply OutKeeps.next | apply moveWord_keeps | exact Keeps.refl)
                | split | dsimp only

theorem execPanel_keeps {c : Nat} {s : State} : OutKeeps ask s (execPanel c s) := by
  unfold execPanel
  repeat' first | (with_reducible first | assumption | apply OutKeeps.next | apply moveWord_keeps | exact Keeps.refl)
                | split | dsimp only

theorem execRread_keeps {c : Nat} {s : State} : OutKeeps ask s (execRread c s) := by
  unfold execRread
  repeat' first | (with_reducible first | assumption | apply OutKeeps.next | apply moveWord_keeps | exact Keeps.refl)
                | split | dsimp only

theorem execRwrite_keeps {c : Nat} {s : State} : OutKeeps ask s (execRwrite c s) := by
  unfold execRwrite
  repeat' first | (with_reducible first | assumption | apply OutKeeps.next | apply moveWord_keeps | exact Keeps.refl)
                | split | dsimp only

theorem execRwriteAck_keeps {c : Nat} {s : State} : OutKeeps ask s (execRwriteAck c s) := by
  unfold execRwriteAck
  repeat' first | (with_reducible first | assumption | apply OutKeeps.next | apply moveWord_keeps | exact Keeps.refl)
                | split | dsimp only

theorem reqData_keeps {base : State} {c : Nat} {r0 : Run} {f : Mo} {line n : Nat} {s : State} (hk : Keeps ask base s) :
    Keeps ask base (reqData c r0 f line n s).2.2 := by
  unfold reqData
  dsimp only
  repeat' first | (with_reducible first | assumption | dsimp only | apply raceView_keeps | apply touchRead_keeps
                                        | apply Keeps.ite | apply Keeps.ite_snd_snd | intro _ | exact rfl)
                | (with_reducible refine Keeps.of_snd ‹_› ?_) | split | with_reducible apply Keeps.upd | dsimp only
                | assumption

theorem sendRequest_keeps {base : State} {c : Nat} {r0 : Run} {f : Mo} {epoch line n slot gen : Nat} {s : State} (hk : Keeps ask base s) :
    Keeps ask base (sendRequest c r0 f epoch line n slot gen s).2 := by
  unfold sendRequest
  dsimp only
  repeat' first | (with_reducible first | assumption | dsimp only | apply reqData_keeps | apply send_keeps | apply Keeps.ite
                                        | apply Keeps.ite_snd | intro _ | exact rfl) | split | dsimp only

theorem modRun_keeps {base : State} {c id : Nat} {g : Run → Run} {s : State} (hk : Keeps ask base s) :
    Keeps ask base (modRun c id g s) := by
  unfold modRun
  repeat' first | (with_reducible first | assumption | apply State.modCore_keeps | apply Keeps.ite | intro _ | exact rfl)
                | (rw [List.length_map]; assumption) | split | with_reducible apply Keeps.upd | dsimp only | assumption

theorem noteError_keeps {base : State} {c code dev ep epoch id : Nat} {s : State} (hk : Keeps ask base s) :
    Keeps ask base (noteError c code dev ep epoch id s) := by
  unfold noteError
  repeat' first | (with_reducible first | assumption | apply modRun_keeps | apply State.modCore_keeps | intro _ | exact rfl)
                | split | with_reducible apply Keeps.upd | dsimp only | assumption

theorem endSlot_keeps {base : State} {c i : Nat} {x : Slot} {s : State} (hk : Keeps ask base s) :
    Keeps ask base (endSlot c i x s) := by
  unfold endSlot
  dsimp only
  repeat' first | (with_reducible first | assumption | apply modRun_keeps | apply State.modCore_keeps | apply Keeps.ite
                                        | intro _ | exact rfl) | split | with_reducible apply Keeps.upd | dsimp only
                | assumption

theorem failSlot_keeps {base : State} {c i code : Nat} {x : Slot} {s : State} (hk : Keeps ask base s) :
    Keeps ask base (failSlot c i code x s) := by
  unfold failSlot
  repeat' first | (with_reducible first | assumption | apply endSlot_keeps | apply noteError_keeps | apply Keeps.ite
                                        | intro _ | exact rfl) | split | dsimp only

theorem issueRequest_keeps {base : State} {c : Nat} {r : Run} {s : State} (hk : Keeps ask base s) :
    Keeps ask base (issueRequest c r s) := by
  unfold issueRequest
  dsimp only
  repeat' first | (with_reducible first | assumption | apply failSlot_keeps | apply noteError_keeps | apply modRun_keeps
                                        | apply sendRequest_keeps | apply odInc_keeps | apply State.modCore_keeps
                                        | apply Keeps.ite | intro _ | exact rfl)
                | (with_reducible refine Keeps.of_snd ‹_› ?_) | split | with_reducible apply Keeps.upd | dsimp only
                | assumption

theorem pump_keeps {base : State} {n c : Nat} {s : State} (hk : Keeps ask base s) :
    Keeps ask base (pump n c s) := by
  induction n generalizing s with
  | zero => exact hk
  | succ n ih =>
    unfold pump
    split
    · exact hk
    · split
      · exact hk
      · exact ih (issueRequest_keeps hk)

theorem pumpAll_keeps {base : State} {c : Nat} {s : State} (hk : Keeps ask base s) :
    Keeps ask base (pumpAll c s) := by
  unfold pumpAll
  repeat' first | (with_reducible first | assumption | apply pump_keeps) | split | dsimp only

theorem execMoveStart_keeps {c : Nat} {s : State} : OutKeeps ask s (execMoveStart c s) := by
  unfold execMoveStart
  dsimp only
  repeat' first | (with_reducible first | assumption | apply OutKeeps.next | apply pumpAll_keeps | apply startRun_keeps
                                        | apply State.modCore_keeps | apply Keeps.ite | intro _ | exact rfl
                                        | exact Keeps.refl) | (rw [List.length_map]; assumption) | split
                | with_reducible apply Keeps.upd | dsimp only | assumption

theorem rreadFinish_keeps {base : State} {c : Nat} {f : Mo} {r : Run} {s : State} (hk : Keeps ask base s) :
    Keeps ask base (rreadFinish c f r s) := by
  unfold rreadFinish
  dsimp only
  repeat' first | (with_reducible first | assumption | apply tally_keeps | apply addTally_keeps | apply dmDone_keeps
                                        | apply settleRanges_keeps | apply putRow_keeps | apply touchRead_keeps
                                        | apply Keeps.ite | apply Keeps.foldl | apply Keeps.foldl_snd | apply Keeps.foldl_st
                                        | intro _ | exact rfl) | split | dsimp only

theorem rwriteFinish_keeps {base : State} {c : Nat} {f : Mo} {r : Run} {s : State} (hk : Keeps ask base s) :
    Keeps ask base (rwriteFinish c f r s) := by
  unfold rwriteFinish
  dsimp only
  repeat' first | (with_reducible first | assumption | apply tally_keeps | apply addTally_keeps | apply dmDone_keeps
                                        | apply settleRanges_keeps | apply putRow_keeps | apply raceView_keeps
                                        | apply Keeps.ite | apply Keeps.foldl | apply Keeps.foldl_snd | apply Keeps.foldl_st
                                        | intro _ | exact rfl) | (rw [List.length_map, List.length_zipIdx]; assumption)
                | split | with_reducible apply Keeps.upd | dsimp only | assumption

theorem execMoveComplete_keeps {c : Nat} {parity : Bool} {s : State} : OutKeeps ask s (execMoveComplete c parity s) := by
  unfold execMoveComplete
  dsimp only
  repeat' first | (with_reducible first | assumption | apply OutKeeps.next | apply rwriteFinish_keeps
                                        | apply rreadFinish_keeps | apply pumpAll_keeps | apply moveFinish_keeps
                                        | apply Keeps.ite | intro _ | exact rfl | exact Keeps.refl) | split
                | with_reducible apply Keeps.upd | dsimp only | assumption

theorem takeInbox_keeps {base : State} {ops : List Nat} {pkt : Packet} {s t : State} {e : Ejected}
    (h : takeInbox ops pkt s = some (e, t)) (hk : Keeps ask base s) : Keeps ask base t := by
  unfold takeInbox at h
  split at h
  · obtain ⟨x, -, hx⟩ := Option.map_eq_some_iff.1 h
    cases hx
    exact hk.upd rfl (fun _ h => h) (fun _ h => h) id id id id
  · cases h

theorem stale_keeps {base : State} {s : State} (hk : Keeps ask base s) :
    Keeps ask base (stale s) := by
  unfold stale
  repeat' first | (with_reducible first | assumption | apply odInc_keeps) | split | dsimp only

theorem formatDrop_keeps {base : State} {port : Option Nat} {s : State} (hk : Keeps ask base s) :
    Keeps ask base (formatDrop port s) := by
  unfold formatDrop
  repeat' first | (with_reducible first | assumption | apply routeDiscard_keeps | intro _ | exact rfl) | split
                | with_reducible apply Keeps.upd | dsimp only | assumption

theorem response_keeps {base : State} {wr : Bool} {port : Option Nat} {p : Packet} {s : State} (hk : Keeps ask base s) :
    Keeps ask base (response wr port p s) := by
  unfold response
  dsimp only
  repeat' first | (with_reducible first | assumption | apply formatDrop_keeps | apply stale_keeps | apply pumpAll_keeps
                                        | apply failSlot_keeps | apply endSlot_keeps | apply modRun_keeps
                                        | apply odInc_keeps | apply State.modCore_keeps | apply Keeps.ite | intro _
                                        | exact rfl) | (rw [List.length_map]; assumption) | split
                | with_reducible apply Keeps.upd | dsimp only | assumption

theorem execReadRsp_keeps {pkt : Packet} {s : State} : OutKeeps ask s (execReadRsp pkt s) := by
  unfold execReadRsp
  repeat' first | (with_reducible first | assumption | apply OutKeeps.next | apply response_keeps | intro _ | exact rfl
                                        | exact Keeps.refl) | (with_reducible refine takeInbox_keeps ‹_› ?_) | split
                | with_reducible apply Keeps.upd | dsimp only | assumption

theorem execWackRsp_keeps {pkt : Packet} {s : State} : OutKeeps ask s (execWackRsp pkt s) := by
  unfold execWackRsp
  repeat' first | (with_reducible first | assumption | apply OutKeeps.next | apply response_keeps | intro _ | exact rfl
                                        | exact Keeps.refl) | (with_reducible refine takeInbox_keeps ‹_› ?_) | split
                | with_reducible apply Keeps.upd | dsimp only | assumption

theorem execRefuseBackoffExpiry_keeps {c slot : Nat} {s : State} : OutKeeps ask s (execRefuseBackoffExpiry c slot s) := by
  unfold execRefuseBackoffExpiry
  dsimp only
  repeat' first | (with_reducible first | assumption | apply OutKeeps.next | apply pumpAll_keeps | apply failSlot_keeps
                                        | apply sendRequest_keeps | apply State.modCore_keeps | apply Keeps.ite | intro _
                                        | exact rfl | exact Keeps.refl) | (rw [List.length_map]; assumption)
                | (with_reducible refine Keeps.of_snd ‹_› ?_) | split | with_reducible apply Keeps.upd | dsimp only
                | assumption

theorem execRemoteTimeout_keeps {c slot : Nat} {s : State} : OutKeeps ask s (execRemoteTimeout c slot s) := by
  unfold execRemoteTimeout
  repeat' first | (with_reducible first | assumption | apply OutKeeps.next | apply pumpAll_keeps | apply failSlot_keeps
                                        | apply endSlot_keeps | apply odInc_keeps | apply Keeps.ite | intro _ | exact rfl
                                        | exact Keeps.refl) | split | with_reducible apply Keeps.upd | dsimp only
                | assumption

theorem State.modEport_keeps {base : State} {s : State} {n : Nat} {f : EPort → EPort} (hk : Keeps ask base s) :
    Keeps ask base (State.modEport s n f) := by
  unfold State.modEport
  repeat' first | (with_reducible first | assumption | intro _ | exact rfl) | (rw [List.length_modify]; assumption) | split
                | with_reducible apply Keeps.upd | dsimp only | assumption

theorem frameSent_keeps {base : State} {n : Nat} {out : State → State} {s : State} (hk : Keeps ask base s) (hkout : ∀ t, Keeps ask base t → Keeps ask base (out t)) :
    Keeps ask base (frameSent n out s) := by
  unfold frameSent
  repeat' first | (with_reducible first | assumption | apply hkout | apply State.modEport_keeps | apply Keeps.ite | intro _
                                        | exact rfl) | split | with_reducible apply Keeps.upd | dsimp only | assumption

theorem frameE_keeps {base : State} {n : Nat} {f : EFrame} {s : State} (hk : Keeps ask base s) :
    Keeps ask base (frameE n f s) := by
  unfold frameE
  repeat' first | (with_reducible first | assumption | apply frameSent_keeps | intro _ | exact rfl) | split
                | with_reducible apply Keeps.upd | dsimp only | assumption

theorem datagramE_keeps {base : State} {n : Nat} {d : Datagram} {s : State} (hk : Keeps ask base s) :
    Keeps ask base (datagramE n d s) := by
  unfold datagramE
  repeat' first | (with_reducible first | assumption | apply frameSent_keeps | intro _ | exact rfl) | split
                | with_reducible apply Keeps.upd | dsimp only | assumption

theorem sendE_keeps {base : State} {n : Nat} {bulk : Bool} {addr : List Byte} {udp : Nat} {p : Packet} {s : State} (hk : Keeps ask base s) :
    Keeps ask base (sendE n bulk addr udp p s) := by
  unfold sendE
  dsimp only
  repeat' first | (with_reducible first | assumption | apply datagramE_keeps | apply frameE_keeps
                                        | apply State.modEport_keeps | apply Keeps.ite | intro _ | exact rfl) | split
                | with_reducible apply Keeps.upd | dsimp only | assumption

theorem respond_keeps {base : State} {req : Packet} {fromE : Option (Nat × List Byte × Nat)} {op code len poison : Nat} {bytes : List Byte} {s : State} (hk : Keeps ask base s) :
    Keeps ask base (respond req fromE op code len poison bytes s) := by
  unfold respond
  dsimp only
  repeat' first | (with_reducible first | assumption | apply sendE_keeps | apply sendRaw_keeps | intro _ | exact rfl)
                | (with_reducible refine Keeps.of_snd ‹_› ?_) | split | with_reducible apply Keeps.upd | dsimp only
                | assumption

theorem dropPosted_keeps {base : State} {s : State} (hk : Keeps ask base s) :
    Keeps ask base (dropPosted s) := by
  unfold dropPosted
  repeat' first | (with_reducible first | assumption | apply odInc_keeps) | split | dsimp only

theorem turnAway_keeps {base : State} {e : Ejected} {code : Nat} {s : State} (hk : Keeps ask base s) :
    Keeps ask base (turnAway e code s) := by
  unfold turnAway
  repeat' first | (with_reducible first | assumption | apply dropPosted_keeps | apply respond_keeps | apply Keeps.ite
                                        | intro _ | exact rfl) | split | dsimp only

theorem countReject_keeps {base : State} {code : Nat} {s : State} (hk : Keeps ask base s) :
    Keeps ask base (countReject code s) := by
  unfold countReject
  dsimp only
  repeat' first | (with_reducible first | assumption | apply odSet_keeps | apply Keeps.ite | intro _ | exact rfl) | split
                | dsimp only

theorem reject_keeps {base : State} {e : Ejected} {n code : Nat} {s : State} (hk : Keeps ask base s) :
    Keeps ask base (reject e n code s) := by
  unfold reject
  dsimp only
  repeat' first | (with_reducible first | assumption | apply countReject_keeps | apply turnAway_keeps | apply emcy_keeps
                                        | apply Keeps.ite | intro _ | exact rfl) | split | with_reducible apply Keeps.upd
                | dsimp only | assumption

theorem writeLines_keeps {base : State} {a : Nat} {p : Packet} {s : State} (hk : Keeps ask base s) :
    Keeps ask base (writeLines a p s) := by
  unfold writeLines
  repeat' first | (with_reducible first | assumption | apply noteWrites_keeps | apply storePieces_keeps | apply Keeps.foldl
                                        | apply Keeps.foldl_snd | intro _ | exact rfl) | split | dsimp only

theorem serve_keeps {base : State} {e : Ejected} {s : State} (hk : Keeps ask base s) :
    Keeps ask base (serve e s) := by
  unfold serve
  dsimp only
  repeat' first | (with_reducible first | assumption | apply writeLines_keeps | apply reject_keeps | apply turnAway_keeps
                                        | apply odInc_keeps | apply Keeps.ite | intro _ | exact rfl) | split
                | with_reducible apply Keeps.upd | dsimp only | assumption

theorem serveRow_keeps {base : State} {op xd : Nat} {pkt : Packet} {s : State} (hk : Keeps ask base s) :
    Keeps ask base (serveRow op xd pkt s) := by
  unfold serveRow
  repeat' first | (with_reducible first | assumption | apply serve_keeps | apply Keeps.ite | intro _ | exact rfl) | split
                | with_reducible apply Keeps.upd | dsimp only | assumption

theorem execRead_keeps {xd : Nat} {pkt : Packet} {s : State} : OutKeeps ask s (execRead xd pkt s) := by
  unfold execRead
  repeat' first | (with_reducible first | assumption | apply OutKeeps.next | apply serveRow_keeps | exact Keeps.refl)
                | split | dsimp only

theorem execWrite_keeps {xd : Nat} {pkt : Packet} {s : State} : OutKeeps ask s (execWrite xd pkt s) := by
  unfold execWrite
  repeat' first | (with_reducible first | assumption | apply OutKeeps.next | apply serveRow_keeps | exact Keeps.refl)
                | split | dsimp only

theorem execWriteAck_keeps {xd : Nat} {pkt : Packet} {s : State} : OutKeeps ask s (execWriteAck xd pkt s) := by
  unfold execWriteAck
  repeat' first | (with_reducible first | assumption | apply OutKeeps.next | apply serveRow_keeps | exact Keeps.refl)
                | split | dsimp only

theorem readLines_keeps {base : State} {a n : Nat} {s : State} (hk : Keeps ask base s) :
    Keeps ask base (readLines a n s).2.2 := by
  unfold readLines
  dsimp only
  repeat' first | (with_reducible first | assumption | dsimp only | apply readView_keeps | apply touchRead_keeps
                                        | apply Keeps.ite | apply Keeps.ite_snd_snd | apply Keeps.foldl
                                        | apply Keeps.foldl_snd | apply Keeps.foldl_snd_snd | intro _ | exact rfl) | split
                | with_reducible apply Keeps.upd | dsimp only | assumption

theorem execTargetAccessComplete_keeps {xd entry : Nat} {s : State} : OutKeeps ask s (execTargetAccessComplete xd entry s) := by
  unfold execTargetAccessComplete
  dsimp only
  repeat' first | (with_reducible first | assumption | apply OutKeeps.next | apply readLines_keeps | apply writeLines_keeps
                                        | apply respond_keeps | apply Keeps.ite | intro _ | exact rfl | exact Keeps.refl)
                | split | with_reducible apply Keeps.upd | dsimp only | assumption

end Sys2Proof.Machine
end

