-- ==== Sys2Proof/Laws/KeepsGroups.lean ====
section
/-! SUPPORT. What the operations of Machine/Groups.lean keep. -/

namespace Sys2Proof.Machine

variable {ask : Asks}

theorem State.modGroup_keeps {base : State} {s : State} {g : Nat} {f : Group → Group} (hk : Keeps ask base s) :
    Keeps ask base (State.modGroup s g f) := by
  unfold State.modGroup
  repeat' first | (with_reducible first | assumption | intro _ | exact rfl) | (rw [List.length_modify]; assumption) | split
                | with_reducible apply Keeps.upd | dsimp only | assumption

theorem settleForming_keeps {base : State} {g : Nat} {s : State} (hk : Keeps ask base s) :
    Keeps ask base (settleForming g s) := by
  unfold settleForming
  dsimp only
  repeat' first | (with_reducible first | assumption | apply State.modGroup_keeps | apply Keeps.ite | intro _ | exact rfl)
                | split | with_reducible apply Keeps.upd | dsimp only | assumption

theorem groupCreate_keeps {base : State} {g : Nat} {s : State} (hk : Keeps ask base s) :
    Keeps ask base (groupCreate g s) := by
  unfold groupCreate
  dsimp only
  repeat' first | (with_reducible first | assumption | apply settleForming_keeps | apply State.modGroup_keeps
                                        | apply emcy_keeps | apply Keeps.ite | apply Keeps.foldl | apply Keeps.foldl_snd
                                        | intro _ | exact rfl) | (rw [List.length_map]; assumption) | split
                | with_reducible apply Keeps.upd | dsimp only | assumption

theorem groupDelete_keeps {base : State} {g : Nat} {s : State} (hk : Keeps ask base s) :
    Keeps ask base (groupDelete g s) := by
  unfold groupDelete
  dsimp only
  repeat' first | (with_reducible first | assumption | apply State.modGroup_keeps | intro _ | exact rfl)
                | (rw [List.length_map]; assumption) | split | with_reducible apply Keeps.upd | dsimp only | assumption

theorem groupReform_keeps {base : State} {g : Nat} {s : State} (hk : Keeps ask base s) :
    Keeps ask base (groupReform g s) := by
  unfold groupReform
  repeat' first | (with_reducible first | assumption | apply settleForming_keeps | apply State.modGroup_keeps | intro _
                                        | exact rfl) | split | with_reducible apply Keeps.upd | dsimp only | assumption

theorem setXflow_keeps {base : State} {x : XFlow} {s : State} (hk : Keeps ask base s) :
    Keeps ask base (setXflow x s) := by
  unfold setXflow
  repeat' first | (with_reducible first | assumption | intro _ | exact rfl) | split | with_reducible apply Keeps.upd
                | dsimp only | assumption

theorem xdomPut_keeps {base : State} {port g rank : Nat} {p : Packet} {s : State} (hk : Keeps ask base s) :
    Keeps ask base (xdomPut port g rank p s) := by
  unfold xdomPut
  dsimp only
  repeat' first | (with_reducible first | assumption | apply sendE_keeps) | split | dsimp only

theorem xdomSend_keeps {base : State} {port g rank bucket use : Nat} {p0 : Packet} {s : State} (hk : Keeps ask base s) :
    Keeps ask base (xdomSend port g rank bucket use p0 s) := by
  unfold xdomSend
  dsimp only
  repeat' first | (with_reducible first | assumption | apply xdomPut_keeps | apply setXflow_keeps | intro _ | exact rfl)
                | split | with_reducible apply Keeps.upd | dsimp only | assumption

theorem memberSend_keeps {base : State} {port g rank bucket use : Nat} {permit : Bool} {p : Packet} {s : State} (hk : Keeps ask base s) :
    Keeps ask base (memberSend port g rank bucket use permit p s) := by
  unfold memberSend
  dsimp only
  repeat' first | (with_reducible first | assumption | apply xdomSend_keeps | apply send_keeps | apply Keeps.ite | intro _
                                        | exact rfl) | split | with_reducible apply Keeps.upd | dsimp only | assumption

theorem sendForm_keeps {base : State} {g rank : Nat} {s : State} (hk : Keeps ask base s) :
    Keeps ask base (sendForm g rank s) := by
  unfold sendForm
  dsimp only
  repeat' first | (with_reducible first | assumption | apply xdomPut_keeps | apply send_keeps | apply Keeps.ite | intro _
                                        | exact rfl) | split | with_reducible apply Keeps.upd | dsimp only | assumption

theorem execFormTimer_keeps {s : State} : OutKeeps ask s (execFormTimer s) := by
  unfold execFormTimer
  repeat' first | (with_reducible first | assumption | apply OutKeeps.next | apply sendForm_keeps | apply Keeps.ite
                                        | apply Keeps.foldl | apply Keeps.foldl_snd | intro _ | exact rfl
                                        | exact Keeps.refl) | split | dsimp only

theorem faultEvent_keeps {base : State} {g reason rank : Nat} {s : State} (hk : Keeps ask base s) :
    Keeps ask base (faultEvent g reason rank s) := by
  unfold faultEvent
  dsimp only
  repeat' first | (with_reducible first | assumption | apply emcy_keeps) | split | dsimp only

end Sys2Proof.Machine
end

