-- ==== Sys2Proof/Laws/KeepsColl.lean ====
section
/-! SUPPORT. What the operations of Machine/Coll.lean keep. -/

namespace Sys2Proof.Machine

variable {ask : Asks}

theorem modOp_keeps {base : State} {o : CollOp} {f : CollOp → CollOp} {s : State} (hk : Keeps ask base s) :
    Keeps ask base (modOp o f s) := by
  unfold modOp
  repeat' first | (with_reducible first | assumption | apply Keeps.ite | intro _ | exact rfl)
                | (rw [List.length_map]; assumption) | split | with_reducible apply Keeps.upd | dsimp only | assumption

theorem opView_keeps {base : State} {s : State} {o : CollOp} (hk : Keeps ask base s) :
    Keeps ask base (opView s o) := by
  unfold opView
  dsimp only
  repeat' first | (with_reducible first | assumption | apply raceView_keeps | intro _ | exact rfl)
                | (rw [List.length_map]; assumption) | split | with_reducible apply Keeps.upd | dsimp only | assumption

theorem putOut_keeps {base : State} {o : CollOp} {start : Nat} {xs sc : List Nat} {pois : Nat} {s : State} (hk : Keeps ask base s) :
    Keeps ask base (putOut o start xs sc pois s) := by
  unfold putOut
  dsimp only
  repeat' first | (with_reducible first | assumption | apply modOp_keeps | apply tally_keeps | apply settleLine_keeps
                                        | apply writeBytes_keeps | apply Keeps.ite | apply Keeps.foldl
                                        | apply Keeps.foldl_snd | intro _ | exact rfl) | (rw [List.length_map]; assumption)
                | split | with_reducible apply Keeps.upd | dsimp only | assumption

theorem flagOp_keeps {base : State} {o : CollOp} {sat inexact : Bool} {raises : Nat} {s : State} (hk : Keeps ask base s) :
    Keeps ask base (flagOp o sat inexact raises s) := by
  unfold flagOp
  dsimp only
  repeat' first | (with_reducible first | assumption | apply modOp_keeps | apply odInc_keeps | apply Keeps.ite | intro _
                                        | exact rfl) | split | with_reducible apply Keeps.upd | dsimp only | assumption

theorem keepVal_keeps {base : State} {o : CollOp} {v : SegVal} {s : State} (hk : Keeps ask base s) :
    Keeps ask base (keepVal o v s) := by
  unfold keepVal
  repeat' first | (with_reducible first | assumption | apply modOp_keeps | intro _ | exact rfl) | split
                | with_reducible apply Keeps.upd | dsimp only | assumption

theorem notePois_keeps {base : State} {o : CollOp} {pois : Nat} {s : State} (hk : Keeps ask base s) :
    Keeps ask base (notePois o pois s) := by
  unfold notePois
  repeat' first | (with_reducible first | assumption | apply modOp_keeps | apply Keeps.ite | intro _ | exact rfl) | split
                | with_reducible apply Keeps.upd | dsimp only | assumption

theorem touchSrc_keeps {base : State} {f : Co} {r start n : Nat} {s : State} (hk : Keeps ask base s) :
    Keeps ask base (touchSrc f r start n s) := by
  unfold touchSrc
  repeat' first | (with_reducible first | assumption | apply touchRead_keeps | apply Keeps.ite | intro _ | exact rfl)
                | split | dsimp only

theorem ownInput_keeps {base : State} {o : CollOp} {seg : Nat} {s : State} (hk : Keeps ask base s) :
    Keeps ask base (ownInput o seg s).2 := by
  unfold ownInput
  dsimp only
  repeat' first | (with_reducible first | assumption | dsimp only | apply touchSrc_keeps | apply notePois_keeps
                                        | apply flagOp_keeps | apply opView_keeps | apply Keeps.ite | apply Keeps.ite_snd
                                        | intro _ | exact rfl) | split | dsimp only

theorem ownVal_keeps {base : State} {o : CollOp} {l seg : Nat} {s : State} (hk : Keeps ask base s) :
    Keeps ask base (ownVal o l seg s).2 := by
  unfold ownVal
  dsimp only
  repeat' first | (with_reducible first | assumption | dsimp only | apply ownInput_keeps | apply keepVal_keeps
                                        | apply Keeps.ite | apply Keeps.ite_snd | intro _ | exact rfl)
                | (with_reducible refine Keeps.of_snd ‹_› ?_) | split | with_reducible apply Keeps.upd | dsimp only
                | assumption

theorem keepForward_keeps {base : State} {o : CollOp} {v : SegVal} {s : State} (hk : Keeps ask base s) :
    Keeps ask base (keepForward o v s) := by
  unfold keepForward
  repeat' first | (with_reducible first | assumption | apply keepVal_keeps | apply Keeps.ite | intro _ | exact rfl) | split
                | dsimp only

theorem freeSent_keeps {base : State} {o : CollOp} {a : GrantRec} {s : State} (hk : Keeps ask base s) :
    Keeps ask base (freeSent o a s) := by
  unfold freeSent
  dsimp only
  repeat' first | (with_reducible first | assumption | apply modOp_keeps | apply Keeps.ite | intro _ | exact rfl) | split
                | with_reducible apply Keeps.upd | dsimp only | assumption

theorem finishSeg_keeps {base : State} {o : CollOp} {fmt seg : Nat} {xs sc : List Nat} {pois : Nat} {s : State} (hk : Keeps ask base s) :
    Keeps ask base (finishSeg o fmt seg xs sc pois s) := by
  unfold finishSeg
  dsimp only
  repeat' first | (with_reducible first | assumption | apply keepForward_keeps | apply flagOp_keeps | apply putOut_keeps)
                | split | dsimp only

theorem tryCombine_keeps {base : State} {n : Nat} {o : CollOp} {l seg : Nat} {s : State} (hk : Keeps ask base s) :
    Keeps ask base (tryCombine n o l seg s) := by
  induction n generalizing o l s with
  | zero => exact hk
  | succ n ih =>
    unfold tryCombine
    dsimp only
    repeat' first | (with_reducible first | assumption | apply ih | apply keepVal_keeps | apply flagOp_keeps | apply finishSeg_keeps
                                          | apply modOp_keeps | apply ownVal_keeps | apply Keeps.ite | intro _) | split

theorem touchRegion_keeps {base : State} {o : CollOp} {d : Nat} {s : State} (hk : Keeps ask base s) :
    Keeps ask base (touchRegion o d s) := by
  unfold touchRegion
  dsimp only
  repeat' first | (with_reducible first | assumption | apply touchSrc_keeps | apply Keeps.ite | apply Keeps.foldl
                                        | apply Keeps.foldl_snd | intro _ | exact rfl) | split | dsimp only

theorem putRegion_keeps {base : State} {o : CollOp} {src : Nat} {xs sc : List Nat} {pois : Nat} {s : State} (hk : Keeps ask base s) :
    Keeps ask base (putRegion o src xs sc pois s) := by
  unfold putRegion
  dsimp only
  repeat' first | (with_reducible first | assumption | apply flagOp_keeps | apply putOut_keeps) | split | dsimp only

theorem tryRegion_keeps {base : State} {o0 : CollOp} {src : Nat} {s : State} (hk : Keeps ask base s) :
    Keeps ask base (tryRegion o0 src s) := by
  unfold tryRegion
  dsimp only
  repeat' first | (with_reducible first | assumption | apply putRegion_keeps | apply modOp_keeps | apply Keeps.ite
                                        | apply Keeps.foldl | apply Keeps.foldl_snd | intro _ | exact rfl)
                | (rw [List.length_map]; assumption) | (rw [List.length_map, List.length_zipIdx]; assumption) | split
                | with_reducible apply Keeps.upd | dsimp only | assumption

theorem sendAbort_keeps {base : State} {g bucket use code rank : Nat} {s : State} (hk : Keeps ask base s) :
    Keeps ask base (sendAbort g bucket use code rank s) := by
  unfold sendAbort
  repeat' first | (with_reducible first | assumption | apply memberSend_keeps | apply Keeps.foldl | apply Keeps.foldl_snd
                                        | intro _ | exact rfl) | split | with_reducible apply Keeps.upd | dsimp only
                | assumption

theorem endOp_keeps {base : State} {o : CollOp} {code : Nat} {s : State} (hk : Keeps ask base s) :
    Keeps ask base (endOp o code s) := by
  unfold endOp
  dsimp only
  repeat' first | (with_reducible first | assumption | apply modOp_keeps | apply State.modGroup_keeps | apply emcy_keeps
                                        | apply odInc_keeps | apply Keeps.ite | intro _ | exact rfl) | split
                | with_reducible apply Keeps.upd | dsimp only | assumption

theorem failOpAs_keeps {base : State} {rank : Nat} {o : CollOp} {code : Nat} {s : State} (hk : Keeps ask base s) :
    Keeps ask base (failOpAs rank o code s) := by
  unfold failOpAs
  repeat' first | (with_reducible first | assumption | apply endOp_keeps | apply sendAbort_keeps | apply Keeps.ite | intro _
                                        | exact rfl) | split | dsimp only

theorem failOp_keeps {base : State} {o : CollOp} {code : Nat} {s : State} (hk : Keeps ask base s) :
    Keeps ask base (failOp o code s) := by
  unfold failOp
  repeat' first | (with_reducible first | assumption | apply failOpAs_keeps) | split | dsimp only

theorem faultGroup_keeps {base : State} {g reason rank : Nat} {tell : Option Nat} {s : State} (hk : Keeps ask base s) :
    Keeps ask base (faultGroup g reason rank tell s) := by
  unfold faultGroup
  dsimp only
  repeat' first | (with_reducible first | assumption | apply failOpAs_keeps | apply endOp_keeps | apply faultEvent_keeps
                                        | apply State.modGroup_keeps | apply Keeps.foldl | apply Keeps.foldl_snd | intro _
                                        | exact rfl) | split | with_reducible apply Keeps.upd | dsimp only | assumption

theorem formArrived_keeps {base : State} {p : Packet} {s : State} (hk : Keeps ask base s) :
    Keeps ask base (formArrived p s) := by
  unfold formArrived
  repeat' first | (with_reducible first | assumption | apply faultGroup_keeps | apply settleForming_keeps
                                        | apply State.modGroup_keeps | apply Keeps.ite | intro _ | exact rfl) | split
                | with_reducible apply Keeps.upd | dsimp only | assumption

theorem execForm_keeps {fromE : Bool} {pkt : Packet} {s : State} : OutKeeps ask s (execForm fromE pkt s) := by
  unfold execForm
  repeat' first | (with_reducible first | assumption | apply OutKeeps.next | apply formArrived_keeps | apply Keeps.ite
                                        | intro _ | exact rfl | exact Keeps.refl) | split | with_reducible apply Keeps.upd
                | dsimp only | assumption

theorem answer_keeps {base : State} {o : CollOp} {a : GrantRec} {s : State} (hk : Keeps ask base s) :
    Keeps ask base (answer o a s).2 := by
  unfold answer
  dsimp only
  repeat' first | (with_reducible first | assumption | dsimp only | apply touchRegion_keeps | apply ownVal_keeps
                                        | apply touchSrc_keeps | apply notePois_keeps | apply opView_keeps | apply Keeps.ite
                                        | apply Keeps.ite_snd | apply Keeps.foldl | apply Keeps.foldl_snd | intro _
                                        | exact rfl) | (rw [List.length_map]; assumption)
                | (rw [List.length_map, List.length_zipIdx]; assumption) | (with_reducible refine Keeps.of_snd ‹_› ?_)
                | split | with_reducible apply Keeps.upd | dsimp only | assumption

theorem answerOne_keeps {base : State} {g peer ep : Nat} {s : State} (hk : Keeps ask base s) :
    Keeps ask base (answerOne g peer ep s).2 := by
  unfold answerOne
  dsimp only
  repeat' first | (with_reducible first | assumption | dsimp only | apply answer_keeps | apply freeSent_keeps
                                        | apply modOp_keeps | apply memberSend_keeps | apply State.modGroup_keeps
                                        | apply Keeps.ite | apply Keeps.ite_snd | apply Keeps.foldl | apply Keeps.foldl_snd
                                        | intro _ | exact rfl) | (with_reducible refine Keeps.of_snd ‹_› ?_) | split
                | with_reducible apply Keeps.upd | dsimp only | assumption

theorem answerAll_keeps {base : State} {g peer xd n : Nat} {s : State} (hk : Keeps ask base s) :
    Keeps ask base (answerAll g peer xd n s) := by
  induction n generalizing s with
  | zero => exact hk
  | succ n ih => exact Keeps.ite (fun _ => ih (answerOne_keeps hk)) fun _ => answerOne_keeps hk

theorem pumpGroup_keeps {base : State} {g : Nat} {s : State} (hk : Keeps ask base s) :
    Keeps ask base (pumpGroup g s) := by
  unfold pumpGroup
  dsimp only
  repeat' first | (with_reducible first | assumption | apply answerAll_keeps | apply Keeps.foldl | apply Keeps.foldl_snd
                                        | intro _ | exact rfl) | split | dsimp only

theorem pumpTokens_keeps {base : State} {o0 : CollOp} {s : State} (hk : Keeps ask base s) :
    Keeps ask base (pumpTokens o0 s) := by
  unfold pumpTokens
  dsimp only
  repeat' first | (with_reducible first | assumption | apply modOp_keeps | apply memberSend_keeps | apply Keeps.ite
                                        | apply Keeps.foldl | apply Keeps.foldl_snd | intro _ | exact rfl) | split
                | with_reducible apply Keeps.upd | dsimp only | assumption

theorem execGrantIssue_keeps {g bucket peer level phase first count : Nat} {s : State} : OutKeeps ask s (execGrantIssue g bucket peer level phase first count s) := by
  unfold execGrantIssue
  dsimp only
  repeat' first | (with_reducible first | assumption | apply OutKeeps.next | apply memberSend_keeps
                                        | apply State.modGroup_keeps | apply odInc_keeps | apply Keeps.ite | intro _
                                        | exact rfl | exact Keeps.refl) | split | with_reducible apply Keeps.upd
                | dsimp only | assumption

theorem settleAsked_keeps {base : State} {o : CollOp} {s : State} (hk : Keeps ask base s) :
    Keeps ask base (settleAsked o s) := by
  unfold settleAsked
  dsimp only
  repeat' first | (with_reducible first | assumption | apply State.modGroup_keeps | intro _ | exact rfl) | split
                | with_reducible apply Keeps.upd | dsimp only | assumption

theorem noteAsked_keeps {base : State} {g peer : Nat} {p : Packet} {s : State} (hk : Keeps ask base s) :
    Keeps ask base (noteAsked g peer p s) := by
  unfold noteAsked
  repeat' first | (with_reducible first | assumption | apply State.modGroup_keeps | intro _ | exact rfl) | split
                | with_reducible apply Keeps.upd | dsimp only | assumption

theorem takeGrant_keeps {base : State} {o : CollOp} {peer : Nat} {p : Packet} {s : State} (hk : Keeps ask base s) :
    Keeps ask base (takeGrant o peer p s) := by
  unfold takeGrant
  repeat' first | (with_reducible first | assumption | apply noteAsked_keeps | apply settleAsked_keeps
                                        | apply pumpGroup_keeps | apply failOp_keeps | apply Keeps.ite | intro _
                                        | exact rfl) | split | dsimp only

theorem takeToken_keeps {base : State} {o : CollOp} {peer : Nat} {p : Packet} {s : State} (hk : Keeps ask base s) :
    Keeps ask base (takeToken o peer p s) := by
  unfold takeToken
  repeat' first | (with_reducible first | assumption | apply pumpTokens_keeps | apply modOp_keeps | apply Keeps.ite
                                        | intro _ | exact rfl) | split | with_reducible apply Keeps.upd | dsimp only
                | assumption

theorem keepEarly_keeps {base : State} {g : Nat} {p : Packet} {s : State} (hk : Keeps ask base s) :
    Keeps ask base (keepEarly g p s) := by
  unfold keepEarly
  repeat' first | (with_reducible first | assumption | apply State.modGroup_keeps | intro _ | exact rfl) | split
                | with_reducible apply Keeps.upd | dsimp only | assumption

theorem takeFlow_keeps {base : State} {op : Nat} {pkt : Packet} {s t : State} {g : Nat}
    (h : takeFlow op pkt s = some (g, t)) (hk : Keeps ask base s) : Keeps ask base t := by
  unfold takeFlow at h
  split at h
  · split at h
    · obtain ⟨x, -, hx⟩ := Option.map_eq_some_iff.1 h
      cases hx
      exact hk.upd rfl (fun _ h => h) (fun _ h => h) id id id id
    · cases h
  · cases h

theorem execGrant_keeps {pkt : Packet} {s : State} : OutKeeps ask s (execGrant pkt s) := by
  unfold execGrant
  repeat' first | (with_reducible first | assumption | apply OutKeeps.next | apply keepEarly_keeps | apply takeGrant_keeps
                                        | apply noteAsked_keeps | apply Keeps.ite | intro _ | exact rfl | exact Keeps.refl)
                | (with_reducible refine takeFlow_keeps ‹_› ?_) | split | with_reducible apply Keeps.upd | dsimp only
                | assumption

theorem execToken_keeps {pkt : Packet} {s : State} : OutKeeps ask s (execToken pkt s) := by
  unfold execToken
  repeat' first | (with_reducible first | assumption | apply OutKeeps.next | apply keepEarly_keeps | apply takeToken_keeps
                                        | apply Keeps.ite | intro _ | exact rfl | exact Keeps.refl)
                | (with_reducible refine takeFlow_keeps ‹_› ?_) | split | with_reducible apply Keeps.upd | dsimp only
                | assumption

theorem gotSegment_keeps {base : State} {o : CollOp} {r : GrantRec} {v : SegVal} {s : State} (hk : Keeps ask base s) :
    Keeps ask base (gotSegment o r v s) := by
  unfold gotSegment
  dsimp only
  repeat' first | (with_reducible first | assumption | apply tryRegion_keeps | apply tryCombine_keeps
                                        | apply keepForward_keeps | apply notePois_keeps | apply keepVal_keeps
                                        | apply flagOp_keeps | apply putOut_keeps | apply modOp_keeps | apply Keeps.ite
                                        | intro _ | exact rfl) | split | with_reducible apply Keeps.upd | dsimp only
                | assumption

theorem takeData_keeps {base : State} {g peer : Nat} {p : Packet} {s : State} (hk : Keeps ask base s) :
    Keeps ask base (takeData g peer p s) := by
  unfold takeData
  dsimp only
  repeat' first | (with_reducible first | assumption | apply gotSegment_keeps | apply failOp_keeps | apply keepVal_keeps
                                        | apply modOp_keeps | apply State.modGroup_keeps | apply odInc_keeps
                                        | apply Keeps.ite | intro _ | exact rfl) | (rw [List.length_map]; assumption)
                | split | with_reducible apply Keeps.upd | dsimp only | assumption

theorem execData_keeps {pkt : Packet} {s : State} : OutKeeps ask s (execData pkt s) := by
  unfold execData
  repeat' first | (with_reducible first | assumption | apply OutKeeps.next | apply takeData_keeps | apply pumpGroup_keeps
                                        | apply odInc_keeps | intro _ | exact rfl | exact Keeps.refl)
                | (with_reducible refine takeFlow_keeps ‹_› ?_) | split | with_reducible apply Keeps.upd | dsimp only
                | assumption

theorem takeAbort_keeps {base : State} {g peer : Nat} {p : Packet} {s0 : State} (hk : Keeps ask base s0) :
    Keeps ask base (takeAbort g peer p s0) := by
  unfold takeAbort
  dsimp only
  repeat' first | (with_reducible first | assumption | apply faultGroup_keeps | apply endOp_keeps | apply sendAbort_keeps
                                        | apply State.modGroup_keeps | apply Keeps.ite | intro _ | exact rfl) | split
                | with_reducible apply Keeps.upd | dsimp only | assumption

theorem execAbort_keeps {pkt : Packet} {s : State} : OutKeeps ask s (execAbort pkt s) := by
  unfold execAbort
  repeat' first | (with_reducible first | assumption | apply OutKeeps.next | apply takeAbort_keeps | intro _ | exact rfl
                                        | exact Keeps.refl) | (with_reducible refine takeFlow_keeps ‹_› ?_) | split
                | with_reducible apply Keeps.upd | dsimp only | assumption

theorem execLatecomerTimeout_keeps {g rank : Nat} {s : State} : OutKeeps ask s (execLatecomerTimeout g rank s) := by
  unfold execLatecomerTimeout
  dsimp only
  repeat' first | (with_reducible first | assumption | apply OutKeeps.next | apply pumpGroup_keeps | apply faultGroup_keeps
                                        | apply Keeps.ite | intro _ | exact rfl | exact Keeps.refl) | split | dsimp only

theorem execReorderTimeout_keeps {sdev sep cls : Nat} {s : State} : OutKeeps ask s (execReorderTimeout sdev sep cls s) := by
  unfold execReorderTimeout
  dsimp only
  repeat' first | (with_reducible first | assumption | apply OutKeeps.next | apply failOp_keeps | apply State.modGroup_keeps
                                        | apply declareLost_keeps | apply Keeps.ite | apply Keeps.foldl
                                        | apply Keeps.foldl_snd | intro _ | exact rfl | exact Keeps.refl)
                | (with_reducible refine Keeps.of_snd ‹_› ?_) | split | with_reducible apply Keeps.upd | dsimp only
                | assumption

theorem sendXack_keeps {base : State} {g peer : Nat} {s : State} (hk : Keeps ask base s) :
    Keeps ask base (sendXack g peer s) := by
  unfold sendXack
  dsimp only
  repeat' first | (with_reducible first | assumption | apply xdomPut_keeps | apply setXflow_keeps | intro _ | exact rfl)
                | split | with_reducible apply Keeps.upd | dsimp only | assumption

theorem xrelease_keeps {base : State} {n : Nat} {x : XFlow} {s : State} (hk : Keeps ask base s) :
    Keeps ask base (xrelease n x s) := by
  induction n generalizing x s with
  | zero => exact setXflow_keeps hk
  | succ n ih =>
    unfold xrelease
    split
    · exact ih (hk.upd rfl (fun _ h => h) (fun _ h => h) id id id id)
    · exact setXflow_keeps hk

theorem xdomArrive_keeps {base : State} {g peer : Nat} {e : Ejected} {s : State} (hk : Keeps ask base s) :
    Keeps ask base (xdomArrive g peer e s) := by
  unfold xdomArrive
  dsimp only
  repeat' first | (with_reducible first | assumption | apply xrelease_keeps | apply sendXack_keeps | apply setXflow_keeps
                                        | apply Keeps.ite | intro _ | exact rfl) | split | with_reducible apply Keeps.upd
                | dsimp only | assumption

theorem retransmit_keeps {base : State} {g peer seq : Nat} {s : State} (hk : Keeps ask base s) :
    Keeps ask base (retransmit g peer seq s) := by
  unfold retransmit
  dsimp only
  repeat' first | (with_reducible first | assumption | apply failOp_keeps | apply xdomPut_keeps | apply setXflow_keeps
                                        | apply odInc_keeps | apply Keeps.ite | intro _ | exact rfl)
                | (rw [List.length_map]; assumption) | split | with_reducible apply Keeps.upd | dsimp only | assumption

theorem execXack_keeps {pkt : Packet} {s : State} : OutKeeps ask s (execXack pkt s) := by
  unfold execXack
  dsimp only
  repeat' first | (with_reducible first | assumption | apply OutKeeps.next | apply retransmit_keeps | apply setXflow_keeps
                                        | apply Keeps.ite | apply Keeps.foldl | apply Keeps.foldl_snd | intro _ | exact rfl
                                        | exact Keeps.refl) | (rw [List.length_map]; assumption) | split
                | with_reducible apply Keeps.upd | dsimp only | assumption

theorem execXackTimer_keeps {g peer : Nat} {s : State} : OutKeeps ask s (execXackTimer g peer s) := by
  unfold execXackTimer
  repeat' first | (with_reducible first | assumption | apply OutKeeps.next | apply sendXack_keeps | apply Keeps.ite
                                        | intro _ | exact rfl | exact Keeps.refl) | split | dsimp only

theorem execXdomRtoExpiry_keeps {g peer seq : Nat} {s : State} : OutKeeps ask s (execXdomRtoExpiry g peer seq s) := by
  unfold execXdomRtoExpiry
  repeat' first | (with_reducible first | assumption | apply OutKeeps.next | apply retransmit_keeps | exact Keeps.refl)
                | split | dsimp only

theorem collWord_keeps {base : State} {p : Nat → Bool} {c : Nat} {s : State} (hk : Keeps ask base s) :
    Keeps ask base (collWord p c s) := by
  unfold collWord
  repeat' first | (with_reducible first | assumption | apply issue_keeps | intro _ | exact rfl) | split | dsimp only

theorem execAllreduce_keeps {c : Nat} {s : State} : OutKeeps ask s (execAllreduce c s) := by
  unfold execAllreduce
  repeat' first | (with_reducible first | assumption | apply OutKeeps.next | apply collWord_keeps | intro _ | exact rfl
                                        | exact Keeps.refl) | split | dsimp only

theorem execReduceScatter_keeps {c : Nat} {s : State} : OutKeeps ask s (execReduceScatter c s) := by
  unfold execReduceScatter
  repeat' first | (with_reducible first | assumption | apply OutKeeps.next | apply collWord_keeps | exact Keeps.refl)
                | split | dsimp only

theorem execAllgather_keeps {c : Nat} {s : State} : OutKeeps ask s (execAllgather c s) := by
  unfold execAllgather
  repeat' first | (with_reducible first | assumption | apply OutKeeps.next | apply collWord_keeps | exact Keeps.refl)
                | split | dsimp only

theorem execBroadcast_keeps {c : Nat} {s : State} : OutKeeps ask s (execBroadcast c s) := by
  unfold execBroadcast
  repeat' first | (with_reducible first | assumption | apply OutKeeps.next | apply collWord_keeps | exact Keeps.refl)
                | split | dsimp only

theorem execA2a_keeps {c : Nat} {s : State} : OutKeeps ask s (execA2a c s) := by
  unfold execA2a
  repeat' first | (with_reducible first | assumption | apply OutKeeps.next | apply collWord_keeps | exact Keeps.refl)
                | split | dsimp only

theorem execA2av_keeps {c : Nat} {s : State} : OutKeeps ask s (execA2av c s) := by
  unfold execA2av
  repeat' first | (with_reducible first | assumption | apply OutKeeps.next | apply collWord_keeps | exact Keeps.refl)
                | split | dsimp only

theorem execDispatch_keeps {c : Nat} {s : State} : OutKeeps ask s (execDispatch c s) := by
  unfold execDispatch
  repeat' first | (with_reducible first | assumption | apply OutKeeps.next | apply collWord_keeps | exact Keeps.refl)
                | split | dsimp only

theorem execBarrier_keeps {c : Nat} {s : State} : OutKeeps ask s (execBarrier c s) := by
  unfold execBarrier
  repeat' first | (with_reducible first | assumption | apply OutKeeps.next | apply collWord_keeps | exact Keeps.refl)
                | split | dsimp only

theorem ownOutputs_keeps {base : State} {o : CollOp} {s : State} (hk : Keeps ask base s) :
    Keeps ask base (ownOutputs o s) := by
  unfold ownOutputs
  dsimp only
  repeat' first | (with_reducible first | assumption | apply putRegion_keeps | apply touchRegion_keeps
                                        | apply finishSeg_keeps | apply touchSrc_keeps | apply notePois_keeps
                                        | apply flagOp_keeps | apply putOut_keeps | apply opView_keeps | apply Keeps.ite
                                        | apply Keeps.foldl | apply Keeps.foldl_snd | intro _ | exact rfl) | split
                | dsimp only

theorem beginOp_keeps {base : State} {o : CollOp} {s : State} (hk : Keeps ask base s) :
    Keeps ask base (beginOp o s) := by
  unfold beginOp
  dsimp only
  repeat' first | (with_reducible first | assumption | apply ownOutputs_keeps | apply takeToken_keeps
                                        | apply settleAsked_keeps | apply pumpTokens_keeps | apply pumpGroup_keeps
                                        | apply failOp_keeps | apply State.modGroup_keeps | apply Keeps.ite
                                        | apply Keeps.foldl | apply Keeps.foldl_snd | intro _ | exact rfl) | split
                | with_reducible apply Keeps.upd | dsimp only | assumption

theorem execCollStart_keeps {c : Nat} {s : State} : OutKeeps ask s (execCollStart c s) := by
  unfold execCollStart
  dsimp only
  repeat' first | (with_reducible first | assumption | apply OutKeeps.next | apply beginOp_keeps | apply endOp_keeps
                                        | apply sendAbort_keeps | apply State.modGroup_keeps | apply readView_keeps
                                        | apply startRun_keeps | apply touchRead_keeps | apply wildAll_keeps
                                        | apply Keeps.ite | intro _ | exact rfl | exact Keeps.refl)
                | (with_reducible refine Keeps.of_snd ‹_› ?_) | split | with_reducible apply Keeps.upd | dsimp only
                | assumption

theorem rowsFrom_keeps {base : State} {s : State} {o : CollOp} {src : Nat} (hk : Keeps ask base s) :
    Keeps ask base (rowsFrom s o src).2 := by
  unfold rowsFrom
  dsimp only
  repeat' first | (with_reducible first | assumption | dsimp only | apply nextFreeWord_keeps | apply Keeps.ite
                                        | apply Keeps.ite_snd | intro _ | exact rfl) | split | dsimp only

theorem putReport_keeps {base : State} {o : CollOp} {s : State} (hk : Keeps ask base s) :
    Keeps ask base (putReport o s) := by
  unfold putReport
  dsimp only
  repeat' first | (with_reducible first | assumption | apply rowsFrom_keeps | apply tally_keeps | apply storePieces_keeps
                                        | apply Keeps.ite | apply Keeps.foldl | apply Keeps.foldl_snd | intro _ | exact rfl)
                | split | dsimp only

theorem raiseCev_keeps {base : State} {f : Co} {s : State} (hk : Keeps ask base s) :
    Keeps ask base (raiseCev f s) := by
  unfold raiseCev
  repeat' first | (with_reducible first | assumption | apply Keeps.ite | intro _ | exact rfl) | split
                | with_reducible apply Keeps.upd | dsimp only | assumption

theorem collDone_keeps {base : State} {c : Nat} {r : Run} {code : Nat} {o : Option CollOp} {s : State} (hk : Keeps ask base s) :
    Keeps ask base (collDone c r code o s) := by
  unfold collDone
  dsimp only
  repeat' first | (with_reducible first | assumption | apply raiseCev_keeps | apply complete_keeps
                                        | apply State.modCore_keeps | intro _ | exact rfl)
                | (rw [List.length_map]; assumption) | split | with_reducible apply Keeps.upd | dsimp only | assumption

theorem poisonRest_keeps {base : State} {o : CollOp} {s : State} (hk : Keeps ask base s) :
    Keeps ask base (poisonRest o s) := by
  unfold poisonRest
  dsimp only
  repeat' first | (with_reducible first | assumption | apply setPoison_keeps | apply Keeps.foldl | apply Keeps.foldl_snd
                                        | intro _ | exact rfl) | split | dsimp only

theorem execCollComplete_keeps {c g bucket : Nat} {s : State} : OutKeeps ask s (execCollComplete c g bucket s) := by
  unfold execCollComplete
  dsimp only
  repeat' first | (with_reducible first | assumption | apply OutKeeps.next | apply poisonRest_keeps | apply collDone_keeps
                                        | apply putReport_keeps | apply State.modGroup_keeps | apply wildAll_keeps
                                        | apply odInc_keeps | apply Keeps.ite | intro _ | exact rfl | exact Keeps.refl)
                | split | with_reducible apply Keeps.upd | dsimp only | assumption

end Sys2Proof.Machine
end

