-- ==== Sys2Proof/Laws/KeepsLaunch.lean ====
section
/-! SUPPORT. What the operations of Machine/Launch.lean keep. -/

namespace Sys2Proof.Machine

variable {ask : Asks}

theorem setPState_keeps {base : State} {n : Nat} {s : State} (hk : Keeps ask base s) :
    Keeps ask base (setPState n s) := by
  unfold setPState
  repeat' first | (with_reducible first | assumption | apply emcy_keeps | apply Keeps.ite | intro _ | exact rfl) | split
                | with_reducible apply Keeps.upd | dsimp only | assumption

theorem wakeCores_keeps {base : State} {s : State} (hk : Keeps ask base s) :
    Keeps ask base (wakeCores s) := by
  unfold wakeCores
  repeat' first | (with_reducible first | assumption | apply setPState_keeps | apply Keeps.ite | intro _ | exact rfl)
                | split | dsimp only

theorem newHandle_keeps {base : State} {h kind st owner : Nat} {f : Handle → Handle} {s : State} (hk : Keeps ask base s) :
    Keeps ask base (newHandle h kind st owner f s) := by
  unfold newHandle
  dsimp only
  repeat' first | (with_reducible first | assumption | apply State.modHandle_keeps | intro _ | exact rfl) | split
                | with_reducible apply Keeps.upd | dsimp only | assumption

theorem endLaunch_keeps {base : State} {h st res : Nat} {s : State} (hk : Keeps ask base s) :
    Keeps ask base (endLaunch h st res s) := by
  unfold endLaunch
  dsimp only
  repeat' first | (with_reducible first | assumption | apply setHandle_keeps | apply State.modHandle_keeps | apply Keeps.ite
                                        | intro _ | exact rfl) | split | with_reducible apply Keeps.upd | dsimp only
                | assumption

theorem readPlan_keeps {base : State} {a : Nat} {s : State} (hk : Keeps ask base s) :
    Keeps ask base (readPlan a s).2.2 := by
  unfold readPlan
  dsimp only
  repeat' first | (with_reducible first | assumption | dsimp only | apply touchRead_keeps | apply Keeps.ite
                                        | apply Keeps.ite_snd_snd | intro _ | exact rfl) | split | dsimp only

theorem freshReports_keeps {base : State} {s : State} (hk : Keeps ask base s) :
    Keeps ask base (freshReports s) := by
  unfold freshReports
  repeat' first | (with_reducible first | assumption | intro _ | exact rfl) | (rw [List.length_map]; assumption) | split
                | with_reducible apply Keeps.upd | dsimp only | assumption

theorem validate_keeps {base : State} {h : Nat} {s : State} (hk : Keeps ask base s) :
    Keeps ask base (validate h s) := by
  unfold validate
  dsimp only
  repeat' first | (with_reducible first | assumption | apply freshReports_keeps | apply readPlan_keeps
                                        | apply endLaunch_keeps | apply wakeCores_keeps | apply State.modHandle_keeps
                                        | apply Keeps.ite | intro _ | exact rfl) | split | with_reducible apply Keeps.upd
                | dsimp only | assumption

theorem copyMarks_keeps {base : State} {src dst n : Nat} {s : State} (hk : Keeps ask base s) :
    Keeps ask base (copyMarks src dst n s) := by
  unfold copyMarks
  repeat' first | (with_reducible first | assumption | apply setPoison_keeps | apply Keeps.foldl | apply Keeps.foldl_snd
                                        | intro _ | exact rfl) | split | dsimp only

theorem saveCore_keeps {base : State} {a : Nat} {near : Bool} {c : Nat} {e : CoreEntry} {s0 : State} (hk : Keeps ask base s0) :
    Keeps ask base (saveCore a near c e s0) := by
  unfold saveCore
  dsimp only
  repeat' first | (with_reducible first | assumption | apply copyMarks_keeps | apply storePieces_keeps
                                        | apply touchRead_keeps | apply Keeps.ite | intro _ | exact rfl) | split
                | with_reducible apply Keeps.upd | dsimp only | assumption

theorem resumeCheck_keeps {base : State} {x : Handle} {s : State} (hk : Keeps ask base s) :
    Keeps ask base (resumeCheck x s).2 := by
  unfold resumeCheck
  dsimp only
  repeat' first | (with_reducible first | assumption | dsimp only | apply touchRead_keeps | apply Keeps.ite
                                        | apply Keeps.ite_snd | intro _ | exact rfl) | split | dsimp only

theorem beginResume_keeps {base : State} {h : Nat} {s : State} (hk : Keeps ask base s) :
    Keeps ask base (beginResume h s) := by
  unfold beginResume
  dsimp only
  repeat' first | (with_reducible first | assumption | apply resumeCheck_keeps | apply freshReports_keeps
                                        | apply endLaunch_keeps | apply wakeCores_keeps | apply setHandle_keeps
                                        | apply State.modHandle_keeps | apply Keeps.ite | intro _ | exact rfl)
                | (rw [List.length_map]; assumption) | split | with_reducible apply Keeps.upd | dsimp only | assumption

theorem restoreCore_keeps {base : State} {a : Nat} {near : Bool} {c : Nat} {e : CoreEntry} {s : State} (hk : Keeps ask base s) :
    Keeps ask base (restoreCore a near c e s) := by
  unfold restoreCore
  dsimp only
  repeat' first | (with_reducible first | assumption | apply copyMarks_keeps | apply storePieces_keeps
                                        | apply State.modCore_keeps | apply Keeps.ite | intro _ | exact rfl)
                | (rw [List.length_map]; assumption) | split | with_reducible apply Keeps.upd | dsimp only | assumption

theorem bindGroups_keeps {base : State} {x : Handle} {s : State} (hk : Keeps ask base s) :
    Keeps ask base (bindGroups x s) := by
  unfold bindGroups
  repeat' first | (with_reducible first | assumption | intro _ | exact rfl) | (rw [List.length_map]; assumption) | split
                | with_reducible apply Keeps.upd | dsimp only | assumption

theorem execLaunchDequeue_keeps {s : State} : OutKeeps ask s (execLaunchDequeue s) := by
  unfold execLaunchDequeue
  dsimp only
  repeat' first | (with_reducible first | assumption | apply OutKeeps.next | apply beginResume_keeps | apply validate_keeps
                                        | apply Keeps.ite | apply Keeps.foldl | apply Keeps.foldl_snd | intro _ | exact rfl
                                        | exact Keeps.refl) | split | with_reducible apply Keeps.upd | dsimp only
                | assumption

theorem execStartBroadcast_keeps {s : State} : OutKeeps ask s (execStartBroadcast s) := by
  unfold execStartBroadcast
  dsimp only
  repeat' first | (with_reducible first | assumption | apply OutKeeps.next | apply bindGroups_keeps
                                        | apply restoreCore_keeps | apply State.modHandle_keeps | apply State.modCore_keeps
                                        | apply Keeps.ite | apply Keeps.foldl | apply Keeps.foldl_snd | intro _ | exact rfl
                                        | exact Keeps.refl) | split | with_reducible apply Keeps.upd | dsimp only
                | assumption

theorem execStreamFetchStart_keeps {s : State} : OutKeeps ask s (execStreamFetchStart s) := by
  unfold execStreamFetchStart
  dsimp only
  repeat' first | (with_reducible first | assumption | apply OutKeeps.next | apply State.modHandle_keeps
                                        | apply State.modCore_keeps | apply Keeps.ite | apply Keeps.foldl
                                        | apply Keeps.foldl_snd | intro _ | exact rfl | exact Keeps.refl)
                | exact List.length_replicate | split | with_reducible apply Keeps.upd | dsimp only | assumption

theorem execStreamFetchComplete_keeps {c : Nat} {s : State} : OutKeeps ask s (execStreamFetchComplete c s) := by
  unfold execStreamFetchComplete
  dsimp only
  repeat' first | (with_reducible first | assumption | apply OutKeeps.next | apply stopCore_keeps | apply storePieces_keeps
                                        | apply touchRead_keeps | apply State.modCore_keeps | apply Keeps.ite | intro _
                                        | exact rfl | exact Keeps.refl) | split | with_reducible apply Keeps.upd
                | dsimp only | assumption

theorem endWork_keeps {base : State} {hit : Core → Bool} {s : State} (hk : Keeps ask base s) :
    Keeps ask base (endWork hit s) := by
  unfold endWork
  dsimp only
  repeat' first | (with_reducible first | assumption | apply poisonRest_keeps | apply failOp_keeps | apply Keeps.foldl
                                        | apply Keeps.foldl_snd | intro _ | exact rfl) | split
                | with_reducible apply Keeps.upd | dsimp only | assumption

theorem endCores_keeps {base : State} {code : Nat} {s : State} (hk : Keeps ask base s) :
    Keeps ask base (endCores code s) := by
  unfold endCores
  repeat' first | (with_reducible first | assumption | apply endWork_keeps | apply cancelCores_keeps | intro _ | exact rfl)
                | split | dsimp only

theorem endPeers_keeps {base : State} {s : State} (hk : Keeps ask base s) :
    Keeps ask base (endPeers s) := by
  unfold endPeers
  repeat' first | (with_reducible first | assumption | apply endWork_keeps | apply peerStopCores_keeps | intro _
                                        | exact rfl) | split | dsimp only

theorem execLaunchPeerStop_keeps {s : State} : OutKeeps ask s (execLaunchPeerStop s) := by
  unfold execLaunchPeerStop
  repeat' first | (with_reducible first | assumption | apply OutKeeps.next | apply endPeers_keeps
                                        | apply State.modHandle_keeps | apply Keeps.ite | intro _ | exact rfl
                                        | exact Keeps.refl) | split | with_reducible apply Keeps.upd | dsimp only
                | assumption

theorem execLaunchEnd_keeps {s : State} : OutKeeps ask s (execLaunchEnd s) := by
  unfold execLaunchEnd
  dsimp only
  repeat' first | (with_reducible first | assumption | apply OutKeeps.next | apply endLaunch_keeps | apply Keeps.ite
                                        | intro _ | exact rfl | exact Keeps.refl) | split | with_reducible apply Keeps.upd
                | dsimp only | assumption

theorem execCorePark_keeps {c : Nat} {s : State} : OutKeeps ask s (execCorePark c s) := by
  unfold execCorePark
  dsimp only
  repeat' first | (with_reducible first | assumption | apply OutKeeps.next | apply State.modCore_keeps | apply Keeps.ite
                                        | intro _ | exact rfl | exact Keeps.refl) | split | with_reducible apply Keeps.upd
                | dsimp only | assumption

theorem execSuspendRecordsWritten_keeps {s : State} : OutKeeps ask s (execSuspendRecordsWritten s) := by
  unfold execSuspendRecordsWritten
  dsimp only
  repeat' first | (with_reducible first | assumption | apply OutKeeps.next | apply saveCore_keeps | apply endLaunch_keeps
                                        | apply State.modHandle_keeps | apply storePieces_keeps | apply Keeps.ite
                                        | apply Keeps.foldl | apply Keeps.foldl_snd | intro _ | exact rfl
                                        | exact Keeps.refl) | (rw [List.length_map]; assumption) | split
                | with_reducible apply Keeps.upd | dsimp only | assumption

theorem controlSuspend_keeps {base : State} {h : Nat} {s : State} (hk : Keeps ask base s) :
    Keeps ask base (controlSuspend h s).2 := by
  unfold controlSuspend
  dsimp only
  repeat' first | (with_reducible first | assumption | dsimp only | apply setHandle_keeps | apply State.modHandle_keeps
                                        | apply State.modCore_keeps | apply Keeps.ite | apply Keeps.ite_snd
                                        | apply Keeps.foldl | apply Keeps.foldl_snd | intro _ | exact rfl) | split
                | with_reducible apply Keeps.upd | dsimp only | assumption

theorem controlResume_keeps {base : State} {h : Nat} {s : State} (hk : Keeps ask base s) :
    Keeps ask base (controlResume h s).2 := by
  unfold controlResume
  dsimp only
  repeat' first | (with_reducible first | assumption | dsimp only | apply beginResume_keeps | apply setHandle_keeps
                                        | apply State.modHandle_keeps | apply Keeps.ite | apply Keeps.ite_snd | intro _
                                        | exact rfl) | split | with_reducible apply Keeps.upd | dsimp only | assumption

theorem controlCancel_keeps {base : State} {h : Nat} {s : State} (hk : Keeps ask base s) :
    Keeps ask base (controlCancel h s).2 := by
  unfold controlCancel
  dsimp only
  repeat' first | (with_reducible first | assumption | dsimp only | apply commit_keeps | apply endCores_keeps
                                        | apply setHandle_keeps | apply Keeps.ite | apply Keeps.ite_snd | intro _
                                        | exact rfl) | split | dsimp only

theorem control_keeps {base : State} {h v : Nat} {s : State} (hk : Keeps ask base s) :
    Keeps ask base (control h v s).2 := by
  unfold control
  dsimp only
  repeat' first | (with_reducible first | assumption | dsimp only | apply controlCancel_keeps | apply controlResume_keeps
                                        | apply controlSuspend_keeps | apply State.modHandle_keeps | apply Keeps.ite
                                        | apply Keeps.ite_snd | intro _ | exact rfl) | split | dsimp only

theorem execHandleLingerExpiry_keeps {h : Nat} {s : State} : OutKeeps ask s (execHandleLingerExpiry h s) := by
  unfold execHandleLingerExpiry
  repeat' first | (with_reducible first | assumption | apply OutKeeps.next | apply State.modHandle_keeps | apply Keeps.ite
                                        | intro _ | exact rfl | exact Keeps.refl) | split | dsimp only

theorem execOperationSuspendObeyed_keeps {h : Nat} {s : State} : OutKeeps ask s (execOperationSuspendObeyed h s) := by
  unfold execOperationSuspendObeyed
  repeat' first | (with_reducible first | assumption | apply OutKeeps.next | apply setHandle_keeps | apply Keeps.ite
                                        | intro _ | exact rfl | exact Keeps.refl) | split | dsimp only

theorem cancelAll_keeps {base : State} {s : State} (hk : Keeps ask base s) :
    Keeps ask base (cancelAll s) := by
  unfold cancelAll
  repeat' first | (with_reducible first | assumption | apply control_keeps | apply Keeps.ite | apply Keeps.foldl
                                        | apply Keeps.foldl_snd | intro _ | exact rfl) | split | dsimp only

theorem createLaunch_keeps {base : State} {h owner addr : Nat} {s : State} (hk : Keeps ask base s) :
    Keeps ask base (createLaunch h owner addr s) := by
  unfold createLaunch
  dsimp only
  repeat' first | (with_reducible first | assumption | apply validate_keeps | apply newHandle_keeps | apply Keeps.ite
                                        | intro _ | exact rfl) | split | with_reducible apply Keeps.upd | dsimp only
                | assumption

theorem createResume_keeps {base : State} {h owner area : Nat} {s : State} (hk : Keeps ask base s) :
    Keeps ask base (createResume h owner area s) := by
  unfold createResume
  dsimp only
  repeat' first | (with_reducible first | assumption | apply beginResume_keeps | apply newHandle_keeps | apply Keeps.ite
                                        | intro _ | exact rfl) | split | with_reducible apply Keeps.upd | dsimp only
                | assumption

theorem failLaunches_keeps {base : State} {s : State} (hk : Keeps ask base s) :
    Keeps ask base (failLaunches s) := by
  unfold failLaunches
  dsimp only
  repeat' first | (with_reducible first | assumption | apply endLaunch_keeps | apply Keeps.ite | apply Keeps.foldl
                                        | apply Keeps.foldl_snd | intro _ | exact rfl) | split | dsimp only

end Sys2Proof.Machine
end

