-- ==== Sys2Proof/Laws/KeepsRepair.lean ====
section
/-! SUPPORT. What the operations of Machine/Repair.lean keep. -/

namespace Sys2Proof.Machine

variable {ask : Asks}

theorem applyRepairs_keeps {base : State} {kinds : List Nat} {f : Repair → Nat × Nat} {s : State} (hk : Keeps ask base s) :
    Keeps ask base (applyRepairs kinds f s) := by
  unfold applyRepairs
  dsimp only
  repeat' first | (with_reducible first | assumption | apply Keeps.ite | intro _ | exact rfl)
                | (rw [List.length_map]; assumption) | split | with_reducible apply Keeps.upd | dsimp only | assumption

theorem remapColumns_keeps {base : State} {f : Repair → Nat} {s : State} (hk : Keeps ask base s) :
    Keeps ask base (remapColumns f s) := by
  unfold remapColumns
  dsimp only
  repeat' first | (with_reducible first | assumption | apply Keeps.ite | intro _ | exact rfl)
                | (rw [List.length_map]; assumption) | split | with_reducible apply Keeps.upd | dsimp only | assumption

end Sys2Proof.Machine
end

