-- ==== Sys2Proof/Laws/KeepsOptics.lean ====
section
/-! SUPPORT. What the operations of Machine/Optics.lean keep. -/

namespace Sys2Proof.Machine

variable {ask : Asks}

theorem setLaser_keeps {base : State} {p j bias output mode : Nat} {s : State} (hk : Keeps ask base s) :
    Keeps ask base (setLaser p j bias output mode s) := by
  unfold setLaser
  repeat' first | (with_reducible first | assumption | apply setDieWord_keeps) | split | dsimp only

theorem laserMode_keeps {base : State} {mode p j : Nat} {s : State} (hk : Keeps ask base s) :
    Keeps ask base (laserMode mode p j s) := by
  unfold laserMode
  dsimp only
  repeat' first | (with_reducible first | assumption | apply setLaser_keeps | apply Keeps.ite | intro _ | exact rfl) | split
                | dsimp only

theorem setBias_keeps {base : State} {p j bias : Nat} {s : State} (hk : Keeps ask base s) :
    Keeps ask base (setBias p j bias s) := by
  unfold setBias
  dsimp only
  repeat' first | (with_reducible first | assumption | apply setLaser_keeps) | split | dsimp only

theorem laserOutput_keeps {base : State} {p j output : Nat} {s : State} (hk : Keeps ask base s) :
    Keeps ask base (laserOutput p j output s) := by
  unfold laserOutput
  repeat' first | (with_reducible first | assumption | apply setLaser_keeps) | split | dsimp only

theorem lightsOff_keeps {base : State} {mode p : Nat} {s : State} (hk : Keeps ask base s) :
    Keeps ask base (lightsOff mode p s) := by
  unfold lightsOff
  repeat' first | (with_reducible first | assumption | apply laserMode_keeps | apply Keeps.foldl | apply Keeps.foldl_snd
                                        | intro _ | exact rfl) | split | dsimp only

theorem shutdown_keeps {base : State} {p cause : Nat} {s : State} (hk : Keeps ask base s) :
    Keeps ask base (shutdown p cause s) := by
  unfold shutdown
  dsimp only
  repeat' first | (with_reducible first | assumption | apply lightsOff_keeps | apply emcy_keeps | apply State.modPort_keeps
                                        | apply odInc_keeps | apply Keeps.ite | intro _ | exact rfl) | split
                | with_reducible apply Keeps.upd | dsimp only | assumption

theorem fecDown_keeps {base : State} {p : Nat} {s : State} (hk : Keeps ask base s) :
    Keeps ask base (fecDown p s) := by
  unfold fecDown
  dsimp only
  repeat' first | (with_reducible first | assumption | apply laserMode_keeps | apply linkDownAs_keeps
                                        | apply State.modPort_keeps | apply Keeps.foldl | apply Keeps.foldl_snd | intro _
                                        | exact rfl) | split | with_reducible apply Keeps.upd | dsimp only | assumption

theorem execFecLinkDown_keeps {p : Nat} {s : State} : OutKeeps ask s (execFecLinkDown p s) := by
  unfold execFecLinkDown
  repeat' first | (with_reducible first | assumption | apply OutKeeps.next | apply fecDown_keeps | apply Keeps.ite | intro _
                                        | exact rfl | exact Keeps.refl) | split | dsimp only

theorem judgeLoss_keeps {base : State} {p : Nat} {s : State} (hk : Keeps ask base s) :
    Keeps ask base (judgeLoss p s) := by
  unfold judgeLoss
  dsimp only
  repeat' first | (with_reducible first | assumption | apply emcy_keeps | apply State.modPort_keeps | apply Keeps.ite
                                        | intro _ | exact rfl) | split | with_reducible apply Keeps.upd | dsimp only
                | assumption

theorem secondDark_keeps {base : State} {p lane : Nat} {s : State} (hk : Keeps ask base s) :
    Keeps ask base (secondDark p lane s) := by
  unfold secondDark
  dsimp only
  repeat' first | (with_reducible first | assumption | apply fecDown_keeps | apply Keeps.ite | intro _ | exact rfl) | split
                | dsimp only

theorem darken_keeps {base : State} {p lane : Nat} {s : State} (hk : Keeps ask base s) :
    Keeps ask base (darken p lane s) := by
  unfold darken
  repeat' first | (with_reducible first | assumption | apply secondDark_keeps | apply State.modPort_keeps | intro _
                                        | exact rfl) | split | with_reducible apply Keeps.upd | dsimp only | assumption

theorem unlock_keeps {base : State} {p lane : Nat} {s : State} (hk : Keeps ask base s) :
    Keeps ask base (unlock p lane s) := by
  unfold unlock
  repeat' first | (with_reducible first | assumption | apply secondDark_keeps | apply State.modPort_keeps | intro _
                                        | exact rfl) | split | with_reducible apply Keeps.upd | dsimp only | assumption

theorem lighten_keeps {base : State} {p lane : Nat} {ring : Bool} {s : State} (hk : Keeps ask base s) :
    Keeps ask base (lighten p lane ring s) := by
  unfold lighten
  dsimp only
  repeat' first | (with_reducible first | assumption | apply State.modPort_keeps | apply Keeps.ite | intro _ | exact rfl)
                | split | with_reducible apply Keeps.upd | dsimp only | assumption

theorem takeReadings_keeps {base : State} {p : Nat} {own : List (Nat × Int)} {s : State} (hk : Keeps ask base s) :
    Keeps ask base (takeReadings p own s) := by
  unfold takeReadings
  dsimp only
  repeat' first | (with_reducible first | assumption | apply lighten_keeps | apply darken_keeps | apply setBias_keeps
                                        | apply State.modPort_keeps | apply Keeps.ite | apply Keeps.foldl
                                        | apply Keeps.foldl_snd | intro _ | exact rfl) | split
                | with_reducible apply Keeps.upd | dsimp only | assumption

theorem measure_keeps {base : State} {p : Nat} {own : List (Nat × Int)} {s : State} (hk : Keeps ask base s) :
    Keeps ask base (measure p own s) := by
  unfold measure
  repeat' first | (with_reducible first | assumption | apply takeReadings_keeps | apply judgeLoss_keeps) | split
                | dsimp only

theorem execLosDeclared_keeps {x : PortLook} {s0 : State} : OutKeeps ask s0 (execLosDeclared x s0) := by
  unfold execLosDeclared
  dsimp only
  repeat' first | (with_reducible first | assumption | apply OutKeeps.next | apply measure_keeps | apply shutdown_keeps
                                        | apply linkDownAs_keeps | apply Keeps.ite | intro _ | exact rfl | exact Keeps.refl)
                | split | dsimp only

theorem startProbe_keeps {base : State} {p : Nat} {s : State} (hk : Keeps ask base s) :
    Keeps ask base (startProbe p s) := by
  unfold startProbe
  repeat' first | (with_reducible first | assumption | apply State.modPort_keeps | intro _ | exact rfl) | split
                | with_reducible apply Keeps.upd | dsimp only | assumption

theorem execProbeTimer_keeps {x : PortLook} {s0 : State} : OutKeeps ask s0 (execProbeTimer x s0) := by
  unfold execProbeTimer
  dsimp only
  repeat' first | (with_reducible first | assumption | apply OutKeeps.next | apply startProbe_keeps | apply measure_keeps
                                        | apply Keeps.ite | intro _ | exact rfl | exact Keeps.refl) | split | dsimp only

theorem startBringup_keeps {base : State} {n p : Nat} {s : State} (hk : Keeps ask base s) :
    Keeps ask base (startBringup n p s) := by
  unfold startBringup
  repeat' first | (with_reducible first | assumption | apply laserMode_keeps | apply State.modPort_keeps | apply Keeps.foldl
                                        | apply Keeps.foldl_snd | intro _ | exact rfl) | split
                | with_reducible apply Keeps.upd | dsimp only | assumption

theorem execLightDetected_keeps {x : PortLook} {s0 : State} : OutKeeps ask s0 (execLightDetected x s0) := by
  unfold execLightDetected
  dsimp only
  repeat' first | (with_reducible first | assumption | apply OutKeeps.next | apply startBringup_keeps
                                        | apply startProbe_keeps | apply measure_keeps | apply emcy_keeps | apply Keeps.ite
                                        | intro _ | exact rfl | exact Keeps.refl) | split | dsimp only

theorem becomeMismatch_keeps {base : State} {p : Nat} {s : State} (hk : Keeps ask base s) :
    Keeps ask base (becomeMismatch p s) := by
  unfold becomeMismatch
  repeat' first | (with_reducible first | assumption | apply roleEvent_keeps | apply setRole_keeps) | split | dsimp only

theorem settlePeer_keeps {base : State} {p : Nat} {s : State} (hk : Keeps ask base s) :
    Keeps ask base (settlePeer p s) := by
  unfold settlePeer
  dsimp only
  repeat' first | (with_reducible first | assumption | apply becomeMismatch_keeps | apply linkUp_keeps
                                        | apply linkDownAs_keeps | apply State.modPort_keeps | apply Keeps.ite | intro _
                                        | exact rfl) | split | with_reducible apply Keeps.upd | dsimp only | assumption

theorem reportPort_keeps {base : State} {p : Nat} {s : State} (hk : Keeps ask base s) :
    Keeps ask base (reportPort p s) := by
  unfold reportPort
  dsimp only
  repeat' first | (with_reducible first | assumption | apply settlePeer_keeps | apply reportDelay_keeps
                                        | apply roleLate_keeps | apply State.modPort_keeps | apply Keeps.ite | intro _
                                        | exact rfl) | split | with_reducible apply Keeps.upd | dsimp only | assumption

theorem setLoopBit_keeps {base : State} {p : Nat} {on : Bool} {s : State} (hk : Keeps ask base s) :
    Keeps ask base (setLoopBit p on s) := by
  unfold setLoopBit
  dsimp only
  repeat' first | (with_reducible first | assumption | apply setDieWord_keeps) | split | dsimp only

theorem setLoopback_keeps {base : State} {p : Nat} {on : Bool} {s : State} (hk : Keeps ask base s) :
    Keeps ask base (setLoopback p on s) := by
  unfold setLoopback
  dsimp only
  repeat' first | (with_reducible first | assumption | apply setLoopBit_keeps | apply startBringup_keeps
                                        | apply lightsOff_keeps | apply laserMode_keeps | apply linkDownAs_keeps
                                        | apply State.modPort_keeps | apply Keeps.ite | apply Keeps.foldl
                                        | apply Keeps.foldl_snd | intro _ | exact rfl) | split
                | with_reducible apply Keeps.upd | dsimp only | assumption

theorem clearLoopbacks_keeps {base : State} {s : State} (hk : Keeps ask base s) :
    Keeps ask base (clearLoopbacks s) := by
  unfold clearLoopbacks
  repeat' first | (with_reducible first | assumption | apply setLoopback_keeps | apply Keeps.foldl | apply Keeps.foldl_snd
                                        | intro _ | exact rfl) | split | dsimp only

theorem loopStep_keeps {base : State} {p : Nat} {ok : Bool} {s : State} (hk : Keeps ask base s) :
    Keeps ask base (loopStep p ok s) := by
  unfold loopStep
  dsimp only
  repeat' first | (with_reducible first | assumption | apply nextFreeWord_keeps | apply State.modPort_keeps
                                        | apply Keeps.ite | intro _ | exact rfl) | split | with_reducible apply Keeps.upd
                | dsimp only | assumption

theorem execLinkBringupStepDone_keeps {x : PortLook} {ok : Bool} {s0 : State} : OutKeeps ask s0 (execLinkBringupStepDone x ok s0) := by
  unfold execLinkBringupStepDone
  dsimp only
  repeat' first | (with_reducible first | assumption | apply OutKeeps.next | apply loopStep_keeps | apply reportPort_keeps
                                        | apply measure_keeps | apply lightsOff_keeps | apply State.modPort_keeps
                                        | apply Keeps.ite | intro _ | exact rfl | exact Keeps.refl) | split
                | with_reducible apply Keeps.upd | dsimp only | assumption

theorem cwSend_keeps {base : State} {p type : Nat} {body : List Nat} {s : State} (hk : Keeps ask base s) :
    Keeps ask base (cwSend p type body s) := by
  unfold cwSend
  repeat' first | (with_reducible first | assumption | apply State.modPort_keeps | intro _ | exact rfl) | split
                | with_reducible apply Keeps.upd | dsimp only | assumption

theorem cwCommon_keeps {base : State} {p : Nat} {w : CwHead} {s : State} (hk : Keeps ask base s) :
    Keeps ask base (cwCommon p w s) := by
  unfold cwCommon
  dsimp only
  repeat' first | (with_reducible first | assumption | apply linkDownAs_keeps | apply drainPort_keeps
                                        | apply State.modPort_keeps | apply Keeps.ite | intro _ | exact rfl) | split
                | with_reducible apply Keeps.upd | dsimp only | assumption

theorem takeFrame_keeps {base : State} {p : Nat} {errs : List (Nat × Nat × Nat)} {s : State} (hk : Keeps ask base s) :
    Keeps ask base (takeFrame p errs s) := by
  unfold takeFrame
  dsimp only
  repeat' first | (with_reducible first | assumption | apply State.modPort_keeps | apply Keeps.ite | apply Keeps.foldl
                                        | apply Keeps.foldl_snd | intro _ | exact rfl) | (rw [List.length_map]; assumption)
                | split | with_reducible apply Keeps.upd | dsimp only | assumption

theorem wordTaken_keeps {base : State} {p : Nat} {w : CwHead} {s : State} {f : State → State} (hk : Keeps ask base s) (hkf : ∀ t, Keeps ask base t → Keeps ask base (f t)) :
    Keeps ask base (wordTaken p w s f) := by
  unfold wordTaken
  dsimp only
  repeat' first | (with_reducible first | assumption | apply hkf | apply takeFrame_keeps | apply cwCommon_keeps
                                        | apply Keeps.ite | intro _ | exact rfl) | split | dsimp only

theorem onWord_keeps {p : Nat} {w : CwHead} {s : State} {f : State → State} (hkf : ∀ t, Keeps ask s t → Keeps ask s (f t)) : OutKeeps ask s (onWord p w s f) := by
  unfold onWord
  repeat' first | (with_reducible first | assumption | apply OutKeeps.next | apply hkf | apply wordTaken_keeps
                                        | exact Keeps.refl) | split | dsimp only

theorem execNullWord_keeps {p : Nat} {cw : CwHead} {s : State} : OutKeeps ask s (execNullWord p cw s) := by
  unfold execNullWord
  repeat' first | (with_reducible first | assumption | apply OutKeeps.next | apply onWord_keeps | apply settlePeer_keeps
                                        | intro _ | exact rfl | exact Keeps.refl) | split | dsimp only

theorem execCredit_keeps {p : Nat} {cw : CwHead} {cls level total : Nat} {s : State} : OutKeeps ask s (execCredit p cw cls level total s) := by
  unfold execCredit
  dsimp only
  repeat' first | (with_reducible first | assumption | apply OutKeeps.next | apply onWord_keeps | apply drainPort_keeps
                                        | apply State.modPort_keeps | apply Keeps.ite | intro _ | exact rfl
                                        | exact Keeps.refl) | split | with_reducible apply Keeps.upd | dsimp only
                | assumption

theorem execIdent0_keeps {p : Nat} {cw : CwHead} {domain coord : Nat} {ack : Bool} {s : State} : OutKeeps ask s (execIdent0 p cw domain coord ack s) := by
  unfold execIdent0
  repeat' first | (with_reducible first | assumption | apply OutKeeps.next | apply onWord_keeps | apply State.modPort_keeps
                                        | intro _ | exact rfl | exact Keeps.refl) | split | with_reducible apply Keeps.upd
                | dsimp only | assumption

theorem execIdent1_keeps {p : Nat} {cw : CwHead} {shape port : Nat} {s : State} : OutKeeps ask s (execIdent1 p cw shape port s) := by
  unfold execIdent1
  repeat' first | (with_reducible first | assumption | apply OutKeeps.next | apply onWord_keeps | apply settlePeer_keeps
                                        | apply State.modPort_keeps | intro _ | exact rfl | exact Keeps.refl) | split
                | with_reducible apply Keeps.upd | dsimp only | assumption

theorem execEcho_keeps {p : Nat} {cw : CwHead} {time : Nat} {reply : Bool} {turnaround now : Nat} {s : State} : OutKeeps ask s (execEcho p cw time reply turnaround now s) := by
  unfold execEcho
  dsimp only
  repeat' first | (with_reducible first | assumption | apply OutKeeps.next | apply onWord_keeps | apply cwSend_keeps
                                        | apply nextFreeWord_keeps | apply State.modPort_keeps | apply Keeps.ite | intro _
                                        | exact rfl | exact Keeps.refl) | split | with_reducible apply Keeps.upd
                | dsimp only | assumption

theorem execBadControlWord_keeps {p type : Nat} {s : State} : OutKeeps ask s (execBadControlWord p type s) := by
  unfold execBadControlWord
  repeat' first | (with_reducible first | assumption | apply OutKeeps.next | apply odInc_keeps | apply Keeps.ite | intro _
                                        | exact rfl | exact Keeps.refl) | split | dsimp only

theorem trimLane_keeps {base : State} {p lane corrected : Nat} {s : State} (hk : Keeps ask base s) :
    Keeps ask base (trimLane p lane corrected s) := by
  unfold trimLane
  dsimp only
  repeat' first | (with_reducible first | assumption | apply nextFreeWord_keeps | apply State.modPort_keeps
                                        | apply Keeps.ite | intro _ | exact rfl) | (rw [List.length_map]; assumption)
                | split | with_reducible apply Keeps.upd | dsimp only | assumption

theorem execCal_keeps {p : Nat} {cw : CwHead} {lane corrected : Nat} {power : Int} {own : List (Nat × Int)} {s : State} : OutKeeps ask s (execCal p cw lane corrected power own s) := by
  unfold execCal
  repeat' first | (with_reducible first | assumption | apply OutKeeps.next | apply trimLane_keeps | apply wordTaken_keeps
                                        | apply takeReadings_keeps | apply judgeLoss_keeps | apply State.modPort_keeps
                                        | intro _ | exact rfl | exact Keeps.refl) | split | with_reducible apply Keeps.upd
                | dsimp only | assumption

theorem execTxmon_keeps {p : Nat} {cw : CwHead} {lane stage : Nat} {reading : Int} {own : List (Nat × Int)} {s : State} : OutKeeps ask s (execTxmon p cw lane stage reading own s) := by
  unfold execTxmon
  repeat' first | (with_reducible first | assumption | apply OutKeeps.next | apply wordTaken_keeps
                                        | apply takeReadings_keeps | apply judgeLoss_keeps | apply State.modPort_keeps
                                        | intro _ | exact rfl | exact Keeps.refl) | split | with_reducible apply Keeps.upd
                | dsimp only | assumption

theorem setFade_keeps {base : State} {p lane v : Nat} {s : State} (hk : Keeps ask base s) :
    Keeps ask base (setFade p lane v s) := by
  unfold setFade
  repeat' first | (with_reducible first | assumption | apply State.modPort_keeps | intro _ | exact rfl)
                | (rw [List.length_set]; assumption) | split | with_reducible apply Keeps.upd | dsimp only | assumption

theorem setShake_keeps {base : State} {p : Nat} {k : Option Shake} {s : State} (hk : Keeps ask base s) :
    Keeps ask base (setShake p k s) := by
  unfold setShake
  repeat' first | (with_reducible first | assumption | apply State.modPort_keeps | intro _ | exact rfl) | split
                | with_reducible apply Keeps.upd | dsimp only | assumption

theorem setRxShake_keeps {base : State} {p : Nat} {k : Option Shake} {s : State} (hk : Keeps ask base s) :
    Keeps ask base (setRxShake p k s) := by
  unfold setRxShake
  repeat' first | (with_reducible first | assumption | apply State.modPort_keeps | intro _ | exact rfl) | split
                | with_reducible apply Keeps.upd | dsimp only | assumption

theorem phaseWord_keeps {base : State} {p : Nat} {k : Shake} {phase : Nat} {s : State} (hk : Keeps ask base s) :
    Keeps ask base (phaseWord p k phase s) := by
  unfold phaseWord
  repeat' first | (with_reducible first | assumption | apply cwSend_keeps | apply Keeps.ite | intro _ | exact rfl) | split
                | dsimp only

theorem commit_keeps {base : State} {p : Nat} {k : Shake} {s : State} (hk : Keeps ask base s) :
    Keeps ask base (commit p k s) := by
  unfold commit
  repeat' first | (with_reducible first | assumption | apply phaseWord_keeps | apply setShake_keeps
                                        | apply State.modPort_keeps | intro _ | exact rfl) | split
                | with_reducible apply Keeps.upd | dsimp only | assumption

theorem dropLane_keeps {base : State} {p lane why : Nat} {transmitter : Bool} {s : State} (hk : Keeps ask base s) :
    Keeps ask base (dropLane p lane why transmitter s) := by
  unfold dropLane
  dsimp only
  repeat' first | (with_reducible first | assumption | apply phaseWord_keeps | apply setRxShake_keeps | apply setShake_keeps
                                        | apply setFade_keeps | apply fecDown_keeps | apply State.modPort_keeps
                                        | apply Keeps.ite | intro _ | exact rfl) | split | with_reducible apply Keeps.upd
                | dsimp only | assumption

theorem nextShake_keeps {base : State} {p : Nat} {s : State} (hk : Keeps ask base s) :
    Keeps ask base (nextShake p s) := by
  unfold nextShake
  dsimp only
  repeat' first | (with_reducible first | assumption | apply dropLane_keeps | apply phaseWord_keeps | apply setShake_keeps
                                        | apply State.modPort_keeps | apply Keeps.ite | intro _ | exact rfl) | split
                | with_reducible apply Keeps.upd | dsimp only | assumption

theorem warmSpare_keeps {base : State} {p lane noSpare : Nat} {s : State} (hk : Keeps ask base s) :
    Keeps ask base (warmSpare p lane noSpare s) := by
  unfold warmSpare
  dsimp only
  repeat' first | (with_reducible first | assumption | apply dropLane_keeps | apply setFade_keeps | apply laserMode_keeps
                                        | apply State.modPort_keeps | apply Keeps.ite | intro _ | exact rfl) | split
                | with_reducible apply Keeps.upd | dsimp only | assumption

theorem execFadeWarn_keeps {p laser output : Nat} {s : State} : OutKeeps ask s (execFadeWarn p laser output s) := by
  unfold execFadeWarn
  dsimp only
  repeat' first | (with_reducible first | assumption | apply OutKeeps.next | apply setFade_keeps | apply laserOutput_keeps
                                        | apply emcy_keeps | apply Keeps.ite | intro _ | exact rfl | exact Keeps.refl)
                | split | dsimp only

theorem execFadeAct_keeps {p laser output : Nat} {s : State} : OutKeeps ask s (execFadeAct p laser output s) := by
  unfold execFadeAct
  dsimp only
  repeat' first | (with_reducible first | assumption | apply OutKeeps.next | apply warmSpare_keeps | apply dropLane_keeps
                                        | apply laserOutput_keeps | apply Keeps.ite | intro _ | exact rfl
                                        | exact Keeps.refl) | split | with_reducible apply Keeps.upd | dsimp only
                | assumption

theorem execFadeRecover_keeps {p laser : Nat} {s : State} : OutKeeps ask s (execFadeRecover p laser s) := by
  unfold execFadeRecover
  repeat' first | (with_reducible first | assumption | apply OutKeeps.next | apply setFade_keeps | apply Keeps.ite | intro _
                                        | exact rfl | exact Keeps.refl) | split | dsimp only

theorem execSpareLocked_keeps {p spare : Nat} {s : State} : OutKeeps ask s (execSpareLocked p spare s) := by
  unfold execSpareLocked
  repeat' first | (with_reducible first | assumption | apply OutKeeps.next | apply nextShake_keeps | apply setFade_keeps
                                        | apply Keeps.ite | intro _ | exact rfl | exact Keeps.refl) | split
                | with_reducible apply Keeps.upd | dsimp only | assumption

theorem execSpareLockTimeout_keeps {p spare : Nat} {s : State} : OutKeeps ask s (execSpareLockTimeout p spare s) := by
  unfold execSpareLockTimeout
  repeat' first | (with_reducible first | assumption | apply OutKeeps.next | apply dropLane_keeps | apply laserMode_keeps
                                        | apply State.modPort_keeps | apply Keeps.ite | intro _ | exact rfl
                                        | exact Keeps.refl) | split | with_reducible apply Keeps.upd | dsimp only
                | assumption

theorem repeatShake_keeps {base : State} {p : Nat} {k : Option Shake} {s : State} (hk : Keeps ask base s) :
    Keeps ask base (repeatShake p k s) := by
  unfold repeatShake
  repeat' first | (with_reducible first | assumption | apply phaseWord_keeps | apply Keeps.ite | intro _ | exact rfl)
                | split | with_reducible apply Keeps.upd | dsimp only | assumption

theorem execSwapProposeRetry_keeps {p : Nat} {s : State} : OutKeeps ask s (execSwapProposeRetry p s) := by
  unfold execSwapProposeRetry
  dsimp only
  repeat' first | (with_reducible first | assumption | apply OutKeeps.next | apply repeatShake_keeps | apply nextShake_keeps
                                        | apply Keeps.ite | intro _ | exact rfl | exact Keeps.refl) | split | dsimp only

theorem acceptShake_keeps {base : State} {p : Nat} {k : Shake} {s : State} (hk : Keeps ask base s) :
    Keeps ask base (acceptShake p k s) := by
  unfold acceptShake
  repeat' first | (with_reducible first | assumption | apply phaseWord_keeps | apply setRxShake_keeps | apply Keeps.ite
                                        | intro _ | exact rfl) | split | with_reducible apply Keeps.upd | dsimp only
                | assumption

theorem dropSpare_keeps {base : State} {p : Nat} {k : Shake} {s : State} (hk : Keeps ask base s) :
    Keeps ask base (dropSpare p k s) := by
  unfold dropSpare
  repeat' first | (with_reducible first | assumption | apply setShake_keeps | apply setFade_keeps | apply laserMode_keeps
                                        | apply State.modPort_keeps | intro _ | exact rfl) | split
                | with_reducible apply Keeps.upd | dsimp only | assumption

theorem execSwap_keeps {p : Nat} {cw : CwHead} {lane spare phase : Nat} {s : State} : OutKeeps ask s (execSwap p cw lane spare phase s) := by
  unfold execSwap
  dsimp only
  repeat' first | (with_reducible first | assumption | apply OutKeeps.next | apply dropSpare_keeps | apply acceptShake_keeps
                                        | apply commit_keeps | apply setRxShake_keeps | apply onWord_keeps | apply Keeps.ite
                                        | intro _ | exact rfl | exact Keeps.refl) | split | with_reducible apply Keeps.upd
                | dsimp only | assumption

theorem dropProposed_keeps {base : State} {p lane : Nat} {s0 : State} (hk : Keeps ask base s0) :
    Keeps ask base (dropProposed p lane s0) := by
  unfold dropProposed
  dsimp only
  repeat' first | (with_reducible first | assumption | apply acceptShake_keeps | apply commit_keeps | apply setFade_keeps
                                        | apply fecDown_keeps | apply nextFreeWord_keeps | apply Keeps.ite | intro _
                                        | exact rfl) | (with_reducible refine Keeps.of_snd ‹_› ?_) | split
                | with_reducible apply Keeps.upd | dsimp only | assumption

theorem execDropWord_keeps {p : Nat} {cw : CwHead} {lane phase : Nat} {s : State} : OutKeeps ask s (execDropWord p cw lane phase s) := by
  unfold execDropWord
  dsimp only
  repeat' first | (with_reducible first | assumption | apply OutKeeps.next | apply dropProposed_keeps | apply commit_keeps
                                        | apply setRxShake_keeps | apply setShake_keeps | apply onWord_keeps
                                        | apply Keeps.ite | intro _ | exact rfl | exact Keeps.refl) | split
                | with_reducible apply Keeps.upd | dsimp only | assumption

theorem degradePort_keeps {base : State} {p : Nat} {s : State} (hk : Keeps ask base s) :
    Keeps ask base (degradePort p s) := by
  unfold degradePort
  repeat' first | (with_reducible first | assumption | apply State.modPort_keeps | apply Keeps.ite | intro _ | exact rfl)
                | split | with_reducible apply Keeps.upd | dsimp only | assumption

theorem dropEvent_keeps {base : State} {p lane why : Nat} {s : State} (hk : Keeps ask base s) :
    Keeps ask base (dropEvent p lane why s) := by
  unfold dropEvent
  repeat' first | (with_reducible first | assumption | apply emcy_keeps | apply odInc_keeps) | split | dsimp only

theorem switchTx_keeps {base : State} {p : Nat} {k : Shake} {s : State} (hk : Keeps ask base s) :
    Keeps ask base (switchTx p k s) := by
  unfold switchTx
  dsimp only
  repeat' first | (with_reducible first | assumption | apply dropEvent_keeps | apply degradePort_keeps
                                        | apply setShake_keeps | apply setFade_keeps | apply laserMode_keeps
                                        | apply recordRepair_keeps | apply emcy_keeps | apply State.modPort_keeps
                                        | apply odInc_keeps | apply Keeps.ite | intro _ | exact rfl) | split
                | with_reducible apply Keeps.upd | dsimp only | assumption

theorem switchRx_keeps {base : State} {p : Nat} {k : Shake} {s : State} (hk : Keeps ask base s) :
    Keeps ask base (switchRx p k s) := by
  unfold switchRx
  dsimp only
  repeat' first | (with_reducible first | assumption | apply dropEvent_keeps | apply degradePort_keeps
                                        | apply setRxShake_keeps | apply State.modPort_keeps | apply Keeps.ite | intro _
                                        | exact rfl) | split | with_reducible apply Keeps.upd | dsimp only | assumption

theorem execSwapSwitchover_keeps {x : PortSide} {s : State} : OutKeeps ask s (execSwapSwitchover x s) := by
  unfold execSwapSwitchover
  repeat' first | (with_reducible first | assumption | apply OutKeeps.next | apply switchRx_keeps | apply switchTx_keeps
                                        | apply nextShake_keeps | apply Keeps.ite | intro _ | exact rfl | exact Keeps.refl)
                | split | with_reducible apply Keeps.upd | dsimp only | assumption

theorem execRingLockLost_keeps {p : Nat} {receive : Bool} {lane : Nat} {s : State} : OutKeeps ask s (execRingLockLost p receive lane s) := by
  unfold execRingLockLost
  dsimp only
  repeat' first | (with_reducible first | assumption | apply OutKeeps.next | apply unlock_keeps | apply emcy_keeps
                                        | apply odInc_keeps | apply Keeps.ite | intro _ | exact rfl | exact Keeps.refl)
                | split | dsimp only

theorem execRingRelockTimeout_keeps {p : Nat} {receive : Bool} {lane : Nat} {s : State} : OutKeeps ask s (execRingRelockTimeout p receive lane s) := by
  unfold execRingRelockTimeout
  dsimp only
  repeat' first | (with_reducible first | assumption | apply OutKeeps.next | apply warmSpare_keeps | apply dropLane_keeps
                                        | apply Keeps.ite | intro _ | exact rfl | exact Keeps.refl) | split | dsimp only

end Sys2Proof.Machine
end

