-- ==== Sys2Proof/Laws/KeepsEports.lean ====
section
/-! SUPPORT. What the operations of Machine/Eports.lean keep. -/

namespace Sys2Proof.Machine

variable {ask : Asks}

theorem eDown_keeps {base : State} {n lane : Nat} {s : State} (hk : Keeps ask base s) :
    Keeps ask base (eDown n lane s) := by
  unfold eDown
  repeat' first | (with_reducible first | assumption | apply State.modEport_keeps | apply emcy_keeps | apply Keeps.ite
                                        | intro _ | exact rfl) | split | with_reducible apply Keeps.upd | dsimp only
                | assumption

theorem execEPortDown_keeps {n lane : Nat} {s : State} : OutKeeps ask s (execEPortDown n lane s) := by
  unfold execEPortDown
  repeat' first | (with_reducible first | assumption | apply OutKeeps.next | apply eDown_keeps | exact Keeps.refl) | split
                | dsimp only

theorem execEPortUp_keeps {n : Nat} {s : State} : OutKeeps ask s (execEPortUp n s) := by
  unfold execEPortUp
  repeat' first | (with_reducible first | assumption | apply OutKeeps.next | apply State.modEport_keeps | apply emcy_keeps
                                        | apply Keeps.ite | intro _ | exact rfl | exact Keeps.refl) | split
                | with_reducible apply Keeps.upd | dsimp only | assumption

theorem execELaserReplace_keeps {n lane : Nat} {s : State} : OutKeeps ask s (execELaserReplace n lane s) := by
  unfold execELaserReplace
  dsimp only
  repeat' first | (with_reducible first | assumption | apply OutKeeps.next | apply eDown_keeps | apply State.modEport_keeps
                                        | apply nextFreeWord_keeps | apply recordRepair_keeps | apply emcy_keeps | intro _
                                        | exact rfl | exact Keeps.refl) | (with_reducible refine Keeps.of_snd ‹_› ?_)
                | split | with_reducible apply Keeps.upd | dsimp only | assumption

theorem neighbourFound_keeps {base : State} {n : Nat} {a : List Byte} {s : State} (hk : Keeps ask base s) :
    Keeps ask base (neighbourFound n a s) := by
  unfold neighbourFound
  dsimp only
  repeat' first | (with_reducible first | assumption | apply datagramE_keeps | apply State.modEport_keeps | apply Keeps.ite
                                        | apply Keeps.foldl | apply Keeps.foldl_snd | intro _ | exact rfl) | split
                | with_reducible apply Keeps.upd | dsimp only | assumption

theorem takeEFrame_keeps {base : State} {n : Nat} {f : EFrame} {s : State} (hk : Keeps ask base s) :
    Keeps ask base (takeEFrame n f s) := by
  unfold takeEFrame
  dsimp only
  repeat' first | (with_reducible first | assumption | apply neighbourFound_keeps | apply frameE_keeps
                                        | apply State.modEport_keeps | apply Keeps.ite | intro _ | exact rfl) | split
                | with_reducible apply Keeps.upd | dsimp only | assumption

theorem execEFrameReceive_keeps {n : Nat} {x : EFrameIn} {s : State} : OutKeeps ask s (execEFrameReceive n x s) := by
  unfold execEFrameReceive
  dsimp only
  repeat' first | (with_reducible first | assumption | apply OutKeeps.next | apply takeEFrame_keeps
                                        | apply State.modEport_keeps | apply Keeps.ite | intro _ | exact rfl
                                        | exact Keeps.refl) | split | with_reducible apply Keeps.upd | dsimp only
                | assumption

theorem execEDatagramReceive_keeps {n : Nat} {d : Datagram} {s : State} : OutKeeps ask s (execEDatagramReceive n d s) := by
  unfold execEDatagramReceive
  dsimp only
  repeat' first | (with_reducible first | assumption | apply OutKeeps.next | apply xdomArrive_keeps
                                        | apply State.modEport_keeps | apply odInc_keeps | apply Keeps.ite | intro _
                                        | exact rfl | exact Keeps.refl) | split | with_reducible apply Keeps.upd
                | dsimp only | assumption

theorem ptpLost_keeps {base : State} {s : State} (hk : Keeps ask base s) :
    Keeps ask base (ptpLost s) := by
  unfold ptpLost
  repeat' first | (with_reducible first | assumption | apply Keeps.ite | intro _ | exact rfl) | split
                | with_reducible apply Keeps.upd | dsimp only | assumption

theorem ptpAnnounce_keeps {base : State} {n : Nat} {d : List Nat} {s : State} (hk : Keeps ask base s) :
    Keeps ask base (ptpAnnounce n d s) := by
  unfold ptpAnnounce
  dsimp only
  repeat' first | (with_reducible first | assumption | apply ptpLost_keeps | apply Keeps.ite | intro _ | exact rfl) | split
                | with_reducible apply Keeps.upd | dsimp only | assumption

theorem ptpSynced_keeps {base : State} {n : Nat} {origin : Int} {s : State} (hk : Keeps ask base s) :
    Keeps ask base (ptpSynced n origin s) := by
  unfold ptpSynced
  dsimp only
  repeat' first | (with_reducible first | assumption | apply nextFreeWord_keeps | intro _ | exact rfl) | split
                | with_reducible apply Keeps.upd | dsimp only | assumption

theorem ptpFromMaster_keeps {base : State} {n : Nat} {msg : PtpMsg} {s : State} (hk : Keeps ask base s) :
    Keeps ask base (ptpFromMaster n msg s) := by
  unfold ptpFromMaster
  dsimp only
  repeat' first | (with_reducible first | assumption | apply ptpSynced_keeps | apply ptpLost_keeps | apply Keeps.ite
                                        | intro _ | exact rfl) | split | with_reducible apply Keeps.upd | dsimp only
                | assumption

theorem execPtpMessage_keeps {n : Nat} {msg : PtpMsg} {s : State} : OutKeeps ask s (execPtpMessage n msg s) := by
  unfold execPtpMessage
  repeat' first | (with_reducible first | assumption | apply OutKeeps.next | apply ptpFromMaster_keeps
                                        | apply ptpAnnounce_keeps | apply Keeps.ite | intro _ | exact rfl
                                        | exact Keeps.refl) | split | with_reducible apply Keeps.upd | dsimp only
                | assumption

theorem execCalendarSet_keeps {time : Nat} {s : State} : OutKeeps ask s (execCalendarSet time s) := by
  unfold execCalendarSet
  repeat' first | (with_reducible first | assumption | apply OutKeeps.next | apply Keeps.ite | intro _ | exact rfl
                                        | exact Keeps.refl) | split | with_reducible apply Keeps.upd | dsimp only
                | assumption

end Sys2Proof.Machine
end

