-- ==== Sys2Proof/Laws/KeepsSuperframe.lean ====
section
/-! SUPPORT. What the operations of Machine/Superframe.lean keep. -/

namespace Sys2Proof.Machine

variable {ask : Asks}

theorem sendFrame_keeps {base : State} {p : Nat} {s : State} (hk : Keeps ask base s) :
    Keeps ask base (sendFrame p s) := by
  unfold sendFrame
  dsimp only
  repeat' first | (with_reducible first | assumption | apply drainPort_keeps | apply nextFreeWord_keeps
                                        | apply State.modPort_keeps | intro _ | exact rfl)
                | (rw [List.length_map]; assumption) | split | with_reducible apply Keeps.upd | dsimp only | assumption

theorem sendFrames_keeps {base : State} {s : State} (hk : Keeps ask base s) :
    Keeps ask base (sendFrames s) := by
  unfold sendFrames
  repeat' first | (with_reducible first | assumption | apply sendFrame_keeps | apply Keeps.foldl | apply Keeps.foldl_snd
                                        | intro _ | exact rfl) | split | dsimp only

theorem sendBeats_keeps {base : State} {s : State} (hk : Keeps ask base s) :
    Keeps ask base (sendBeats s) := by
  unfold sendBeats
  dsimp only
  repeat' first | (with_reducible first | assumption | apply cwSend_keeps | apply Keeps.foldl | apply Keeps.foldl_snd
                                        | intro _ | exact rfl) | split | with_reducible apply Keeps.upd | dsimp only
                | assumption

theorem sendBeatNow_keeps {base : State} {p n : Nat} {s : State} (hk : Keeps ask base s) : Keeps ask base (sendBeatNow p n s) := by
  induction n generalizing s with
  | zero => exact hk
  | succ n ih => exact Keeps.ite (fun _ => ih (sendFrame_keeps hk)) fun _ => hk

theorem leave_keeps {base : State} {s : State} (hk : Keeps ask base s) : Keeps ask base (leave s) :=
  Keeps.foldl (sendBeats_keeps (hk.upd rfl (fun _ h => h) (fun _ h => h) id id id id)) fun _ _ h => sendBeatNow_keeps h

theorem noteCapDelays_keeps {base : State} {s : State} (hk : Keeps ask base s) :
    Keeps ask base (noteCapDelays s) := by
  unfold noteCapDelays
  repeat' first | (with_reducible first | assumption | apply odInc_keeps | apply Keeps.ite | apply Keeps.foldl
                                        | apply Keeps.foldl_snd | intro _ | exact rfl) | split | dsimp only

theorem tick_keeps {base : State} {s : State} (hk : Keeps ask base s) :
    Keeps ask base (tick s) := by
  unfold tick
  repeat' first | (with_reducible first | assumption | apply noteCapDelays_keeps | apply sendFrames_keeps
                                        | apply emcyDrain_keeps | intro _ | exact rfl) | (rw [List.length_map]; assumption)
                | split | with_reducible apply Keeps.upd | dsimp only | assumption

end Sys2Proof.Machine
end

