-- ==== Sys2Proof/Laws/KeepsPlanes.lean ====
section
/-! SUPPORT. What the operations of Machine/Planes.lean keep. -/

namespace Sys2Proof.Machine

variable {ask : Asks}

theorem odKeep_keeps {base : State} {p : Life → Bool} {s : State} (hk : Keeps ask base s) :
    Keeps ask base (odKeep p s) := by
  unfold odKeep
  repeat' first | (with_reducible first | assumption | intro _ | exact rfl) | split | with_reducible apply Keeps.upd
                | dsimp only | assumption

theorem loadStored_keeps {base : State} {s : State} (hk : Keeps ask base s) :
    Keeps ask base (loadStored s) := by
  unfold loadStored
  dsimp only
  repeat' first | (with_reducible first | assumption | apply Keeps.foldl | apply Keeps.foldl_snd | intro _ | exact rfl)
                | split | with_reducible apply Keeps.upd | dsimp only | assumption

theorem forceSafeOp_keeps {base : State} {code : Nat} {s : State} (hk : Keeps ask base s) :
    Keeps ask base (forceSafeOp code s) := by
  unfold forceSafeOp
  repeat' first | (with_reducible first | assumption | apply emcy_keeps | apply Keeps.ite | intro _ | exact rfl) | split
                | with_reducible apply Keeps.upd | dsimp only | assumption

/-- Dropping the near slices and the core stores keeps the canonical form. -/
theorem cutCompute_keeps {base : State} {s : State} (hk : Keeps ask base s) : Keeps ask base (cutCompute s) :=
  hk.trans ⟨rfl, Nat.le_refl _, fun _ => rfl, fun _ h => h, fun _ h => h, fun h => by
    simp only [Memory.wf] at h
    simp only [Memory.wf, cutCompute]
    refine memWf_congr (memWf_filter h) fun e he => blankByte_filter fun x _ hp => ?_
    have ha : e.1 < nearBase := by simpa using (List.mem_filter.1 he).2
    simp only [decide_eq_false_iff_not] at hp
    omega, id, id, id, id⟩

/-- Dropping what HBM holds keeps the canonical form. -/
theorem cutHbm_keeps {base : State} {s : State} (hk : Keeps ask base s) : Keeps ask base (cutHbm s) :=
  hk.trans ⟨rfl, Nat.le_refl _, fun _ => rfl, fun _ h => h, fun _ h => h, fun h => by
    simp only [Memory.wf] at h
    simp only [Memory.wf, cutHbm]
    refine memWf_congr (memWf_filter h) fun e he => blankByte_filter fun x _ hp => ?_
    have ha : hbmTop ≤ e.1 := by simpa using (List.mem_filter.1 he).2
    simp only [decide_eq_false_iff_not] at hp
    omega, id, id, id, id⟩

theorem stopCompute_keeps {base : State} {s : State} (hk : Keeps ask base s) :
    Keeps ask base (stopCompute s) := by
  unfold stopCompute
  dsimp only
  repeat' first | (with_reducible first | assumption | apply cutCompute_keeps | apply failLaunches_keeps
                                        | apply endCores_keeps | intro _ | exact rfl) | exact List.length_replicate | split
                | with_reducible apply Keeps.upd | dsimp only | assumption

theorem dropNearWindows_keeps {base : State} {s : State} (hk : Keeps ask base s) :
    Keeps ask base (dropNearWindows s) := by
  unfold dropNearWindows
  repeat' first | (with_reducible first | assumption | apply Keeps.ite | intro _ | exact rfl)
                | (rw [List.length_map]; assumption) | split | with_reducible apply Keeps.upd | dsimp only | assumption

theorem dropFabric_keeps {base : State} {s : State} (hk : Keeps ask base s) :
    Keeps ask base (dropFabric s) := by
  unfold dropFabric
  repeat' first | (with_reducible first | assumption | intro _ | exact rfl) | (rw [List.length_map]; assumption) | split
                | with_reducible apply Keeps.upd | dsimp only | assumption

theorem reformGroups_keeps {base : State} {s : State} (hk : Keeps ask base s) :
    Keeps ask base (reformGroups s) := by
  unfold reformGroups
  repeat' first | (with_reducible first | assumption | apply endOp_keeps | apply groupReform_keeps | apply Keeps.ite
                                        | apply Keeps.foldl | apply Keeps.foldl_snd | intro _ | exact rfl) | split
                | dsimp only

theorem stopForwarding_keeps {base : State} {st : Nat} {loud : Bool} {s : State} (hk : Keeps ask base s) :
    Keeps ask base (stopForwarding st loud s) := by
  unfold stopForwarding
  dsimp only
  repeat' first | (with_reducible first | assumption | apply reformGroups_keeps | apply dropFabric_keeps
                                        | apply linkDownAs_keeps | apply State.modPort_keeps | apply Keeps.ite
                                        | apply Keeps.foldl | apply Keeps.foldl_snd | intro _ | exact rfl) | split
                | with_reducible apply Keeps.upd | dsimp only | assumption

theorem quietPort_keeps {base : State} {mode p : Nat} {s : State} (hk : Keeps ask base s) :
    Keeps ask base (quietPort mode p s) := by
  unfold quietPort
  repeat' first | (with_reducible first | assumption | apply lightsOff_keeps | apply State.modPort_keeps | intro _
                                        | exact rfl) | split | with_reducible apply Keeps.upd | dsimp only | assumption

theorem darkPorts_keeps {base : State} {ps : List Nat} {s : State} (hk : Keeps ask base s) :
    Keeps ask base (darkPorts ps s) := by
  unfold darkPorts
  repeat' first | (with_reducible first | assumption | apply quietPort_keeps | apply linkDownAs_keeps | apply Keeps.ite
                                        | apply Keeps.foldl | apply Keeps.foldl_snd | intro _ | exact rfl) | split
                | dsimp only

theorem darkEports_keeps {base : State} {ns : List Nat} {s : State} (hk : Keeps ask base s) :
    Keeps ask base (darkEports ns s) := by
  unfold darkEports
  repeat' first | (with_reducible first | assumption | apply eDown_keeps | apply Keeps.foldl | apply Keeps.foldl_snd
                                        | intro _ | exact rfl) | split | dsimp only

theorem clearGroups_keeps {base : State} {s : State} (hk : Keeps ask base s) :
    Keeps ask base (clearGroups s) := by
  unfold clearGroups
  repeat' first | (with_reducible first | assumption | intro _ | exact rfl) | exact List.length_replicate | split
                | with_reducible apply Keeps.upd | dsimp only | assumption

theorem clearJob_keeps {base : State} {s : State} (hk : Keeps ask base s) :
    Keeps ask base (clearJob s) := by
  unfold clearJob
  dsimp only
  repeat' first | (with_reducible first | assumption | apply clearGroups_keeps | apply odKeep_keeps | intro _ | exact rfl)
                | exact List.length_replicate | split | with_reducible apply Keeps.upd | dsimp only | assumption

theorem restartMd_keeps {base : State} {s : State} (hk : Keeps ask base s) :
    Keeps ask base (restartMd s) := by
  unfold restartMd
  repeat' first | (with_reducible first | assumption | intro _ | exact rfl) | exact List.length_replicate | split
                | with_reducible apply Keeps.upd | dsimp only | assumption

theorem restartXds_keeps {base : State} {keep : Bool} {s : State} (hk : Keeps ask base s) :
    Keeps ask base (restartXds keep s) := by
  unfold restartXds
  dsimp only
  repeat' first | (with_reducible first | assumption | apply Keeps.ite | intro _ | exact rfl)
                | (rw [List.length_map]; assumption) | (rw [List.length_map, List.length_zipIdx]; assumption) | split
                | with_reducible apply Keeps.upd | dsimp only | assumption

theorem readStraps_keeps {base : State} {straps : List Nat} {s : State} (hk : Keeps ask base s) :
    Keeps ask base (readStraps straps s) := by
  unfold readStraps
  dsimp only
  repeat' first | (with_reducible first | assumption | apply Keeps.ite | intro _ | exact rfl)
                | (rw [List.length_map]; assumption) | (rw [List.length_map, List.length_zipIdx]; assumption) | split
                | with_reducible apply Keeps.upd | dsimp only | assumption

theorem unreadStraps_keeps {base : State} {ds : List Nat} {s : State} (hk : Keeps ask base s) :
    Keeps ask base (unreadStraps ds s) := by
  unfold unreadStraps
  repeat' first | (with_reducible first | assumption | apply Keeps.ite | intro _ | exact rfl)
                | (rw [List.length_map]; assumption) | (rw [List.length_map, List.length_zipIdx]; assumption) | split
                | with_reducible apply Keeps.upd | dsimp only | assumption

theorem startProbes_keeps {base : State} {s : State} (hk : Keeps ask base s) :
    Keeps ask base (startProbes s) := by
  unfold startProbes
  repeat' first | (with_reducible first | assumption | apply startProbe_keeps | apply Keeps.ite | apply Keeps.foldl
                                        | apply Keeps.foldl_snd | intro _ | exact rfl) | split | dsimp only

theorem trainHbm_keeps {base : State} {failed : List Nat} {s : State} (hk : Keeps ask base s) :
    Keeps ask base (trainHbm failed s) := by
  unfold trainHbm
  dsimp only
  repeat' first | (with_reducible first | assumption | apply Keeps.ite | intro _ | exact rfl)
                | (rw [List.length_map]; assumption) | split | with_reducible apply Keeps.upd | dsimp only | assumption

theorem startNear_keeps {base : State} {s : State} (hk : Keeps ask base s) :
    Keeps ask base (startNear s) := by
  unfold startNear
  repeat' first | (with_reducible first | assumption | apply cutCompute_keeps | apply Keeps.ite | intro _ | exact rfl)
                | exact List.length_replicate | split | with_reducible apply Keeps.upd | dsimp only | assumption

theorem recordFound_keeps {base : State} {src i : Nat} {f : SiteResult} {s : State} (hk : Keeps ask base s) :
    Keeps ask base (recordFound src i f s) := by
  unfold recordFound
  dsimp only
  repeat' first | (with_reducible first | assumption | apply recordRepair_keeps | apply Keeps.foldl | apply Keeps.foldl_snd
                                        | intro _ | exact rfl) | split | dsimp only

theorem testSite_keeps {base : State} {found : List (Nat × SiteResult)} {i : Nat} {s : State} (hk : Keeps ask base s) :
    Keeps ask base (testSite found i s) := by
  unfold testSite
  dsimp only
  repeat' first | (with_reducible first | assumption | apply recordFound_keeps | apply recordSite_keeps
                                        | apply modSite_keeps | apply Keeps.ite | intro _ | exact rfl) | split
                | with_reducible apply Keeps.upd | dsimp only | assumption

theorem retrainChannels_keeps {base : State} {s : State} (hk : Keeps ask base s) :
    Keeps ask base (retrainChannels s) := by
  unfold retrainChannels
  repeat' first | (with_reducible first | assumption | intro _ | exact rfl) | split | with_reducible apply Keeps.upd
                | dsimp only | assumption

theorem settleRepairs_keeps {base : State} {s : State} (hk : Keeps ask base s) :
    Keeps ask base (settleRepairs s) := by
  unfold settleRepairs
  dsimp only
  repeat' first | (with_reducible first | assumption | apply retrainChannels_keeps | apply remapColumns_keeps
                                        | apply applyRepairs_keeps | apply Keeps.ite | intro _ | exact rfl) | split
                | with_reducible apply Keeps.upd | dsimp only | assumption

theorem startCores_keeps {base : State} {found : List (Nat × SiteResult)} {s : State} (hk : Keeps ask base s) :
    Keeps ask base (startCores found s) := by
  refine Keeps.ite (fun _ => ?_) fun _ => hk
  have h1 : Keeps ask base (settleRepairs ((List.range 176).foldl (fun t i => testSite found i t) s)) :=
    settleRepairs_keeps (Keeps.foldl hk fun _ _ => testSite_keeps)
  refine h1.upd rfl (fun _ h => h) (fun _ h => h) (fun _ => ?_) id id id
  rw [List.length_map, List.length_range]

theorem endLimiterFault_keeps {base : State} {s : State} (hk : Keeps ask base s) :
    Keeps ask base (endLimiterFault s) := by
  unfold endLimiterFault
  split
  · refine Keeps.ite (fun _ => emcy_keeps ?_) fun _ => ?_ <;> exact hk.upd rfl (fun _ h => h) (fun _ h => h) id id id id
  · exact hk

theorem trainLinks_keeps {base : State} {links : List Nat} {bad : List (Nat × Nat)} {s : State} (hk : Keeps ask base s) :
    Keeps ask base (trainLinks links bad s) := by
  unfold trainLinks
  dsimp only
  repeat' first | (with_reducible first | assumption | apply Keeps.ite | intro _ | exact rfl)
                | (rw [List.length_map]; assumption) | (rw [List.length_map, List.length_zipIdx]; assumption) | split
                | with_reducible apply Keeps.upd | dsimp only | assumption

theorem startLinks_keeps {base : State} {ring : Bool} {bad : List (Nat × Nat)} {s : State} (hk : Keeps ask base s) :
    Keeps ask base (startLinks ring bad s) := by
  unfold startLinks
  dsimp only
  repeat' first | (with_reducible first | assumption | apply trainLinks_keeps | apply Keeps.ite | intro _ | exact rfl)
                | split | with_reducible apply Keeps.upd | dsimp only | assumption

theorem startRing_keeps {base : State} {bad : List (Nat × Nat)} {s : State} (hk : Keeps ask base s) :
    Keeps ask base (startRing bad s) := by
  unfold startRing
  dsimp only
  repeat' first | (with_reducible first | assumption | apply trainLinks_keeps | intro _ | exact rfl)
                | (rw [List.length_map]; assumption) | split | with_reducible apply Keeps.upd | dsimp only | assumption

theorem countFailedStarts_keeps {base : State} {s : State} (hk : Keeps ask base s) :
    Keeps ask base (countFailedStarts s) := by
  unfold countFailedStarts
  dsimp only
  repeat' first | (with_reducible first | assumption | apply recordRepair_keeps | apply State.modPort_keeps
                                        | apply Keeps.ite | apply Keeps.foldl | apply Keeps.foldl_snd | intro _ | exact rfl)
                | split | with_reducible apply Keeps.upd | dsimp only | assumption

theorem startForwarding_keeps {base : State} {bad : List (Nat × Nat)} {s : State} (hk : Keeps ask base s) :
    Keeps ask base (startForwarding bad s) := by
  unfold startForwarding
  dsimp only
  repeat' first | (with_reducible first | assumption | apply countFailedStarts_keeps | apply startRing_keeps
                                        | apply settlePeer_keeps | apply applyRepairs_keeps | apply assignRoles_keeps
                                        | apply setRole_keeps | apply Keeps.ite | apply Keeps.foldl | apply Keeps.foldl_snd
                                        | intro _ | exact rfl) | split | with_reducible apply Keeps.upd | dsimp only
                | assumption

theorem coreReset_keeps {base : State} {c : Nat} {s : State} (hk : Keeps ask base s) : Keeps ask base (coreReset c s) :=
  State.modCore_keeps (hk.trans ⟨rfl, Nat.le_refl _, fun _ => rfl, fun _ h => h, fun _ h => h, fun h => by
    simp only [Memory.wf] at h ⊢
    refine memWf_congr (memWf_filter h) fun e he => blankByte_filter fun x _ hp => ?_
    have ha := (List.mem_filter.1 he).2
    simp only [Bool.or_eq_true, decide_eq_true_eq] at ha
    simp only [Bool.or_eq_false_iff, decide_eq_false_iff_not] at hp
    omega, id, id, id, id⟩)

theorem countStart_keeps {base : State} {s : State} (hk : Keeps ask base s) :
    Keeps ask base (countStart s) := by
  unfold countStart
  repeat' first | (with_reducible first | assumption | intro _ | exact rfl) | split | with_reducible apply Keeps.upd
                | dsimp only | assumption

theorem setSteps_keeps {base : State} {kind : Nat} {s : State} (hk : Keeps ask base s) :
    Keeps ask base (setSteps kind s) := by
  unfold setSteps
  repeat' first | (with_reducible first | assumption | apply countStart_keeps | intro _ | exact rfl) | split
                | with_reducible apply Keeps.upd | dsimp only | assumption

theorem saveLife_keeps {base : State} {s : State} (hk : Keeps ask base s) :
    Keeps ask base (saveLife s) := by
  unfold saveLife
  dsimp only
  repeat' first | (with_reducible first | assumption | intro _ | exact rfl) | split | with_reducible apply Keeps.upd
                | dsimp only | assumption

theorem restartEngines_keeps {base : State} {s : State} (hk : Keeps ask base s) :
    Keeps ask base (restartEngines s) := by
  unfold restartEngines
  repeat' first | (with_reducible first | assumption | intro _ | exact rfl) | split | with_reducible apply Keeps.upd
                | dsimp only | assumption

theorem freshPlls_keeps {base : State} {s : State} (hk : Keeps ask base s) :
    Keeps ask base (freshPlls s) := by
  unfold freshPlls
  repeat' first | (with_reducible first | assumption | intro _ | exact rfl) | (rw [List.length_map]; assumption) | split
                | with_reducible apply Keeps.upd | dsimp only | assumption

theorem freshClock_keeps {base : State} {s : State} (hk : Keeps ask base s) :
    Keeps ask base (freshClock s) := by
  unfold freshClock
  repeat' first | (with_reducible first | assumption | apply freshPlls_keeps | intro _ | exact rfl) | split
                | with_reducible apply Keeps.upd | dsimp only | assumption

theorem abandonHandles_keeps {base : State} {s : State} (hk : Keeps ask base s) :
    Keeps ask base (abandonHandles s) := by
  unfold abandonHandles
  dsimp only
  repeat' first | (with_reducible first | assumption | apply setHandle_keeps | apply Keeps.ite | apply Keeps.foldl
                                        | apply Keeps.foldl_snd | intro _ | exact rfl) | split | dsimp only

theorem awake_keeps {base : State} {s : State} (hk : Keeps ask base s) :
    Keeps ask base (awake s) := by
  unfold awake
  repeat' first | (with_reducible first | assumption | apply setPState_keeps | apply Keeps.ite | intro _ | exact rfl)
                | split | dsimp only

theorem pinStop_keeps {base : State} {s : State} (hk : Keeps ask base s) :
    Keeps ask base (pinStop s) := by
  unfold pinStop
  have h1 := freshClock_keeps (restartXds_keeps (keep := false) (stopForwarding_keeps (st := 0) (loud := false)
    (cutHbm_keeps (clearJob_keeps (restartMd_keeps (stopCompute_keeps hk))))))
  extract_lets s1 keep
  change Keeps ask base s1 at h1
  clear_value s1
  have h2 := odKeep_keeps (p := fun l => l == .stored) h1
  exact awake_keeps (h1.upd rfl (fun _ h => h) (fun _ h => h) id id id id)

/-- The end of test mode keeps everything else. -/
theorem endTest_keeps {base : State} {s : State} (hk : Keeps { ask with test := false } base s) : Keeps { ask with test := false } base (endTest s) :=
  hk.upd rfl (fun h => by cases h) (fun _ h => h) id id id id

/-- A reset keeps test mode unless it is RESET_N (R500). -/
theorem beginStart_keeps {base : State} {kind : Nat} {s0 : State} (hn : ask.test = true → kind ≠ 7) (hk : Keeps ask base s0) :
    Keeps ask base (beginStart kind s0) := by
  unfold beginStart
  dsimp only
  have hs := saveLife_keeps hk
  generalize saveLife s0 = s at hs
  split
  case h_6 =>
    obtain ⟨a, b, c⟩ := ask
    cases a with
    | true => exact absurd rfl (hn rfl)
    | false =>
      have ht := endTest_keeps (ask := ⟨false, b, c⟩) (pinStop_keeps hs)
      generalize endTest (pinStop s) = t at ht ⊢
      exact Keeps.ite (fun _ => countStart_keeps (ht.upd rfl (fun _ h => h) (fun _ h => h) id id id id))
        fun _ => setSteps_keeps ht
  case h_7 =>
    exact setSteps_keeps (Keeps.upd (loadStored_keeps (freshPlls_keeps (restartXds_keeps (keep := true) (clearJob_keeps
      (restartMd_keeps hs))))) rfl (fun _ h => h) (fun _ h => h) id id id id)
  all_goals
    repeat' first | (with_reducible first | assumption | apply pinStop_keeps | apply awake_keeps | apply abandonHandles_keeps
                                          | apply freshClock_keeps | apply restartEngines_keeps | apply leave_keeps
                                          | apply setSteps_keeps | apply countStart_keeps | apply restartXds_keeps
                                          | apply restartMd_keeps | apply clearJob_keeps | apply stopForwarding_keeps
                                          | apply dropNearWindows_keeps | apply forceSafeOp_keeps | apply clearLoopbacks_keeps
                                          | apply stopCompute_keeps | intro _ | exact rfl)
                  | with_reducible apply Keeps.upd

theorem requestStart_keeps {base : State} {kind : Nat} {s : State} (hn : ask.test = true → kind ≠ 7) (hk : Keeps ask base s) :
    Keeps ask base (requestStart kind s) := by
  unfold requestStart
  refine Keeps.ite (fun _ => ?_) fun _ => Keeps.ite (fun _ => ?_) fun _ => ?_
  · exact Keeps.ite (fun _ => hk) fun _ => beginStart_keeps (fun _ => by decide) hk
  · exact Keeps.ite (fun _ => hk) fun _ => beginStart_keeps (fun _ => by decide) hk
  · exact Keeps.ite (fun _ => hk) fun _ => beginStart_keeps hn (hk.upd rfl (fun _ h => h) (fun _ h => h) id id id id)

end Sys2Proof.Machine
end

