-- ==== Sys2Proof/Laws/KeepsPower.lean ====
section
/-! SUPPORT. What the operations of Machine/Power.lean keep. -/

namespace Sys2Proof.Machine

variable {ask : Asks}

theorem pinCheck_keeps {base : State} {s : State} (hk : Keeps ask base s) :
    Keeps ask base (pinCheck s) := by
  unfold pinCheck
  dsimp only
  repeat' first | (with_reducible first | assumption | apply emcy_keeps | apply Keeps.ite | intro _ | exact rfl) | split
                | with_reducible apply Keeps.upd | dsimp only | assumption

theorem execPowerSample_keeps {watts : Nat} {s : State} : OutKeeps ask s (execPowerSample watts s) := by
  unfold execPowerSample
  repeat' first | (with_reducible first | assumption | apply OutKeeps.next | apply pinCheck_keeps | intro _ | exact rfl
                                        | exact Keeps.refl) | split | with_reducible apply Keeps.upd | dsimp only
                | assumption

theorem execCapLoopEval_keeps {s : State} : OutKeeps ask s (execCapLoopEval s) := by
  unfold execCapLoopEval
  dsimp only
  repeat' first | (with_reducible first | assumption | apply OutKeeps.next | apply Keeps.ite | intro _ | exact rfl
                                        | exact Keeps.refl) | split | with_reducible apply Keeps.upd | dsimp only
                | assumption

theorem execSlewInterval_keeps {busy : Nat} {s : State} : OutKeeps ask s (execSlewInterval busy s) := by
  unfold execSlewInterval
  dsimp only
  repeat' first | (with_reducible first | assumption | apply OutKeeps.next | intro _ | exact rfl | exact Keeps.refl) | split
                | with_reducible apply Keeps.upd | dsimp only | assumption

theorem execLimiterCheck_keeps {rise : Nat} {excused : Bool} {s : State} : OutKeeps ask s (execLimiterCheck rise excused s) := by
  unfold execLimiterCheck
  dsimp only
  repeat' first | (with_reducible first | assumption | apply OutKeeps.next | apply nextFreeWord_keeps | apply emcy_keeps
                                        | apply Keeps.ite | intro _ | exact rfl | exact Keeps.refl) | split
                | with_reducible apply Keeps.upd | dsimp only | assumption

theorem execPwrcapNAssert_keeps {s : State} : OutKeeps ask s (execPwrcapNAssert s) := by
  unfold execPwrcapNAssert
  repeat' first | (with_reducible first | assumption | apply OutKeeps.next | apply pinCheck_keeps | intro _ | exact rfl
                                        | exact Keeps.refl) | split | with_reducible apply Keeps.upd | dsimp only
                | assumption

theorem execPinCeilingLapse_keeps {s : State} : OutKeeps ask s (execPinCeilingLapse s) := by
  unfold execPinCeilingLapse
  repeat' first | (with_reducible first | assumption | apply OutKeeps.next | apply Keeps.ite | intro _ | exact rfl
                                        | exact Keeps.refl) | split | with_reducible apply Keeps.upd | dsimp only
                | assumption

theorem execPwrcapNRelease_keeps {s : State} : OutKeeps ask s (execPwrcapNRelease s) := by
  unfold execPwrcapNRelease
  dsimp only
  repeat' first | (with_reducible first | assumption | apply OutKeeps.next | apply emcy_keeps | apply Keeps.ite | intro _
                                        | exact rfl | exact Keeps.refl) | split | with_reducible apply Keeps.upd
                | dsimp only | assumption

theorem State.modSensor_keeps {base : State} {s : State} {i : Nat} {f : Sensor → Sensor} (hk : Keeps ask base s) :
    Keeps ask base (State.modSensor s i f) := by
  unfold State.modSensor
  repeat' first | (with_reducible first | assumption | intro _ | exact rfl) | (rw [List.length_modify]; assumption) | split
                | with_reducible apply Keeps.upd | dsimp only | assumption

theorem setAlert_keeps {base : State} {s : State} (hk : Keeps ask base s) :
    Keeps ask base (setAlert s) := by
  unfold setAlert
  repeat' first | (with_reducible first | assumption | intro _ | exact rfl) | split | with_reducible apply Keeps.upd
                | dsimp only | assumption

theorem logTrip_keeps {base : State} {r : TripRec} {s : State} (hk : Keeps ask base s) :
    Keeps ask base (logTrip r s) := by
  unfold logTrip
  dsimp only
  repeat' first | (with_reducible first | assumption | intro _ | exact rfl) | split | with_reducible apply Keeps.upd
                | dsimp only | assumption

theorem tripCrossed_keeps {base : State} {i cause : Nat} {s : State} (hk : Keeps ask base s) :
    Keeps ask base (tripCrossed i cause s) := by
  unfold tripCrossed
  dsimp only
  repeat' first | (with_reducible first | assumption | apply logTrip_keeps | apply leave_keeps | apply Keeps.ite | intro _
                                        | exact rfl) | split | with_reducible apply Keeps.upd | dsimp only | assumption

theorem clampFor_keeps {base : State} {i detail : Nat} {s : State} (hk : Keeps ask base s) :
    Keeps ask base (clampFor i detail s) := by
  unfold clampFor
  repeat' first | (with_reducible first | assumption | apply emcy_keeps | intro _ | exact rfl) | split
                | with_reducible apply Keeps.upd | dsimp only | assumption

theorem onCrossing_keeps {base : State} {i k : Nat} {s : State} (hk : Keeps ask base s) :
    Keeps ask base (onCrossing i k s) := by
  unfold onCrossing
  repeat' first | (with_reducible first | assumption | apply clampFor_keeps | apply tripCrossed_keeps | apply emcy_keeps
                                        | intro _ | exact rfl) | split | with_reducible apply Keeps.upd | dsimp only
                | assumption

theorem judgeSample_keeps {base : State} {i : Nat} {s : State} (hk : Keeps ask base s) :
    Keeps ask base (judgeSample i s) := by
  unfold judgeSample
  dsimp only
  repeat' first | (with_reducible first | assumption | apply onCrossing_keeps | apply setAlert_keeps
                                        | apply State.modSensor_keeps | apply Keeps.foldl | apply Keeps.foldl_snd | intro _
                                        | exact rfl) | (rw [List.length_map]; assumption) | split
                | with_reducible apply Keeps.upd | dsimp only | assumption

theorem followLayers_keeps {base : State} {i : Nat} {s : State} (hk : Keeps ask base s) :
    Keeps ask base (followLayers i s) := by
  unfold followLayers
  dsimp only
  repeat' first | (with_reducible first | assumption | apply Keeps.ite | intro _ | exact rfl)
                | (rw [List.length_set]; assumption) | split | with_reducible apply Keeps.upd | dsimp only | assumption

theorem followPeak_keeps {base : State} {s : State} (hk : Keeps ask base s) :
    Keeps ask base (followPeak s) := by
  unfold followPeak
  dsimp only
  repeat' first | (with_reducible first | assumption | apply Keeps.ite | apply Keeps.foldl | apply Keeps.foldl_snd | intro _
                                        | exact rfl) | (rw [List.length_map]; assumption) | split
                | with_reducible apply Keeps.upd | dsimp only | assumption

theorem followRelease_keeps {base : State} {s : State} (hk : Keeps ask base s) :
    Keeps ask base (followRelease s) := by
  unfold followRelease
  dsimp only
  repeat' first | (with_reducible first | assumption | apply Keeps.ite | intro _ | exact rfl) | split
                | with_reducible apply Keeps.upd | dsimp only | assumption

theorem execSensorSample_keeps {i : Nat} {temp : Int} {time : Nat} {s : State} : OutKeeps ask s (execSensorSample i temp time s) := by
  unfold execSensorSample
  dsimp only
  repeat' first | (with_reducible first | assumption | apply OutKeeps.next | apply followRelease_keeps
                                        | apply followPeak_keeps | apply followLayers_keeps | apply judgeSample_keeps
                                        | apply State.modSensor_keeps | apply Keeps.ite | apply Keeps.foldl
                                        | apply Keeps.foldl_snd | intro _ | exact rfl | exact Keeps.refl) | split
                | with_reducible apply Keeps.upd | dsimp only | assumption

theorem execSampleRateLower_keeps {i : Nat} {s : State} : OutKeeps ask s (execSampleRateLower i s) := by
  unfold execSampleRateLower
  dsimp only
  repeat' first | (with_reducible first | assumption | apply OutKeeps.next | apply State.modSensor_keeps | apply Keeps.foldl
                                        | apply Keeps.foldl_snd | intro _ | exact rfl | exact Keeps.refl)
                | (rw [List.length_map]; assumption) | split | with_reducible apply Keeps.upd | dsimp only | assumption

theorem execClampEnd_keeps {s : State} : OutKeeps ask s (execClampEnd s) := by
  unfold execClampEnd
  dsimp only
  repeat' first | (with_reducible first | assumption | apply OutKeeps.next | apply setAlert_keeps | apply emcy_keeps
                                        | apply Keeps.ite | intro _ | exact rfl | exact Keeps.refl)
                | (rw [List.length_map]; assumption) | (rw [List.length_set]; assumption) | split
                | with_reducible apply Keeps.upd | dsimp only | assumption

theorem execWarnClear_keeps {i : Nat} {s : State} : OutKeeps ask s (execWarnClear i s) := by
  unfold execWarnClear
  dsimp only
  repeat' first | (with_reducible first | assumption | apply OutKeeps.next | apply setAlert_keeps
                                        | apply State.modSensor_keeps | apply Keeps.ite | intro _ | exact rfl
                                        | exact Keeps.refl) | (rw [List.length_set]; assumption) | split
                | with_reducible apply Keeps.upd | dsimp only | assumption

theorem execTripPowerDown_keeps {s : State} : OutKeeps ask s (execTripPowerDown s) := by
  unfold execTripPowerDown
  dsimp only
  repeat' first | (with_reducible first | assumption | apply OutKeeps.next | apply followRelease_keeps
                                        | apply unreadStraps_keeps | apply darkEports_keeps | apply quietPort_keeps
                                        | apply stopForwarding_keeps | apply stopCompute_keeps | apply cutHbm_keeps
                                        | apply forceSafeOp_keeps | apply setPState_keeps | apply emcySend_keeps
                                        | apply Keeps.ite | apply Keeps.foldl | apply Keeps.foldl_snd | intro _ | exact rfl
                                        | exact Keeps.refl) | split | with_reducible apply Keeps.upd | dsimp only
                | assumption

theorem tripRelease_keeps {base : State} {v : Nat} {s : State} (hk : Keeps { ask with trip := false } base s) :
    Keeps { ask with trip := false } base (tripRelease v s).2 := by
  unfold tripRelease
  dsimp only
  repeat' first | exact fun _ => by decide | (with_reducible first | assumption | dsimp only | apply beginStart_keeps
                                                                   | apply setPState_keeps | apply Keeps.ite
                                                                   | apply Keeps.ite_snd | intro _ | exact rfl) | split
                | with_reducible apply Keeps.upd | dsimp only | assumption

theorem cautiousAck_keeps {base : State} {v : Nat} {s : State} (hk : Keeps ask base s) :
    Keeps ask base (cautiousAck v s).2 := by
  unfold cautiousAck
  repeat' first | (with_reducible first | assumption | dsimp only | apply Keeps.ite | apply Keeps.ite_snd | intro _
                                        | exact rfl) | split | with_reducible apply Keeps.upd | dsimp only | assumption

theorem execBaskEntry_keeps {s : State} : OutKeeps ask s (execBaskEntry s) := by
  unfold execBaskEntry
  repeat' first | (with_reducible first | assumption | apply OutKeeps.next | apply setPState_keeps | apply Keeps.ite
                                        | intro _ | exact rfl | exact Keeps.refl) | split | dsimp only

theorem toBrumate_keeps {base : State} {s : State} (hk : Keeps ask base s) :
    Keeps ask base (toBrumate s) := by
  unfold toBrumate
  dsimp only
  repeat' first | (with_reducible first | assumption | apply darkEports_keeps | apply stopForwarding_keeps
                                        | apply leave_keeps | apply shutdown_keeps | apply setPState_keeps | apply Keeps.ite
                                        | apply Keeps.foldl | apply Keeps.foldl_snd | intro _ | exact rfl) | split
                | dsimp only

theorem enterBrumate_keeps {base : State} {s : State} (hk : Keeps ask base s) :
    Keeps ask base (enterBrumate s).2 := by
  unfold enterBrumate
  repeat' first | (with_reducible first | assumption | dsimp only | apply toBrumate_keeps | apply Keeps.ite
                                        | apply Keeps.ite_snd | intro _ | exact rfl) | split | dsimp only

theorem leaveBrumate_keeps {base : State} {s : State} (hk : Keeps ask base s) :
    Keeps ask base (leaveBrumate s).2 := by
  unfold leaveBrumate
  dsimp only
  repeat' first | (with_reducible first | assumption | dsimp only | apply startProbes_keeps | apply setPState_keeps
                                        | apply Keeps.ite | apply Keeps.ite_snd | intro _ | exact rfl)
                | exact List.length_replicate | split | with_reducible apply Keeps.upd | dsimp only | assumption

theorem execWakeComplete_keeps {s : State} : OutKeeps ask s (execWakeComplete s) := by
  unfold execWakeComplete
  dsimp only
  repeat' first | (with_reducible first | assumption | apply OutKeeps.next | apply setPState_keeps | apply Keeps.ite
                                        | intro _ | exact rfl | exact Keeps.refl) | split | with_reducible apply Keeps.upd
                | dsimp only | assumption

end Sys2Proof.Machine
end

