-- ==== Sys2Proof/Laws/KeepsRails.lean ====
section
/-! SUPPORT. What the operations of Machine/Rails.lean keep. -/

namespace Sys2Proof.Machine

variable {ask : Asks}

theorem railEvent_keeps {base : State} {r detail : Nat} {s : State} (hk : Keeps ask base s) :
    Keeps ask base (railEvent r detail s) := by
  unfold railEvent
  repeat' first | (with_reducible first | assumption | apply emcy_keeps) | split | dsimp only

theorem execRailGood_keeps {r : Nat} {s : State} : OutKeeps ask s (execRailGood r s) := by
  unfold execRailGood
  dsimp only
  repeat' first | (with_reducible first | assumption | apply OutKeeps.next | apply Keeps.ite | intro _ | exact rfl
                                        | exact Keeps.refl) | split | with_reducible apply Keeps.upd | dsimp only
                | assumption

theorem execRailAbsentTimeout_keeps {r : Nat} {s : State} : OutKeeps ask s (execRailAbsentTimeout r s) := by
  unfold execRailAbsentTimeout
  repeat' first | (with_reducible first | assumption | apply OutKeeps.next | apply railEvent_keeps | apply Keeps.ite
                                        | intro _ | exact rfl | exact Keeps.refl) | split | dsimp only

theorem railStops_keeps {base : State} {r : Nat} {s : State} (hk : Keeps ask base s) :
    Keeps ask base (railStops r s) := by
  unfold railStops
  dsimp only
  repeat' first | (with_reducible first | assumption | apply unreadStraps_keeps | apply darkEports_keeps
                                        | apply darkPorts_keeps | apply quietPort_keeps | apply stopForwarding_keeps
                                        | apply stopCompute_keeps | apply cutHbm_keeps | apply forceSafeOp_keeps
                                        | apply Keeps.ite | apply Keeps.foldl | apply Keeps.foldl_snd | intro _ | exact rfl)
                | split | dsimp only

/-- The loss of VSTBY keeps the queue and the fused counter, and leaves an empty memory. -/
theorem coldState_keeps {base : State} {s : State} (hk : Keeps { ask with test := false, trip := false } base s) : Keeps { ask with test := false, trip := false } base (coldState s) :=
  restartXds_keeps (hk.trans ⟨rfl, Nat.le_refl _, fun _ => rfl, fun h => (by cases h), fun h => (by cases h), fun _ => rfl,
    fun _ => List.length_replicate, fun _ => List.length_replicate, fun _ => List.length_replicate, fun _ => List.length_replicate⟩)

theorem execRailLost_keeps {r : Nat} {s : State} : OutKeeps { ask with test := false, trip := false } s (execRailLost r s) := by
  unfold execRailLost
  dsimp only
  repeat' first | (with_reducible first | assumption | apply OutKeeps.next | apply coldState_keeps | apply railStops_keeps
                                        | apply railEvent_keeps | apply logTrip_keeps | apply commit_keeps
                                        | apply nextFreeWord_keeps | apply Keeps.ite | intro _ | exact rfl
                                        | exact Keeps.refl) | split | with_reducible apply Keeps.upd | dsimp only
                | assumption

theorem execRefclockLost_keeps {s : State} : OutKeeps ask s (execRefclockLost s) := by
  unfold execRefclockLost
  dsimp only
  repeat' first | (with_reducible first | assumption | apply OutKeeps.next | apply darkEports_keeps
                                        | apply stopForwarding_keeps | apply stopCompute_keeps | apply forceSafeOp_keeps
                                        | apply shutdown_keeps | apply emcy_keeps | apply Keeps.ite | apply Keeps.foldl
                                        | apply Keeps.foldl_snd | intro _ | exact rfl | exact Keeps.refl) | split
                | with_reducible apply Keeps.upd | dsimp only | assumption

theorem execReferenceClockReturn_keeps {s : State} : OutKeeps ask s (execReferenceClockReturn s) := by
  unfold execReferenceClockReturn
  repeat' first | (with_reducible first | assumption | apply OutKeeps.next | intro _ | exact rfl | exact Keeps.refl) | split
                | with_reducible apply Keeps.upd | dsimp only | assumption

theorem execPllLockLost_keeps {die : Nat} {s : State} : OutKeeps ask s (execPllLockLost die s) := by
  unfold execPllLockLost
  dsimp only
  repeat' first | (with_reducible first | assumption | apply OutKeeps.next | apply darkEports_keeps | apply darkPorts_keeps
                                        | apply setRole_keeps | apply mendRing_keeps | apply emcy_keeps | apply Keeps.ite
                                        | apply Keeps.foldl | apply Keeps.foldl_snd | intro _ | exact rfl
                                        | exact Keeps.refl) | (rw [List.length_modify]; assumption)
                | (rw [List.length_map]; assumption) | split | with_reducible apply Keeps.upd | dsimp only | assumption

theorem linkFailed_keeps {base : State} {link : Nat} {rev : Bool} {s : State} (hk : Keeps ask base s) :
    Keeps ask base (linkFailed link rev s) := by
  unfold linkFailed
  dsimp only
  repeat' first | exact fun _ => by decide | (with_reducible first | assumption | apply requestStart_keeps
                                                                   | apply cutHop_keeps | apply recordRepair_keeps
                                                                   | apply emcy_keeps | apply Keeps.ite | intro _
                                                                   | exact rfl) | (rw [List.length_modify]; assumption)
                | split | with_reducible apply Keeps.upd | dsimp only | assumption

theorem execD2dCrcReplay_keeps {link : Nat} {rev : Bool} {group : Nat} {s : State} : OutKeeps ask s (execD2dCrcReplay link rev group s) := by
  unfold execD2dCrcReplay
  dsimp only
  repeat' first | (with_reducible first | assumption | apply OutKeeps.next | apply linkFailed_keeps | apply Keeps.ite
                                        | intro _ | exact rfl | exact Keeps.refl) | (rw [List.length_modify]; assumption)
                | split | with_reducible apply Keeps.upd | dsimp only | assumption

end Sys2Proof.Machine
end

