-- ==== Sys2Proof/Laws/KeepsUpkeep.lean ====
section
/-! SUPPORT. What the operations of Machine/Upkeep.lean keep. -/

namespace Sys2Proof.Machine

variable {ask : Asks}

theorem execRefreshBlock_keeps {stack : Nat} {s : State} : OutKeeps ask s (execRefreshBlock stack s) := by
  unfold execRefreshBlock
  repeat' first | (with_reducible first | assumption | apply OutKeeps.next | intro _ | exact rfl | exact Keeps.refl)
                | (rw [List.length_set]; assumption) | split | with_reducible apply Keeps.upd | dsimp only | assumption

theorem scrubLine_keeps {base : State} {l : Nat} {s : State} (hk : Keeps ask base s) :
    Keeps ask base (scrubLine l s) := by
  unfold scrubLine
  dsimp only
  repeat' first | (with_reducible first | assumption | apply readLine_keeps | apply Keeps.ite | intro _ | exact rfl) | split
                | with_reducible apply Keeps.upd | dsimp only | assumption

theorem execPatrolScrubRead_keeps {line : Nat} {s : State} : OutKeeps ask s (execPatrolScrubRead line s) := by
  unfold execPatrolScrubRead
  repeat' first | (with_reducible first | assumption | apply OutKeeps.next | apply scrubLine_keeps | apply Keeps.ite
                                        | intro _ | exact rfl | exact Keeps.refl) | split | with_reducible apply Keeps.upd
                | dsimp only | assumption

theorem execSamplerTrackStep_keeps {stack channel lane : Nat} {x : TrackStep} {s : State} : OutKeeps ask s (execSamplerTrackStep stack channel lane x s) := by
  unfold execSamplerTrackStep
  dsimp only
  repeat' first | (with_reducible first | assumption | apply OutKeeps.next | apply recordRepair_keeps | apply emcy_keeps
                                        | apply odInc_keeps | apply Keeps.ite | intro _ | exact rfl | exact Keeps.refl)
                | split | with_reducible apply Keeps.upd | dsimp only | assumption

theorem execLifetimeWriteThrough_keeps {s : State} : OutKeeps ask s (execLifetimeWriteThrough s) := by
  unfold execLifetimeWriteThrough
  dsimp only
  repeat' first | (with_reducible first | assumption | apply OutKeeps.next | apply saveLife_keeps | apply Keeps.ite
                                        | intro _ | exact rfl | exact Keeps.refl) | split | with_reducible apply Keeps.upd
                | dsimp only | assumption

theorem laserHour_keeps {base : State} {k bias : Nat} {s : State} (hk : Keeps ask base s) :
    Keeps ask base (laserHour k bias s) := by
  unfold laserHour
  repeat' first | (with_reducible first | assumption | intro _ | exact rfl) | split | with_reducible apply Keeps.upd
                | dsimp only | assumption

theorem eLaserHour_keeps {base : State} {k : Nat} {s : State} (hk : Keeps ask base s) :
    Keeps ask base (eLaserHour k s) := by
  unfold eLaserHour
  dsimp only
  repeat' first | (with_reducible first | assumption | apply nextFreeWord_keeps | intro _ | exact rfl) | split
                | with_reducible apply Keeps.upd | dsimp only | assumption

theorem execBiasTrendSample_keeps {s : State} : OutKeeps ask s (execBiasTrendSample s) := by
  unfold execBiasTrendSample
  dsimp only
  repeat' first | (with_reducible first | assumption | apply OutKeeps.next | apply eLaserHour_keeps | apply laserHour_keeps
                                        | apply Keeps.foldl | apply Keeps.foldl_snd | intro _ | exact rfl
                                        | exact Keeps.refl) | split | dsimp only

theorem execScrubComplete_keeps {h : Nat} {s : State} : OutKeeps ask s (execScrubComplete h s) := by
  unfold execScrubComplete
  dsimp only
  repeat' first | (with_reducible first | assumption | apply OutKeeps.next | apply scrubLine_keeps | apply setHandle_keeps
                                        | apply State.modHandle_keeps | apply Keeps.ite | apply Keeps.foldl
                                        | apply Keeps.foldl_snd | intro _ | exact rfl | exact Keeps.refl)
                | (rw [List.length_map]; assumption) | split | with_reducible apply Keeps.upd | dsimp only | assumption

theorem execMarginComplete_keeps {h : Nat} {measured : List Byte} {s : State} : OutKeeps ask s (execMarginComplete h measured s) := by
  unfold execMarginComplete
  dsimp only
  repeat' first | (with_reducible first | assumption | apply OutKeeps.next | apply setHandle_keeps
                                        | apply State.modHandle_keeps | apply Keeps.ite | intro _ | exact rfl
                                        | exact Keeps.refl) | split | with_reducible apply Keeps.upd | dsimp only
                | assumption

theorem rebuildTable_keeps {base : State} {p : Nat} {s : State} (hk : Keeps ask base s) :
    Keeps ask base (rebuildTable p s) := by
  unfold rebuildTable
  repeat' first | (with_reducible first | assumption | intro _ | exact rfl) | (rw [List.length_set]; assumption) | split
                | with_reducible apply Keeps.upd | dsimp only | assumption

theorem execCalibrationComplete_keeps {h : Nat} {s : State} : OutKeeps ask s (execCalibrationComplete h s) := by
  unfold execCalibrationComplete
  dsimp only
  repeat' first | (with_reducible first | assumption | apply OutKeeps.next | apply rebuildTable_keeps
                                        | apply setHandle_keeps | apply State.modHandle_keeps | apply Keeps.ite
                                        | apply Keeps.foldl | apply Keeps.foldl_snd | intro _ | exact rfl
                                        | exact Keeps.refl) | split | with_reducible apply Keeps.upd | dsimp only
                | assumption

theorem startOp_keeps {base : State} {h kind owner : Nat} {params : List Byte} {s : State} (hk : Keeps ask base s) :
    Keeps ask base (startOp h kind owner params s) := by
  unfold startOp
  repeat' first | (with_reducible first | assumption | apply newHandle_keeps | intro _ | exact rfl) | split
                | with_reducible apply Keeps.upd | dsimp only | assumption

theorem execSelfTestSiteDone_keeps {h site : Nat} {found : SiteResult} {s : State} : OutKeeps ask s (execSelfTestSiteDone h site found s) := by
  unfold execSelfTestSiteDone
  dsimp only
  repeat' first | (with_reducible first | assumption | apply OutKeeps.next | apply recordFound_keeps | apply setHandle_keeps
                                        | apply State.modHandle_keeps | apply recordSite_keeps | apply modSite_keeps
                                        | apply Keeps.ite | intro _ | exact rfl | exact Keeps.refl) | split
                | with_reducible apply Keeps.upd | dsimp only | assumption

theorem startSelfTest_keeps {base : State} {h owner : Nat} {b : List Byte} {s : State} (hk : Keeps ask base s) :
    Keeps ask base (startSelfTest h owner b s) := by
  unfold startSelfTest
  dsimp only
  repeat' first | (with_reducible first | assumption | apply startOp_keeps | apply wakeCores_keeps | apply setHandle_keeps
                                        | apply Keeps.ite | intro _ | exact rfl) | split | dsimp only

end Sys2Proof.Machine
end

