-- ==== Sys2Proof/Laws/KeepsCroak.lean ====
section
/-! SUPPORT. What the operations of Machine/Croak.lean keep. -/

namespace Sys2Proof.Machine

variable {ask : Asks}

theorem execHeartbeatSend_keeps {s : State} : OutKeeps ask s (execHeartbeatSend s) := by
  unfold execHeartbeatSend
  repeat' first | (with_reducible first | assumption | apply OutKeeps.next | apply sendBeats_keeps | exact Keeps.refl)
                | split | dsimp only

theorem setNeighbour_keeps {base : State} {n : Neighbour} {s : State} (hk : Keeps ask base s) :
    Keeps ask base (setNeighbour n s) := by
  unfold setNeighbour
  repeat' first | (with_reducible first | assumption | intro _ | exact rfl) | split | with_reducible apply Keeps.upd
                | dsimp only | assumption

theorem neighbourEvent_keeps {base : State} {n : Neighbour} {how : Nat} {s : State} (hk : Keeps ask base s) :
    Keeps ask base (neighbourEvent n how s) := by
  unfold neighbourEvent
  repeat' first | (with_reducible first | assumption | apply emcy_keeps) | split | dsimp only

theorem execHeartbeat_keeps {p : Nat} {cw : CwHead} {_beat kind label : Nat} {compute leaving : Bool} {epoch : Nat} {s : State} : OutKeeps ask s (execHeartbeat p cw _beat kind label compute leaving epoch s) := by
  unfold execHeartbeat
  dsimp only
  repeat' first | (with_reducible first | assumption | apply OutKeeps.next | apply neighbourEvent_keeps
                                        | apply setNeighbour_keeps | apply onWord_keeps | apply Keeps.ite | intro _
                                        | exact rfl | exact Keeps.refl) | split | with_reducible apply Keeps.upd
                | dsimp only | assumption

theorem aggregateEvent_keeps {base : State} {w : AggWin} {s : State} (hk : Keeps ask base s) :
    Keeps ask base (aggregateEvent w s) := by
  unfold aggregateEvent
  repeat' first | (with_reducible first | assumption | apply emcy_keeps) | split | dsimp only

theorem addLoss_keeps {base : State} {w : AggWin} {n : Neighbour} {s : State} (hk : Keeps ask base s) :
    Keeps ask base (addLoss w n s) := by
  unfold addLoss
  dsimp only
  repeat' first | (with_reducible first | assumption | apply Keeps.ite | intro _ | exact rfl)
                | (rw [List.length_map]; assumption) | split | with_reducible apply Keeps.upd | dsimp only | assumption

theorem reportLosses_keeps {base : State} {l : List Neighbour} {s : State} (hk : Keeps ask base s) :
    Keeps ask base (reportLosses l s) := by
  unfold reportLosses
  dsimp only
  repeat' first | (with_reducible first | assumption | apply addLoss_keeps | apply aggregateEvent_keeps
                                        | apply neighbourEvent_keeps | apply Keeps.foldl | apply Keeps.foldl_snd | intro _
                                        | exact rfl) | (rw [List.length_map]; assumption) | split
                | with_reducible apply Keeps.upd | dsimp only | assumption

theorem execCroakInterval_keeps {s : State} : OutKeeps ask s (execCroakInterval s) := by
  unfold execCroakInterval
  dsimp only
  repeat' first | (with_reducible first | assumption | apply OutKeeps.next | apply reportLosses_keeps
                                        | apply neighbourEvent_keeps | apply odInc_keeps | apply Keeps.ite
                                        | apply Keeps.foldl | apply Keeps.foldl_snd | intro _ | exact rfl
                                        | exact Keeps.refl) | (rw [List.length_map]; assumption) | split
                | with_reducible apply Keeps.upd | dsimp only | assumption

theorem execAggregationWindowEnd_keeps {kind label : Nat} {s : State} : OutKeeps ask s (execAggregationWindowEnd kind label s) := by
  unfold execAggregationWindowEnd
  dsimp only
  repeat' first | (with_reducible first | assumption | apply OutKeeps.next | apply aggregateEvent_keeps | apply Keeps.ite
                                        | intro _ | exact rfl | exact Keeps.refl) | split | with_reducible apply Keeps.upd
                | dsimp only | assumption

theorem execDisagreeLimit_keeps {code device : Nat} {s : State} : OutKeeps ask s (execDisagreeLimit code device s) := by
  unfold execDisagreeLimit
  repeat' first | (with_reducible first | assumption | apply OutKeeps.next | apply emcy_keeps | apply odInc_keeps
                                        | apply Keeps.ite | intro _ | exact rfl | exact Keeps.refl) | split
                | with_reducible apply Keeps.upd | dsimp only | assumption

theorem startShadow_keeps {base : State} {h owner : Nat} {b : List Byte} {s : State} (hk : Keeps ask base s) :
    Keeps ask base (startShadow h owner b s) := by
  unfold startShadow
  dsimp only
  repeat' first | (with_reducible first | assumption | apply newHandle_keeps | intro _ | exact rfl) | split
                | with_reducible apply Keeps.upd | dsimp only | assumption

theorem sendTable_keeps {base : State} {o : ShadowOp} {step : Nat} {s : State} (hk : Keeps ask base s) :
    Keeps ask base (sendTable o step s) := by
  unfold sendTable
  dsimp only
  repeat' first | (with_reducible first | assumption | apply send_keeps | intro _ | exact rfl)
                | (with_reducible refine Keeps.of_snd ‹_› ?_) | split | with_reducible apply Keeps.upd | dsimp only
                | assumption

theorem compareStep_keeps {base : State} {h step : Nat} {s : State} (hk : Keeps ask base s) :
    Keeps ask base (compareStep h step s) := by
  unfold compareStep
  dsimp only
  repeat' first | (with_reducible first | assumption | apply setHandle_keeps | apply State.modHandle_keeps
                                        | apply emcy_keeps | apply Keeps.ite | intro _ | exact rfl) | split
                | with_reducible apply Keeps.upd | dsimp only | assumption

theorem execShadowStep_keeps {h : Nat} {s : State} : OutKeeps ask s (execShadowStep h s) := by
  unfold execShadowStep
  dsimp only
  repeat' first | (with_reducible first | assumption | apply OutKeeps.next | apply compareStep_keeps | apply sendTable_keeps
                                        | apply State.modHandle_keeps | apply touchRead_keeps | apply Keeps.ite | intro _
                                        | exact rfl | exact Keeps.refl) | (with_reducible refine Keeps.of_snd ‹_› ?_)
                | split | with_reducible apply Keeps.upd | dsimp only | assumption

theorem execShadowTableReceive_keeps {h step : Nat} {table : List Byte} {s : State} : OutKeeps ask s (execShadowTableReceive h step table s) := by
  unfold execShadowTableReceive
  dsimp only
  repeat' first | (with_reducible first | assumption | apply OutKeeps.next | apply compareStep_keeps | apply sendTable_keeps
                                        | apply State.modHandle_keeps | intro _ | exact rfl | exact Keeps.refl) | split
                | with_reducible apply Keeps.upd | dsimp only | assumption

theorem execShadowResendTimer_keeps {h : Nat} {s : State} : OutKeeps ask s (execShadowResendTimer h s) := by
  unfold execShadowResendTimer
  repeat' first | (with_reducible first | assumption | apply OutKeeps.next | apply sendTable_keeps | apply Keeps.ite
                                        | intro _ | exact rfl | exact Keeps.refl) | split | with_reducible apply Keeps.upd
                | dsimp only | assumption

theorem partnerLost_keeps {base : State} {h why : Nat} {s : State} (hk : Keeps ask base s) :
    Keeps ask base (partnerLost h why s) := by
  unfold partnerLost
  repeat' first | (with_reducible first | assumption | apply setHandle_keeps | apply emcy_keeps | apply Keeps.ite | intro _
                                        | exact rfl) | split | with_reducible apply Keeps.upd | dsimp only | assumption

theorem execShadowStepLimit_keeps {h : Nat} {s : State} : OutKeeps ask s (execShadowStepLimit h s) := by
  unfold execShadowStepLimit
  repeat' first | (with_reducible first | assumption | apply OutKeeps.next | apply partnerLost_keeps | apply Keeps.ite
                                        | intro _ | exact rfl | exact Keeps.refl) | split | with_reducible apply Keeps.upd
                | dsimp only | assumption

theorem setMembership_keeps {base : State} {b : List Byte} {s : State} (hk : Keeps ask base s) :
    Keeps ask base (setMembership b s) := by
  unfold setMembership
  dsimp only
  repeat' first | (with_reducible first | assumption | apply partnerLost_keeps | apply faultGroup_keeps | apply Keeps.ite
                                        | apply Keeps.foldl | apply Keeps.foldl_snd | intro _ | exact rfl) | split
                | with_reducible apply Keeps.upd | dsimp only | assumption

theorem setJobTag_keeps {base : State} {v : Nat} {s : State} (hk : Keeps ask base s) :
    Keeps ask base (setJobTag v s) := by
  unfold setJobTag
  repeat' first | (with_reducible first | assumption | apply odSet_keeps | intro _ | exact rfl) | split
                | with_reducible apply Keeps.upd | dsimp only | assumption

end Sys2Proof.Machine
end

