-- ==== Sys2Proof/Laws/KeepsSecurity.lean ====
section
/-! SUPPORT. What the operations of Machine/Security.lean keep. -/

namespace Sys2Proof.Machine

variable {ask : Asks}

theorem writeImage_keeps {base : State} {img : List Byte} {s : State} (hk : Keeps ask base s) :
    Keeps ask base (writeImage img s) := by
  unfold writeImage
  repeat' first | (with_reducible first | assumption | intro _ | exact rfl) | split | with_reducible apply Keeps.upd
                | dsimp only | assumption

theorem deriveKeys_keeps {base : State} {s : State} (hk : Keeps ask base s) :
    Keeps ask base (deriveKeys s) := by
  unfold deriveKeys
  repeat' first | (with_reducible first | assumption | intro _ | exact rfl) | split | with_reducible apply Keeps.upd
                | dsimp only | assumption

theorem settleAlias_keeps {base : State} {s : State} (hk : Keeps ask base s) :
    Keeps ask base (settleAlias s) := by
  unfold settleAlias
  repeat' first | (with_reducible first | assumption | intro _ | exact rfl) | split | with_reducible apply Keeps.upd
                | dsimp only | assumption

theorem storeAlias_keeps {base : State} {s : State} (hk : Keeps ask base s) :
    Keeps ask base (storeAlias s) := by
  unfold storeAlias
  repeat' first | (with_reducible first | assumption | intro _ | exact rfl) | split | with_reducible apply Keeps.upd
                | dsimp only | assumption

theorem beginQuote_keeps {base : State} {h : Nat} {s : State} (hk : Keeps ask base s) :
    Keeps ask base (beginQuote h s) := by
  unfold beginQuote
  dsimp only
  repeat' first | (with_reducible first | assumption | apply setHandle_keeps | apply State.modHandle_keeps | apply Keeps.ite
                                        | intro _ | exact rfl) | split | with_reducible apply Keeps.upd | dsimp only
                | assumption

theorem startQuotes_keeps {base : State} {n : Nat} {s : State} (hk : Keeps ask base s) :
    Keeps ask base (startQuotes n s) := by
  induction n generalizing s with
  | zero => exact hk
  | succ n ih =>
    unfold startQuotes
    repeat' first | (with_reducible first | assumption | apply ih | apply beginQuote_keeps | apply Keeps.ite | intro _) | split

theorem createQuote_keeps {base : State} {h owner : Nat} {nonce : List Byte} {s : State} (hk : Keeps ask base s) :
    Keeps ask base (createQuote h owner nonce s) := by
  unfold createQuote
  repeat' first | (with_reducible first | assumption | apply startQuotes_keeps | apply newHandle_keeps | intro _
                                        | exact rfl) | split | with_reducible apply Keeps.upd | dsimp only | assumption

theorem execQuoteComplete_keeps {h : Nat} {s : State} : OutKeeps ask s (execQuoteComplete h s) := by
  unfold execQuoteComplete
  dsimp only
  repeat' first | (with_reducible first | assumption | apply OutKeeps.next | apply startQuotes_keeps | apply setHandle_keeps
                                        | apply State.modHandle_keeps | apply Keeps.ite | intro _ | exact rfl
                                        | exact Keeps.refl) | split | with_reducible apply Keeps.upd | dsimp only
                | assumption

theorem execOperationCancelObeyed_keeps {h : Nat} {s : State} : OutKeeps ask s (execOperationCancelObeyed h s) := by
  unfold execOperationCancelObeyed
  repeat' first | (with_reducible first | assumption | apply OutKeeps.next | apply startQuotes_keeps | apply setHandle_keeps
                                        | apply State.modHandle_keeps | apply Keeps.ite | intro _ | exact rfl
                                        | exact Keeps.refl) | split | with_reducible apply Keeps.upd | dsimp only
                | assumption

theorem execAliasCertReady_keeps {produced : Bool} {s : State} : OutKeeps ask s (execAliasCertReady produced s) := by
  unfold execAliasCertReady
  repeat' first | (with_reducible first | assumption | apply OutKeeps.next | apply startQuotes_keeps
                                        | apply storeAlias_keeps | apply setHandle_keeps | apply State.modHandle_keeps
                                        | apply Keeps.ite | apply Keeps.foldl | apply Keeps.foldl_snd | intro _ | exact rfl
                                        | exact Keeps.refl) | split | with_reducible apply Keeps.upd | dsimp only
                | assumption

/-- The commit of an image raises the fused counter to its svn, or leaves it. -/
theorem execFwUpdateVerified_keeps {s : State} : OutKeeps { ask with fuse := false } s (execFwUpdateVerified s) := by
  apply OutKeeps.next
  split
  · exact Keeps.refl
  · rename_i h _
    refine Keeps.ite (fun _ => Keeps.refl) fun _ => ?_
    split
    · exact setHandle_keeps Keeps.refl
    · rename_i img _
      refine Keeps.ite (fun _ => ?_) fun _ => setHandle_keeps Keeps.refl
      have hm := State.modHandle_keeps (ask := { ask with fuse := false }) (h := h) (f := fun x => { x with commit := true })
        (Keeps.refl (s := s))
      exact hm.trans ⟨rfl, Nat.le_max_left _ _, fun hf => absurd hf Bool.false_ne_true, fun _ h => h, fun _ h => h, id, id, id, id, id⟩

theorem execFwUpdateCommitted_keeps {s : State} : OutKeeps ask s (execFwUpdateCommitted s) := by
  unfold execFwUpdateCommitted
  repeat' first | exact fun _ => by decide | (with_reducible first | assumption | apply OutKeeps.next
                                                                   | apply writeImage_keeps | apply requestStart_keeps
                                                                   | apply commit_keeps | apply setHandle_keeps
                                                                   | apply Keeps.ite | intro _ | exact rfl
                                                                   | exact Keeps.refl) | split
                | with_reducible apply Keeps.upd | dsimp only | assumption

theorem execRecoveryVerifyDone_keeps {s : State} : OutKeeps ask s (execRecoveryVerifyDone s) := by
  unfold execRecoveryVerifyDone
  dsimp only
  repeat' first | exact fun _ => by decide | (with_reducible first | assumption | apply OutKeeps.next
                                                                   | apply writeImage_keeps | apply requestStart_keeps
                                                                   | apply Keeps.ite | intro _ | exact rfl
                                                                   | exact Keeps.refl) | split
                | with_reducible apply Keeps.upd | dsimp only | assumption

theorem sessionEvent_keeps {base : State} {n what : Nat} {s : State} (hk : Keeps ask base s) :
    Keeps ask base (sessionEvent n what s) := by
  unfold sessionEvent
  repeat' first | (with_reducible first | assumption | apply emcy_keeps) | split | dsimp only

theorem dropMessage_keeps {base : State} {s : State} (hk : Keeps ask base s) :
    Keeps ask base (dropMessage s) := by
  unfold dropMessage
  repeat' first | (with_reducible first | assumption | apply odInc_keeps) | split | dsimp only

theorem State.modSession_keeps {base : State} {s : State} {n : Nat} {f : Session → Session} (hk : Keeps ask base s) :
    Keeps ask base (State.modSession s n f) := by
  unfold State.modSession
  repeat' first | (with_reducible first | assumption | intro _ | exact rfl) | (rw [List.length_modify]; assumption) | split
                | with_reducible apply Keeps.upd | dsimp only | assumption

theorem closeSession_keeps {base : State} {n what : Nat} {s : State} (hk : Keeps ask base s) :
    Keeps ask base (closeSession n what s) := by
  unfold closeSession
  repeat' first | (with_reducible first | assumption | apply State.modSession_keeps | apply sessionEvent_keeps | intro _
                                        | exact rfl) | split | dsimp only

theorem refuseOpen_keeps {base : State} {check : Nat} {s : State} (hk : Keeps ask base s) :
    Keeps ask base (refuseOpen check s) := by
  unfold refuseOpen
  dsimp only
  repeat' first | (with_reducible first | assumption | apply dropMessage_keeps | apply sessionEvent_keeps
                                        | apply odSet_keeps) | split | dsimp only

theorem answerWith_keeps {base : State} {n type seq index sub flags offset : Nat} {data : List Byte} {s : State} (hk : Keeps ask base s) :
    Keeps ask base (answerWith n type seq index sub flags offset data s) := by
  unfold answerWith
  repeat' first | (with_reducible first | assumption | intro _ | exact rfl) | split | with_reducible apply Keeps.upd
                | dsimp only | assumption

theorem openRequest_keeps {base : State} {addr : List Byte} {port seq : Nat} {b : List Byte} {s : State} (hk : Keeps ask base s) :
    Keeps ask base (openRequest addr port seq b s) := by
  unfold openRequest
  dsimp only
  repeat' first | (with_reducible first | assumption | apply answerWith_keeps | apply refuseOpen_keeps
                                        | apply State.modSession_keeps | apply sessionEvent_keeps | apply Keeps.ite
                                        | intro _ | exact rfl) | (rw [List.length_set]; assumption) | split
                | with_reducible apply Keeps.upd | dsimp only | assumption

theorem openSlice_keeps {base : State} {m : SdoMsg} {s : State} (hk : Keeps ask base s) :
    Keeps ask base (openSlice m s) := by
  unfold openSlice
  dsimp only
  repeat' first | (with_reducible first | assumption | apply openRequest_keeps | apply dropMessage_keeps | apply Keeps.ite
                                        | intro _ | exact rfl) | split | with_reducible apply Keeps.upd | dsimp only
                | assumption

theorem execOpenSlice_keeps {msg : SdoMsg} {s : State} : OutKeeps ask s (execOpenSlice msg s) := by
  unfold execOpenSlice
  repeat' first | (with_reducible first | assumption | apply OutKeeps.next | apply openSlice_keeps | apply Keeps.ite
                                        | intro _ | exact rfl | exact Keeps.refl) | split | dsimp only

theorem execOpenReassemblyTimeout_keeps {addr : List Byte} {port : Nat} {s : State} : OutKeeps ask s (execOpenReassemblyTimeout addr port s) := by
  unfold execOpenReassemblyTimeout
  repeat' first | (with_reducible first | assumption | apply OutKeeps.next | intro _ | exact rfl | exact Keeps.refl) | split
                | with_reducible apply Keeps.upd | dsimp only | assumption

theorem execSessionIdleExpiry_keeps {n : Nat} {s : State} : OutKeeps ask s (execSessionIdleExpiry n s) := by
  unfold execSessionIdleExpiry
  repeat' first | (with_reducible first | assumption | apply OutKeeps.next | apply closeSession_keeps | apply Keeps.ite
                                        | intro _ | exact rfl | exact Keeps.refl) | split | dsimp only

theorem replyTo_keeps {base : State} {m : SdoMsg} {type : Nat} {data : List Byte} {s : State} (hk : Keeps ask base s) :
    Keeps ask base (replyTo m type data s) := by
  unfold replyTo
  dsimp only
  repeat' first | (with_reducible first | assumption | apply State.modSession_keeps | intro _ | exact rfl) | split
                | with_reducible apply Keeps.upd | dsimp only | assumption

theorem inSession_keeps {base : State} {m : SdoMsg} {f : State → State} {s : State} (hk : Keeps ask base s) (hkf : ∀ t, Keeps ask base t → Keeps ask base (f t)) :
    Keeps ask base (inSession m f s) := by
  unfold inSession
  dsimp only
  repeat' first | (with_reducible first | assumption | apply hkf | apply dropMessage_keeps | apply Keeps.ite | intro _
                                        | exact rfl) | split | with_reducible apply Keeps.upd | dsimp only | assumption

theorem execKeepalive_keeps {msg : SdoMsg} {s : State} : OutKeeps ask s (execKeepalive msg s) := by
  unfold execKeepalive
  repeat' first | (with_reducible first | assumption | apply OutKeeps.next | apply inSession_keeps | apply replyTo_keeps
                                        | apply Keeps.ite | intro _ | exact rfl | exact Keeps.refl) | split | dsimp only

theorem execCloseSession_keeps {msg : SdoMsg} {s : State} : OutKeeps ask s (execCloseSession msg s) := by
  unfold execCloseSession
  repeat' first | (with_reducible first | assumption | apply OutKeeps.next | apply inSession_keeps | apply replyTo_keeps
                                        | apply closeSession_keeps | apply Keeps.ite | intro _ | exact rfl
                                        | exact Keeps.refl) | split | dsimp only

end Sys2Proof.Machine
end

