-- ==== Sys2Proof/Laws/KeepsStartup.lean ====
section
/-! SUPPORT. What the operations of Machine/Startup.lean keep. -/

namespace Sys2Proof.Machine

variable {ask : Asks}

theorem verifyImage_keeps {base : State} {s : State} (hk : Keeps ask base s) :
    Keeps ask base (verifyImage s) := by
  unfold verifyImage
  repeat' first | (with_reducible first | assumption | apply deriveKeys_keeps | apply Keeps.ite | intro _ | exact rfl)
                | split | with_reducible apply Keeps.upd | dsimp only | assumption

theorem stepEffect_keeps {base : State} {n kind : Nat} {r : StepReport} {s0 : State} (hk : Keeps ask base s0) :
    Keeps ask base (stepEffect n kind r s0) := by
  unfold stepEffect
  dsimp only
  repeat' first | (with_reducible first | assumption | apply verifyImage_keeps | apply settleAlias_keeps
                                        | apply pinCheck_keeps | apply startForwarding_keeps | apply startLinks_keeps
                                        | apply endLimiterFault_keeps | apply startCores_keeps | apply startNear_keeps
                                        | apply trainHbm_keeps | apply startProbes_keeps | apply readStraps_keeps
                                        | apply loadStored_keeps | apply Keeps.ite | intro _ | exact rfl) | split
                | with_reducible apply Keeps.upd | dsimp only | assumption

theorem startReport_keeps {base : State} {cause ms : Nat} {s : State} (hk : Keeps ask base s) :
    Keeps ask base (startReport cause ms s) := by
  unfold startReport
  dsimp only
  repeat' first | (with_reducible first | assumption | apply emcy_keeps | apply Keeps.ite | intro _ | exact rfl) | split
                | with_reducible apply Keeps.upd | dsimp only | assumption

theorem reachPreop_keeps {base : State} {s : State} (hk : Keeps ask base s) :
    Keeps ask base (reachPreop s) := by
  unfold reachPreop
  repeat' first | (with_reducible first | assumption | intro _ | exact rfl) | split | with_reducible apply Keeps.upd
                | dsimp only | assumption

theorem mainStep_keeps {base : State} {r : StepReport} {s : State} (hk : Keeps ask base s) :
    Keeps ask base (mainStep r s) := by
  unfold mainStep
  dsimp only
  repeat' first | (with_reducible first | assumption | apply reachPreop_keeps | apply startReport_keeps
                                        | apply stepEffect_keeps | apply Keeps.ite | intro _ | exact rfl) | split
                | with_reducible apply Keeps.upd | dsimp only | assumption

theorem mdStep_keeps {base : State} {r : StepReport} {s : State} (hk : Keeps ask base s) :
    Keeps ask base (mdStep r s) := by
  unfold mdStep
  dsimp only
  repeat' first | (with_reducible first | assumption | apply reachPreop_keeps | apply startReport_keeps
                                        | apply verifyImage_keeps | apply settleAlias_keeps | apply loadStored_keeps
                                        | apply Keeps.ite | intro _ | exact rfl) | split | with_reducible apply Keeps.upd
                | dsimp only | assumption

theorem fwdStep_keeps {base : State} {r : StepReport} {s : State} (hk : Keeps ask base s) :
    Keeps ask base (fwdStep r s) := by
  unfold fwdStep
  dsimp only
  repeat' first | (with_reducible first | assumption | apply startReport_keeps | apply stepEffect_keeps | apply Keeps.ite
                                        | intro _ | exact rfl) | split | with_reducible apply Keeps.upd | dsimp only
                | assumption

theorem execStartUpStepDone_keeps {rep : StepReport} {s : State} : OutKeeps ask s (execStartUpStepDone rep s) := by
  unfold execStartUpStepDone
  repeat' first | (with_reducible first | assumption | apply OutKeeps.next | apply fwdStep_keeps | apply mdStep_keeps
                                        | apply mainStep_keeps | apply Keeps.ite | intro _ | exact rfl | exact Keeps.refl)
                | split | dsimp only

theorem execPowerOn_keeps {s : State} : OutKeeps { ask with test := false, trip := false } s (execPowerOn s) := by
  unfold execPowerOn
  dsimp only
  repeat' first | (with_reducible first | assumption | apply OutKeeps.next | apply coldState_keeps | apply setSteps_keeps
                                        | apply Keeps.ite | intro _ | exact rfl | exact Keeps.refl) | split
                | with_reducible apply Keeps.upd | dsimp only | assumption

theorem execResetNAssert_keeps {s : State} : OutKeeps { ask with test := false } s (execResetNAssert s) := by
  unfold execResetNAssert
  dsimp only
  repeat' first | (with_reducible first | assumption | apply OutKeeps.next | apply endTest_keeps | apply pinStop_keeps
                                        | apply Keeps.ite | intro _ | exact rfl | exact Keeps.refl) | split
                | with_reducible apply Keeps.upd | dsimp only | assumption

theorem execResetNRelease_keeps {s : State} : OutKeeps { ask with test := false } s (execResetNRelease s) := by
  unfold execResetNRelease
  repeat' first | exact fun _ => by decide | (with_reducible first | assumption | apply OutKeeps.next
                                                                   | apply beginStart_keeps | apply Keeps.ite | intro _
                                                                   | exact rfl | exact Keeps.refl) | contradiction | split
                | with_reducible apply Keeps.upd | dsimp only | assumption

theorem execMdWatchdogExpiry_keeps {s : State} : OutKeeps ask s (execMdWatchdogExpiry s) := by
  unfold execMdWatchdogExpiry
  repeat' first | exact fun _ => by decide | (with_reducible first | assumption | apply OutKeeps.next
                                                                   | apply requestStart_keeps | apply Keeps.ite | intro _
                                                                   | exact rfl | exact Keeps.refl) | split | dsimp only

end Sys2Proof.Machine
end

