-- ==== Sys2Proof/Laws/KeepsAccess.lean ====
section
/-! SUPPORT. What the operations of Machine/Access.lean keep. -/

namespace Sys2Proof.Machine

variable {ask : Asks}

theorem startCommand_keeps {base : State} {u h owner : Nat} {b : List Byte} {s : State} (hk : Keeps ask base s) :
    Keeps ask base (startCommand u h owner b s) := by
  unfold startCommand
  repeat' first | (with_reducible first | assumption | apply createQuote_keeps | apply startShadow_keeps
                                        | apply startSelfTest_keeps | apply startOp_keeps | apply createResume_keeps
                                        | apply createLaunch_keeps | intro _ | exact rfl) | split
                | with_reducible apply Keeps.upd | dsimp only | assumption

theorem resetNow_keeps {base : State} {kind arg : Nat} {s : State} (hn : ask.test = true → kind ≠ 7) (hk : Keeps ask base s) :
    Keeps ask base (resetNow kind arg s) :=
  Keeps.ite (fun _ => Keeps.ite (fun _ => hk) fun _ => coreReset_keeps hk) fun _ =>
    Keeps.ite (fun _ => requestStart_keeps (fun _ => by decide) hk) fun _ => requestStart_keeps hn hk

theorem enterTestMode_keeps {base : State} {s : State} (hk : Keeps ask base s) :
    Keeps ask base (enterTestMode s) := by
  unfold enterTestMode
  dsimp only
  repeat' first | (with_reducible first | assumption | apply dropNearWindows_keeps | apply stopCompute_keeps
                                        | apply forceSafeOp_keeps | intro _ | exact rfl) | exact List.length_replicate
                | split | with_reducible apply Keeps.upd | dsimp only | assumption

theorem writeLoopbacks_keeps {base : State} {v : Nat} {s : State} (hk : Keeps ask base s) :
    Keeps ask base (writeLoopbacks v s) := by
  unfold writeLoopbacks
  repeat' first | (with_reducible first | assumption | apply setLoopback_keeps | apply odSet_keeps | apply Keeps.foldl
                                        | apply Keeps.foldl_snd | intro _ | exact rfl) | split | dsimp only

theorem revokeTag_keeps {base : State} {tag : Nat} {s : State} (hk : Keeps ask base s) :
    Keeps ask base (revokeTag tag s) := by
  unfold revokeTag
  repeat' first | (with_reducible first | assumption | apply Keeps.ite | intro _ | exact rfl)
                | (rw [List.length_map]; assumption) | split | with_reducible apply Keeps.upd | dsimp only | assumption

theorem changeRegion_keeps {base : State} {r mode : Nat} {s : State} (hk : Keeps ask base s) :
    Keeps ask base (changeRegion r mode s) := by
  unfold changeRegion
  have h1 := odSet_keeps (i := 0x2600) (sub := r + 1) (v := mode) hk
  exact Keeps.ite (fun _ => h1) fun _ => Keeps.upd (makeWild_keeps h1) rfl (fun _ h => h) (fun _ h => h) id id id id

theorem groupCommand_keeps {base : State} {g v : Nat} {s : State} (hk : Keeps ask base s) :
    Keeps ask base (groupCommand g v s) := by
  unfold groupCommand
  repeat' first | (with_reducible first | assumption | apply groupReform_keeps | apply groupDelete_keeps
                                        | apply groupCreate_keeps | apply Keeps.ite | intro _ | exact rfl) | split
                | dsimp only

theorem secureRegWrite_keeps {base : State} {a v : Nat} {s : State} (hk : Keeps ask base s) :
    Keeps ask base (secureRegWrite a v s) := by
  unfold secureRegWrite
  dsimp only
  repeat' first | (with_reducible first | assumption | apply setLoopback_keeps | apply shutdown_keeps
                                        | apply setDieWord_keeps | apply coreRegWrite_keeps | apply linkDownAs_keeps
                                        | apply State.modPort_keeps | apply Keeps.ite | intro _ | exact rfl) | split
                | with_reducible apply Keeps.upd | dsimp only | assumption

/-- The effect of a write: it keeps test mode unless it asks for RESET_N's kind, and a trip unless it is trip-release. -/
theorem odApply_keeps {base : State} {m : Master} {i u : Nat} {b : List Byte} {s : State}
    (hr : ask.test = true → i = 0x2100 → u = 0xC → ofLE b % 256 ≠ 7) (hq : ask.trip = true → ¬(i = 0x2100 ∧ u = 0xA)) (hk : Keeps ask base s) :
    Keeps ask base (odApply m i u b s) := by
  unfold odApply
  dsimp only
  refine Keeps.ite (fun _ => startCommand_keeps hk) fun _ => Keeps.ite (fun _ => ?_) fun _ => Keeps.ite (fun _ => groupCommand_keeps hk) fun _ => ?_
  · exact Keeps.ite (fun _ => control_keeps hk) fun _ => Keeps.ite (fun _ => State.modHandle_keeps hk) fun _ => State.modHandle_keeps hk
  · split
    · obtain ⟨a, b, c⟩ := ask
      cases b with
      | true => exact absurd ⟨rfl, rfl⟩ (hq rfl)
      | false => exact tripRelease_keeps (ask := ⟨a, false, c⟩) hk
    · exact cautiousAck_keeps hk
    · exact resetNow_keeps (fun h => hr h rfl rfl) hk
    all_goals
      repeat' first | (with_reducible first | assumption | apply setJobTag_keeps | apply setMembership_keeps | apply revokeTag_keeps
                                            | apply changeRegion_keeps | apply State.modPort_keeps | apply State.modEport_keeps
                                            | apply odSet_keeps | apply enterBrumate_keeps | apply leaveBrumate_keeps
                                            | apply enterTestMode_keeps | apply setDieWord_keeps | apply writeLoopbacks_keeps
                                            | apply secureRegWrite_keeps | apply Keeps.ite | intro _ | exact rfl)
                    | with_reducible apply Keeps.upd

/-- An accepted write of `reset` names a kind of R410, never RESET_N. -/
theorem resetKind_of_valueOk {o : Obj} {b : List Byte} {s : State} (h : valueOk o 0x2100 0xC b s = true) : ofLE b % 256 ≠ 7 := by
  unfold valueOk at h
  dsimp only at h
  split at h
  · simp only [beq_iff_eq] at h; omega
  · rw [if_neg (by decide), if_neg (by decide), if_neg (by decide)] at h
    simp only [Bool.and_eq_true, decide_eq_true_eq] at h
    omega

/-- What an accepted write has passed (R397). -/
theorem valueOk_of_odCheck {m : Master} {i u : Nat} {b : List Byte} {s : State} {o : Obj} (hf : findObj i u = some o)
    (hh : ¬hidden m o = true) (h : odCheck m i u b s = 0) : valueOk o i u b s = true := by
  unfold odCheck at h
  rw [hf] at h
  dsimp only at h
  rw [if_neg hh] at h
  by_cases hv : valueOk o i u b s = true
  · exact hv
  · exfalso
    simp only [hv] at h
    repeat' split at h
    all_goals first | contradiction | (simp at h) | (exact absurd h (by decide))

theorem odWrite_keeps {base : State} {m : Master} {i u : Nat} {b : List Byte} {s : State} (hq : ask.trip = true → ¬(i = 0x2100 ∧ u = 0xA))
    (hk : Keeps ask base s) : Keeps ask base (odWrite m i u b s) := by
  unfold odWrite
  split
  · exact hk
  · rename_i o hf
    refine Keeps.ite (fun _ => odInc_keeps hk) fun hh => Keeps.ite (fun hc => odApply_keeps (fun _ hi hu => ?_) hq hk) fun _ => hk
    subst hi hu
    exact resetKind_of_valueOk (valueOk_of_odCheck hf hh hc)

theorem writeAllGo_keeps {base : State} {m : Master} {i : Nat} {l : List (Nat × List Byte)} {s : State}
    (hk : Keeps { ask with trip := false } base s) : Keeps { ask with trip := false } base (writeAllGo m i l s).2 := by
  induction l generalizing s with
  | nil => exact hk
  | cons x r ih =>
    unfold writeAllGo
    split
    · exact ih (odWrite_keeps (fun h => by cases h) hk)
    · exact hk

theorem odWriteAll_keeps {base : State} {m : Master} {i : Nat} {b : List Byte} {s : State} (hk : Keeps { ask with trip := false } base s) :
    Keeps { ask with trip := false } base (odWriteAll m i b s).2 := by
  unfold odWriteAll
  dsimp only
  repeat' first | (with_reducible first | assumption | dsimp only | apply writeAllGo_keeps | apply Keeps.ite
                                        | apply Keeps.ite_snd | intro _ | exact rfl) | split | dsimp only

theorem setResp_keeps {base : State} {m : Master} {code : Nat} {data : List Byte} {s : State} (hk : Keeps ask base s) :
    Keeps ask base (setResp m code data s) := by
  unfold setResp
  repeat' first | (with_reducible first | assumption | intro _ | exact rfl) | split | with_reducible apply Keeps.upd
                | dsimp only | assumption

theorem dictWrite_keeps {base : State} {m : Master} {i u : Nat} {b : List Byte} {s : State}
    (hq : ask.trip = true → ¬(i = 0x2100 ∧ u = 0xA)) (hk : Keeps ask base s) : Keeps ask base (dictWrite m i u b s) :=
  Keeps.ite (fun _ => odWrite_keeps hq (setResp_keeps hk)) fun _ => hk

theorem dictRead_keeps {base : State} {m : Master} {i u : Nat} {s : State} (hk : Keeps ask base s) :
    Keeps ask base (dictRead m i u s) := by
  unfold dictRead
  repeat' first | (with_reducible first | assumption | apply setResp_keeps | apply Keeps.ite | intro _ | exact rfl) | split
                | dsimp only

theorem execSdoRequest_keeps {m : Master} {write complete : Bool} {index sub : Nat} {data : List Byte} {s : State} : OutKeeps { ask with trip := false } s (execSdoRequest m write complete index sub data s) := by
  unfold execSdoRequest
  dsimp only
  repeat' first | exact fun _ => by omega | exact fun h => absurd h Bool.false_ne_true | (with_reducible first | assumption
                                                                                                               | apply OutKeeps.next
                                                                                                               | apply dictRead_keeps
                                                                                                               | apply dictWrite_keeps
                                                                                                               | apply setResp_keeps
                                                                                                               | apply odWriteAll_keeps
                                                                                                               | apply complete_keeps
                                                                                                               | apply Keeps.ite
                                                                                                               | intro _
                                                                                                               | exact rfl
                                                                                                               | exact Keeps.refl)
                | split | dsimp only

theorem execCounterClear_keeps {m : Master} {index sub : Nat} {data : List Byte} {s : State} :
    OutKeeps ask s (execCounterClear m index sub data s) := by
  unfold execCounterClear
  apply OutKeeps.next
  split
  · rename_i o hf
    refine Keeps.ite (fun hl => dictWrite_keeps (fun _ e => ?_) Keeps.refl) fun _ => Keeps.refl
    obtain ⟨rfl, rfl⟩ := e
    have hn : (findObj 0x2100 0xA).map Obj.life ≠ some .counter := by decide
    rw [hf] at hn
    exact hn (congrArg some hl)
  · exact Keeps.refl

theorem command_keeps {base : State} {m : Master} {u : Nat} {b : List Byte} {s : State} (hq : ask.trip = true → u ≠ 0xA)
    (hk : Keeps ask base s) : Keeps ask base (command m u b s) :=
  dictWrite_keeps (fun h e => hq h e.2) hk

theorem controlWrite_keeps {base : State} {m : Master} {h v : Nat} {s : State} (hk : Keeps ask base s) :
    Keeps ask base (controlWrite m h v s) := dictWrite_keeps (fun _ => by omega) hk

theorem execLaunch_keeps {m : Master} {data : List Byte} {s : State} : OutKeeps ask s (execLaunch m data s) := by
  unfold execLaunch
  repeat' first | exact fun _ => by omega | (with_reducible first | assumption | apply OutKeeps.next | apply command_keeps
                                                                  | exact Keeps.refl) | split | dsimp only

theorem execResumeFrom_keeps {m : Master} {data : List Byte} {s : State} : OutKeeps ask s (execResumeFrom m data s) := by
  unfold execResumeFrom
  repeat' first | exact fun _ => by omega | (with_reducible first | assumption | apply OutKeeps.next | apply command_keeps
                                                                  | exact Keeps.refl) | split | dsimp only

theorem execSuspend_keeps {m : Master} {h : Nat} {s : State} : OutKeeps ask s (execSuspend m h s) := by
  unfold execSuspend
  repeat' first | (with_reducible first | assumption | apply OutKeeps.next | apply controlWrite_keeps | exact Keeps.refl)
                | split | dsimp only

theorem execResume_keeps {m : Master} {h : Nat} {s : State} : OutKeeps ask s (execResume m h s) := by
  unfold execResume
  repeat' first | (with_reducible first | assumption | apply OutKeeps.next | apply controlWrite_keeps | exact Keeps.refl)
                | split | dsimp only

theorem execCancel_keeps {m : Master} {h : Nat} {s : State} : OutKeeps ask s (execCancel m h s) := by
  unfold execCancel
  repeat' first | (with_reducible first | assumption | apply OutKeeps.next | apply controlWrite_keeps | exact Keeps.refl)
                | split | dsimp only

theorem execRelease_keeps {m : Master} {h : Nat} {s : State} : OutKeeps ask s (execRelease m h s) := by
  unfold execRelease
  repeat' first | (with_reducible first | assumption | apply OutKeeps.next | apply controlWrite_keeps | exact Keeps.refl)
                | split | dsimp only

theorem execFwUpdate_keeps {m : Master} {data : List Byte} {s : State} : OutKeeps ask s (execFwUpdate m data s) := by
  unfold execFwUpdate
  repeat' first | exact fun _ => by omega | (with_reducible first | assumption | apply OutKeeps.next | apply command_keeps
                                                                  | exact Keeps.refl) | split | dsimp only

theorem execQuote_keeps {m : Master} {data : List Byte} {s : State} : OutKeeps ask s (execQuote m data s) := by
  unfold execQuote
  repeat' first | exact fun _ => by omega | (with_reducible first | assumption | apply OutKeeps.next | apply command_keeps
                                                                  | exact Keeps.refl) | split | dsimp only

theorem execScrub_keeps {m : Master} {data : List Byte} {s : State} : OutKeeps ask s (execScrub m data s) := by
  unfold execScrub
  repeat' first | exact fun _ => by omega | (with_reducible first | assumption | apply OutKeeps.next | apply command_keeps
                                                                  | exact Keeps.refl) | split | dsimp only

theorem marginRow_keeps {base : State} {kind : Nat} {m : Master} {data : List Byte} {s : State} (hk : Keeps ask base s) :
    Keeps ask base (marginRow kind m data s) := by
  unfold marginRow
  repeat' first | exact fun _ => by omega | (with_reducible first | assumption | apply command_keeps | apply Keeps.ite
                                                                  | intro _ | exact rfl) | split | dsimp only

theorem execMarginHbmTiming_keeps {m : Master} {data : List Byte} {s : State} : OutKeeps ask s (execMarginHbmTiming m data s) := by
  unfold execMarginHbmTiming
  repeat' first | (with_reducible first | assumption | apply OutKeeps.next | apply marginRow_keeps | exact Keeps.refl)
                | split | dsimp only

theorem execMarginHbmVddq_keeps {m : Master} {data : List Byte} {s : State} : OutKeeps ask s (execMarginHbmVddq m data s) := by
  unfold execMarginHbmVddq
  repeat' first | (with_reducible first | assumption | apply OutKeeps.next | apply marginRow_keeps | exact Keeps.refl)
                | split | dsimp only

theorem execMarginNearBond_keeps {m : Master} {data : List Byte} {s : State} : OutKeeps ask s (execMarginNearBond m data s) := by
  unfold execMarginNearBond
  repeat' first | (with_reducible first | assumption | apply OutKeeps.next | apply marginRow_keeps | exact Keeps.refl)
                | split | dsimp only

theorem execMarginD2dEye_keeps {m : Master} {data : List Byte} {s : State} : OutKeeps ask s (execMarginD2dEye m data s) := by
  unfold execMarginD2dEye
  repeat' first | (with_reducible first | assumption | apply OutKeeps.next | apply marginRow_keeps | exact Keeps.refl)
                | split | dsimp only

theorem execSelfTest_keeps {m : Master} {data : List Byte} {s : State} : OutKeeps ask s (execSelfTest m data s) := by
  unfold execSelfTest
  repeat' first | exact fun _ => by omega | (with_reducible first | assumption | apply OutKeeps.next | apply command_keeps
                                                                  | exact Keeps.refl) | split | dsimp only

theorem execCalibrate_keeps {m : Master} {data : List Byte} {s : State} : OutKeeps ask s (execCalibrate m data s) := by
  unfold execCalibrate
  repeat' first | exact fun _ => by omega | (with_reducible first | assumption | apply OutKeeps.next | apply command_keeps
                                                                  | exact Keeps.refl) | split | dsimp only

theorem execShadow_keeps {m : Master} {data : List Byte} {s : State} : OutKeeps ask s (execShadow m data s) := by
  unfold execShadow
  repeat' first | exact fun _ => by omega | (with_reducible first | assumption | apply OutKeeps.next | apply command_keeps
                                                                  | exact Keeps.refl) | split | dsimp only

theorem execTripRelease_keeps {m : Master} {data : List Byte} {s : State} : OutKeeps { ask with trip := false } s (execTripRelease m data s) := by
  unfold execTripRelease
  repeat' first | exact fun _ => by omega | exact fun h => absurd h Bool.false_ne_true | (with_reducible first | assumption
                                                                                                               | apply OutKeeps.next
                                                                                                               | apply command_keeps
                                                                                                               | exact Keeps.refl)
                | split | dsimp only

theorem execCautiousAck_keeps {m : Master} {data : List Byte} {s : State} : OutKeeps ask s (execCautiousAck m data s) := by
  unfold execCautiousAck
  repeat' first | exact fun _ => by omega | (with_reducible first | assumption | apply OutKeeps.next | apply command_keeps
                                                                  | exact Keeps.refl) | split | dsimp only

theorem resetRow_keeps {base : State} {kind : Nat} {m : Master} {arg : Nat} {s : State} (hk : Keeps ask base s) :
    Keeps ask base (resetRow kind m arg s) := by
  unfold resetRow
  repeat' first | exact fun _ => by omega | (with_reducible first | assumption | apply command_keeps) | split | dsimp only

theorem execChipWarmReset_keeps {m : Master} {arg : Nat} {s : State} : OutKeeps ask s (execChipWarmReset m arg s) := by
  unfold execChipWarmReset
  repeat' first | (with_reducible first | assumption | apply OutKeeps.next | apply resetRow_keeps | exact Keeps.refl)
                | split | dsimp only

theorem execChipWarmResetFwdKept_keeps {m : Master} {arg : Nat} {s : State} : OutKeeps ask s (execChipWarmResetFwdKept m arg s) := by
  unfold execChipWarmResetFwdKept
  repeat' first | (with_reducible first | assumption | apply OutKeeps.next | apply resetRow_keeps | exact Keeps.refl)
                | split | dsimp only

theorem execComputePlaneReset_keeps {m : Master} {arg : Nat} {s : State} : OutKeeps ask s (execComputePlaneReset m arg s) := by
  unfold execComputePlaneReset
  repeat' first | (with_reducible first | assumption | apply OutKeeps.next | apply resetRow_keeps | exact Keeps.refl)
                | split | dsimp only

theorem execForwardingPlaneReset_keeps {m : Master} {arg : Nat} {s : State} : OutKeeps ask s (execForwardingPlaneReset m arg s) := by
  unfold execForwardingPlaneReset
  repeat' first | (with_reducible first | assumption | apply OutKeeps.next | apply resetRow_keeps | exact Keeps.refl)
                | split | dsimp only

theorem execCoreReset_keeps {m : Master} {arg : Nat} {s : State} : OutKeeps ask s (execCoreReset m arg s) := by
  unfold execCoreReset
  repeat' first | (with_reducible first | assumption | apply OutKeeps.next | apply resetRow_keeps | exact Keeps.refl)
                | split | dsimp only

theorem execManagementReset_keeps {m : Master} {arg : Nat} {s : State} : OutKeeps ask s (execManagementReset m arg s) := by
  unfold execManagementReset
  repeat' first | (with_reducible first | assumption | apply OutKeeps.next | apply resetRow_keeps | exact Keeps.refl)
                | split | dsimp only

theorem execWindowEntryWrite_keeps {m : Master} {data : List Byte} {s : State} : OutKeeps ask s (execWindowEntryWrite m data s) := by
  unfold execWindowEntryWrite
  repeat' first | exact fun _ => by omega | (with_reducible first | assumption | apply OutKeeps.next | apply dictWrite_keeps
                                                                  | exact Keeps.refl) | split | dsimp only

theorem execWindowRevoke_keeps {m : Master} {data : List Byte} {s : State} : OutKeeps ask s (execWindowRevoke m data s) := by
  unfold execWindowRevoke
  repeat' first | exact fun _ => by omega | (with_reducible first | assumption | apply OutKeeps.next | apply dictWrite_keeps
                                                                  | exact Keeps.refl) | split | dsimp only

theorem execGroupCreate_keeps {m : Master} {g : Nat} {s : State} : OutKeeps ask s (execGroupCreate m g s) := by
  unfold execGroupCreate
  repeat' first | exact fun _ => by omega | (with_reducible first | assumption | apply OutKeeps.next | apply dictWrite_keeps
                                                                  | exact Keeps.refl) | split | dsimp only

theorem execGroupDelete_keeps {m : Master} {g : Nat} {s : State} : OutKeeps ask s (execGroupDelete m g s) := by
  unfold execGroupDelete
  repeat' first | exact fun _ => by omega | (with_reducible first | assumption | apply OutKeeps.next | apply dictWrite_keeps
                                                                  | exact Keeps.refl) | split | dsimp only

theorem execGroupClearFault_keeps {m : Master} {g : Nat} {s : State} : OutKeeps ask s (execGroupClearFault m g s) := by
  unfold execGroupClearFault
  repeat' first | exact fun _ => by omega | (with_reducible first | assumption | apply OutKeeps.next | apply dictWrite_keeps
                                                                  | exact Keeps.refl) | split | dsimp only

theorem execMembershipWrite_keeps {m : Master} {data : List Byte} {s : State} : OutKeeps ask s (execMembershipWrite m data s) := by
  unfold execMembershipWrite
  repeat' first | exact fun _ => by omega | (with_reducible first | assumption | apply OutKeeps.next | apply dictWrite_keeps
                                                                  | exact Keeps.refl) | split | dsimp only

theorem execJobTagWrite_keeps {m : Master} {data : List Byte} {s : State} : OutKeeps ask s (execJobTagWrite m data s) := by
  unfold execJobTagWrite
  repeat' first | exact fun _ => by omega | (with_reducible first | assumption | apply OutKeeps.next | apply dictWrite_keeps
                                                                  | exact Keeps.refl) | split | dsimp only

theorem execKeySlotWrite_keeps {m : Master} {slot : Nat} {data : List Byte} {s : State} : OutKeeps ask s (execKeySlotWrite m slot data s) := by
  unfold execKeySlotWrite
  repeat' first | exact fun _ => by omega | (with_reducible first | assumption | apply OutKeeps.next | apply dictWrite_keeps
                                                                  | exact Keeps.refl) | split | dsimp only

theorem execHbmRegionsWrite_keeps {m : Master} {region : Nat} {data : List Byte} {s : State} : OutKeeps ask s (execHbmRegionsWrite m region data s) := by
  unfold execHbmRegionsWrite
  repeat' first | exact fun _ => by omega | (with_reducible first | assumption | apply OutKeeps.next | apply dictWrite_keeps
                                                                  | exact Keeps.refl) | split | dsimp only

theorem execCheckPolicyWrite_keeps {m : Master} {sub : Nat} {data : List Byte} {s : State} : OutKeeps ask s (execCheckPolicyWrite m sub data s) := by
  unfold execCheckPolicyWrite
  repeat' first | exact fun _ => by omega | (with_reducible first | assumption | apply OutKeeps.next | apply dictWrite_keeps
                                                                  | exact Keeps.refl) | split | dsimp only

theorem execControllerKeyWrite_keeps {m : Master} {slot : Nat} {data : List Byte} {s : State} : OutKeeps ask s (execControllerKeyWrite m slot data s) := by
  unfold execControllerKeyWrite
  repeat' first | exact fun _ => by omega | (with_reducible first | assumption | apply OutKeeps.next | apply dictWrite_keeps
                                                                  | exact Keeps.refl) | split | dsimp only

theorem execRefusedByClear_keeps {m : Master} {data : List Byte} {s : State} : OutKeeps ask s (execRefusedByClear m data s) := by
  unfold execRefusedByClear
  repeat' first | exact fun _ => by omega | (with_reducible first | assumption | apply OutKeeps.next | apply dictWrite_keeps
                                                                  | exact Keeps.refl) | split | dsimp only

theorem execEnterBrumate_keeps {m : Master} {s : State} : OutKeeps ask s (execEnterBrumate m s) := by
  unfold execEnterBrumate
  repeat' first | exact fun _ => by omega | (with_reducible first | assumption | apply OutKeeps.next | apply dictWrite_keeps
                                                                  | exact Keeps.refl) | split | dsimp only

theorem execLeaveBrumate_keeps {m : Master} {s : State} : OutKeeps ask s (execLeaveBrumate m s) := by
  unfold execLeaveBrumate
  repeat' first | exact fun _ => by omega | (with_reducible first | assumption | apply OutKeeps.next | apply dictWrite_keeps
                                                                  | exact Keeps.refl) | split | dsimp only

theorem execTestModeEnter_keeps {m : Master} {data : List Byte} {s : State} : OutKeeps ask s (execTestModeEnter m data s) := by
  unfold execTestModeEnter
  repeat' first | exact fun _ => by omega | (with_reducible first | assumption | apply OutKeeps.next | apply dictWrite_keeps
                                                                  | exact Keeps.refl) | split | dsimp only

theorem execLoopbackPortsWrite_keeps {m : Master} {data : List Byte} {s : State} : OutKeeps ask s (execLoopbackPortsWrite m data s) := by
  unfold execLoopbackPortsWrite
  repeat' first | exact fun _ => by omega | (with_reducible first | assumption | apply OutKeeps.next | apply dictWrite_keeps
                                                                  | exact Keeps.refl) | split | dsimp only

theorem execELoopbackWrite_keeps {m : Master} {data : List Byte} {s : State} : OutKeeps ask s (execELoopbackWrite m data s) := by
  unfold execELoopbackWrite
  repeat' first | exact fun _ => by omega | (with_reducible first | assumption | apply OutKeeps.next | apply dictWrite_keeps
                                                                  | exact Keeps.refl) | split | dsimp only

theorem regByMaster_keeps {base : State} {m : Master} {a v : Nat} {s : State} (hk : Keeps ask base s) :
    Keeps ask base (regByMaster m a v s) := by
  unfold regByMaster
  repeat' first | (with_reducible first | assumption | apply secureRegWrite_keeps | apply regWrite_keeps | apply Keeps.ite
                                        | intro _ | exact rfl) | split | with_reducible apply Keeps.upd | dsimp only
                | assumption

theorem execW1cWrite_keeps {m : Master} {addr : Nat} {val : Word} {s : State} : OutKeeps ask s (execW1cWrite m addr val s) := by
  unfold execW1cWrite
  repeat' first | (with_reducible first | assumption | apply OutKeeps.next | apply regByMaster_keeps | apply Keeps.ite
                                        | intro _ | exact rfl | exact Keeps.refl) | split | dsimp only

theorem execRegisterWrite_keeps {m : Master} {addr : Nat} {val : Word} {s : State} : OutKeeps ask s (execRegisterWrite m addr val s) := by
  unfold execRegisterWrite
  repeat' first | (with_reducible first | assumption | apply OutKeeps.next | apply regByMaster_keeps | apply Keeps.ite
                                        | intro _ | exact rfl | exact Keeps.refl) | split | dsimp only

theorem serveRead_keeps {base : State} {m : SdoMsg} {s : State} (hk : Keeps ask base s) :
    Keeps ask base (serveRead m s) := by
  unfold serveRead
  dsimp only
  repeat' first | (with_reducible first | assumption | apply replyTo_keeps | apply State.modSession_keeps | apply Keeps.ite
                                        | intro _ | exact rfl) | split | with_reducible apply Keeps.upd | dsimp only
                | assumption

theorem execSessionRead_keeps {msg : SdoMsg} {s : State} : OutKeeps ask s (execSessionRead msg s) := by
  unfold execSessionRead
  repeat' first | (with_reducible first | assumption | apply OutKeeps.next | apply serveRead_keeps | apply inSession_keeps
                                        | apply Keeps.ite | intro _ | exact rfl | exact Keeps.refl) | split | dsimp only

theorem serveWrite_keeps {base : State} {m : SdoMsg} {s : State} (hk : Keeps { ask with trip := false } base s) :
    Keeps { ask with trip := false } base (serveWrite m s) := by
  unfold serveWrite
  dsimp only
  repeat' first | exact fun _ => by omega | exact fun h => absurd h Bool.false_ne_true | (with_reducible first | assumption
                                                                                                               | apply odWriteAll_keeps
                                                                                                               | apply odWrite_keeps
                                                                                                               | apply replyTo_keeps
                                                                                                               | apply Keeps.ite
                                                                                                               | intro _
                                                                                                               | exact rfl)
                | split | dsimp only

theorem execSessionWrite_keeps {msg : SdoMsg} {s : State} : OutKeeps { ask with trip := false } s (execSessionWrite msg s) := by
  unfold execSessionWrite
  repeat' first | (with_reducible first | assumption | apply OutKeeps.next | apply serveWrite_keeps | apply inSession_keeps
                                        | apply Keeps.ite | intro _ | exact rfl | exact Keeps.refl) | split | dsimp only

end Sys2Proof.Machine
end

