-- ==== Sys2Proof/Laws/KeepsAl.lean ====
section
/-! SUPPORT. What the operations of Machine/Al.lean keep. -/

namespace Sys2Proof.Machine

variable {ask : Asks}

theorem alAck_keeps {base : State} {ack : Bool} {s : State} (hk : Keeps ask base s) :
    Keeps ask base (alAck ack s) := by
  unfold alAck
  repeat' first | (with_reducible first | assumption | apply Keeps.ite | intro _ | exact rfl) | split
                | with_reducible apply Keeps.upd | dsimp only | assumption

theorem alEnter_keeps {base : State} {want : Nat} {s : State} (hk : Keeps ask base s) :
    Keeps ask base (alEnter want s) := by
  unfold alEnter
  dsimp only
  repeat' first | (with_reducible first | assumption | apply cancelAll_keeps | apply settleAl_keeps | apply emcyDrain_keeps
                                        | apply Keeps.ite | intro _ | exact rfl) | split | with_reducible apply Keeps.upd
                | dsimp only | assumption

theorem alRequest_keeps {base : State} {want : Nat} {inputs ack : Bool} {s : State} (hk : Keeps ask base s) :
    Keeps ask base (alRequest want inputs ack s) := by
  unfold alRequest
  dsimp only
  repeat' first | (with_reducible first | assumption | apply alEnter_keeps | apply alAck_keeps | apply Keeps.ite | intro _
                                        | exact rfl) | split | with_reducible apply Keeps.upd | dsimp only | assumption

theorem execAlRequestInit_keeps {ack : Bool} {s : State} : OutKeeps ask s (execAlRequestInit ack s) := by
  unfold execAlRequestInit
  repeat' first | (with_reducible first | assumption | apply OutKeeps.next | apply alRequest_keeps | exact Keeps.refl)
                | split | dsimp only

theorem execAlRequestPreop_keeps {ack : Bool} {s : State} : OutKeeps ask s (execAlRequestPreop ack s) := by
  unfold execAlRequestPreop
  repeat' first | (with_reducible first | assumption | apply OutKeeps.next | apply alRequest_keeps | exact Keeps.refl)
                | split | dsimp only

theorem execAlRequestSafeop_keeps {r : SafeopRequest} {s : State} : OutKeeps ask s (execAlRequestSafeop r s) := by
  unfold execAlRequestSafeop
  repeat' first | (with_reducible first | assumption | apply OutKeeps.next | apply alRequest_keeps | exact Keeps.refl)
                | split | dsimp only

theorem execAlRequestOp_keeps {ack : Bool} {s : State} : OutKeeps ask s (execAlRequestOp ack s) := by
  unfold execAlRequestOp
  repeat' first | (with_reducible first | assumption | apply OutKeeps.next | apply alRequest_keeps | exact Keeps.refl)
                | split | dsimp only

theorem execAlRequestBootstrap_keeps {ack : Bool} {s : State} : OutKeeps ask s (execAlRequestBootstrap ack s) := by
  unfold execAlRequestBootstrap
  repeat' first | (with_reducible first | assumption | apply OutKeeps.next | apply alRequest_keeps | exact Keeps.refl)
                | split | dsimp only

theorem execTxpdoSample_keeps {s : State} : OutKeeps ask s (execTxpdoSample s) := by
  unfold execTxpdoSample
  repeat' first | (with_reducible first | assumption | apply OutKeeps.next | apply Keeps.ite | intro _ | exact rfl
                                        | exact Keeps.refl) | split | with_reducible apply Keeps.upd | dsimp only
                | assumption

theorem execFoeWrite_keeps {name : String} {password : Nat} {data : List Byte} {s : State} : OutKeeps ask s (execFoeWrite name password data s) := by
  unfold execFoeWrite
  dsimp only
  repeat' first | (with_reducible first | assumption | apply OutKeeps.next | apply Keeps.ite | intro _ | exact rfl
                                        | exact Keeps.refl) | split | with_reducible apply Keeps.upd | dsimp only
                | assumption

theorem execEmcyCoalescedReport_keeps {s : State} : OutKeeps ask s (execEmcyCoalescedReport s) := by
  unfold execEmcyCoalescedReport
  dsimp only
  repeat' first | (with_reducible first | assumption | apply OutKeeps.next | apply emcyDrain_keeps | apply emcyPut_keeps
                                        | apply Keeps.ite | intro _ | exact rfl | exact Keeps.refl) | split
                | with_reducible apply Keeps.upd | dsimp only | assumption

theorem execStoredSettingWriteThrough_keeps {s : State} : OutKeeps ask s (execStoredSettingWriteThrough s) := by
  unfold execStoredSettingWriteThrough
  repeat' first | (with_reducible first | assumption | apply OutKeeps.next | intro _ | exact rfl | exact Keeps.refl) | split
                | with_reducible apply Keeps.upd | dsimp only | assumption

end Sys2Proof.Machine
end

