-- ==== Sys2Proof/Laws/KeepsMatrix.lean ====
section
/-! SUPPORT. What the operations of Machine/Matrix.lean keep. -/

namespace Sys2Proof.Machine

variable {ask : Asks}

theorem execMatrix_keeps {c : Nat} {s : State} : OutKeeps ask s (execMatrix c s) := by
  unfold execMatrix
  repeat' first | (with_reducible first | assumption | apply OutKeeps.next | apply issue_keeps | intro _ | exact rfl
                                        | exact Keeps.refl) | split | dsimp only

theorem execMatrixStart_keeps {c : Nat} {s : State} : OutKeeps ask s (execMatrixStart c s) := by
  unfold execMatrixStart
  dsimp only
  repeat' first | (with_reducible first | assumption | apply OutKeeps.next | apply startRun_keeps | apply Keeps.ite
                                        | intro _ | exact rfl | exact Keeps.refl) | (rw [List.length_map]; assumption)
                | split | with_reducible apply Keeps.upd | dsimp only | assumption

theorem matFinish_keeps {base : State} {c : Nat} {r : Run} {errs : List CellErr} {convDiff parity : Bool} {s : State} (hk : Keeps ask base s) :
    Keeps ask base (matFinish c r errs convDiff parity s) := by
  unfold matFinish
  dsimp only
  repeat' first | (with_reducible first | assumption | apply endAttempt_keeps | apply complete_keeps | apply raceView_keeps
                                        | apply touchRead_keeps | apply State.modCore_keeps | apply Keeps.ite | intro _
                                        | exact rfl) | split | with_reducible apply Keeps.upd | dsimp only | assumption

theorem execMatrixComplete_keeps {c : Nat} {errs : List CellErr} {convDiff parity : Bool} {s : State} : OutKeeps ask s (execMatrixComplete c errs convDiff parity s) := by
  unfold execMatrixComplete
  repeat' first | (with_reducible first | assumption | apply OutKeeps.next | apply matFinish_keeps | apply Keeps.ite
                                        | intro _ | exact rfl | exact Keeps.refl) | split | with_reducible apply Keeps.upd
                | dsimp only | assumption

theorem execInPlaceRetry_keeps {c : Nat} {e : Eng} {s : State} : OutKeeps ask s (execInPlaceRetry c e s) := by
  unfold execInPlaceRetry
  repeat' first | (with_reducible first | assumption | apply OutKeeps.next | apply retryInPlace_keeps | exact Keeps.refl)
                | split | dsimp only

end Sys2Proof.Machine
end

