-- ==== Sys2Proof/Laws/KeepsMvp.lean ====
section
/-! SUPPORT. What the operations of Machine/Mvp.lean keep. -/

namespace Sys2Proof.Machine

variable {ask : Asks}

theorem execGemv_keeps {c : Nat} {s : State} : OutKeeps ask s (execGemv c s) := by
  unfold execGemv
  repeat' first | (with_reducible first | assumption | apply OutKeeps.next | apply issue_keeps | intro _ | exact rfl
                                        | exact Keeps.refl) | split | dsimp only

theorem execLoadx_keeps {c : Nat} {s : State} : OutKeeps ask s (execLoadx c s) := by
  unfold execLoadx
  repeat' first | (with_reducible first | assumption | apply OutKeeps.next | apply issue_keeps | intro _ | exact rfl
                                        | exact Keeps.refl) | split | dsimp only

theorem execMvecStart_keeps {c : Nat} {s : State} : OutKeeps ask s (execMvecStart c s) := by
  unfold execMvecStart
  dsimp only
  repeat' first | (with_reducible first | assumption | apply OutKeeps.next | apply startRun_keeps | apply Keeps.ite
                                        | intro _ | exact rfl | exact Keeps.refl) | (rw [List.length_map]; assumption)
                | split | with_reducible apply Keeps.upd | dsimp only | assumption

theorem gemvFinish_keeps {base : State} {c : Nat} {r : Run} {errs : List CellErr} {parity : Bool} {s : State} (hk : Keeps ask base s) :
    Keeps ask base (gemvFinish c r errs parity s) := by
  unfold gemvFinish
  dsimp only
  repeat' first | (with_reducible first | assumption | apply endAttempt_keeps | apply complete_keeps | apply raceView_keeps
                                        | apply touchRead_keeps | apply State.modCore_keeps | apply Keeps.ite | intro _
                                        | exact rfl) | split | with_reducible apply Keeps.upd | dsimp only | assumption

theorem execGemvComplete_keeps {c : Nat} {errs : List CellErr} {parity : Bool} {s : State} : OutKeeps ask s (execGemvComplete c errs parity s) := by
  unfold execGemvComplete
  repeat' first | (with_reducible first | assumption | apply OutKeeps.next | apply gemvFinish_keeps | apply Keeps.ite
                                        | intro _ | exact rfl | exact Keeps.refl) | split | with_reducible apply Keeps.upd
                | dsimp only | assumption

theorem loadxFinish_keeps {base : State} {c : Nat} {r : Run} {s : State} (hk : Keeps ask base s) :
    Keeps ask base (loadxFinish c r s) := by
  unfold loadxFinish
  dsimp only
  repeat' first | (with_reducible first | assumption | apply complete_keeps | apply raceView_keeps | apply touchRead_keeps
                                        | apply State.modCore_keeps | apply Keeps.ite | apply Keeps.foldl
                                        | apply Keeps.foldl_snd | intro _ | exact rfl) | split
                | with_reducible apply Keeps.upd | dsimp only | assumption

theorem execLoadxComplete_keeps {c : Nat} {s : State} : OutKeeps ask s (execLoadxComplete c s) := by
  unfold execLoadxComplete
  repeat' first | (with_reducible first | assumption | apply OutKeeps.next | apply loadxFinish_keeps | apply Keeps.ite
                                        | intro _ | exact rfl | exact Keeps.refl) | split | with_reducible apply Keeps.upd
                | dsimp only | assumption

theorem execProxyRetry_keeps {c : Nat} {e : Eng} {s : State} : OutKeeps ask s (execProxyRetry c e s) := by
  unfold execProxyRetry
  repeat' first | (with_reducible first | assumption | apply OutKeeps.next | apply retryProxy_keeps
                                        | apply State.modCore_keeps | apply Keeps.ite | intro _ | exact rfl
                                        | exact Keeps.refl) | split | dsimp only

theorem execProxyRetryComplete_keeps {c : Nat} {e : Eng} {errs : List CellErr} {convDiff parity : Bool} {s : State} : OutKeeps ask s (execProxyRetryComplete c e errs convDiff parity s) := by
  unfold execProxyRetryComplete
  repeat' first | (with_reducible first | assumption | apply OutKeeps.next | apply gemvFinish_keeps | apply matFinish_keeps
                                        | intro _ | exact rfl | exact Keeps.refl) | split | with_reducible apply Keeps.upd
                | dsimp only | assumption

end Sys2Proof.Machine
end

