-- ==== Sys2Proof/Laws/KeepsVector.lean ====
section
/-! SUPPORT. What the operations of Machine/Vector.lean keep. -/

namespace Sys2Proof.Machine

variable {ask : Asks}

theorem spoil_keeps {base : State} {v : Vec} {k : Core} {outs : List VOut} {s : State} (hk : Keeps ask base s) :
    Keeps ask base (spoil v k outs s).2 := by
  unfold spoil
  dsimp only
  repeat' first | (with_reducible first | assumption | dsimp only | apply nextFreeWord_keeps | apply Keeps.ite
                                        | apply Keeps.ite_snd | apply Keeps.foldl | apply Keeps.foldl_snd | intro _
                                        | exact rfl) | split | with_reducible apply Keeps.upd | dsimp only | assumption

end Sys2Proof.Machine
end

