-- ==== Sys2Proof/Laws/KeepsReduce.lean ====
section
/-! SUPPORT. What the operations of Machine/Reduce.lean keep. -/

namespace Sys2Proof.Machine

variable {ask : Asks}

theorem vecAttempt_keeps {base : State} {s : State} {c : Nat} {v : Vec} {errs : List CellErr} {parity : Bool} (hk : Keeps ask base s) :
    Keeps ask base (vecAttempt s c v errs parity).2 := by
  unfold vecAttempt
  dsimp only
  repeat' first | (with_reducible first | assumption | dsimp only | apply spoil_keeps | apply Keeps.ite
                                        | apply Keeps.ite_snd | intro _ | exact rfl) | (rw [List.length_map]; assumption)
                | (with_reducible refine Keeps.of_snd ‹_› ?_) | split | with_reducible apply Keeps.upd | dsimp only
                | assumption

theorem vecFinish_keeps {base : State} {c : Nat} {r : Run} {errs : List CellErr} {parity : Bool} {s : State} (hk : Keeps ask base s) :
    Keeps ask base (vecFinish c r errs parity s) := by
  unfold vecFinish
  dsimp only
  repeat' first | (with_reducible first | assumption | apply vecAttempt_keeps | apply endAttempt_keeps
                                        | apply complete_keeps | apply State.modCore_keeps | apply Keeps.ite | intro _
                                        | exact rfl) | split | dsimp only

theorem issueVec_keeps {base : State} {opc : Nat} {c : Nat} {s : State} (hk : Keeps ask base s) :
    Keeps ask base (issueVec opc c s) := by
  unfold issueVec
  repeat' first | (with_reducible first | assumption | apply issue_keeps | intro _ | exact rfl) | split | dsimp only

theorem execAdd_keeps {c : Nat} {s : State} : OutKeeps ask s (execAdd c s) := by
  unfold execAdd
  repeat' first | (with_reducible first | assumption | apply OutKeeps.next | apply issue_keeps | intro _ | exact rfl
                                        | exact Keeps.refl) | split | dsimp only

theorem execSub_keeps {c : Nat} {s : State} : OutKeeps ask s (execSub c s) := by
  unfold execSub
  repeat' first | (with_reducible first | assumption | apply OutKeeps.next | apply issueVec_keeps | exact Keeps.refl)
                | split | dsimp only

theorem execMul_keeps {c : Nat} {s : State} : OutKeeps ask s (execMul c s) := by
  unfold execMul
  repeat' first | (with_reducible first | assumption | apply OutKeeps.next | apply issueVec_keeps | exact Keeps.refl)
                | split | dsimp only

theorem execFma_keeps {c : Nat} {s : State} : OutKeeps ask s (execFma c s) := by
  unfold execFma
  repeat' first | (with_reducible first | assumption | apply OutKeeps.next | apply issueVec_keeps | exact Keeps.refl)
                | split | dsimp only

theorem execMin_keeps {c : Nat} {s : State} : OutKeeps ask s (execMin c s) := by
  unfold execMin
  repeat' first | (with_reducible first | assumption | apply OutKeeps.next | apply issueVec_keeps | exact Keeps.refl)
                | split | dsimp only

theorem execMax_keeps {c : Nat} {s : State} : OutKeeps ask s (execMax c s) := by
  unfold execMax
  repeat' first | (with_reducible first | assumption | apply OutKeeps.next | apply issueVec_keeps | exact Keeps.refl)
                | split | dsimp only

theorem execAbs_keeps {c : Nat} {s : State} : OutKeeps ask s (execAbs c s) := by
  unfold execAbs
  repeat' first | (with_reducible first | assumption | apply OutKeeps.next | apply issueVec_keeps | exact Keeps.refl)
                | split | dsimp only

theorem execNeg_keeps {c : Nat} {s : State} : OutKeeps ask s (execNeg c s) := by
  unfold execNeg
  repeat' first | (with_reducible first | assumption | apply OutKeeps.next | apply issueVec_keeps | exact Keeps.refl)
                | split | dsimp only

theorem execCmp_keeps {c : Nat} {s : State} : OutKeeps ask s (execCmp c s) := by
  unfold execCmp
  repeat' first | (with_reducible first | assumption | apply OutKeeps.next | apply issueVec_keeps | exact Keeps.refl)
                | split | dsimp only

theorem execSel_keeps {c : Nat} {s : State} : OutKeeps ask s (execSel c s) := by
  unfold execSel
  repeat' first | (with_reducible first | assumption | apply OutKeeps.next | apply issueVec_keeps | exact Keeps.refl)
                | split | dsimp only

theorem execAndOp_keeps {c : Nat} {s : State} : OutKeeps ask s (execAndOp c s) := by
  unfold execAndOp
  repeat' first | (with_reducible first | assumption | apply OutKeeps.next | apply issueVec_keeps | exact Keeps.refl)
                | split | dsimp only

theorem execOrOp_keeps {c : Nat} {s : State} : OutKeeps ask s (execOrOp c s) := by
  unfold execOrOp
  repeat' first | (with_reducible first | assumption | apply OutKeeps.next | apply issueVec_keeps | exact Keeps.refl)
                | split | dsimp only

theorem execXorOp_keeps {c : Nat} {s : State} : OutKeeps ask s (execXorOp c s) := by
  unfold execXorOp
  repeat' first | (with_reducible first | assumption | apply OutKeeps.next | apply issueVec_keeps | exact Keeps.refl)
                | split | dsimp only

theorem execNotOp_keeps {c : Nat} {s : State} : OutKeeps ask s (execNotOp c s) := by
  unfold execNotOp
  repeat' first | (with_reducible first | assumption | apply OutKeeps.next | apply issueVec_keeps | exact Keeps.refl)
                | split | dsimp only

theorem execShl_keeps {c : Nat} {s : State} : OutKeeps ask s (execShl c s) := by
  unfold execShl
  repeat' first | (with_reducible first | assumption | apply OutKeeps.next | apply issueVec_keeps | exact Keeps.refl)
                | split | dsimp only

theorem execShr_keeps {c : Nat} {s : State} : OutKeeps ask s (execShr c s) := by
  unfold execShr
  repeat' first | (with_reducible first | assumption | apply OutKeeps.next | apply issueVec_keeps | exact Keeps.refl)
                | split | dsimp only

theorem execSra_keeps {c : Nat} {s : State} : OutKeeps ask s (execSra c s) := by
  unfold execSra
  repeat' first | (with_reducible first | assumption | apply OutKeeps.next | apply issueVec_keeps | exact Keeps.refl)
                | split | dsimp only

theorem execPopc_keeps {c : Nat} {s : State} : OutKeeps ask s (execPopc c s) := by
  unfold execPopc
  repeat' first | (with_reducible first | assumption | apply OutKeeps.next | apply issueVec_keeps | exact Keeps.refl)
                | split | dsimp only

theorem execCvt_keeps {c : Nat} {s : State} : OutKeeps ask s (execCvt c s) := by
  unfold execCvt
  repeat' first | (with_reducible first | assumption | apply OutKeeps.next | apply issueVec_keeps | exact Keeps.refl)
                | split | dsimp only

theorem execPack_keeps {c : Nat} {s : State} : OutKeeps ask s (execPack c s) := by
  unfold execPack
  repeat' first | (with_reducible first | assumption | apply OutKeeps.next | apply issueVec_keeps | exact Keeps.refl)
                | split | dsimp only

theorem execUnpkl_keeps {c : Nat} {s : State} : OutKeeps ask s (execUnpkl c s) := by
  unfold execUnpkl
  repeat' first | (with_reducible first | assumption | apply OutKeeps.next | apply issueVec_keeps | exact Keeps.refl)
                | split | dsimp only

theorem execUnpkh_keeps {c : Nat} {s : State} : OutKeeps ask s (execUnpkh c s) := by
  unfold execUnpkh
  repeat' first | (with_reducible first | assumption | apply OutKeeps.next | apply issueVec_keeps | exact Keeps.refl)
                | split | dsimp only

theorem execMov_keeps {c : Nat} {s : State} : OutKeeps ask s (execMov c s) := by
  unfold execMov
  repeat' first | (with_reducible first | assumption | apply OutKeeps.next | apply issueVec_keeps | exact Keeps.refl)
                | split | dsimp only

theorem execExp_keeps {c : Nat} {s : State} : OutKeeps ask s (execExp c s) := by
  unfold execExp
  repeat' first | (with_reducible first | assumption | apply OutKeeps.next | apply issueVec_keeps | exact Keeps.refl)
                | split | dsimp only

theorem execLog_keeps {c : Nat} {s : State} : OutKeeps ask s (execLog c s) := by
  unfold execLog
  repeat' first | (with_reducible first | assumption | apply OutKeeps.next | apply issueVec_keeps | exact Keeps.refl)
                | split | dsimp only

theorem execRsqrt_keeps {c : Nat} {s : State} : OutKeeps ask s (execRsqrt c s) := by
  unfold execRsqrt
  repeat' first | (with_reducible first | assumption | apply OutKeeps.next | apply issueVec_keeps | exact Keeps.refl)
                | split | dsimp only

theorem execTanh_keeps {c : Nat} {s : State} : OutKeeps ask s (execTanh c s) := by
  unfold execTanh
  repeat' first | (with_reducible first | assumption | apply OutKeeps.next | apply issueVec_keeps | exact Keeps.refl)
                | split | dsimp only

theorem execSigm_keeps {c : Nat} {s : State} : OutKeeps ask s (execSigm c s) := by
  unfold execSigm
  repeat' first | (with_reducible first | assumption | apply OutKeeps.next | apply issueVec_keeps | exact Keeps.refl)
                | split | dsimp only

theorem execErf_keeps {c : Nat} {s : State} : OutKeeps ask s (execErf c s) := by
  unfold execErf
  repeat' first | (with_reducible first | assumption | apply OutKeeps.next | apply issueVec_keeps | exact Keeps.refl)
                | split | dsimp only

theorem execRcp_keeps {c : Nat} {s : State} : OutKeeps ask s (execRcp c s) := by
  unfold execRcp
  repeat' first | (with_reducible first | assumption | apply OutKeeps.next | apply issueVec_keeps | exact Keeps.refl)
                | split | dsimp only

theorem execSqrt_keeps {c : Nat} {s : State} : OutKeeps ask s (execSqrt c s) := by
  unfold execSqrt
  repeat' first | (with_reducible first | assumption | apply OutKeeps.next | apply issueVec_keeps | exact Keeps.refl)
                | split | dsimp only

theorem execRsum_keeps {c : Nat} {s : State} : OutKeeps ask s (execRsum c s) := by
  unfold execRsum
  repeat' first | (with_reducible first | assumption | apply OutKeeps.next | apply issueVec_keeps | exact Keeps.refl)
                | split | dsimp only

theorem execRmax_keeps {c : Nat} {s : State} : OutKeeps ask s (execRmax c s) := by
  unfold execRmax
  repeat' first | (with_reducible first | assumption | apply OutKeeps.next | apply issueVec_keeps | exact Keeps.refl)
                | split | dsimp only

theorem execRmin_keeps {c : Nat} {s : State} : OutKeeps ask s (execRmin c s) := by
  unfold execRmin
  repeat' first | (with_reducible first | assumption | apply OutKeeps.next | apply issueVec_keeps | exact Keeps.refl)
                | split | dsimp only

theorem execRfin_keeps {c : Nat} {s : State} : OutKeeps ask s (execRfin c s) := by
  unfold execRfin
  repeat' first | (with_reducible first | assumption | apply OutKeeps.next | apply issueVec_keeps | exact Keeps.refl)
                | split | dsimp only

theorem execCmpr_keeps {c : Nat} {s : State} : OutKeeps ask s (execCmpr c s) := by
  unfold execCmpr
  repeat' first | (with_reducible first | assumption | apply OutKeeps.next | apply issueVec_keeps | exact Keeps.refl)
                | split | dsimp only

theorem execCmpri_keeps {c : Nat} {s : State} : OutKeeps ask s (execCmpri c s) := by
  unfold execCmpri
  repeat' first | (with_reducible first | assumption | apply OutKeeps.next | apply issueVec_keeps | exact Keeps.refl)
                | split | dsimp only

theorem execExpd_keeps {c : Nat} {s : State} : OutKeeps ask s (execExpd c s) := by
  unfold execExpd
  repeat' first | (with_reducible first | assumption | apply OutKeeps.next | apply issueVec_keeps | exact Keeps.refl)
                | split | dsimp only

theorem execScani_keeps {c : Nat} {s : State} : OutKeeps ask s (execScani c s) := by
  unfold execScani
  repeat' first | (with_reducible first | assumption | apply OutKeeps.next | apply issueVec_keeps | exact Keeps.refl)
                | split | dsimp only

theorem execScanx_keeps {c : Nat} {s : State} : OutKeeps ask s (execScanx c s) := by
  unfold execScanx
  repeat' first | (with_reducible first | assumption | apply OutKeeps.next | apply issueVec_keeps | exact Keeps.refl)
                | split | dsimp only

theorem execSmaxi_keeps {c : Nat} {s : State} : OutKeeps ask s (execSmaxi c s) := by
  unfold execSmaxi
  repeat' first | (with_reducible first | assumption | apply OutKeeps.next | apply issueVec_keeps | exact Keeps.refl)
                | split | dsimp only

theorem execSmini_keeps {c : Nat} {s : State} : OutKeeps ask s (execSmini c s) := by
  unfold execSmini
  repeat' first | (with_reducible first | assumption | apply OutKeeps.next | apply issueVec_keeps | exact Keeps.refl)
                | split | dsimp only

theorem execLrec_keeps {c : Nat} {s : State} : OutKeeps ask s (execLrec c s) := by
  unfold execLrec
  repeat' first | (with_reducible first | assumption | apply OutKeeps.next | apply issueVec_keeps | exact Keeps.refl)
                | split | dsimp only

theorem execVecStart_keeps {c : Nat} {s : State} : OutKeeps ask s (execVecStart c s) := by
  unfold execVecStart
  dsimp only
  repeat' first | (with_reducible first | assumption | apply OutKeeps.next | apply startRun_keeps | apply Keeps.ite
                                        | intro _ | exact rfl | exact Keeps.refl) | split | with_reducible apply Keeps.upd
                | dsimp only | assumption

theorem execVecComplete_keeps {c : Nat} {errs : List CellErr} {parity : Bool} {s : State} : OutKeeps ask s (execVecComplete c errs parity s) := by
  unfold execVecComplete
  repeat' first | (with_reducible first | assumption | apply OutKeeps.next | apply vecFinish_keeps | apply Keeps.ite
                                        | intro _ | exact rfl | exact Keeps.refl) | split | with_reducible apply Keeps.upd
                | dsimp only | assumption

end Sys2Proof.Machine
end

