-- ==== Sys2Proof/Laws/KeepsSgu.lean ====
section
/-! SUPPORT. What the operations of Machine/Sgu.lean keep. -/

namespace Sys2Proof.Machine

variable {ask : Asks}

theorem sampleRecord_keeps {base : State} {s : State} {f : Smp} {p : Pick} (hk : Keeps ask base s) :
    Keeps ask base (sampleRecord s f p).2 := by
  unfold sampleRecord
  dsimp only
  repeat' first | (with_reducible first | assumption | dsimp only | apply nextFreeWord_keeps | apply Keeps.ite
                                        | apply Keeps.ite_snd | intro _ | exact rfl)
                | (with_reducible refine Keeps.of_snd ‹_› ?_) | split | with_reducible apply Keeps.upd | dsimp only
                | assumption

theorem randFinish_keeps {base : State} {c : Nat} {r : Run} {parity : Bool} {s : State} (hk : Keeps ask base s) :
    Keeps ask base (randFinish c r parity s) := by
  unfold randFinish
  dsimp only
  repeat' first | (with_reducible first | assumption | apply complete_keeps | apply State.modCore_keeps | apply Keeps.ite
                                        | intro _ | exact rfl) | split | dsimp only

theorem sampleFinish_keeps {base : State} {c : Nat} {r : Run} {parity : Bool} {s : State} (hk : Keeps ask base s) :
    Keeps ask base (sampleFinish c r parity s) := by
  unfold sampleFinish
  dsimp only
  repeat' first | (with_reducible first | assumption | apply sampleRecord_keeps | apply complete_keeps
                                        | apply raceView_keeps | apply storePieces_keeps | apply touchRead_keeps
                                        | apply setPoison_keeps | apply odInc_keeps | apply State.modCore_keeps
                                        | apply Keeps.ite | intro _ | exact rfl) | split | with_reducible apply Keeps.upd
                | dsimp only | assumption

theorem execRand_keeps {c : Nat} {s : State} : OutKeeps ask s (execRand c s) := by
  unfold execRand
  repeat' first | (with_reducible first | assumption | apply OutKeeps.next | apply issue_keeps | intro _ | exact rfl
                                        | exact Keeps.refl) | split | dsimp only

theorem execSample_keeps {c : Nat} {s : State} : OutKeeps ask s (execSample c s) := by
  unfold execSample
  repeat' first | (with_reducible first | assumption | apply OutKeeps.next | apply issue_keeps | intro _ | exact rfl
                                        | exact Keeps.refl) | split | dsimp only

theorem execSguStart_keeps {c : Nat} {s : State} : OutKeeps ask s (execSguStart c s) := by
  unfold execSguStart
  dsimp only
  repeat' first | (with_reducible first | assumption | apply OutKeeps.next | apply startRun_keeps | apply Keeps.ite
                                        | intro _ | exact rfl | exact Keeps.refl) | (rw [List.length_map]; assumption)
                | split | with_reducible apply Keeps.upd | dsimp only | assumption

theorem execRandComplete_keeps {c : Nat} {parity : Bool} {s : State} : OutKeeps ask s (execRandComplete c parity s) := by
  unfold execRandComplete
  repeat' first | (with_reducible first | assumption | apply OutKeeps.next | apply randFinish_keeps | apply Keeps.ite
                                        | intro _ | exact rfl | exact Keeps.refl) | split | with_reducible apply Keeps.upd
                | dsimp only | assumption

theorem execSampleComplete_keeps {c : Nat} {parity : Bool} {s : State} : OutKeeps ask s (execSampleComplete c parity s) := by
  unfold execSampleComplete
  repeat' first | (with_reducible first | assumption | apply OutKeeps.next | apply sampleFinish_keeps | apply Keeps.ite
                                        | intro _ | exact rfl | exact Keeps.refl) | split | with_reducible apply Keeps.upd
                | dsimp only | assumption

end Sys2Proof.Machine
end

