-- ==== Sys2Proof/Laws/KeepsTap.lean ====
section
/-! SUPPORT. What the operations of Machine/Tap.lean keep. -/

namespace Sys2Proof.Machine

variable {ask : Asks}

theorem tapTake_keeps {base : State} {op : Nat} {s : State} (hk : Keeps ask base s) :
    Keeps ask base (tapTake op s) := by
  unfold tapTake
  repeat' first | (with_reducible first | assumption | intro _ | exact rfl) | split | with_reducible apply Keeps.upd
                | dsimp only | assumption

theorem tapDenied_keeps {base : State} {s : State} (hk : Keeps ask base s) :
    Keeps ask base (tapDenied s) := by
  unfold tapDenied
  repeat' first | (with_reducible first | assumption | apply tapTake_keeps | apply odInc_keeps) | split | dsimp only

theorem tapLoad_keeps {base : State} {op : Nat} {f : State → State} {s : State} (hk : Keeps ask base s) (hkf : ∀ t, Keeps ask base t → Keeps ask base (f t)) :
    Keeps ask base (tapLoad op f s) := by
  unfold tapLoad
  repeat' first | (with_reducible first | assumption | apply hkf | apply tapDenied_keeps | apply tapTake_keeps
                                        | apply Keeps.ite | intro _ | exact rfl) | split | dsimp only

theorem loadCells_keeps {base : State} {v : Nat} {s : State} (hk : Keeps ask base s) :
    Keeps ask base (loadCells v s) := by
  unfold loadCells
  repeat' first | (with_reducible first | assumption | intro _ | exact rfl) | split | with_reducible apply Keeps.upd
                | dsimp only | assumption

theorem execExtest_keeps {cells : Nat} {s : State} : OutKeeps ask s (execExtest cells s) := by
  unfold execExtest
  repeat' first | (with_reducible first | assumption | apply OutKeeps.next | apply loadCells_keeps | apply tapLoad_keeps
                                        | exact Keeps.refl) | split | dsimp only

theorem execSamplePreload_keeps {cells : Nat} {s : State} : OutKeeps ask s (execSamplePreload cells s) := by
  unfold execSamplePreload
  repeat' first | (with_reducible first | assumption | apply OutKeeps.next | apply loadCells_keeps | apply tapLoad_keeps
                                        | exact Keeps.refl) | split | dsimp only

theorem execIdcode_keeps {s : State} : OutKeeps ask s (execIdcode s) := by
  unfold execIdcode
  repeat' first | (with_reducible first | assumption | apply OutKeeps.next | apply tapLoad_keeps | exact Keeps.refl)
                | exact fun _ h => h | split | dsimp only

theorem execClampInstruction_keeps {s : State} : OutKeeps ask s (execClampInstruction s) := by
  unfold execClampInstruction
  repeat' first | (with_reducible first | assumption | apply OutKeeps.next | apply tapLoad_keeps | exact Keeps.refl)
                | exact fun _ h => h | split | dsimp only

theorem execHighz_keeps {s : State} : OutKeeps ask s (execHighz s) := by
  unfold execHighz
  repeat' first | (with_reducible first | assumption | apply OutKeeps.next | apply tapLoad_keeps | exact Keeps.refl)
                | exact fun _ h => h | split | dsimp only

theorem execBypass_keeps {opcode : Nat} {s : State} : OutKeeps ask s (execBypass opcode s) := by
  unfold execBypass
  repeat' first | (with_reducible first | assumption | apply OutKeeps.next | apply tapDenied_keeps | apply tapTake_keeps
                                        | apply Keeps.ite | intro _ | exact rfl | exact Keeps.refl) | split | dsimp only

theorem selectDie_keeps {base : State} {sel : Nat} {s : State} (hk : Keeps ask base s) :
    Keeps ask base (selectDie sel s) := by
  unfold selectDie
  dsimp only
  repeat' first | (with_reducible first | assumption | apply stopForwarding_keeps | apply Keeps.ite | intro _ | exact rfl)
                | split | with_reducible apply Keeps.upd | dsimp only | assumption

theorem execDieSelect_keeps {sel : Nat} {s : State} : OutKeeps ask s (execDieSelect sel s) := by
  unfold execDieSelect
  repeat' first | (with_reducible first | assumption | apply OutKeeps.next | apply selectDie_keeps | apply tapLoad_keeps
                                        | exact Keeps.refl) | split | dsimp only

theorem execIjtag_keeps {s : State} : OutKeeps ask s (execIjtag s) := by
  unfold execIjtag
  repeat' first | (with_reducible first | assumption | apply OutKeeps.next | apply tapLoad_keeps | intro _ | exact rfl
                                        | exact Keeps.refl) | split | with_reducible apply Keeps.upd | dsimp only
                | assumption

theorem execTapReset_keeps {s : State} : OutKeeps ask s (execTapReset s) := by
  unfold execTapReset
  repeat' first | (with_reducible first | assumption | apply OutKeeps.next | apply selectDie_keeps | apply tapTake_keeps
                                        | exact Keeps.refl) | split | dsimp only

end Sys2Proof.Machine
end

