-- ==== Sys2Proof/Laws/Ops.lean ====
section
/-! SUPPORT. What the shared operations do, said once: a core, a handle, a port and a group changed in place, sparse tables, the word
that the sequencer executes. -/

namespace Sys2Proof.Machine

variable {s : State}

/-! ## Entries of a list changed in place -/

theorem modify_congr {α : Type} {l : List α} {i : Nat} {d : α} {f g : α → α} (h : f (l.getD i d) = g (l.getD i d)) :
    l.modify i f = l.modify i g := by
  apply List.ext_getElem?
  intro j
  rw [List.getElem?_modify, List.getElem?_modify]
  by_cases hj : i = j
  · subst hj
    simp only [List.getD] at h
    cases hl : l[i]? with
    | none => rfl
    | some x => simp only [hl, Option.getD_some] at h; simp [h]
  · simp [hj]

theorem getD_modify_same {α : Type} {l : List α} {i : Nat} {d : α} {f : α → α} (h : i < l.length) :
    (l.modify i f).getD i d = f (l.getD i d) := by
  simp [List.getD, h]

theorem getD_modify_other {α : Type} {l : List α} {i j : Nat} {d : α} {f : α → α} (h : i ≠ j) :
    (l.modify i f).getD j d = l.getD j d := by
  simp [List.getD, h]

/-- Only what a change does to the core as it is matters. -/
theorem modCore_congr {c : Nat} {f g : Core → Core} (h : f (s.core c) = g (s.core c)) : s.modCore c f = s.modCore c g := by
  simp only [State.modCore, modify_congr h]

theorem core_modCore_same {c : Nat} {f : Core → Core} (h : c < s.cores.length) : (s.modCore c f).core c = f (s.core c) :=
  getD_modify_same h

theorem core_modCore_other {c d : Nat} {f : Core → Core} (h : c ≠ d) : (s.modCore c f).core d = s.core d :=
  getD_modify_other h

/-- Two changes of one core are one. -/
theorem modCore_modCore {c : Nat} {f g : Core → Core} : (s.modCore c f).modCore c g = s.modCore c fun k => g (f k) := by
  simp only [State.modCore]
  congr 1
  apply List.ext_getElem?
  intro j
  simp only [List.getElem?_modify]
  by_cases hj : c = j
  · subst hj; cases s.cores[c]? <;> simp
  · simp [hj]

theorem modHandle_congr {h : Nat} {f g : Handle → Handle} (e : f (s.handle h) = g (s.handle h)) : s.modHandle h f = s.modHandle h g := by
  simp only [State.modHandle, modify_congr e]

theorem handle_modHandle_same {h : Nat} {f : Handle → Handle} (hh : h - 1 < s.handles.length) :
    (s.modHandle h f).handle h = f (s.handle h) := getD_modify_same hh

theorem handle_modHandle_other {h j : Nat} {f : Handle → Handle} (hh : h - 1 ≠ j - 1) : (s.modHandle h f).handle j = s.handle j :=
  getD_modify_other hh

theorem port_modPort_same {p : Nat} {f : Port → Port} (h : p < s.ports.length) : (s.modPort p f).port p = f (s.port p) :=
  getD_modify_same h

theorem port_modPort_other {p j : Nat} {f : Port → Port} (h : p ≠ j) : (s.modPort p f).port j = s.port j :=
  getD_modify_other h

theorem modPort_congr {p : Nat} {f g : Port → Port} (h : f (s.port p) = g (s.port p)) : s.modPort p f = s.modPort p g := by
  simp only [State.modPort, modify_congr h]

/-! ## Sparse tables -/

theorem lget_lset_same {α : Type} [DecidableEq α] {d v : α} {k : Nat} {l : List (Nat × α)} (h : lwf d l = true) :
    lget d (lset d k v l) k = v := by
  induction l with
  | nil => by_cases e : v = d <;> simp [lset, lget, e]
  | cons x r ih =>
    obtain ⟨k', y⟩ := x
    simp only [lwf, Bool.and_eq_true] at h
    simp only [lset]
    split
    · split
      · simp [lget, *]
      · simp [lget]
    · split
      · subst_vars
        split
        · have ha := h.1.2
          subst_vars
          cases r with
          | nil => rfl
          | cons z r' =>
            obtain ⟨kz, vz⟩ := z
            simp only [above, List.all_cons, Bool.and_eq_true, decide_eq_true_eq] at ha
            simp [lget, ha.1]
        · simp [lget]
      · simp only [lget]
        rw [if_neg (by omega), if_neg (by omega)]
        exact ih h.2

/-! ## The sequencer -/

/-- A word that the SQ executes is handed to its meaning. -/
theorem withWord_executes {c op xw w : Nat} {body : Nat → State} (h : Executes s c op xw w) : withWord op xw c s body = body w := by
  obtain ⟨h1, h2, h3, h4, h5⟩ := h
  unfold withWord
  simp only [h1, ne_eq, not_true, if_false, h3, h4, h5]
  rw [if_neg (by omega), if_neg (by omega)]

/-- A core whose SQ does not run executes no word. -/
theorem withWord_not_running {c op xw : Nat} {body : Nat → State} (h : (s.core c).mode ≠ .running) : withWord op xw c s body = s := by
  unfold withWord
  rw [if_pos h]

end Sys2Proof.Machine
end

