-- ==== Sys2Proof/Laws/PerInstr.lean ====
section
/-! SUPPORT. Statements made instruction by instruction. IssueWords: a command that issues an engine descriptor names its own core, carries the
operation code and the number of extension doubles that R47 gives its engine, and its selecting code fits the field that holds it. -/

namespace Sys2Proof.Laws.IssueWords

open Sys2Proof Sys2Proof.Machine

/-- Operation code and extension doubles of R47 by engine: MATRIX, MVEC, VEC, MOVE, SAMPLE and RAND, COLL. -/
def headOk (r : IssueRow) : Bool :=
  match r.eng with
  | .ma => r.op == 0x10 && r.xw == 7
  | .mvp => r.op == 0x11 && r.xw == 7
  | .ve => r.op == 0x12 && r.xw == 5
  | .dm => r.op == 0x13 && r.xw == 14
  | .coll => r.op == 0x14 && r.xw == 8
  | .sgu => (r.op == 0x15 || r.op == 0x16) && r.xw == 5

/-- A command that issues a descriptor has the head of its engine's words and a code that fits its field. -/
def Statement (i : Instr) : Prop := ∀ r, issueRow i = some r → headOk r = true ∧ r.code < 2 ^ r.width ∧ r.lo + r.width ≤ 32

/-- A command that issues none. -/
theorem of_none {i : Instr} (h : issueRow i = none) : Statement i := fun r e => by simp [h] at e

/-- A command that issues one. -/
theorem of_row {i : Instr} {r : IssueRow} (h : issueRow i = some r) (k : headOk r = true ∧ r.code < 2 ^ r.width ∧ r.lo + r.width ≤ 32) :
    Statement i := fun q e => by rw [h] at e; cases e; exact k

theorem loop (c : Nat) : Statement (.loop c) := of_none rfl
theorem endloop (c : Nat) : Statement (.endloop c) := of_none rfl
theorem setvl (c : Nat) : Statement (.setvl c) := of_none rfl
theorem wait (c : Nat) : Statement (.wait c) := of_none rfl
theorem waitRelease (c : Nat) : Statement (.waitRelease c) := of_none rfl
theorem waitTimeout (c : Nat) : Statement (.waitTimeout c) := of_none rfl
theorem signal (c : Nat) : Statement (.signal c) := of_none rfl
theorem brst (c : Nat) : Statement (.brst c) := of_none rfl
theorem yieldOp (c : Nat) : Statement (.yieldOp c) := of_none rfl
theorem fence (c : Nat) : Statement (.fence c) := of_none rfl
theorem fenceComplete (c : Nat) : Statement (.fenceComplete c) := of_none rfl
theorem fenceTimeout (c : Nat) : Statement (.fenceTimeout c) := of_none rfl
theorem tallyClear (c : Nat) : Statement (.tallyClear c) := of_none rfl
theorem tallyStore (c : Nat) : Statement (.tallyStore c) := of_none rfl
theorem tallyCompare (c : Nat) : Statement (.tallyCompare c) := of_none rfl
theorem tallyLoad (c : Nat) : Statement (.tallyLoad c) := of_none rfl
theorem halt (c : Nat) : Statement (.halt c) := of_none rfl
theorem illegalOp (c : Nat) : Statement (.illegalOp c) := of_none rfl
theorem launchPeerStop : Statement (.launchPeerStop) := of_none rfl
theorem matrix (c : Nat) : Statement (.matrix c) := of_row rfl ⟨rfl, by simp⟩
theorem matrixStart (c : Nat) : Statement (.matrixStart c) := of_none rfl
theorem matrixComplete (c : Nat) (errs : List CellErr) (convDiff : Bool) (parity : Bool) : Statement (.matrixComplete c errs convDiff parity) := of_none rfl
theorem inPlaceRetry (c : Nat) (e : Eng) : Statement (.inPlaceRetry c e) := of_none rfl
theorem proxyRetry (c : Nat) (e : Eng) : Statement (.proxyRetry c e) := of_none rfl
theorem proxyRetryComplete (c : Nat) (e : Eng) (errs : List CellErr) (convDiff : Bool) (parity : Bool) : Statement (.proxyRetryComplete c e errs convDiff parity) := of_none rfl
theorem gemv (c : Nat) : Statement (.gemv c) := of_row rfl ⟨rfl, by simp⟩
theorem loadx (c : Nat) : Statement (.loadx c) := of_row rfl ⟨rfl, by simp⟩
theorem mvecStart (c : Nat) : Statement (.mvecStart c) := of_none rfl
theorem gemvComplete (c : Nat) (errs : List CellErr) (parity : Bool) : Statement (.gemvComplete c errs parity) := of_none rfl
theorem loadxComplete (c : Nat) : Statement (.loadxComplete c) := of_none rfl
theorem add (c : Nat) : Statement (.add c) := of_row rfl ⟨rfl, by simp⟩
theorem sub (c : Nat) : Statement (.sub c) := of_row rfl ⟨rfl, by simp⟩
theorem mul (c : Nat) : Statement (.mul c) := of_row rfl ⟨rfl, by simp⟩
theorem fma (c : Nat) : Statement (.fma c) := of_row rfl ⟨rfl, by simp⟩
theorem min (c : Nat) : Statement (.min c) := of_row rfl ⟨rfl, by simp⟩
theorem max (c : Nat) : Statement (.max c) := of_row rfl ⟨rfl, by simp⟩
theorem abs (c : Nat) : Statement (.abs c) := of_row rfl ⟨rfl, by simp⟩
theorem neg (c : Nat) : Statement (.neg c) := of_row rfl ⟨rfl, by simp⟩
theorem cmp (c : Nat) : Statement (.cmp c) := of_row rfl ⟨rfl, by simp⟩
theorem sel (c : Nat) : Statement (.sel c) := of_row rfl ⟨rfl, by simp⟩
theorem andOp (c : Nat) : Statement (.andOp c) := of_row rfl ⟨rfl, by simp⟩
theorem orOp (c : Nat) : Statement (.orOp c) := of_row rfl ⟨rfl, by simp⟩
theorem xorOp (c : Nat) : Statement (.xorOp c) := of_row rfl ⟨rfl, by simp⟩
theorem notOp (c : Nat) : Statement (.notOp c) := of_row rfl ⟨rfl, by simp⟩
theorem shl (c : Nat) : Statement (.shl c) := of_row rfl ⟨rfl, by simp⟩
theorem shr (c : Nat) : Statement (.shr c) := of_row rfl ⟨rfl, by simp⟩
theorem sra (c : Nat) : Statement (.sra c) := of_row rfl ⟨rfl, by simp⟩
theorem popc (c : Nat) : Statement (.popc c) := of_row rfl ⟨rfl, by simp⟩
theorem cvt (c : Nat) : Statement (.cvt c) := of_row rfl ⟨rfl, by simp⟩
theorem pack (c : Nat) : Statement (.pack c) := of_row rfl ⟨rfl, by simp⟩
theorem unpkl (c : Nat) : Statement (.unpkl c) := of_row rfl ⟨rfl, by simp⟩
theorem unpkh (c : Nat) : Statement (.unpkh c) := of_row rfl ⟨rfl, by simp⟩
theorem mov (c : Nat) : Statement (.mov c) := of_row rfl ⟨rfl, by simp⟩
theorem exp (c : Nat) : Statement (.exp c) := of_row rfl ⟨rfl, by simp⟩
theorem log (c : Nat) : Statement (.log c) := of_row rfl ⟨rfl, by simp⟩
theorem rsqrt (c : Nat) : Statement (.rsqrt c) := of_row rfl ⟨rfl, by simp⟩
theorem tanh (c : Nat) : Statement (.tanh c) := of_row rfl ⟨rfl, by simp⟩
theorem sigm (c : Nat) : Statement (.sigm c) := of_row rfl ⟨rfl, by simp⟩
theorem erf (c : Nat) : Statement (.erf c) := of_row rfl ⟨rfl, by simp⟩
theorem rcp (c : Nat) : Statement (.rcp c) := of_row rfl ⟨rfl, by simp⟩
theorem sqrt (c : Nat) : Statement (.sqrt c) := of_row rfl ⟨rfl, by simp⟩
theorem rsum (c : Nat) : Statement (.rsum c) := of_row rfl ⟨rfl, by simp⟩
theorem rmax (c : Nat) : Statement (.rmax c) := of_row rfl ⟨rfl, by simp⟩
theorem rmin (c : Nat) : Statement (.rmin c) := of_row rfl ⟨rfl, by simp⟩
theorem rfin (c : Nat) : Statement (.rfin c) := of_row rfl ⟨rfl, by simp⟩
theorem cmpr (c : Nat) : Statement (.cmpr c) := of_row rfl ⟨rfl, by simp⟩
theorem cmpri (c : Nat) : Statement (.cmpri c) := of_row rfl ⟨rfl, by simp⟩
theorem expd (c : Nat) : Statement (.expd c) := of_row rfl ⟨rfl, by simp⟩
theorem scani (c : Nat) : Statement (.scani c) := of_row rfl ⟨rfl, by simp⟩
theorem scanx (c : Nat) : Statement (.scanx c) := of_row rfl ⟨rfl, by simp⟩
theorem smaxi (c : Nat) : Statement (.smaxi c) := of_row rfl ⟨rfl, by simp⟩
theorem smini (c : Nat) : Statement (.smini c) := of_row rfl ⟨rfl, by simp⟩
theorem lrec (c : Nat) : Statement (.lrec c) := of_row rfl ⟨rfl, by simp⟩
theorem vecStart (c : Nat) : Statement (.vecStart c) := of_none rfl
theorem vecComplete (c : Nat) (errs : List CellErr) (parity : Bool) : Statement (.vecComplete c errs parity) := of_none rfl
theorem rand (c : Nat) : Statement (.rand c) := of_row rfl ⟨rfl, by simp⟩
theorem sample (c : Nat) : Statement (.sample c) := of_row rfl ⟨rfl, by simp⟩
theorem sguStart (c : Nat) : Statement (.sguStart c) := of_none rfl
theorem randComplete (c : Nat) (parity : Bool) : Statement (.randComplete c parity) := of_none rfl
theorem sampleComplete (c : Nat) (parity : Bool) : Statement (.sampleComplete c parity) := of_none rfl
theorem copy (c : Nat) : Statement (.copy c) := of_row rfl ⟨rfl, by simp⟩
theorem gather (c : Nat) : Statement (.gather c) := of_row rfl ⟨rfl, by simp⟩
theorem scatter (c : Nat) : Statement (.scatter c) := of_row rfl ⟨rfl, by simp⟩
theorem panel (c : Nat) : Statement (.panel c) := of_row rfl ⟨rfl, by simp⟩
theorem rread (c : Nat) : Statement (.rread c) := of_row rfl ⟨rfl, by simp⟩
theorem rwrite (c : Nat) : Statement (.rwrite c) := of_row rfl ⟨rfl, by simp⟩
theorem rwriteAck (c : Nat) : Statement (.rwriteAck c) := of_row rfl ⟨rfl, by simp⟩
theorem moveStart (c : Nat) : Statement (.moveStart c) := of_none rfl
theorem moveComplete (c : Nat) (parity : Bool) : Statement (.moveComplete c parity) := of_none rfl
theorem allreduce (c : Nat) : Statement (.allreduce c) := of_row rfl ⟨rfl, by simp⟩
theorem reduceScatter (c : Nat) : Statement (.reduceScatter c) := of_row rfl ⟨rfl, by simp⟩
theorem allgather (c : Nat) : Statement (.allgather c) := of_row rfl ⟨rfl, by simp⟩
theorem broadcast (c : Nat) : Statement (.broadcast c) := of_row rfl ⟨rfl, by simp⟩
theorem a2a (c : Nat) : Statement (.a2a c) := of_row rfl ⟨rfl, by simp⟩
theorem a2av (c : Nat) : Statement (.a2av c) := of_row rfl ⟨rfl, by simp⟩
theorem dispatch (c : Nat) : Statement (.dispatch c) := of_row rfl ⟨rfl, by simp⟩
theorem barrier (c : Nat) : Statement (.barrier c) := of_row rfl ⟨rfl, by simp⟩
theorem collStart (c : Nat) : Statement (.collStart c) := of_none rfl
theorem collComplete (c : Nat) (g : Nat) (bucket : Nat) : Statement (.collComplete c g bucket) := of_none rfl
theorem chipEventAdd : Statement (.chipEventAdd) := of_none rfl
theorem chipEventVisible : Statement (.chipEventVisible) := of_none rfl
theorem launch (m : Master) (data : List Byte) : Statement (.launch m data) := of_none rfl
theorem launchDequeue : Statement (.launchDequeue) := of_none rfl
theorem startBroadcast : Statement (.startBroadcast) := of_none rfl
theorem streamFetchStart : Statement (.streamFetchStart) := of_none rfl
theorem streamFetchComplete (c : Nat) : Statement (.streamFetchComplete c) := of_none rfl
theorem launchEnd : Statement (.launchEnd) := of_none rfl
theorem resumeFrom (m : Master) (data : List Byte) : Statement (.resumeFrom m data) := of_none rfl
theorem suspend (m : Master) (h : Nat) : Statement (.suspend m h) := of_none rfl
theorem corePark (c : Nat) : Statement (.corePark c) := of_none rfl
theorem suspendRecordsWritten : Statement (.suspendRecordsWritten) := of_none rfl
theorem resume (m : Master) (h : Nat) : Statement (.resume m h) := of_none rfl
theorem cancel (m : Master) (h : Nat) : Statement (.cancel m h) := of_none rfl
theorem release (m : Master) (h : Nat) : Statement (.release m h) := of_none rfl
theorem handleLingerExpiry (h : Nat) : Statement (.handleLingerExpiry h) := of_none rfl
theorem fwUpdate (m : Master) (data : List Byte) : Statement (.fwUpdate m data) := of_none rfl
theorem fwUpdateVerified : Statement (.fwUpdateVerified) := of_none rfl
theorem fwUpdateCommitted : Statement (.fwUpdateCommitted) := of_none rfl
theorem quote (m : Master) (data : List Byte) : Statement (.quote m data) := of_none rfl
theorem quoteComplete (h : Nat) : Statement (.quoteComplete h) := of_none rfl
theorem aliasCertReady (produced : Bool) : Statement (.aliasCertReady produced) := of_none rfl
theorem scrub (m : Master) (data : List Byte) : Statement (.scrub m data) := of_none rfl
theorem scrubComplete (h : Nat) : Statement (.scrubComplete h) := of_none rfl
theorem marginHbmTiming (m : Master) (data : List Byte) : Statement (.marginHbmTiming m data) := of_none rfl
theorem marginHbmVddq (m : Master) (data : List Byte) : Statement (.marginHbmVddq m data) := of_none rfl
theorem marginNearBond (m : Master) (data : List Byte) : Statement (.marginNearBond m data) := of_none rfl
theorem marginD2dEye (m : Master) (data : List Byte) : Statement (.marginD2dEye m data) := of_none rfl
theorem marginComplete (h : Nat) (results : List Byte) : Statement (.marginComplete h results) := of_none rfl
theorem selfTest (m : Master) (data : List Byte) : Statement (.selfTest m data) := of_none rfl
theorem selfTestSiteDone (h : Nat) (site : Nat) (found : SiteResult) : Statement (.selfTestSiteDone h site found) := of_none rfl
theorem calibrate (m : Master) (data : List Byte) : Statement (.calibrate m data) := of_none rfl
theorem calibrationComplete (h : Nat) : Statement (.calibrationComplete h) := of_none rfl
theorem shadow (m : Master) (data : List Byte) : Statement (.shadow m data) := of_none rfl
theorem shadowStep (h : Nat) : Statement (.shadowStep h) := of_none rfl
theorem shadowTableReceive (h : Nat) (step : Nat) (table : List Byte) : Statement (.shadowTableReceive h step table) := of_none rfl
theorem shadowResendTimer (h : Nat) : Statement (.shadowResendTimer h) := of_none rfl
theorem shadowStepLimit (h : Nat) : Statement (.shadowStepLimit h) := of_none rfl
theorem tripRelease (m : Master) (data : List Byte) : Statement (.tripRelease m data) := of_none rfl
theorem cautiousAck (m : Master) (data : List Byte) : Statement (.cautiousAck m data) := of_none rfl
theorem chipWarmReset (m : Master) (arg : Nat) : Statement (.chipWarmReset m arg) := of_none rfl
theorem chipWarmResetFwdKept (m : Master) (arg : Nat) : Statement (.chipWarmResetFwdKept m arg) := of_none rfl
theorem computePlaneReset (m : Master) (arg : Nat) : Statement (.computePlaneReset m arg) := of_none rfl
theorem forwardingPlaneReset (m : Master) (arg : Nat) : Statement (.forwardingPlaneReset m arg) := of_none rfl
theorem coreReset (m : Master) (arg : Nat) : Statement (.coreReset m arg) := of_none rfl
theorem managementReset (m : Master) (arg : Nat) : Statement (.managementReset m arg) := of_none rfl
theorem mdWatchdogExpiry : Statement (.mdWatchdogExpiry) := of_none rfl
theorem powerOn : Statement (.powerOn) := of_none rfl
theorem resetNAssert : Statement (.resetNAssert) := of_none rfl
theorem resetNRelease : Statement (.resetNRelease) := of_none rfl
theorem alRequestInit (ack : Bool) : Statement (.alRequestInit ack) := of_none rfl
theorem alRequestPreop (ack : Bool) : Statement (.alRequestPreop ack) := of_none rfl
theorem alRequestSafeop (ack : SafeopRequest) : Statement (.alRequestSafeop ack) := of_none rfl
theorem alRequestOp (ack : Bool) : Statement (.alRequestOp ack) := of_none rfl
theorem alRequestBootstrap (ack : Bool) : Statement (.alRequestBootstrap ack) := of_none rfl
theorem txpdoSample : Statement (.txpdoSample) := of_none rfl
theorem sdoRequest (m : Master) (write complete : Bool) (index sub : Nat) (data : List Byte) : Statement (.sdoRequest m write complete index sub data) := of_none rfl
theorem counterClear (m : Master) (index sub : Nat) (data : List Byte) : Statement (.counterClear m index sub data) := of_none rfl
theorem storedSettingWriteThrough : Statement (.storedSettingWriteThrough) := of_none rfl
theorem emcyCoalescedReport : Statement (.emcyCoalescedReport) := of_none rfl
theorem foeWrite (name : String) (password : Nat) (data : List Byte) : Statement (.foeWrite name password data) := of_none rfl
theorem recoveryVerifyDone : Statement (.recoveryVerifyDone) := of_none rfl
theorem openSlice (msg : SdoMsg) : Statement (.openSlice msg) := of_none rfl
theorem openReassemblyTimeout (addr : List Byte) (port : Nat) : Statement (.openReassemblyTimeout addr port) := of_none rfl
theorem sessionRead (msg : SdoMsg) : Statement (.sessionRead msg) := of_none rfl
theorem sessionWrite (msg : SdoMsg) : Statement (.sessionWrite msg) := of_none rfl
theorem keepalive (msg : SdoMsg) : Statement (.keepalive msg) := of_none rfl
theorem closeSession (msg : SdoMsg) : Statement (.closeSession msg) := of_none rfl
theorem sessionIdleExpiry (n : Nat) : Statement (.sessionIdleExpiry n) := of_none rfl
theorem windowEntryWrite (m : Master) (data : List Byte) : Statement (.windowEntryWrite m data) := of_none rfl
theorem windowRevoke (m : Master) (data : List Byte) : Statement (.windowRevoke m data) := of_none rfl
theorem groupCreate (m : Master) (g : Nat) : Statement (.groupCreate m g) := of_none rfl
theorem groupDelete (m : Master) (g : Nat) : Statement (.groupDelete m g) := of_none rfl
theorem groupClearFault (m : Master) (g : Nat) : Statement (.groupClearFault m g) := of_none rfl
theorem formTimer : Statement (.formTimer) := of_none rfl
theorem form (fromE : Bool) (pkt : Packet) : Statement (.form fromE pkt) := of_none rfl
theorem membershipWrite (m : Master) (data : List Byte) : Statement (.membershipWrite m data) := of_none rfl
theorem jobTagWrite (m : Master) (data : List Byte) : Statement (.jobTagWrite m data) := of_none rfl
theorem keySlotWrite (m : Master) (slot : Nat) (data : List Byte) : Statement (.keySlotWrite m slot data) := of_none rfl
theorem hbmRegionsWrite (m : Master) (region : Nat) (data : List Byte) : Statement (.hbmRegionsWrite m region data) := of_none rfl
theorem checkPolicyWrite (m : Master) (sub : Nat) (data : List Byte) : Statement (.checkPolicyWrite m sub data) := of_none rfl
theorem controllerKeyWrite (m : Master) (slot : Nat) (data : List Byte) : Statement (.controllerKeyWrite m slot data) := of_none rfl
theorem refusedByClear (m : Master) (data : List Byte) : Statement (.refusedByClear m data) := of_none rfl
theorem enterBrumate (m : Master) : Statement (.enterBrumate m) := of_none rfl
theorem leaveBrumate (m : Master) : Statement (.leaveBrumate m) := of_none rfl
theorem wakeComplete : Statement (.wakeComplete) := of_none rfl
theorem baskEntry : Statement (.baskEntry) := of_none rfl
theorem testModeEnter (m : Master) (data : List Byte) : Statement (.testModeEnter m data) := of_none rfl
theorem loopbackPortsWrite (m : Master) (data : List Byte) : Statement (.loopbackPortsWrite m data) := of_none rfl
theorem eLoopbackWrite (m : Master) (data : List Byte) : Statement (.eLoopbackWrite m data) := of_none rfl
theorem w1cWrite (m : Master) (addr : Nat) (val : Word) : Statement (.w1cWrite m addr val) := of_none rfl
theorem registerWrite (m : Master) (addr : Nat) (val : Word) : Statement (.registerWrite m addr val) := of_none rfl
theorem packetReceive (p : Nat) (pkt : Packet) (trailer : Trailer) (fecBad : Bool) : Statement (.packetReceive p pkt trailer fecBad) := of_none rfl
theorem reorderTimeout (sdev sep cls : Nat) : Statement (.reorderTimeout sdev sep cls) := of_none rfl
theorem linkStateNotice (pkt : Packet) : Statement (.linkStateNotice pkt) := of_none rfl
theorem nullWord (p : Nat) (cw : CwHead) : Statement (.nullWord p cw) := of_none rfl
theorem credit (p : Nat) (cw : CwHead) (cls level total : Nat) : Statement (.credit p cw cls level total) := of_none rfl
theorem ident0 (p : Nat) (cw : CwHead) (domain coord : Nat) (ack : Bool) : Statement (.ident0 p cw domain coord ack) := of_none rfl
theorem ident1 (p : Nat) (cw : CwHead) (shape port : Nat) : Statement (.ident1 p cw shape port) := of_none rfl
theorem cal (p : Nat) (cw : CwHead) (lane corrected : Nat) (power : Int) (own : List (Nat × Int)) : Statement (.cal p cw lane corrected power own) := of_none rfl
theorem txmon (p : Nat) (cw : CwHead) (lane stage : Nat) (reading : Int) (own : List (Nat × Int)) : Statement (.txmon p cw lane stage reading own) := of_none rfl
theorem swap (p : Nat) (cw : CwHead) (lane spare phase : Nat) : Statement (.swap p cw lane spare phase) := of_none rfl
theorem dropWord (p : Nat) (cw : CwHead) (lane phase : Nat) : Statement (.dropWord p cw lane phase) := of_none rfl
theorem echo (p : Nat) (cw : CwHead) (time : Nat) (reply : Bool) (turnaround : Nat) (now : Nat) : Statement (.echo p cw time reply turnaround now) := of_none rfl
theorem heartbeat (p : Nat) (cw : CwHead) (beat kind label : Nat) (compute leaving : Bool) (epoch : Nat) : Statement (.heartbeat p cw beat kind label compute leaving epoch) := of_none rfl
theorem heartbeatSend : Statement (.heartbeatSend) := of_none rfl
theorem croakInterval : Statement (.croakInterval) := of_none rfl
theorem aggregationWindowEnd (kind label : Nat) : Statement (.aggregationWindowEnd kind label) := of_none rfl
theorem disagreeLimit (code device : Nat) : Statement (.disagreeLimit code device) := of_none rfl
theorem read (xd : Nat) (pkt : Packet) : Statement (.read xd pkt) := of_none rfl
theorem write (xd : Nat) (pkt : Packet) : Statement (.write xd pkt) := of_none rfl
theorem writeAck (xd : Nat) (pkt : Packet) : Statement (.writeAck xd pkt) := of_none rfl
theorem targetAccessComplete (xd : Nat) (entry : Nat) : Statement (.targetAccessComplete xd entry) := of_none rfl
theorem readRsp (pkt : Packet) : Statement (.readRsp pkt) := of_none rfl
theorem wackRsp (pkt : Packet) : Statement (.wackRsp pkt) := of_none rfl
theorem refuseBackoffExpiry (c slot : Nat) : Statement (.refuseBackoffExpiry c slot) := of_none rfl
theorem remoteTimeout (c slot : Nat) : Statement (.remoteTimeout c slot) := of_none rfl
theorem grantIssue (g bucket peer level phase first count : Nat) : Statement (.grantIssue g bucket peer level phase first count) := of_none rfl
theorem grant (pkt : Packet) : Statement (.grant pkt) := of_none rfl
theorem data (pkt : Packet) : Statement (.data pkt) := of_none rfl
theorem abort (pkt : Packet) : Statement (.abort pkt) := of_none rfl
theorem token (pkt : Packet) : Statement (.token pkt) := of_none rfl
theorem xack (pkt : Packet) : Statement (.xack pkt) := of_none rfl
theorem xackTimer (g peer : Nat) : Statement (.xackTimer g peer) := of_none rfl
theorem xdomRtoExpiry (g peer seq : Nat) : Statement (.xdomRtoExpiry g peer seq) := of_none rfl
theorem latecomerTimeout (g : Nat) (rank : Nat) : Statement (.latecomerTimeout g rank) := of_none rfl
theorem eDatagramReceive (n : Nat) (d : Datagram) : Statement (.eDatagramReceive n d) := of_none rfl
theorem ptpMessage (n : Nat) (msg : PtpMsg) : Statement (.ptpMessage n msg) := of_none rfl
theorem calendarSet (time : Nat) : Statement (.calendarSet time) := of_none rfl
theorem linkBringupStepDone (p : PortLook) (ok : Bool) : Statement (.linkBringupStepDone p ok) := of_none rfl
theorem fecLinkDown (p : Nat) : Statement (.fecLinkDown p) := of_none rfl
theorem losDeclared (p : PortLook) : Statement (.losDeclared p) := of_none rfl
theorem probeTimer (p : PortLook) : Statement (.probeTimer p) := of_none rfl
theorem lightDetected (p : PortLook) : Statement (.lightDetected p) := of_none rfl
theorem ringLockLost (p : Nat) (receive : Bool) (lane : Nat) : Statement (.ringLockLost p receive lane) := of_none rfl
theorem ringRelockTimeout (p : Nat) (receive : Bool) (lane : Nat) : Statement (.ringRelockTimeout p receive lane) := of_none rfl
theorem fadeWarn (p laser output : Nat) : Statement (.fadeWarn p laser output) := of_none rfl
theorem fadeAct (p laser output : Nat) : Statement (.fadeAct p laser output) := of_none rfl
theorem fadeRecover (p laser : Nat) : Statement (.fadeRecover p laser) := of_none rfl
theorem spareLocked (p spare : Nat) : Statement (.spareLocked p spare) := of_none rfl
theorem spareLockTimeout (p spare : Nat) : Statement (.spareLockTimeout p spare) := of_none rfl
theorem swapProposeRetry (p : Nat) : Statement (.swapProposeRetry p) := of_none rfl
theorem swapSwitchover (p : PortSide) : Statement (.swapSwitchover p) := of_none rfl
theorem eLaserReplace (n lane : Nat) : Statement (.eLaserReplace n lane) := of_none rfl
theorem railGood (r : Nat) : Statement (.railGood r) := of_none rfl
theorem railLost (r : Nat) : Statement (.railLost r) := of_none rfl
theorem railAbsentTimeout (r : Nat) : Statement (.railAbsentTimeout r) := of_none rfl
theorem refclockLost : Statement (.refclockLost) := of_none rfl
theorem pllLockLost (die : Nat) : Statement (.pllLockLost die) := of_none rfl
theorem d2dCrcReplay (link : Nat) (rev : Bool) (group : Nat) : Statement (.d2dCrcReplay link rev group) := of_none rfl
theorem powerSample (watts : Nat) : Statement (.powerSample watts) := of_none rfl
theorem capLoopEval : Statement (.capLoopEval) := of_none rfl
theorem slewInterval (busy : Nat) : Statement (.slewInterval busy) := of_none rfl
theorem limiterCheck (rise : Nat) (excused : Bool) : Statement (.limiterCheck rise excused) := of_none rfl
theorem pwrcapNAssert : Statement (.pwrcapNAssert) := of_none rfl
theorem pinCeilingLapse : Statement (.pinCeilingLapse) := of_none rfl
theorem pwrcapNRelease : Statement (.pwrcapNRelease) := of_none rfl
theorem sensorSample (i : Nat) (temp : Int) (time : Nat) : Statement (.sensorSample i temp time) := of_none rfl
theorem clampEnd : Statement (.clampEnd) := of_none rfl
theorem warnClear (i : Nat) : Statement (.warnClear i) := of_none rfl
theorem sampleRateLower (i : Nat) : Statement (.sampleRateLower i) := of_none rfl
theorem tripPowerDown : Statement (.tripPowerDown) := of_none rfl
theorem refreshBlock (stack : Nat) : Statement (.refreshBlock stack) := of_none rfl
theorem patrolScrubRead (line : Nat) : Statement (.patrolScrubRead line) := of_none rfl
theorem samplerTrackStep (stack channel lane : Nat) (up : TrackStep) : Statement (.samplerTrackStep stack channel lane up) := of_none rfl
theorem lifetimeWriteThrough : Statement (.lifetimeWriteThrough) := of_none rfl
theorem extest (cells : Nat) : Statement (.extest cells) := of_none rfl
theorem samplePreload (cells : Nat) : Statement (.samplePreload cells) := of_none rfl
theorem idcode : Statement (.idcode) := of_none rfl
theorem clampInstruction : Statement (.clampInstruction) := of_none rfl
theorem highz : Statement (.highz) := of_none rfl
theorem dieSelect (sel : Nat) : Statement (.dieSelect sel) := of_none rfl
theorem ijtag : Statement (.ijtag) := of_none rfl
theorem bypass (opcode : Nat) : Statement (.bypass opcode) := of_none rfl
theorem tapReset : Statement (.tapReset) := of_none rfl
theorem startUpStepDone (r : StepReport) : Statement (.startUpStepDone r) := of_none rfl
theorem referenceClockReturn : Statement (.referenceClockReturn) := of_none rfl
theorem badControlWord (p type : Nat) : Statement (.badControlWord p type) := of_none rfl
theorem ePortDown (n : Nat) (lane : Nat) : Statement (.ePortDown n lane) := of_none rfl
theorem ePortUp (n : Nat) : Statement (.ePortUp n) := of_none rfl
theorem eFrameReceive (n : Nat) (f : EFrameIn) : Statement (.eFrameReceive n f) := of_none rfl
theorem biasTrendSample : Statement (.biasTrendSample) := of_none rfl
theorem operationSuspendObeyed (h : Nat) : Statement (.operationSuspendObeyed h) := of_none rfl
theorem operationCancelObeyed (h : Nat) : Statement (.operationCancelObeyed h) := of_none rfl

end Sys2Proof.Laws.IssueWords
end

