-- ==== Sys2Proof/Laws/State.lean ====
section
/-! SUPPORT. What each shared update of the state leaves in each of its fields: one lemma per field, true by unfolding. -/

namespace Sys2Proof.Machine

variable {s : State}

/-! ## modCore changes `cores` -/

@[simp] theorem State.modCore_pending {c : Nat} {f : Core → Core} : (s.modCore c f).pending = s.pending := rfl
@[simp] theorem State.modCore_now {c : Nat} {f : Core → Core} : (s.modCore c f).now = s.now := rfl
@[simp] theorem State.modCore_free {c : Nat} {f : Core → Core} : (s.modCore c f).free = s.free := rfl
theorem State.modCore_cores {c : Nat} {f : Core → Core} : (s.modCore c f).cores = s.cores.modify c f := rfl
@[simp] theorem State.modCore_mem {c : Nat} {f : Core → Core} : (s.modCore c f).mem = s.mem := rfl
@[simp] theorem State.modCore_wild {c : Nat} {f : Core → Core} : (s.modCore c f).wild = s.wild := rfl
@[simp] theorem State.modCore_poison {c : Nat} {f : Core → Core} : (s.modCore c f).poison = s.poison := rfl
@[simp] theorem State.modCore_poisonFlips {c : Nat} {f : Core → Core} : (s.modCore c f).poisonFlips = s.poisonFlips := rfl
@[simp] theorem State.modCore_ecc {c : Nat} {f : Core → Core} : (s.modCore c f).ecc = s.ecc := rfl
@[simp] theorem State.modCore_corrTimes {c : Nat} {f : Core → Core} : (s.modCore c f).corrTimes = s.corrTimes := rfl
@[simp] theorem State.modCore_corrOver {c : Nat} {f : Core → Core} : (s.modCore c f).corrOver = s.corrOver := rfl
@[simp] theorem State.modCore_nearTimes {c : Nat} {f : Core → Core} : (s.modCore c f).nearTimes = s.nearTimes := rfl
@[simp] theorem State.modCore_lanes {c : Nat} {f : Core → Core} : (s.modCore c f).lanes = s.lanes := rfl
@[simp] theorem State.modCore_flagged {c : Nat} {f : Core → Core} : (s.modCore c f).flagged = s.flagged := rfl
@[simp] theorem State.modCore_margin {c : Nat} {f : Core → Core} : (s.modCore c f).margin = s.margin := rfl
@[simp] theorem State.modCore_chipEvents {c : Nat} {f : Core → Core} : (s.modCore c f).chipEvents = s.chipEvents := rfl
@[simp] theorem State.modCore_eventIn {c : Nat} {f : Core → Core} : (s.modCore c f).eventIn = s.eventIn := rfl
@[simp] theorem State.modCore_eventOut {c : Nat} {f : Core → Core} : (s.modCore c f).eventOut = s.eventOut := rfl
@[simp] theorem State.modCore_chans {c : Nat} {f : Core → Core} : (s.modCore c f).chans = s.chans := rfl
@[simp] theorem State.modCore_handles {c : Nat} {f : Core → Core} : (s.modCore c f).handles = s.handles := rfl
@[simp] theorem State.modCore_groups {c : Nat} {f : Core → Core} : (s.modCore c f).groups = s.groups := rfl
@[simp] theorem State.modCore_slotsFree {c : Nat} {f : Core → Core} : (s.modCore c f).slotsFree = s.slotsFree := rfl
@[simp] theorem State.modCore_ops {c : Nat} {f : Core → Core} : (s.modCore c f).ops = s.ops := rfl
@[simp] theorem State.modCore_proxyReqs {c : Nat} {f : Core → Core} : (s.modCore c f).proxyReqs = s.proxyReqs := rfl
@[simp] theorem State.modCore_xflows {c : Nat} {f : Core → Core} : (s.modCore c f).xflows = s.xflows := rfl
@[simp] theorem State.modCore_ports {c : Nat} {f : Core → Core} : (s.modCore c f).ports = s.ports := rfl
@[simp] theorem State.modCore_fab {c : Nat} {f : Core → Core} : (s.modCore c f).fab = s.fab := rfl
@[simp] theorem State.modCore_inbound {c : Nat} {f : Core → Core} : (s.modCore c f).inbound = s.inbound := rfl
@[simp] theorem State.modCore_inbox {c : Nat} {f : Core → Core} : (s.modCore c f).inbox = s.inbox := rfl
@[simp] theorem State.modCore_windows {c : Nat} {f : Core → Core} : (s.modCore c f).windows = s.windows := rfl
@[simp] theorem State.modCore_refusedBy {c : Nat} {f : Core → Core} : (s.modCore c f).refusedBy = s.refusedBy := rfl
@[simp] theorem State.modCore_egress {c : Nat} {f : Core → Core} : (s.modCore c f).egress = s.egress := rfl
@[simp] theorem State.modCore_eOut {c : Nat} {f : Core → Core} : (s.modCore c f).eOut = s.eOut := rfl
@[simp] theorem State.modCore_frameOut {c : Nat} {f : Core → Core} : (s.modCore c f).frameOut = s.frameOut := rfl
@[simp] theorem State.modCore_cwOut {c : Nat} {f : Core → Core} : (s.modCore c f).cwOut = s.cwOut := rfl
@[simp] theorem State.modCore_ptpOut {c : Nat} {f : Core → Core} : (s.modCore c f).ptpOut = s.ptpOut := rfl
@[simp] theorem State.modCore_od {c : Nat} {f : Core → Core} : (s.modCore c f).od = s.od := rfl
@[simp] theorem State.modCore_mram {c : Nat} {f : Core → Core} : (s.modCore c f).mram = s.mram := rfl
@[simp] theorem State.modCore_dieRegs {c : Nat} {f : Core → Core} : (s.modCore c f).dieRegs = s.dieRegs := rfl
@[simp] theorem State.modCore_mgmt {c : Nat} {f : Core → Core} : (s.modCore c f).mgmt = s.mgmt := rfl
@[simp] theorem State.modCore_power {c : Nat} {f : Core → Core} : (s.modCore c f).power = s.power := rfl
@[simp] theorem State.modCore_dies {c : Nat} {f : Core → Core} : (s.modCore c f).dies = s.dies := rfl
@[simp] theorem State.modCore_d2d {c : Nat} {f : Core → Core} : (s.modCore c f).d2d = s.d2d := rfl
@[simp] theorem State.modCore_startup {c : Nat} {f : Core → Core} : (s.modCore c f).startup = s.startup := rfl
@[simp] theorem State.modCore_fleet {c : Nat} {f : Core → Core} : (s.modCore c f).fleet = s.fleet := rfl
@[simp] theorem State.modCore_sec {c : Nat} {f : Core → Core} : (s.modCore c f).sec = s.sec := rfl
@[simp] theorem State.modCore_eports {c : Nat} {f : Core → Core} : (s.modCore c f).eports = s.eports := rfl
@[simp] theorem State.modCore_test {c : Nat} {f : Core → Core} : (s.modCore c f).test = s.test := rfl
@[simp] theorem State.modCore_ptp {c : Nat} {f : Core → Core} : (s.modCore c f).ptp = s.ptp := rfl

/-! ## modHandle changes `handles` -/

@[simp] theorem State.modHandle_pending {h : Nat} {f : Handle → Handle} : (s.modHandle h f).pending = s.pending := rfl
@[simp] theorem State.modHandle_now {h : Nat} {f : Handle → Handle} : (s.modHandle h f).now = s.now := rfl
@[simp] theorem State.modHandle_free {h : Nat} {f : Handle → Handle} : (s.modHandle h f).free = s.free := rfl
@[simp] theorem State.modHandle_cores {h : Nat} {f : Handle → Handle} : (s.modHandle h f).cores = s.cores := rfl
@[simp] theorem State.modHandle_mem {h : Nat} {f : Handle → Handle} : (s.modHandle h f).mem = s.mem := rfl
@[simp] theorem State.modHandle_wild {h : Nat} {f : Handle → Handle} : (s.modHandle h f).wild = s.wild := rfl
@[simp] theorem State.modHandle_poison {h : Nat} {f : Handle → Handle} : (s.modHandle h f).poison = s.poison := rfl
@[simp] theorem State.modHandle_poisonFlips {h : Nat} {f : Handle → Handle} : (s.modHandle h f).poisonFlips = s.poisonFlips := rfl
@[simp] theorem State.modHandle_ecc {h : Nat} {f : Handle → Handle} : (s.modHandle h f).ecc = s.ecc := rfl
@[simp] theorem State.modHandle_corrTimes {h : Nat} {f : Handle → Handle} : (s.modHandle h f).corrTimes = s.corrTimes := rfl
@[simp] theorem State.modHandle_corrOver {h : Nat} {f : Handle → Handle} : (s.modHandle h f).corrOver = s.corrOver := rfl
@[simp] theorem State.modHandle_nearTimes {h : Nat} {f : Handle → Handle} : (s.modHandle h f).nearTimes = s.nearTimes := rfl
@[simp] theorem State.modHandle_lanes {h : Nat} {f : Handle → Handle} : (s.modHandle h f).lanes = s.lanes := rfl
@[simp] theorem State.modHandle_flagged {h : Nat} {f : Handle → Handle} : (s.modHandle h f).flagged = s.flagged := rfl
@[simp] theorem State.modHandle_margin {h : Nat} {f : Handle → Handle} : (s.modHandle h f).margin = s.margin := rfl
@[simp] theorem State.modHandle_chipEvents {h : Nat} {f : Handle → Handle} : (s.modHandle h f).chipEvents = s.chipEvents := rfl
@[simp] theorem State.modHandle_eventIn {h : Nat} {f : Handle → Handle} : (s.modHandle h f).eventIn = s.eventIn := rfl
@[simp] theorem State.modHandle_eventOut {h : Nat} {f : Handle → Handle} : (s.modHandle h f).eventOut = s.eventOut := rfl
@[simp] theorem State.modHandle_chans {h : Nat} {f : Handle → Handle} : (s.modHandle h f).chans = s.chans := rfl
theorem State.modHandle_handles {h : Nat} {f : Handle → Handle} : (s.modHandle h f).handles = s.handles.modify (h - 1) f := rfl
@[simp] theorem State.modHandle_groups {h : Nat} {f : Handle → Handle} : (s.modHandle h f).groups = s.groups := rfl
@[simp] theorem State.modHandle_slotsFree {h : Nat} {f : Handle → Handle} : (s.modHandle h f).slotsFree = s.slotsFree := rfl
@[simp] theorem State.modHandle_ops {h : Nat} {f : Handle → Handle} : (s.modHandle h f).ops = s.ops := rfl
@[simp] theorem State.modHandle_proxyReqs {h : Nat} {f : Handle → Handle} : (s.modHandle h f).proxyReqs = s.proxyReqs := rfl
@[simp] theorem State.modHandle_xflows {h : Nat} {f : Handle → Handle} : (s.modHandle h f).xflows = s.xflows := rfl
@[simp] theorem State.modHandle_ports {h : Nat} {f : Handle → Handle} : (s.modHandle h f).ports = s.ports := rfl
@[simp] theorem State.modHandle_fab {h : Nat} {f : Handle → Handle} : (s.modHandle h f).fab = s.fab := rfl
@[simp] theorem State.modHandle_inbound {h : Nat} {f : Handle → Handle} : (s.modHandle h f).inbound = s.inbound := rfl
@[simp] theorem State.modHandle_inbox {h : Nat} {f : Handle → Handle} : (s.modHandle h f).inbox = s.inbox := rfl
@[simp] theorem State.modHandle_windows {h : Nat} {f : Handle → Handle} : (s.modHandle h f).windows = s.windows := rfl
@[simp] theorem State.modHandle_refusedBy {h : Nat} {f : Handle → Handle} : (s.modHandle h f).refusedBy = s.refusedBy := rfl
@[simp] theorem State.modHandle_egress {h : Nat} {f : Handle → Handle} : (s.modHandle h f).egress = s.egress := rfl
@[simp] theorem State.modHandle_eOut {h : Nat} {f : Handle → Handle} : (s.modHandle h f).eOut = s.eOut := rfl
@[simp] theorem State.modHandle_frameOut {h : Nat} {f : Handle → Handle} : (s.modHandle h f).frameOut = s.frameOut := rfl
@[simp] theorem State.modHandle_cwOut {h : Nat} {f : Handle → Handle} : (s.modHandle h f).cwOut = s.cwOut := rfl
@[simp] theorem State.modHandle_ptpOut {h : Nat} {f : Handle → Handle} : (s.modHandle h f).ptpOut = s.ptpOut := rfl
@[simp] theorem State.modHandle_od {h : Nat} {f : Handle → Handle} : (s.modHandle h f).od = s.od := rfl
@[simp] theorem State.modHandle_mram {h : Nat} {f : Handle → Handle} : (s.modHandle h f).mram = s.mram := rfl
@[simp] theorem State.modHandle_dieRegs {h : Nat} {f : Handle → Handle} : (s.modHandle h f).dieRegs = s.dieRegs := rfl
@[simp] theorem State.modHandle_mgmt {h : Nat} {f : Handle → Handle} : (s.modHandle h f).mgmt = s.mgmt := rfl
@[simp] theorem State.modHandle_power {h : Nat} {f : Handle → Handle} : (s.modHandle h f).power = s.power := rfl
@[simp] theorem State.modHandle_dies {h : Nat} {f : Handle → Handle} : (s.modHandle h f).dies = s.dies := rfl
@[simp] theorem State.modHandle_d2d {h : Nat} {f : Handle → Handle} : (s.modHandle h f).d2d = s.d2d := rfl
@[simp] theorem State.modHandle_startup {h : Nat} {f : Handle → Handle} : (s.modHandle h f).startup = s.startup := rfl
@[simp] theorem State.modHandle_fleet {h : Nat} {f : Handle → Handle} : (s.modHandle h f).fleet = s.fleet := rfl
@[simp] theorem State.modHandle_sec {h : Nat} {f : Handle → Handle} : (s.modHandle h f).sec = s.sec := rfl
@[simp] theorem State.modHandle_eports {h : Nat} {f : Handle → Handle} : (s.modHandle h f).eports = s.eports := rfl
@[simp] theorem State.modHandle_test {h : Nat} {f : Handle → Handle} : (s.modHandle h f).test = s.test := rfl
@[simp] theorem State.modHandle_ptp {h : Nat} {f : Handle → Handle} : (s.modHandle h f).ptp = s.ptp := rfl

/-! ## modPort changes `ports` -/

@[simp] theorem State.modPort_pending {p : Nat} {f : Port → Port} : (s.modPort p f).pending = s.pending := rfl
@[simp] theorem State.modPort_now {p : Nat} {f : Port → Port} : (s.modPort p f).now = s.now := rfl
@[simp] theorem State.modPort_free {p : Nat} {f : Port → Port} : (s.modPort p f).free = s.free := rfl
@[simp] theorem State.modPort_cores {p : Nat} {f : Port → Port} : (s.modPort p f).cores = s.cores := rfl
@[simp] theorem State.modPort_mem {p : Nat} {f : Port → Port} : (s.modPort p f).mem = s.mem := rfl
@[simp] theorem State.modPort_wild {p : Nat} {f : Port → Port} : (s.modPort p f).wild = s.wild := rfl
@[simp] theorem State.modPort_poison {p : Nat} {f : Port → Port} : (s.modPort p f).poison = s.poison := rfl
@[simp] theorem State.modPort_poisonFlips {p : Nat} {f : Port → Port} : (s.modPort p f).poisonFlips = s.poisonFlips := rfl
@[simp] theorem State.modPort_ecc {p : Nat} {f : Port → Port} : (s.modPort p f).ecc = s.ecc := rfl
@[simp] theorem State.modPort_corrTimes {p : Nat} {f : Port → Port} : (s.modPort p f).corrTimes = s.corrTimes := rfl
@[simp] theorem State.modPort_corrOver {p : Nat} {f : Port → Port} : (s.modPort p f).corrOver = s.corrOver := rfl
@[simp] theorem State.modPort_nearTimes {p : Nat} {f : Port → Port} : (s.modPort p f).nearTimes = s.nearTimes := rfl
@[simp] theorem State.modPort_lanes {p : Nat} {f : Port → Port} : (s.modPort p f).lanes = s.lanes := rfl
@[simp] theorem State.modPort_flagged {p : Nat} {f : Port → Port} : (s.modPort p f).flagged = s.flagged := rfl
@[simp] theorem State.modPort_margin {p : Nat} {f : Port → Port} : (s.modPort p f).margin = s.margin := rfl
@[simp] theorem State.modPort_chipEvents {p : Nat} {f : Port → Port} : (s.modPort p f).chipEvents = s.chipEvents := rfl
@[simp] theorem State.modPort_eventIn {p : Nat} {f : Port → Port} : (s.modPort p f).eventIn = s.eventIn := rfl
@[simp] theorem State.modPort_eventOut {p : Nat} {f : Port → Port} : (s.modPort p f).eventOut = s.eventOut := rfl
@[simp] theorem State.modPort_chans {p : Nat} {f : Port → Port} : (s.modPort p f).chans = s.chans := rfl
@[simp] theorem State.modPort_handles {p : Nat} {f : Port → Port} : (s.modPort p f).handles = s.handles := rfl
@[simp] theorem State.modPort_groups {p : Nat} {f : Port → Port} : (s.modPort p f).groups = s.groups := rfl
@[simp] theorem State.modPort_slotsFree {p : Nat} {f : Port → Port} : (s.modPort p f).slotsFree = s.slotsFree := rfl
@[simp] theorem State.modPort_ops {p : Nat} {f : Port → Port} : (s.modPort p f).ops = s.ops := rfl
@[simp] theorem State.modPort_proxyReqs {p : Nat} {f : Port → Port} : (s.modPort p f).proxyReqs = s.proxyReqs := rfl
@[simp] theorem State.modPort_xflows {p : Nat} {f : Port → Port} : (s.modPort p f).xflows = s.xflows := rfl
theorem State.modPort_ports {p : Nat} {f : Port → Port} : (s.modPort p f).ports = s.ports.modify p f := rfl
@[simp] theorem State.modPort_fab {p : Nat} {f : Port → Port} : (s.modPort p f).fab = s.fab := rfl
@[simp] theorem State.modPort_inbound {p : Nat} {f : Port → Port} : (s.modPort p f).inbound = s.inbound := rfl
@[simp] theorem State.modPort_inbox {p : Nat} {f : Port → Port} : (s.modPort p f).inbox = s.inbox := rfl
@[simp] theorem State.modPort_windows {p : Nat} {f : Port → Port} : (s.modPort p f).windows = s.windows := rfl
@[simp] theorem State.modPort_refusedBy {p : Nat} {f : Port → Port} : (s.modPort p f).refusedBy = s.refusedBy := rfl
@[simp] theorem State.modPort_egress {p : Nat} {f : Port → Port} : (s.modPort p f).egress = s.egress := rfl
@[simp] theorem State.modPort_eOut {p : Nat} {f : Port → Port} : (s.modPort p f).eOut = s.eOut := rfl
@[simp] theorem State.modPort_frameOut {p : Nat} {f : Port → Port} : (s.modPort p f).frameOut = s.frameOut := rfl
@[simp] theorem State.modPort_cwOut {p : Nat} {f : Port → Port} : (s.modPort p f).cwOut = s.cwOut := rfl
@[simp] theorem State.modPort_ptpOut {p : Nat} {f : Port → Port} : (s.modPort p f).ptpOut = s.ptpOut := rfl
@[simp] theorem State.modPort_od {p : Nat} {f : Port → Port} : (s.modPort p f).od = s.od := rfl
@[simp] theorem State.modPort_mram {p : Nat} {f : Port → Port} : (s.modPort p f).mram = s.mram := rfl
@[simp] theorem State.modPort_dieRegs {p : Nat} {f : Port → Port} : (s.modPort p f).dieRegs = s.dieRegs := rfl
@[simp] theorem State.modPort_mgmt {p : Nat} {f : Port → Port} : (s.modPort p f).mgmt = s.mgmt := rfl
@[simp] theorem State.modPort_power {p : Nat} {f : Port → Port} : (s.modPort p f).power = s.power := rfl
@[simp] theorem State.modPort_dies {p : Nat} {f : Port → Port} : (s.modPort p f).dies = s.dies := rfl
@[simp] theorem State.modPort_d2d {p : Nat} {f : Port → Port} : (s.modPort p f).d2d = s.d2d := rfl
@[simp] theorem State.modPort_startup {p : Nat} {f : Port → Port} : (s.modPort p f).startup = s.startup := rfl
@[simp] theorem State.modPort_fleet {p : Nat} {f : Port → Port} : (s.modPort p f).fleet = s.fleet := rfl
@[simp] theorem State.modPort_sec {p : Nat} {f : Port → Port} : (s.modPort p f).sec = s.sec := rfl
@[simp] theorem State.modPort_eports {p : Nat} {f : Port → Port} : (s.modPort p f).eports = s.eports := rfl
@[simp] theorem State.modPort_test {p : Nat} {f : Port → Port} : (s.modPort p f).test = s.test := rfl
@[simp] theorem State.modPort_ptp {p : Nat} {f : Port → Port} : (s.modPort p f).ptp = s.ptp := rfl

/-! ## modGroup changes `groups` -/

@[simp] theorem State.modGroup_pending {g : Nat} {f : Group → Group} : (s.modGroup g f).pending = s.pending := rfl
@[simp] theorem State.modGroup_now {g : Nat} {f : Group → Group} : (s.modGroup g f).now = s.now := rfl
@[simp] theorem State.modGroup_free {g : Nat} {f : Group → Group} : (s.modGroup g f).free = s.free := rfl
@[simp] theorem State.modGroup_cores {g : Nat} {f : Group → Group} : (s.modGroup g f).cores = s.cores := rfl
@[simp] theorem State.modGroup_mem {g : Nat} {f : Group → Group} : (s.modGroup g f).mem = s.mem := rfl
@[simp] theorem State.modGroup_wild {g : Nat} {f : Group → Group} : (s.modGroup g f).wild = s.wild := rfl
@[simp] theorem State.modGroup_poison {g : Nat} {f : Group → Group} : (s.modGroup g f).poison = s.poison := rfl
@[simp] theorem State.modGroup_poisonFlips {g : Nat} {f : Group → Group} : (s.modGroup g f).poisonFlips = s.poisonFlips := rfl
@[simp] theorem State.modGroup_ecc {g : Nat} {f : Group → Group} : (s.modGroup g f).ecc = s.ecc := rfl
@[simp] theorem State.modGroup_corrTimes {g : Nat} {f : Group → Group} : (s.modGroup g f).corrTimes = s.corrTimes := rfl
@[simp] theorem State.modGroup_corrOver {g : Nat} {f : Group → Group} : (s.modGroup g f).corrOver = s.corrOver := rfl
@[simp] theorem State.modGroup_nearTimes {g : Nat} {f : Group → Group} : (s.modGroup g f).nearTimes = s.nearTimes := rfl
@[simp] theorem State.modGroup_lanes {g : Nat} {f : Group → Group} : (s.modGroup g f).lanes = s.lanes := rfl
@[simp] theorem State.modGroup_flagged {g : Nat} {f : Group → Group} : (s.modGroup g f).flagged = s.flagged := rfl
@[simp] theorem State.modGroup_margin {g : Nat} {f : Group → Group} : (s.modGroup g f).margin = s.margin := rfl
@[simp] theorem State.modGroup_chipEvents {g : Nat} {f : Group → Group} : (s.modGroup g f).chipEvents = s.chipEvents := rfl
@[simp] theorem State.modGroup_eventIn {g : Nat} {f : Group → Group} : (s.modGroup g f).eventIn = s.eventIn := rfl
@[simp] theorem State.modGroup_eventOut {g : Nat} {f : Group → Group} : (s.modGroup g f).eventOut = s.eventOut := rfl
@[simp] theorem State.modGroup_chans {g : Nat} {f : Group → Group} : (s.modGroup g f).chans = s.chans := rfl
@[simp] theorem State.modGroup_handles {g : Nat} {f : Group → Group} : (s.modGroup g f).handles = s.handles := rfl
theorem State.modGroup_groups {g : Nat} {f : Group → Group} : (s.modGroup g f).groups = s.groups.modify g f := rfl
@[simp] theorem State.modGroup_slotsFree {g : Nat} {f : Group → Group} : (s.modGroup g f).slotsFree = s.slotsFree := rfl
@[simp] theorem State.modGroup_ops {g : Nat} {f : Group → Group} : (s.modGroup g f).ops = s.ops := rfl
@[simp] theorem State.modGroup_proxyReqs {g : Nat} {f : Group → Group} : (s.modGroup g f).proxyReqs = s.proxyReqs := rfl
@[simp] theorem State.modGroup_xflows {g : Nat} {f : Group → Group} : (s.modGroup g f).xflows = s.xflows := rfl
@[simp] theorem State.modGroup_ports {g : Nat} {f : Group → Group} : (s.modGroup g f).ports = s.ports := rfl
@[simp] theorem State.modGroup_fab {g : Nat} {f : Group → Group} : (s.modGroup g f).fab = s.fab := rfl
@[simp] theorem State.modGroup_inbound {g : Nat} {f : Group → Group} : (s.modGroup g f).inbound = s.inbound := rfl
@[simp] theorem State.modGroup_inbox {g : Nat} {f : Group → Group} : (s.modGroup g f).inbox = s.inbox := rfl
@[simp] theorem State.modGroup_windows {g : Nat} {f : Group → Group} : (s.modGroup g f).windows = s.windows := rfl
@[simp] theorem State.modGroup_refusedBy {g : Nat} {f : Group → Group} : (s.modGroup g f).refusedBy = s.refusedBy := rfl
@[simp] theorem State.modGroup_egress {g : Nat} {f : Group → Group} : (s.modGroup g f).egress = s.egress := rfl
@[simp] theorem State.modGroup_eOut {g : Nat} {f : Group → Group} : (s.modGroup g f).eOut = s.eOut := rfl
@[simp] theorem State.modGroup_frameOut {g : Nat} {f : Group → Group} : (s.modGroup g f).frameOut = s.frameOut := rfl
@[simp] theorem State.modGroup_cwOut {g : Nat} {f : Group → Group} : (s.modGroup g f).cwOut = s.cwOut := rfl
@[simp] theorem State.modGroup_ptpOut {g : Nat} {f : Group → Group} : (s.modGroup g f).ptpOut = s.ptpOut := rfl
@[simp] theorem State.modGroup_od {g : Nat} {f : Group → Group} : (s.modGroup g f).od = s.od := rfl
@[simp] theorem State.modGroup_mram {g : Nat} {f : Group → Group} : (s.modGroup g f).mram = s.mram := rfl
@[simp] theorem State.modGroup_dieRegs {g : Nat} {f : Group → Group} : (s.modGroup g f).dieRegs = s.dieRegs := rfl
@[simp] theorem State.modGroup_mgmt {g : Nat} {f : Group → Group} : (s.modGroup g f).mgmt = s.mgmt := rfl
@[simp] theorem State.modGroup_power {g : Nat} {f : Group → Group} : (s.modGroup g f).power = s.power := rfl
@[simp] theorem State.modGroup_dies {g : Nat} {f : Group → Group} : (s.modGroup g f).dies = s.dies := rfl
@[simp] theorem State.modGroup_d2d {g : Nat} {f : Group → Group} : (s.modGroup g f).d2d = s.d2d := rfl
@[simp] theorem State.modGroup_startup {g : Nat} {f : Group → Group} : (s.modGroup g f).startup = s.startup := rfl
@[simp] theorem State.modGroup_fleet {g : Nat} {f : Group → Group} : (s.modGroup g f).fleet = s.fleet := rfl
@[simp] theorem State.modGroup_sec {g : Nat} {f : Group → Group} : (s.modGroup g f).sec = s.sec := rfl
@[simp] theorem State.modGroup_eports {g : Nat} {f : Group → Group} : (s.modGroup g f).eports = s.eports := rfl
@[simp] theorem State.modGroup_test {g : Nat} {f : Group → Group} : (s.modGroup g f).test = s.test := rfl
@[simp] theorem State.modGroup_ptp {g : Nat} {f : Group → Group} : (s.modGroup g f).ptp = s.ptp := rfl

/-! ## modEport changes `eports` -/

@[simp] theorem State.modEport_pending {n : Nat} {f : EPort → EPort} : (s.modEport n f).pending = s.pending := rfl
@[simp] theorem State.modEport_now {n : Nat} {f : EPort → EPort} : (s.modEport n f).now = s.now := rfl
@[simp] theorem State.modEport_free {n : Nat} {f : EPort → EPort} : (s.modEport n f).free = s.free := rfl
@[simp] theorem State.modEport_cores {n : Nat} {f : EPort → EPort} : (s.modEport n f).cores = s.cores := rfl
@[simp] theorem State.modEport_mem {n : Nat} {f : EPort → EPort} : (s.modEport n f).mem = s.mem := rfl
@[simp] theorem State.modEport_wild {n : Nat} {f : EPort → EPort} : (s.modEport n f).wild = s.wild := rfl
@[simp] theorem State.modEport_poison {n : Nat} {f : EPort → EPort} : (s.modEport n f).poison = s.poison := rfl
@[simp] theorem State.modEport_poisonFlips {n : Nat} {f : EPort → EPort} : (s.modEport n f).poisonFlips = s.poisonFlips := rfl
@[simp] theorem State.modEport_ecc {n : Nat} {f : EPort → EPort} : (s.modEport n f).ecc = s.ecc := rfl
@[simp] theorem State.modEport_corrTimes {n : Nat} {f : EPort → EPort} : (s.modEport n f).corrTimes = s.corrTimes := rfl
@[simp] theorem State.modEport_corrOver {n : Nat} {f : EPort → EPort} : (s.modEport n f).corrOver = s.corrOver := rfl
@[simp] theorem State.modEport_nearTimes {n : Nat} {f : EPort → EPort} : (s.modEport n f).nearTimes = s.nearTimes := rfl
@[simp] theorem State.modEport_lanes {n : Nat} {f : EPort → EPort} : (s.modEport n f).lanes = s.lanes := rfl
@[simp] theorem State.modEport_flagged {n : Nat} {f : EPort → EPort} : (s.modEport n f).flagged = s.flagged := rfl
@[simp] theorem State.modEport_margin {n : Nat} {f : EPort → EPort} : (s.modEport n f).margin = s.margin := rfl
@[simp] theorem State.modEport_chipEvents {n : Nat} {f : EPort → EPort} : (s.modEport n f).chipEvents = s.chipEvents := rfl
@[simp] theorem State.modEport_eventIn {n : Nat} {f : EPort → EPort} : (s.modEport n f).eventIn = s.eventIn := rfl
@[simp] theorem State.modEport_eventOut {n : Nat} {f : EPort → EPort} : (s.modEport n f).eventOut = s.eventOut := rfl
@[simp] theorem State.modEport_chans {n : Nat} {f : EPort → EPort} : (s.modEport n f).chans = s.chans := rfl
@[simp] theorem State.modEport_handles {n : Nat} {f : EPort → EPort} : (s.modEport n f).handles = s.handles := rfl
@[simp] theorem State.modEport_groups {n : Nat} {f : EPort → EPort} : (s.modEport n f).groups = s.groups := rfl
@[simp] theorem State.modEport_slotsFree {n : Nat} {f : EPort → EPort} : (s.modEport n f).slotsFree = s.slotsFree := rfl
@[simp] theorem State.modEport_ops {n : Nat} {f : EPort → EPort} : (s.modEport n f).ops = s.ops := rfl
@[simp] theorem State.modEport_proxyReqs {n : Nat} {f : EPort → EPort} : (s.modEport n f).proxyReqs = s.proxyReqs := rfl
@[simp] theorem State.modEport_xflows {n : Nat} {f : EPort → EPort} : (s.modEport n f).xflows = s.xflows := rfl
@[simp] theorem State.modEport_ports {n : Nat} {f : EPort → EPort} : (s.modEport n f).ports = s.ports := rfl
@[simp] theorem State.modEport_fab {n : Nat} {f : EPort → EPort} : (s.modEport n f).fab = s.fab := rfl
@[simp] theorem State.modEport_inbound {n : Nat} {f : EPort → EPort} : (s.modEport n f).inbound = s.inbound := rfl
@[simp] theorem State.modEport_inbox {n : Nat} {f : EPort → EPort} : (s.modEport n f).inbox = s.inbox := rfl
@[simp] theorem State.modEport_windows {n : Nat} {f : EPort → EPort} : (s.modEport n f).windows = s.windows := rfl
@[simp] theorem State.modEport_refusedBy {n : Nat} {f : EPort → EPort} : (s.modEport n f).refusedBy = s.refusedBy := rfl
@[simp] theorem State.modEport_egress {n : Nat} {f : EPort → EPort} : (s.modEport n f).egress = s.egress := rfl
@[simp] theorem State.modEport_eOut {n : Nat} {f : EPort → EPort} : (s.modEport n f).eOut = s.eOut := rfl
@[simp] theorem State.modEport_frameOut {n : Nat} {f : EPort → EPort} : (s.modEport n f).frameOut = s.frameOut := rfl
@[simp] theorem State.modEport_cwOut {n : Nat} {f : EPort → EPort} : (s.modEport n f).cwOut = s.cwOut := rfl
@[simp] theorem State.modEport_ptpOut {n : Nat} {f : EPort → EPort} : (s.modEport n f).ptpOut = s.ptpOut := rfl
@[simp] theorem State.modEport_od {n : Nat} {f : EPort → EPort} : (s.modEport n f).od = s.od := rfl
@[simp] theorem State.modEport_mram {n : Nat} {f : EPort → EPort} : (s.modEport n f).mram = s.mram := rfl
@[simp] theorem State.modEport_dieRegs {n : Nat} {f : EPort → EPort} : (s.modEport n f).dieRegs = s.dieRegs := rfl
@[simp] theorem State.modEport_mgmt {n : Nat} {f : EPort → EPort} : (s.modEport n f).mgmt = s.mgmt := rfl
@[simp] theorem State.modEport_power {n : Nat} {f : EPort → EPort} : (s.modEport n f).power = s.power := rfl
@[simp] theorem State.modEport_dies {n : Nat} {f : EPort → EPort} : (s.modEport n f).dies = s.dies := rfl
@[simp] theorem State.modEport_d2d {n : Nat} {f : EPort → EPort} : (s.modEport n f).d2d = s.d2d := rfl
@[simp] theorem State.modEport_startup {n : Nat} {f : EPort → EPort} : (s.modEport n f).startup = s.startup := rfl
@[simp] theorem State.modEport_fleet {n : Nat} {f : EPort → EPort} : (s.modEport n f).fleet = s.fleet := rfl
@[simp] theorem State.modEport_sec {n : Nat} {f : EPort → EPort} : (s.modEport n f).sec = s.sec := rfl
theorem State.modEport_eports {n : Nat} {f : EPort → EPort} : (s.modEport n f).eports = s.eports.modify n f := rfl
@[simp] theorem State.modEport_test {n : Nat} {f : EPort → EPort} : (s.modEport n f).test = s.test := rfl
@[simp] theorem State.modEport_ptp {n : Nat} {f : EPort → EPort} : (s.modEport n f).ptp = s.ptp := rfl

/-! ## odSet changes `od` -/

@[simp] theorem odSet_pending {i u v : Nat} : (odSet i u v s).pending = s.pending := rfl
@[simp] theorem odSet_now {i u v : Nat} : (odSet i u v s).now = s.now := rfl
@[simp] theorem odSet_free {i u v : Nat} : (odSet i u v s).free = s.free := rfl
@[simp] theorem odSet_cores {i u v : Nat} : (odSet i u v s).cores = s.cores := rfl
@[simp] theorem odSet_mem {i u v : Nat} : (odSet i u v s).mem = s.mem := rfl
@[simp] theorem odSet_wild {i u v : Nat} : (odSet i u v s).wild = s.wild := rfl
@[simp] theorem odSet_poison {i u v : Nat} : (odSet i u v s).poison = s.poison := rfl
@[simp] theorem odSet_poisonFlips {i u v : Nat} : (odSet i u v s).poisonFlips = s.poisonFlips := rfl
@[simp] theorem odSet_ecc {i u v : Nat} : (odSet i u v s).ecc = s.ecc := rfl
@[simp] theorem odSet_corrTimes {i u v : Nat} : (odSet i u v s).corrTimes = s.corrTimes := rfl
@[simp] theorem odSet_corrOver {i u v : Nat} : (odSet i u v s).corrOver = s.corrOver := rfl
@[simp] theorem odSet_nearTimes {i u v : Nat} : (odSet i u v s).nearTimes = s.nearTimes := rfl
@[simp] theorem odSet_lanes {i u v : Nat} : (odSet i u v s).lanes = s.lanes := rfl
@[simp] theorem odSet_flagged {i u v : Nat} : (odSet i u v s).flagged = s.flagged := rfl
@[simp] theorem odSet_margin {i u v : Nat} : (odSet i u v s).margin = s.margin := rfl
@[simp] theorem odSet_chipEvents {i u v : Nat} : (odSet i u v s).chipEvents = s.chipEvents := rfl
@[simp] theorem odSet_eventIn {i u v : Nat} : (odSet i u v s).eventIn = s.eventIn := rfl
@[simp] theorem odSet_eventOut {i u v : Nat} : (odSet i u v s).eventOut = s.eventOut := rfl
@[simp] theorem odSet_chans {i u v : Nat} : (odSet i u v s).chans = s.chans := rfl
@[simp] theorem odSet_handles {i u v : Nat} : (odSet i u v s).handles = s.handles := rfl
@[simp] theorem odSet_groups {i u v : Nat} : (odSet i u v s).groups = s.groups := rfl
@[simp] theorem odSet_slotsFree {i u v : Nat} : (odSet i u v s).slotsFree = s.slotsFree := rfl
@[simp] theorem odSet_ops {i u v : Nat} : (odSet i u v s).ops = s.ops := rfl
@[simp] theorem odSet_proxyReqs {i u v : Nat} : (odSet i u v s).proxyReqs = s.proxyReqs := rfl
@[simp] theorem odSet_xflows {i u v : Nat} : (odSet i u v s).xflows = s.xflows := rfl
@[simp] theorem odSet_ports {i u v : Nat} : (odSet i u v s).ports = s.ports := rfl
@[simp] theorem odSet_fab {i u v : Nat} : (odSet i u v s).fab = s.fab := rfl
@[simp] theorem odSet_inbound {i u v : Nat} : (odSet i u v s).inbound = s.inbound := rfl
@[simp] theorem odSet_inbox {i u v : Nat} : (odSet i u v s).inbox = s.inbox := rfl
@[simp] theorem odSet_windows {i u v : Nat} : (odSet i u v s).windows = s.windows := rfl
@[simp] theorem odSet_refusedBy {i u v : Nat} : (odSet i u v s).refusedBy = s.refusedBy := rfl
@[simp] theorem odSet_egress {i u v : Nat} : (odSet i u v s).egress = s.egress := rfl
@[simp] theorem odSet_eOut {i u v : Nat} : (odSet i u v s).eOut = s.eOut := rfl
@[simp] theorem odSet_frameOut {i u v : Nat} : (odSet i u v s).frameOut = s.frameOut := rfl
@[simp] theorem odSet_cwOut {i u v : Nat} : (odSet i u v s).cwOut = s.cwOut := rfl
@[simp] theorem odSet_ptpOut {i u v : Nat} : (odSet i u v s).ptpOut = s.ptpOut := rfl
theorem odSet_od {i u v : Nat} : (odSet i u v s).od = lset (odDefault i u) (odKey i u) v s.od := rfl
@[simp] theorem odSet_mram {i u v : Nat} : (odSet i u v s).mram = s.mram := rfl
@[simp] theorem odSet_dieRegs {i u v : Nat} : (odSet i u v s).dieRegs = s.dieRegs := rfl
@[simp] theorem odSet_mgmt {i u v : Nat} : (odSet i u v s).mgmt = s.mgmt := rfl
@[simp] theorem odSet_power {i u v : Nat} : (odSet i u v s).power = s.power := rfl
@[simp] theorem odSet_dies {i u v : Nat} : (odSet i u v s).dies = s.dies := rfl
@[simp] theorem odSet_d2d {i u v : Nat} : (odSet i u v s).d2d = s.d2d := rfl
@[simp] theorem odSet_startup {i u v : Nat} : (odSet i u v s).startup = s.startup := rfl
@[simp] theorem odSet_fleet {i u v : Nat} : (odSet i u v s).fleet = s.fleet := rfl
@[simp] theorem odSet_sec {i u v : Nat} : (odSet i u v s).sec = s.sec := rfl
@[simp] theorem odSet_eports {i u v : Nat} : (odSet i u v s).eports = s.eports := rfl
@[simp] theorem odSet_test {i u v : Nat} : (odSet i u v s).test = s.test := rfl
@[simp] theorem odSet_ptp {i u v : Nat} : (odSet i u v s).ptp = s.ptp := rfl

/-! ## writeBytes changes `mem` -/

@[simp] theorem writeBytes_pending {a : Nat} {b : List Byte} : (writeBytes a b s).pending = s.pending := rfl
@[simp] theorem writeBytes_now {a : Nat} {b : List Byte} : (writeBytes a b s).now = s.now := rfl
@[simp] theorem writeBytes_free {a : Nat} {b : List Byte} : (writeBytes a b s).free = s.free := rfl
@[simp] theorem writeBytes_cores {a : Nat} {b : List Byte} : (writeBytes a b s).cores = s.cores := rfl
theorem writeBytes_mem {a : Nat} {b : List Byte} : (writeBytes a b s).mem = memPut s.wild s.mem a b := rfl
@[simp] theorem writeBytes_wild {a : Nat} {b : List Byte} : (writeBytes a b s).wild = s.wild := rfl
@[simp] theorem writeBytes_poison {a : Nat} {b : List Byte} : (writeBytes a b s).poison = s.poison := rfl
@[simp] theorem writeBytes_poisonFlips {a : Nat} {b : List Byte} : (writeBytes a b s).poisonFlips = s.poisonFlips := rfl
@[simp] theorem writeBytes_ecc {a : Nat} {b : List Byte} : (writeBytes a b s).ecc = s.ecc := rfl
@[simp] theorem writeBytes_corrTimes {a : Nat} {b : List Byte} : (writeBytes a b s).corrTimes = s.corrTimes := rfl
@[simp] theorem writeBytes_corrOver {a : Nat} {b : List Byte} : (writeBytes a b s).corrOver = s.corrOver := rfl
@[simp] theorem writeBytes_nearTimes {a : Nat} {b : List Byte} : (writeBytes a b s).nearTimes = s.nearTimes := rfl
@[simp] theorem writeBytes_lanes {a : Nat} {b : List Byte} : (writeBytes a b s).lanes = s.lanes := rfl
@[simp] theorem writeBytes_flagged {a : Nat} {b : List Byte} : (writeBytes a b s).flagged = s.flagged := rfl
@[simp] theorem writeBytes_margin {a : Nat} {b : List Byte} : (writeBytes a b s).margin = s.margin := rfl
@[simp] theorem writeBytes_chipEvents {a : Nat} {b : List Byte} : (writeBytes a b s).chipEvents = s.chipEvents := rfl
@[simp] theorem writeBytes_eventIn {a : Nat} {b : List Byte} : (writeBytes a b s).eventIn = s.eventIn := rfl
@[simp] theorem writeBytes_eventOut {a : Nat} {b : List Byte} : (writeBytes a b s).eventOut = s.eventOut := rfl
@[simp] theorem writeBytes_chans {a : Nat} {b : List Byte} : (writeBytes a b s).chans = s.chans := rfl
@[simp] theorem writeBytes_handles {a : Nat} {b : List Byte} : (writeBytes a b s).handles = s.handles := rfl
@[simp] theorem writeBytes_groups {a : Nat} {b : List Byte} : (writeBytes a b s).groups = s.groups := rfl
@[simp] theorem writeBytes_slotsFree {a : Nat} {b : List Byte} : (writeBytes a b s).slotsFree = s.slotsFree := rfl
@[simp] theorem writeBytes_ops {a : Nat} {b : List Byte} : (writeBytes a b s).ops = s.ops := rfl
@[simp] theorem writeBytes_proxyReqs {a : Nat} {b : List Byte} : (writeBytes a b s).proxyReqs = s.proxyReqs := rfl
@[simp] theorem writeBytes_xflows {a : Nat} {b : List Byte} : (writeBytes a b s).xflows = s.xflows := rfl
@[simp] theorem writeBytes_ports {a : Nat} {b : List Byte} : (writeBytes a b s).ports = s.ports := rfl
@[simp] theorem writeBytes_fab {a : Nat} {b : List Byte} : (writeBytes a b s).fab = s.fab := rfl
@[simp] theorem writeBytes_inbound {a : Nat} {b : List Byte} : (writeBytes a b s).inbound = s.inbound := rfl
@[simp] theorem writeBytes_inbox {a : Nat} {b : List Byte} : (writeBytes a b s).inbox = s.inbox := rfl
@[simp] theorem writeBytes_windows {a : Nat} {b : List Byte} : (writeBytes a b s).windows = s.windows := rfl
@[simp] theorem writeBytes_refusedBy {a : Nat} {b : List Byte} : (writeBytes a b s).refusedBy = s.refusedBy := rfl
@[simp] theorem writeBytes_egress {a : Nat} {b : List Byte} : (writeBytes a b s).egress = s.egress := rfl
@[simp] theorem writeBytes_eOut {a : Nat} {b : List Byte} : (writeBytes a b s).eOut = s.eOut := rfl
@[simp] theorem writeBytes_frameOut {a : Nat} {b : List Byte} : (writeBytes a b s).frameOut = s.frameOut := rfl
@[simp] theorem writeBytes_cwOut {a : Nat} {b : List Byte} : (writeBytes a b s).cwOut = s.cwOut := rfl
@[simp] theorem writeBytes_ptpOut {a : Nat} {b : List Byte} : (writeBytes a b s).ptpOut = s.ptpOut := rfl
@[simp] theorem writeBytes_od {a : Nat} {b : List Byte} : (writeBytes a b s).od = s.od := rfl
@[simp] theorem writeBytes_mram {a : Nat} {b : List Byte} : (writeBytes a b s).mram = s.mram := rfl
@[simp] theorem writeBytes_dieRegs {a : Nat} {b : List Byte} : (writeBytes a b s).dieRegs = s.dieRegs := rfl
@[simp] theorem writeBytes_mgmt {a : Nat} {b : List Byte} : (writeBytes a b s).mgmt = s.mgmt := rfl
@[simp] theorem writeBytes_power {a : Nat} {b : List Byte} : (writeBytes a b s).power = s.power := rfl
@[simp] theorem writeBytes_dies {a : Nat} {b : List Byte} : (writeBytes a b s).dies = s.dies := rfl
@[simp] theorem writeBytes_d2d {a : Nat} {b : List Byte} : (writeBytes a b s).d2d = s.d2d := rfl
@[simp] theorem writeBytes_startup {a : Nat} {b : List Byte} : (writeBytes a b s).startup = s.startup := rfl
@[simp] theorem writeBytes_fleet {a : Nat} {b : List Byte} : (writeBytes a b s).fleet = s.fleet := rfl
@[simp] theorem writeBytes_sec {a : Nat} {b : List Byte} : (writeBytes a b s).sec = s.sec := rfl
@[simp] theorem writeBytes_eports {a : Nat} {b : List Byte} : (writeBytes a b s).eports = s.eports := rfl
@[simp] theorem writeBytes_test {a : Nat} {b : List Byte} : (writeBytes a b s).test = s.test := rfl
@[simp] theorem writeBytes_ptp {a : Nat} {b : List Byte} : (writeBytes a b s).ptp = s.ptp := rfl

/-! ## setPoison changes `poison` -/

@[simp] theorem setPoison_pending {l : Nat} : (setPoison l s).pending = s.pending := rfl
@[simp] theorem setPoison_now {l : Nat} : (setPoison l s).now = s.now := rfl
@[simp] theorem setPoison_free {l : Nat} : (setPoison l s).free = s.free := rfl
@[simp] theorem setPoison_cores {l : Nat} : (setPoison l s).cores = s.cores := rfl
@[simp] theorem setPoison_mem {l : Nat} : (setPoison l s).mem = s.mem := rfl
@[simp] theorem setPoison_wild {l : Nat} : (setPoison l s).wild = s.wild := rfl
theorem setPoison_poison {l : Nat} : (setPoison l s).poison = sinsert l s.poison := rfl
@[simp] theorem setPoison_ecc {l : Nat} : (setPoison l s).ecc = s.ecc := rfl
@[simp] theorem setPoison_corrTimes {l : Nat} : (setPoison l s).corrTimes = s.corrTimes := rfl
@[simp] theorem setPoison_corrOver {l : Nat} : (setPoison l s).corrOver = s.corrOver := rfl
@[simp] theorem setPoison_nearTimes {l : Nat} : (setPoison l s).nearTimes = s.nearTimes := rfl
@[simp] theorem setPoison_lanes {l : Nat} : (setPoison l s).lanes = s.lanes := rfl
@[simp] theorem setPoison_flagged {l : Nat} : (setPoison l s).flagged = s.flagged := rfl
@[simp] theorem setPoison_margin {l : Nat} : (setPoison l s).margin = s.margin := rfl
@[simp] theorem setPoison_chipEvents {l : Nat} : (setPoison l s).chipEvents = s.chipEvents := rfl
@[simp] theorem setPoison_eventIn {l : Nat} : (setPoison l s).eventIn = s.eventIn := rfl
@[simp] theorem setPoison_eventOut {l : Nat} : (setPoison l s).eventOut = s.eventOut := rfl
@[simp] theorem setPoison_chans {l : Nat} : (setPoison l s).chans = s.chans := rfl
@[simp] theorem setPoison_handles {l : Nat} : (setPoison l s).handles = s.handles := rfl
@[simp] theorem setPoison_groups {l : Nat} : (setPoison l s).groups = s.groups := rfl
@[simp] theorem setPoison_slotsFree {l : Nat} : (setPoison l s).slotsFree = s.slotsFree := rfl
@[simp] theorem setPoison_ops {l : Nat} : (setPoison l s).ops = s.ops := rfl
@[simp] theorem setPoison_proxyReqs {l : Nat} : (setPoison l s).proxyReqs = s.proxyReqs := rfl
@[simp] theorem setPoison_xflows {l : Nat} : (setPoison l s).xflows = s.xflows := rfl
@[simp] theorem setPoison_ports {l : Nat} : (setPoison l s).ports = s.ports := rfl
@[simp] theorem setPoison_fab {l : Nat} : (setPoison l s).fab = s.fab := rfl
@[simp] theorem setPoison_inbound {l : Nat} : (setPoison l s).inbound = s.inbound := rfl
@[simp] theorem setPoison_inbox {l : Nat} : (setPoison l s).inbox = s.inbox := rfl
@[simp] theorem setPoison_windows {l : Nat} : (setPoison l s).windows = s.windows := rfl
@[simp] theorem setPoison_refusedBy {l : Nat} : (setPoison l s).refusedBy = s.refusedBy := rfl
@[simp] theorem setPoison_egress {l : Nat} : (setPoison l s).egress = s.egress := rfl
@[simp] theorem setPoison_eOut {l : Nat} : (setPoison l s).eOut = s.eOut := rfl
@[simp] theorem setPoison_frameOut {l : Nat} : (setPoison l s).frameOut = s.frameOut := rfl
@[simp] theorem setPoison_cwOut {l : Nat} : (setPoison l s).cwOut = s.cwOut := rfl
@[simp] theorem setPoison_ptpOut {l : Nat} : (setPoison l s).ptpOut = s.ptpOut := rfl
@[simp] theorem setPoison_od {l : Nat} : (setPoison l s).od = s.od := rfl
@[simp] theorem setPoison_mram {l : Nat} : (setPoison l s).mram = s.mram := rfl
@[simp] theorem setPoison_dieRegs {l : Nat} : (setPoison l s).dieRegs = s.dieRegs := rfl
@[simp] theorem setPoison_mgmt {l : Nat} : (setPoison l s).mgmt = s.mgmt := rfl
@[simp] theorem setPoison_power {l : Nat} : (setPoison l s).power = s.power := rfl
@[simp] theorem setPoison_dies {l : Nat} : (setPoison l s).dies = s.dies := rfl
@[simp] theorem setPoison_d2d {l : Nat} : (setPoison l s).d2d = s.d2d := rfl
@[simp] theorem setPoison_startup {l : Nat} : (setPoison l s).startup = s.startup := rfl
@[simp] theorem setPoison_fleet {l : Nat} : (setPoison l s).fleet = s.fleet := rfl
@[simp] theorem setPoison_sec {l : Nat} : (setPoison l s).sec = s.sec := rfl
@[simp] theorem setPoison_eports {l : Nat} : (setPoison l s).eports = s.eports := rfl
@[simp] theorem setPoison_test {l : Nat} : (setPoison l s).test = s.test := rfl
@[simp] theorem setPoison_ptp {l : Nat} : (setPoison l s).ptp = s.ptp := rfl

/-! ## clearPoison changes `poison` -/

@[simp] theorem clearPoison_pending {l : Nat} : (clearPoison l s).pending = s.pending := rfl
@[simp] theorem clearPoison_now {l : Nat} : (clearPoison l s).now = s.now := rfl
@[simp] theorem clearPoison_free {l : Nat} : (clearPoison l s).free = s.free := rfl
@[simp] theorem clearPoison_cores {l : Nat} : (clearPoison l s).cores = s.cores := rfl
@[simp] theorem clearPoison_mem {l : Nat} : (clearPoison l s).mem = s.mem := rfl
@[simp] theorem clearPoison_wild {l : Nat} : (clearPoison l s).wild = s.wild := rfl
theorem clearPoison_poison {l : Nat} : (clearPoison l s).poison = sremove l s.poison := rfl
@[simp] theorem clearPoison_ecc {l : Nat} : (clearPoison l s).ecc = s.ecc := rfl
@[simp] theorem clearPoison_corrTimes {l : Nat} : (clearPoison l s).corrTimes = s.corrTimes := rfl
@[simp] theorem clearPoison_corrOver {l : Nat} : (clearPoison l s).corrOver = s.corrOver := rfl
@[simp] theorem clearPoison_nearTimes {l : Nat} : (clearPoison l s).nearTimes = s.nearTimes := rfl
@[simp] theorem clearPoison_lanes {l : Nat} : (clearPoison l s).lanes = s.lanes := rfl
@[simp] theorem clearPoison_flagged {l : Nat} : (clearPoison l s).flagged = s.flagged := rfl
@[simp] theorem clearPoison_margin {l : Nat} : (clearPoison l s).margin = s.margin := rfl
@[simp] theorem clearPoison_chipEvents {l : Nat} : (clearPoison l s).chipEvents = s.chipEvents := rfl
@[simp] theorem clearPoison_eventIn {l : Nat} : (clearPoison l s).eventIn = s.eventIn := rfl
@[simp] theorem clearPoison_eventOut {l : Nat} : (clearPoison l s).eventOut = s.eventOut := rfl
@[simp] theorem clearPoison_chans {l : Nat} : (clearPoison l s).chans = s.chans := rfl
@[simp] theorem clearPoison_handles {l : Nat} : (clearPoison l s).handles = s.handles := rfl
@[simp] theorem clearPoison_groups {l : Nat} : (clearPoison l s).groups = s.groups := rfl
@[simp] theorem clearPoison_slotsFree {l : Nat} : (clearPoison l s).slotsFree = s.slotsFree := rfl
@[simp] theorem clearPoison_ops {l : Nat} : (clearPoison l s).ops = s.ops := rfl
@[simp] theorem clearPoison_proxyReqs {l : Nat} : (clearPoison l s).proxyReqs = s.proxyReqs := rfl
@[simp] theorem clearPoison_xflows {l : Nat} : (clearPoison l s).xflows = s.xflows := rfl
@[simp] theorem clearPoison_ports {l : Nat} : (clearPoison l s).ports = s.ports := rfl
@[simp] theorem clearPoison_fab {l : Nat} : (clearPoison l s).fab = s.fab := rfl
@[simp] theorem clearPoison_inbound {l : Nat} : (clearPoison l s).inbound = s.inbound := rfl
@[simp] theorem clearPoison_inbox {l : Nat} : (clearPoison l s).inbox = s.inbox := rfl
@[simp] theorem clearPoison_windows {l : Nat} : (clearPoison l s).windows = s.windows := rfl
@[simp] theorem clearPoison_refusedBy {l : Nat} : (clearPoison l s).refusedBy = s.refusedBy := rfl
@[simp] theorem clearPoison_egress {l : Nat} : (clearPoison l s).egress = s.egress := rfl
@[simp] theorem clearPoison_eOut {l : Nat} : (clearPoison l s).eOut = s.eOut := rfl
@[simp] theorem clearPoison_frameOut {l : Nat} : (clearPoison l s).frameOut = s.frameOut := rfl
@[simp] theorem clearPoison_cwOut {l : Nat} : (clearPoison l s).cwOut = s.cwOut := rfl
@[simp] theorem clearPoison_ptpOut {l : Nat} : (clearPoison l s).ptpOut = s.ptpOut := rfl
@[simp] theorem clearPoison_od {l : Nat} : (clearPoison l s).od = s.od := rfl
@[simp] theorem clearPoison_mram {l : Nat} : (clearPoison l s).mram = s.mram := rfl
@[simp] theorem clearPoison_dieRegs {l : Nat} : (clearPoison l s).dieRegs = s.dieRegs := rfl
@[simp] theorem clearPoison_mgmt {l : Nat} : (clearPoison l s).mgmt = s.mgmt := rfl
@[simp] theorem clearPoison_power {l : Nat} : (clearPoison l s).power = s.power := rfl
@[simp] theorem clearPoison_dies {l : Nat} : (clearPoison l s).dies = s.dies := rfl
@[simp] theorem clearPoison_d2d {l : Nat} : (clearPoison l s).d2d = s.d2d := rfl
@[simp] theorem clearPoison_startup {l : Nat} : (clearPoison l s).startup = s.startup := rfl
@[simp] theorem clearPoison_fleet {l : Nat} : (clearPoison l s).fleet = s.fleet := rfl
@[simp] theorem clearPoison_sec {l : Nat} : (clearPoison l s).sec = s.sec := rfl
@[simp] theorem clearPoison_eports {l : Nat} : (clearPoison l s).eports = s.eports := rfl
@[simp] theorem clearPoison_test {l : Nat} : (clearPoison l s).test = s.test := rfl
@[simp] theorem clearPoison_ptp {l : Nat} : (clearPoison l s).ptp = s.ptp := rfl

/-! ## clearEcc changes `ecc` -/

@[simp] theorem clearEcc_pending {l : Nat} : (clearEcc l s).pending = s.pending := rfl
@[simp] theorem clearEcc_now {l : Nat} : (clearEcc l s).now = s.now := rfl
@[simp] theorem clearEcc_free {l : Nat} : (clearEcc l s).free = s.free := rfl
@[simp] theorem clearEcc_cores {l : Nat} : (clearEcc l s).cores = s.cores := rfl
@[simp] theorem clearEcc_mem {l : Nat} : (clearEcc l s).mem = s.mem := rfl
@[simp] theorem clearEcc_wild {l : Nat} : (clearEcc l s).wild = s.wild := rfl
@[simp] theorem clearEcc_poison {l : Nat} : (clearEcc l s).poison = s.poison := rfl
@[simp] theorem clearEcc_corrTimes {l : Nat} : (clearEcc l s).corrTimes = s.corrTimes := rfl
@[simp] theorem clearEcc_corrOver {l : Nat} : (clearEcc l s).corrOver = s.corrOver := rfl
@[simp] theorem clearEcc_nearTimes {l : Nat} : (clearEcc l s).nearTimes = s.nearTimes := rfl
@[simp] theorem clearEcc_lanes {l : Nat} : (clearEcc l s).lanes = s.lanes := rfl
@[simp] theorem clearEcc_flagged {l : Nat} : (clearEcc l s).flagged = s.flagged := rfl
@[simp] theorem clearEcc_margin {l : Nat} : (clearEcc l s).margin = s.margin := rfl
@[simp] theorem clearEcc_chipEvents {l : Nat} : (clearEcc l s).chipEvents = s.chipEvents := rfl
@[simp] theorem clearEcc_eventIn {l : Nat} : (clearEcc l s).eventIn = s.eventIn := rfl
@[simp] theorem clearEcc_eventOut {l : Nat} : (clearEcc l s).eventOut = s.eventOut := rfl
@[simp] theorem clearEcc_chans {l : Nat} : (clearEcc l s).chans = s.chans := rfl
@[simp] theorem clearEcc_handles {l : Nat} : (clearEcc l s).handles = s.handles := rfl
@[simp] theorem clearEcc_groups {l : Nat} : (clearEcc l s).groups = s.groups := rfl
@[simp] theorem clearEcc_slotsFree {l : Nat} : (clearEcc l s).slotsFree = s.slotsFree := rfl
@[simp] theorem clearEcc_ops {l : Nat} : (clearEcc l s).ops = s.ops := rfl
@[simp] theorem clearEcc_proxyReqs {l : Nat} : (clearEcc l s).proxyReqs = s.proxyReqs := rfl
@[simp] theorem clearEcc_xflows {l : Nat} : (clearEcc l s).xflows = s.xflows := rfl
@[simp] theorem clearEcc_ports {l : Nat} : (clearEcc l s).ports = s.ports := rfl
@[simp] theorem clearEcc_fab {l : Nat} : (clearEcc l s).fab = s.fab := rfl
@[simp] theorem clearEcc_inbound {l : Nat} : (clearEcc l s).inbound = s.inbound := rfl
@[simp] theorem clearEcc_inbox {l : Nat} : (clearEcc l s).inbox = s.inbox := rfl
@[simp] theorem clearEcc_windows {l : Nat} : (clearEcc l s).windows = s.windows := rfl
@[simp] theorem clearEcc_refusedBy {l : Nat} : (clearEcc l s).refusedBy = s.refusedBy := rfl
@[simp] theorem clearEcc_egress {l : Nat} : (clearEcc l s).egress = s.egress := rfl
@[simp] theorem clearEcc_eOut {l : Nat} : (clearEcc l s).eOut = s.eOut := rfl
@[simp] theorem clearEcc_frameOut {l : Nat} : (clearEcc l s).frameOut = s.frameOut := rfl
@[simp] theorem clearEcc_cwOut {l : Nat} : (clearEcc l s).cwOut = s.cwOut := rfl
@[simp] theorem clearEcc_ptpOut {l : Nat} : (clearEcc l s).ptpOut = s.ptpOut := rfl
@[simp] theorem clearEcc_od {l : Nat} : (clearEcc l s).od = s.od := rfl
@[simp] theorem clearEcc_mram {l : Nat} : (clearEcc l s).mram = s.mram := rfl
@[simp] theorem clearEcc_dieRegs {l : Nat} : (clearEcc l s).dieRegs = s.dieRegs := rfl
@[simp] theorem clearEcc_mgmt {l : Nat} : (clearEcc l s).mgmt = s.mgmt := rfl
@[simp] theorem clearEcc_power {l : Nat} : (clearEcc l s).power = s.power := rfl
@[simp] theorem clearEcc_dies {l : Nat} : (clearEcc l s).dies = s.dies := rfl
@[simp] theorem clearEcc_d2d {l : Nat} : (clearEcc l s).d2d = s.d2d := rfl
@[simp] theorem clearEcc_startup {l : Nat} : (clearEcc l s).startup = s.startup := rfl
@[simp] theorem clearEcc_fleet {l : Nat} : (clearEcc l s).fleet = s.fleet := rfl
@[simp] theorem clearEcc_sec {l : Nat} : (clearEcc l s).sec = s.sec := rfl
@[simp] theorem clearEcc_eports {l : Nat} : (clearEcc l s).eports = s.eports := rfl
@[simp] theorem clearEcc_test {l : Nat} : (clearEcc l s).test = s.test := rfl
@[simp] theorem clearEcc_ptp {l : Nat} : (clearEcc l s).ptp = s.ptp := rfl

/-! ## setResp changes `mgmt` -/

@[simp] theorem setResp_pending {m : Master} {c : Nat} {b : List Byte} : (setResp m c b s).pending = s.pending := rfl
@[simp] theorem setResp_now {m : Master} {c : Nat} {b : List Byte} : (setResp m c b s).now = s.now := rfl
@[simp] theorem setResp_free {m : Master} {c : Nat} {b : List Byte} : (setResp m c b s).free = s.free := rfl
@[simp] theorem setResp_cores {m : Master} {c : Nat} {b : List Byte} : (setResp m c b s).cores = s.cores := rfl
@[simp] theorem setResp_mem {m : Master} {c : Nat} {b : List Byte} : (setResp m c b s).mem = s.mem := rfl
@[simp] theorem setResp_wild {m : Master} {c : Nat} {b : List Byte} : (setResp m c b s).wild = s.wild := rfl
@[simp] theorem setResp_poison {m : Master} {c : Nat} {b : List Byte} : (setResp m c b s).poison = s.poison := rfl
@[simp] theorem setResp_poisonFlips {m : Master} {c : Nat} {b : List Byte} : (setResp m c b s).poisonFlips = s.poisonFlips := rfl
@[simp] theorem setResp_ecc {m : Master} {c : Nat} {b : List Byte} : (setResp m c b s).ecc = s.ecc := rfl
@[simp] theorem setResp_corrTimes {m : Master} {c : Nat} {b : List Byte} : (setResp m c b s).corrTimes = s.corrTimes := rfl
@[simp] theorem setResp_corrOver {m : Master} {c : Nat} {b : List Byte} : (setResp m c b s).corrOver = s.corrOver := rfl
@[simp] theorem setResp_nearTimes {m : Master} {c : Nat} {b : List Byte} : (setResp m c b s).nearTimes = s.nearTimes := rfl
@[simp] theorem setResp_lanes {m : Master} {c : Nat} {b : List Byte} : (setResp m c b s).lanes = s.lanes := rfl
@[simp] theorem setResp_flagged {m : Master} {c : Nat} {b : List Byte} : (setResp m c b s).flagged = s.flagged := rfl
@[simp] theorem setResp_margin {m : Master} {c : Nat} {b : List Byte} : (setResp m c b s).margin = s.margin := rfl
@[simp] theorem setResp_chipEvents {m : Master} {c : Nat} {b : List Byte} : (setResp m c b s).chipEvents = s.chipEvents := rfl
@[simp] theorem setResp_eventIn {m : Master} {c : Nat} {b : List Byte} : (setResp m c b s).eventIn = s.eventIn := rfl
@[simp] theorem setResp_eventOut {m : Master} {c : Nat} {b : List Byte} : (setResp m c b s).eventOut = s.eventOut := rfl
@[simp] theorem setResp_chans {m : Master} {c : Nat} {b : List Byte} : (setResp m c b s).chans = s.chans := rfl
@[simp] theorem setResp_handles {m : Master} {c : Nat} {b : List Byte} : (setResp m c b s).handles = s.handles := rfl
@[simp] theorem setResp_groups {m : Master} {c : Nat} {b : List Byte} : (setResp m c b s).groups = s.groups := rfl
@[simp] theorem setResp_slotsFree {m : Master} {c : Nat} {b : List Byte} : (setResp m c b s).slotsFree = s.slotsFree := rfl
@[simp] theorem setResp_ops {m : Master} {c : Nat} {b : List Byte} : (setResp m c b s).ops = s.ops := rfl
@[simp] theorem setResp_proxyReqs {m : Master} {c : Nat} {b : List Byte} : (setResp m c b s).proxyReqs = s.proxyReqs := rfl
@[simp] theorem setResp_xflows {m : Master} {c : Nat} {b : List Byte} : (setResp m c b s).xflows = s.xflows := rfl
@[simp] theorem setResp_ports {m : Master} {c : Nat} {b : List Byte} : (setResp m c b s).ports = s.ports := rfl
@[simp] theorem setResp_fab {m : Master} {c : Nat} {b : List Byte} : (setResp m c b s).fab = s.fab := rfl
@[simp] theorem setResp_inbound {m : Master} {c : Nat} {b : List Byte} : (setResp m c b s).inbound = s.inbound := rfl
@[simp] theorem setResp_inbox {m : Master} {c : Nat} {b : List Byte} : (setResp m c b s).inbox = s.inbox := rfl
@[simp] theorem setResp_windows {m : Master} {c : Nat} {b : List Byte} : (setResp m c b s).windows = s.windows := rfl
@[simp] theorem setResp_refusedBy {m : Master} {c : Nat} {b : List Byte} : (setResp m c b s).refusedBy = s.refusedBy := rfl
@[simp] theorem setResp_egress {m : Master} {c : Nat} {b : List Byte} : (setResp m c b s).egress = s.egress := rfl
@[simp] theorem setResp_eOut {m : Master} {c : Nat} {b : List Byte} : (setResp m c b s).eOut = s.eOut := rfl
@[simp] theorem setResp_frameOut {m : Master} {c : Nat} {b : List Byte} : (setResp m c b s).frameOut = s.frameOut := rfl
@[simp] theorem setResp_cwOut {m : Master} {c : Nat} {b : List Byte} : (setResp m c b s).cwOut = s.cwOut := rfl
@[simp] theorem setResp_ptpOut {m : Master} {c : Nat} {b : List Byte} : (setResp m c b s).ptpOut = s.ptpOut := rfl
@[simp] theorem setResp_od {m : Master} {c : Nat} {b : List Byte} : (setResp m c b s).od = s.od := rfl
@[simp] theorem setResp_mram {m : Master} {c : Nat} {b : List Byte} : (setResp m c b s).mram = s.mram := rfl
@[simp] theorem setResp_dieRegs {m : Master} {c : Nat} {b : List Byte} : (setResp m c b s).dieRegs = s.dieRegs := rfl
@[simp] theorem setResp_power {m : Master} {c : Nat} {b : List Byte} : (setResp m c b s).power = s.power := rfl
@[simp] theorem setResp_dies {m : Master} {c : Nat} {b : List Byte} : (setResp m c b s).dies = s.dies := rfl
@[simp] theorem setResp_d2d {m : Master} {c : Nat} {b : List Byte} : (setResp m c b s).d2d = s.d2d := rfl
@[simp] theorem setResp_startup {m : Master} {c : Nat} {b : List Byte} : (setResp m c b s).startup = s.startup := rfl
@[simp] theorem setResp_fleet {m : Master} {c : Nat} {b : List Byte} : (setResp m c b s).fleet = s.fleet := rfl
@[simp] theorem setResp_sec {m : Master} {c : Nat} {b : List Byte} : (setResp m c b s).sec = s.sec := rfl
@[simp] theorem setResp_eports {m : Master} {c : Nat} {b : List Byte} : (setResp m c b s).eports = s.eports := rfl
@[simp] theorem setResp_test {m : Master} {c : Nat} {b : List Byte} : (setResp m c b s).test = s.test := rfl
@[simp] theorem setResp_ptp {m : Master} {c : Nat} {b : List Byte} : (setResp m c b s).ptp = s.ptp := rfl

end Sys2Proof.Machine
end

