-- ==== Sys2Proof/Laws/Step.lean ====
section
/-! SUPPORT. What one step does: the front command on the queue's rest. -/

namespace Sys2Proof.Machine

variable {s : State}

/-- A step with a command in front is that command on the state with the queue's rest. -/
theorem step_cons {c : Instr} {r : List Instr} (h : s.pending = c :: r) : step s = exec c { s with pending := r } := by
  simp [step, h]

/-- A step with none is a tick. -/
theorem step_nil (h : s.pending = []) : step s = .next (tick s) := by
  simp [step, h]

end Sys2Proof.Machine
end

