-- ==== Sys2Proof/Tests/Slice0.lean ====
section
/-! SUPPORT. Tests: an ill-formed term for each check of WellFormed, small single steps with results taken from the spec, and for each
statement of Certificates/Slice0/Obligations.lean a state and operands that meet its hypotheses, clause by clause. -/

namespace Sys2Proof.Tests

-- one theorem after another: each evaluation may need much memory
set_option Elab.async false

open Sys2Proof Sys2Proof.Machine

/-! ## Helpers -/

/-- The reset state of a part whose fuses and image hold zeros. -/
def base : State := { State.reset with sec := { fused := 0, header := [], fwVersion := 0, svn := 0 } }

/-- That state with core 3 at the first of the sequencer words `ws` in its core store. -/
def prog (ws : List Nat) (f : Core → Core) : State :=
  (writeBytes (storeAddr 3 0) (ws.flatMap (leBytes 8)) base).modCore 3 fun k => f { k with mode := .running, streamLen := ws.length }

/-- That state with core 3 as given. -/
def coreAs (f : Core → Core) : State := base.modCore 3 f

theorem handle_out {s : State} {i : Nat} (h : s.handles.length + 1 ≤ i) : s.handle i = {} :=
  by unfold State.handle; rw [List.getD_eq_getElem?_getD, List.getElem?_eq_none (Nat.le_sub_of_add_le h)]; rfl

theorem handle_all (s : State) (P : Handle → Prop) (h0 : P {}) (h : ∀ x ∈ s.handles, P x) (i : Nat) : P (s.handle i) := by
  unfold State.handle
  rw [List.getD_eq_getElem?_getD]
  cases e : s.handles[i - 1]? with
  | none => exact h0
  | some x => exact h x (List.mem_of_getElem? e)

/-- A part whose planes run: 40 cores on each die, PreOp passed, in AL state `al`. -/
def upAt (al : Nat) : State :=
  { base with
    mgmt := { al := al }
    fleet := { base.fleet with coreMap := (List.range 4).flatMap fun d => (List.range 40).map (44 * d + ·) }
    startup := { base.startup with steps := [], preopReady := true, computeUp := true, stacksOk := 0xFFF, cpStarts := 1 }
    power := { base.power with rails := 0x1FF, railWasGood := 0x1FF }
    fab := { base.fab with fwd := 1 } }

def up : State := upAt 8

/-- A descriptor of sequencer words, issued outside every loop. -/
def dOf (ws : List Nat) : Desc := { pc := 0, words := ws.map (BitVec.ofNat 64), idx := [], eo := 0, vl := 0, rst := false }

/-- Core 3 of a running part, as given. -/
def upCore (f : Core → Core) : State := up.modCore 3 fun k => f { k with mode := .running }

/-! ## The block -/

theorem wit_StepRunsFront : ∃ (s : State) (c : Instr) (r : List Instr), s.pending = c :: r :=
  ⟨{ base with pending := [.heartbeatSend, .powerOn] }, .heartbeatSend, [.powerOn], rfl⟩

theorem wit_IdleStepIsATick : base.pending = [] ∧ base.mgmt.heldEmcy = [] ∧ base.fab.wait = [] ∧ ∀ p < 32, sending base p = false := by
  decide +kernel

theorem wit_reset_shaped : State.reset.shaped = true ∧ Memory.wf State.reset = true := by decide +kernel

theorem wit_StepKeepsInv : ∃ s t : State, s.Inv ∧ step s = .next t :=
  ⟨State.reset, tick State.reset, ⟨wit_reset_shaped.2, wit_reset_shaped.1⟩, rfl⟩

theorem wit_RollbackCounterRises : ∃ (i : Instr) (s t : State), exec i s = .next t ∧ s.sec.fused ≤ 64 :=
  ⟨.baskEntry, { base with sec := { State.reset.sec with fused := 64 } }, _, rfl, by decide⟩

theorem wit_TestModeLasts : ∃ (i : Instr) (s t : State), (∀ r, i ≠ .railLost r) ∧ i ≠ .powerOn ∧ i ≠ .resetNAssert ∧ i ≠ .resetNRelease ∧
    exec i s = .next t ∧ s.test.mode = true := by
  refine ⟨.highz, { base with test := { mode := true } }, _, ?_, ?_, ?_, ?_, rfl, rfl⟩ <;> simp

theorem wit_TripLasts : ∃ (i : Instr) (s t : State), (∀ r, i ≠ .railLost r) ∧ i ≠ .powerOn ∧ (∀ m d, i ≠ .tripRelease m d) ∧
    (∀ m w k x u d, i ≠ .sdoRequest m w k x u d) ∧ (∀ m, i ≠ .sessionWrite m) ∧ exec i s = .next t ∧ s.power.tripped = true := by
  refine ⟨.highz, { base with power := { base.power with tripped := true } }, _, ?_, ?_, ?_, ?_, ?_, rfl, rfl⟩ <;> simp

/-! ## Sequencer words -/

def wLoop (body n : Nat) : Nat := 0x01 * 2 ^ 56 + body * 2 ^ 32 + n
def wEndloop : Nat := 0x02 * 2 ^ 56
def lv : Loop := { head := 0, fin := 1, strip := false, iter := 0, remaining := 2, eo := 0, vl := 0, set := false }

theorem wit_LoopOpensALevel_skip : let s := prog [wLoop 1 0, wEndloop] id; let w := wLoop 1 0;
    Executes s 3 0x01 0 w ∧ ReservedZero w [(51, 1), (32, 16), (0, 32)] ∧ fld w 32 16 ≠ 0 ∧
    (s.core 3).pc + fld w 32 16 < (s.core 3).streamLen ∧
    fld (streamWord s 3 ((s.core 3).pc + fld w 32 16)) 56 8 = 0x02 ∧ fld w 0 32 = 0 := by
  unfold Executes ReservedZero; decide +kernel

theorem wit_LoopOpensALevel_open : let s := prog [wLoop 1 7, wEndloop] id; let w := wLoop 1 7;
    Executes s 3 0x01 0 w ∧ ReservedZero w [(51, 1), (32, 16), (0, 32)] ∧ fld w 32 16 ≠ 0 ∧
    (s.core 3).pc + fld w 32 16 < (s.core 3).streamLen ∧
    fld (streamWord s 3 ((s.core 3).pc + fld w 32 16)) 56 8 = 0x02 ∧ fld w 0 32 ≠ 0 ∧ (s.core 3).loops.length < 4 := by
  unfold Executes ReservedZero; decide +kernel

theorem wit_LoopOpensALevel_deep : let s := prog [wLoop 1 7, wEndloop] (fun k => { k with loops := [lv, lv, lv, lv] }); let w := wLoop 1 7;
    Executes s 3 0x01 0 w ∧ ReservedZero w [(51, 1), (32, 16), (0, 32)] ∧ fld w 32 16 ≠ 0 ∧
    (s.core 3).pc + fld w 32 16 < (s.core 3).streamLen ∧
    fld (streamWord s 3 ((s.core 3).pc + fld w 32 16)) 56 8 = 0x02 ∧ fld w 0 32 ≠ 0 ∧ 4 ≤ (s.core 3).loops.length := by
  unfold Executes ReservedZero; decide +kernel

theorem wit_EndloopRepeatsOrEnds : ∀ n ∈ [1, 2], let l : Loop := { lv with remaining := n };
    let s := prog [wLoop 1 7, wEndloop] (fun k => { k with pc := 1, loops := [l] });
    Executes s 3 0x02 0 wEndloop ∧ ReservedZero wEndloop [] ∧ (s.core 3).loops.getLast? = some l ∧ l.fin = (s.core 3).pc ∧
    (l.strip = true → l.set = true) ∧ ((if l.strip then l.vl else 1) < l.remaining ↔ n = 2) := by
  unfold Executes ReservedZero; decide +kernel

def wSetvl (n : Nat) : Nat := 0x03 * 2 ^ 56 + n

theorem wit_SetvlTakesTheLeast : let l : Loop := { lv with strip := true, remaining := 100 };
    let s := prog [wLoop 2 7, wSetvl 200, wEndloop] (fun k => { k with pc := 1, loops := [l] });
    Executes s 3 0x03 0 (wSetvl 200) ∧ ReservedZero (wSetvl 200) [(0, 16)] ∧ fld (wSetvl 200) 0 16 ≠ 0 ∧
    (s.core 3).loops.getLast? = some l ∧ l.strip = true ∧ (s.core 3).pc = l.head + 1 := by
  unfold Executes ReservedZero; decide +kernel

/-- WAIT on core event 63 with CLR. -/
def wWait : Nat := 0x04 * 2 ^ 56 + 2 ^ 50 + 63 * 2 ^ 40

theorem wit_WaitOnACoreEvent_run : ReservedZero wWait [(51, 1), (50, 1), (40, 8), (0, 32)] ∧ bitAt wWait 51 = false ∧ fld wWait 0 32 = 0 ∧
    fld wWait 40 8 ≤ 63 ∧ ∀ b ∈ [false, true], let s := prog [wWait] (fun k => k.setEvent 63 b);
      Executes s 3 0x04 0 wWait ∧ (s.core 3).event (fld wWait 40 8) = b := by
  unfold Executes ReservedZero; decide +kernel

theorem wit_WaitOnACoreEvent_blocked : ∀ b ∈ [false, true],
    let s := (prog [wWait] id).modCore 3 fun k => { k with mode := .waiting, waitLimit := 1, sqWait := if b then none else some (63, true) };
    (s.core 3).mode = .waiting ∧ streamWord s 3 (s.core 3).pc = wWait ∧ ((s.core 3).sqWait = none ↔ b = true) ∧
    ((s.core 3).sqWait.isSome = true ↔ b = false) ∧ (s.core 3).waitLimit ≠ 0 := by
  decide +kernel

theorem wit_WaitOnACoreEvent_settles : let k : Core := ({ sqWait := some (63, true) } : Core).setEvent 63 true;
    k.sqWait = some (63, true) ∧ k.event 63 = true := by
  decide +kernel

/-- SIGNAL to core event 63; SIGNAL of 5 to chip event 255. -/
def wSignal : Nat := 0x05 * 2 ^ 56 + 63 * 2 ^ 40
def wSignalChip : Nat := 0x05 * 2 ^ 56 + 2 ^ 51 + 255 * 2 ^ 40 + 5

theorem wit_SignalsAndChipEvents : (let s := prog [wSignal] id;
      Executes s 3 0x05 0 wSignal ∧ ReservedZero wSignal [(51, 1), (50, 1), (40, 8), (0, 32)] ∧ bitAt wSignal 51 = false ∧ fld wSignal 0 32 = 0 ∧
        fld wSignal 40 8 ≤ 63) ∧
    (let s := prog [wSignalChip] id;
      Executes s 3 0x05 0 wSignalChip ∧ ReservedZero wSignalChip [(51, 1), (50, 1), (40, 8), (0, 32)] ∧ bitAt wSignalChip 51 = true ∧
        bitAt wSignalChip 50 = false) ∧
    (let s : State := { base with eventIn := [(255, 5)] };
      s.eventIn = [(255, 5)] ∧ s.eventOut = []) ∧
    (let s : State := { base with eventIn := [(255, 5)], eventOut := [(9, 1), (255, 5)] };
      s.eventIn = [(255, 5)] ∧ s.eventOut = [(9, 1)] ++ [(255, 5)] ∧ s.eventOut = (9, 1) :: [(255, 5)]) := by
  unfold Executes ReservedZero; decide +kernel

/-- BRST on bit 9 (DROP, no queue's) and on bit 5 (COLL_ERR), 2 words forward, with CLR. -/
def wBrst (bit : Nat) : Nat := 0x06 * 2 ^ 56 + 2 ^ 51 + 2 ^ 50 + bit * 2 ^ 40 + 2

theorem wit_BranchOnStatus : ∀ b ∈ [5, 9], let w := wBrst b; let s := prog [w, 0, 0] (fun k => { k with stat := 0x3FF });
    Executes s 3 0x06 0 w ∧ ReservedZero w [(51, 1), (50, 1), (40, 8), (32, 8), (0, 16)] ∧ fld w 40 8 ≤ 9 ∧
    (fld w 40 8 ≤ 5 → maskIdle (2 ^ fld w 40 8) (s.core 3) = true) ∧ fld w 0 16 ≠ 0 ∧
    (s.core 3).pc + fld w 0 16 < (s.core 3).streamLen ∧ (s.core 3).loops = [] := by
  unfold Executes ReservedZero; decide +kernel

def wYield : Nat := 0x07 * 2 ^ 56
/-- An engine with one descriptor queued. -/
def busyEng : Engine := { queue := [{ pc := 0, words := [0], idx := [], eo := 0, vl := 0, rst := false }] }

theorem wit_YieldParks_word : ∀ x ∈ [(false, true), (true, false), (true, true)],
    let l : Loop := { lv with fin := 2 };
    let s := prog [wLoop 2 7, wYield, wEndloop]
      (fun k => { k with pc := 1, loops := [l], suspPend := x.1, dm := if x.2 then {} else busyEng })
    Executes s 3 0x07 0 wYield ∧ ReservedZero wYield [] ∧ (s.core 3).loops.getLast? = some l ∧ l.head + 1 = (s.core 3).pc ∧
    (s.core 3).suspPend = x.1 ∧ maskIdle 63 (s.core 3) = x.2 := by
  unfold Executes ReservedZero; decide +kernel

def fwait (kind mask : Nat) (rem : Bool) (cl : Option Nat) : FenceWait :=
  { kind := kind, mask := mask, remote := rem, limit := 100, exit := 7, closed := cl }

theorem wit_YieldParks_park : let f := fwait 2 63 true (some 0); let s := coreAs fun k => { k with mode := .fencing, fence := some f, epoch := 1 };
    (s.core 3).mode = .fencing ∧ (s.core 3).fence = some f ∧ f.kind = 2 ∧ f.remote = true ∧ f.closed = some 0 ∧
    maskIdle f.mask (s.core 3) = true ∧ (∀ x ∈ (s.core 3).slots, x.2.epoch ≠ 0) ∧ epochErr (s.core 3) 0 = false := by
  decide +kernel

def wFence (mask : Nat) (rem : Bool) : Nat := 0x08 * 2 ^ 56 + mask * 2 ^ 40 + b2n rem * 2 ^ 39 + 100
def wHalt : Nat := 0x0A * 2 ^ 56 + 7

theorem wit_FenceBegins_fence : ∀ x ∈ [(false, true), (true, false), (true, true)],
    let w := wFence 8 x.1; let s := prog [w] (fun k => { k with dm := if x.2 then {} else busyEng });
    Executes s 3 0x08 0 w ∧ ReservedZero w [(40, 6), (39, 1), (0, 32)] ∧ bitAt w 39 = x.1 ∧ maskIdle (fld w 40 6) (s.core 3) = x.2 := by
  unfold Executes ReservedZero; decide +kernel

theorem wit_FenceBegins_halt : ∀ b ∈ [false, true], let s := prog [wHalt] (fun k => { k with ve := if b then {} else busyEng });
    Executes s 3 0x0A 0 wHalt ∧ ReservedZero wHalt [(0, 16)] ∧ maskIdle 63 (s.core 3) = b := by
  unfold Executes ReservedZero; decide +kernel

def dsc : Desc := { pc := 0, words := [0], idx := [], eo := 0, vl := 0, rst := false }
def slotAt (e : Nat) : Slot :=
  { wr := false, dev := 1, ep := 2, win := 0, ofs := 0, lines := 1, fmt := 0, gen := 0, epoch := e, line := 0, run := 0, desc := dsc }

theorem wit_FenceEnds : ∀ f ∈ [fwait 0 8 false none, fwait 0 8 true (some 2), fwait 1 63 true (some 2)],
    let s := coreAs fun k => { k with mode := .fencing, fence := some f, slots := [(0, slotAt 1)] };
    (s.core 3).mode = .fencing ∧ (s.core 3).fence = some f ∧ maskIdle f.mask (s.core 3) = true ∧ (∀ x ∈ (s.core 3).slots, x.2.epoch ≠ 2) ∧
    3 < s.cores.length := by
  decide +kernel

theorem wit_FenceEnds_timeout : let f := fwait 0 8 true (some 1); let s := coreAs fun k => { k with mode := .fencing, fence := some f, slots := [(0, slotAt 1)] };
    (s.core 3).mode = .fencing ∧ (s.core 3).fence = some f ∧ f.remote = true ∧ f.closed = some 1 ∧
    (∃ x ∈ (s.core 3).slots, x.2.epoch = 1) ∧ 3 < s.cores.length := by
  decide +kernel

/-- TALLY kind `k` on TA7 with the last double of the core store as its operand. -/
def wTally (k : Nat) : Nat := 0x09 * 2 ^ 56 + 2 ^ 52 + 7 * 2 ^ 45 + k * 2 ^ 42

theorem wit_TallyOps : ∀ k ∈ [0, 1, 2, 3], let w := wTally k; let x := if k = 0 then 0 else storeSize - 8; let s := prog [w, x] id;
    Executes s 3 0x09 1 w ∧ streamWord s 3 ((s.core 3).pc + 1) = x ∧ ReservedZero w [(45, 3), (42, 3)] ∧ (s.core 3).dm.idle = true ∧
    fld w 42 3 = k ∧ x % 8 = 0 ∧ x + 8 ≤ storeSize + 8 * b2n (k == 0) ∧ touchRead [(storeAddr 3 x, 8)] s = (false, s) ∧
    racesOf [{ lo := storeAddr 3 x, len := 8, wr := false }] (liveSpans s) = [] := by
  unfold Executes ReservedZero; decide +kernel

theorem wit_StopsOfCores_illegal : let s := prog [0xFF * 2 ^ 56] id;
    (s.core 3).mode = .running ∧ (s.core 3).pc < (s.core 3).streamLen ∧ opDefined (fld (streamWord s 3 (s.core 3).pc) 56 8) = false ∧
    3 < s.cores.length := by
  decide +kernel

theorem wit_StopsOfCores_peers :
    let s : State := { base with mgmt := { active := some 1 }, handles := base.handles.modify 0 fun x => { x with kind := 1, state := 2, firstStop := some 3 } };
    s.mgmt.active = some 1 ∧ (s.handle 1).firstStop.isSome = true ∧ (s.handle 1).peersStopped = false ∧ (s.handle 1).state ≠ 6 ∧
    s.ops = [] ∧ s.proxyReqs = [] := by
  decide +kernel

/-! ## Engines -/

/-- MATRIX: INT8, 2 × 2 × 4, INT32 output to T5, A at 0x1000, B at 0x2000 of the core store. -/
def wMat : List Nat := [0x10 * 2 ^ 56 + 7 * 2 ^ 52 + 4 * 2 ^ 28 + 4 * 2 ^ 23 + 5 * 2 ^ 12, 2 + 2 * 2 ^ 8 + 4 * 2 ^ 16, 0x1000 + 0x2000 * 2 ^ 32, 0, 0,
  0x3F800000, 0, 0]
/-- GEMV: FP8, 1 row of 256 columns to T1; LOADX of 32 bytes to X0. -/
def wGemv : List Nat := [0x11 * 2 ^ 56 + 7 * 2 ^ 52 + 1 * 2 ^ 12, 0, 1 + 256 * 2 ^ 32, 0, 0x1000, 0x3F800000, 0, 0]
def wLoadx : List Nat := [0x11 * 2 ^ 56 + 7 * 2 ^ 52 + 1 * 2 ^ 28, 0x4000, 32 * 2 ^ 32, 0, 0, 0, 0, 0]
/-- ADD of INT32 words: 2 rows of T1 and T2 to T3. -/
def wAdd : List Nat := [0x12 * 2 ^ 56 + 5 * 2 ^ 52 + 1 * 2 ^ 24 + 3 * 2 ^ 21 + 3 * 2 ^ 18 + 1 * 2 ^ 7, 3 + 1 * 2 ^ 24, 2, 0, 0, 0]
/-- RAND of 1 × 4 words to T2; SAMPLE of four BF16 logits at 0, top 1, record at 0x100. -/
def wRand : List Nat := [0x16 * 2 ^ 56 + 5 * 2 ^ 52 + 4 * 2 ^ 25 + 2 * 2 ^ 16, 3 * 2 ^ 7, 0, 0, 0, 0]
def wSample : List Nat := [0x15 * 2 ^ 56 + 5 * 2 ^ 52 + 2 ^ 31, 4 * 2 ^ 32, 0x3F800000 + 0x3F800000 * 2 ^ 32, 0, 0x100 * 2 ^ 32, 0]
/-- COPY of 32 FP32 words from 0x1000 to 0x2000 of core 3's store. -/
def wCopy : List Nat := [0x13 * 2 ^ 56 + 14 * 2 ^ 52 + 5 * 2 ^ 24 + 5 * 2 ^ 20, storeAddr 3 0x1000, storeAddr 3 0x2000, 32 + 2 ^ 16 + 2 ^ 32 + 2 ^ 48,
  0, 0, 0, 0, 0, 0, 0, 0, 0, 0, 0]

/-- The words of a VEC ADD executed inside or outside a strip loop, with a queue of `n` descriptors. -/
def veProg (inLoop : Bool) (n : Nat) : State :=
  prog (wAdd ++ [0]) fun k => { k with vl := 4, loops := if inLoop then [{ lv with strip := true, fin := 6 }] else [], ve := { queue := List.replicate n dsc } }

theorem wit_DescriptorIssue : ∀ x ∈ [(true, 7), (true, 8), (false, 0)], let s := veProg x.1 x.2; let w := wAdd.headD 0;
    issueRow (.add 3) = some { core := 3, eng := .ve, op := 0x12, xw := 5, lo := 24, width := 8, code := 0x01 } ∧
    Executes s 3 0x12 5 w ∧ fld w 24 8 = 0x01 ∧ (s.core 3).loops.any (·.strip) = x.1 ∧ ((s.core 3).eng .ve).queue.length = x.2 := by
  unfold Executes; decide +kernel

def queued (e : Eng) (ws : List Nat) : State := upCore fun k => (k.setEng e { queue := [{ dOf ws with vl := 4 }] })

theorem wit_DescriptorStart_matrix : let d : Desc := { dOf wMat with vl := 4 }; ∀ b ∈ [false, true],
    let s := (queued .ma wMat).modCore 3 fun k => if b then { k with ve := { run := [{ desc := dsc, vcode := 0, tiles := [(5, true)] }] } } else k;
    ready .ma 3 s = some d ∧ matCode d (matOf d) = 0 ∧ matMayStart (s.core 3) (matOf d) = true ∧ tileHazard .ma (matTiles (matOf d)) (s.core 3) = b := by
  decide +kernel

theorem wit_DescriptorStart_mvec : let s := queued .mvp wGemv; let d : Desc := { dOf wGemv with vl := 4 };
    ready .mvp 3 s = some d ∧ mvCode s 3 d (mvOf d) = 0 ∧ mvMayStart (s.core 3) (mvOf d) = true ∧ tileHazard .mvp (mvTiles (mvOf d)) (s.core 3) = false := by
  decide +kernel

theorem wit_DescriptorStart_vec : let s := queued .ve wAdd; let d : Desc := { dOf wAdd with vl := 4 };
    ready .ve 3 s = some d ∧ vecCode d (vecOf d) = 0 ∧ vecHazard (s.core 3) ((vecOf d).tiles (s.core 3)) = false ∧
    (vecOf d).dynRange (s.core 3) = false ∧ tileHazard .ve ((vecOf d).tiles (s.core 3)) (s.core 3) = false := by
  decide +kernel

theorem wit_DescriptorStart_sgu : (let s := queued .sgu wRand; let d : Desc := { dOf wRand with vl := 4 };
      ready .sgu 3 s = some d ∧ (s.core 3).sgu.run = [] ∧ d.op = 0x16 ∧ rndField d (rndOf d) = false ∧ rndRange (rndOf d) = false ∧
      tileHazard .sgu ((rndOf d).tiles.map (·, true)) (s.core 3) = false) ∧
    (let s := queued .sgu wSample; let d : Desc := { dOf wSample with vl := 4 };
      ready .sgu 3 s = some d ∧ (s.core 3).sgu.run = [] ∧ d.op = 0x15 ∧ smpField d (smpOf d) = false ∧ smpRange (smpOf d) = false) := by
  decide +kernel

theorem wit_DescriptorStart_move : let s := queued .dm wCopy; let d : Desc := { dOf wCopy with vl := 4 };
    ready .dm 3 s = some d ∧ (s.core 3).dm.run = [] ∧ moCode s 3 d (moOf d) = 0 ∧ (moOf d).empty = false ∧ (moOf d).remote = false ∧
    (moOf d).accum = false ∧ tileHazard .dm (moTiles (moOf d) (moRows (moOf d) (moIndices s 3 (moOf d)))) (s.core 3) = false := by
  decide +kernel

/-- Core 3 runs a descriptor on an engine. -/
def runs (e : Eng) (r : Run) : State := upCore fun k => k.setEng e { run := [r] }
def runOf (ws : List Nat) : Run := { desc := { dOf ws with vl := 4 }, vcode := 0 }

theorem wit_Retries : (let r : Run := { runOf wMat with phase := .failedTry }; let s := runs .ma r;
      headRun .ma 3 s = some r ∧ s.power.tripping = false ∧ s.power.tripped = false ∧ r.phase = .failedTry ∧ 0 ≤ ((s.core 3).eng .ma).credit) ∧
    (let r : Run := { runOf wMat with phase := .proxyQueued };
     let s : State := { runs .ma r with
      fleet := { (runs .ma r).fleet with sites := (runs .ma r).fleet.sites.modify 41 fun x => { x with passed := true } }, proxyReqs := [(3, 0)] };
      headRun .ma 3 s = some r ∧ s.power.tripping = false ∧ s.power.tripped = false ∧ r.phase = .proxyQueued ∧
      proxySite s (dieOf s 3) = some 41 ∧ s.proxyReqs.find? (fun q => dieOf s q.1 == dieOf s 3) = some (3, engNum .ma)) := by
  decide +kernel

theorem wit_MatrixEnginesComplete_matrix : ∀ ph ∈ [Phase.running, .proxyRun 41], let r : Run := { runOf wMat with phase := ph }; let s := runs .ma r;
    let a := matAttempt s 3 (matOf r.desc) false [] false false;
    r.vcode = 0 ∧ r.raced = [] ∧ headRun .ma 3 s = some r ∧ r.attempt = 0 ∧ (matOf r.desc).m ≠ 0 ∧ (matOf r.desc).n ≠ 0 ∧
    touchRead (matSpans 3 (matOf r.desc)) s = (false, s) ∧ isCheckFault a.code = false ∧ 3 < s.cores.length := by
  decide +kernel

theorem wit_MatrixEnginesComplete_mvec : (let r := runOf wGemv; let s := runs .mvp r; let a := gemvAttempt s 3 (mvOf r.desc) false [] false;
      headRun .mvp 3 s = some r ∧ r.phase = .running ∧ r.attempt = 0 ∧ (mvOf r.desc).opc = 0 ∧ (mvOf r.desc).rows ≠ 0 ∧
      touchRead (mvSpans s 3 (mvOf r.desc)) s = (false, s) ∧ isCheckFault a.code = false) ∧
    (let r := runOf wLoadx; let s := runs .mvp r;
      headRun .mvp 3 s = some r ∧ (mvOf r.desc).opc = 1 ∧ (mvOf r.desc).c ≠ 32768 ∧ touchRead (mvSpans s 3 (mvOf r.desc)) s = (false, s)) := by
  decide +kernel

/-- Panels of the four operands 1, −128, 127, 2 in every row and column. -/
theorem wit_Int8CellsAreSums : let f := matOf (dOf wMat); f.fmt = 4 ∧ f.ofmt = 4 ∧ f.acc = false ∧ f.dscale = one32 := by decide +kernel;

theorem wit_ElementwiseCompletes : let r := runOf wAdd; let s := runs .ve r;
    3 < s.cores.length ∧ headRun .ve 3 s = some r ∧ r.vcode = 0 ∧ r.phase = .running ∧ r.attempt = 0 ∧
    ((vecOf r.desc).hasState || (vecOf r.desc).isFin) = false ∧ (vecOf r.desc).overlaps (s.core 3) = [] ∧
    ((vecOf r.desc).reads (s.core 3)).any (s.core 3).tilePois = false := by
  decide +kernel

theorem wit_IntegerElements : ∀ op ∈ [0x01, 0x02, 0x03, 0x05, 0x06, 0x07, 0x08, 0x10, 0x11, 0x18, 0x19, 0x1A, 0x1B, 0x1C, 0x1D, 0x1E, 0x24],
    let v : Vec := { vecOf (dOf wAdd) with opc := op, cond := 2 }; let a : Word := 0x7FFFFFFF; let b : Word := 0;
    v.dt = 3 ∧ v.opc = op ∧ -(2 ^ 31) ≤ a.toInt + b.toInt ∧ a.toInt + b.toInt < 2 ^ 31 ∧ -(2 ^ 31) ≤ a.toInt - b.toInt ∧ a.toInt - b.toInt < 2 ^ 31 ∧
    a ≠ 0x80000000 ∧ v.cond = 2 := by
  decide +kernel

theorem wit_SamplerCompletes : (let r := runOf wRand; let s := runs .sgu r;
      headRun .sgu 3 s = some r ∧ r.vcode = 0 ∧ r.desc.op = 0x16) ∧
    (let r := runOf wSample; let s := runs .sgu r; let f := smpOf r.desc;
      headRun .sgu 3 s = some r ∧ r.vcode = 0 ∧ r.desc.op = 0x15 ∧ r.raced = [] ∧ touchRead [(f.lbase 3, f.v * f.bytes)] s = (false, s) ∧
      (samplePick s f (readBytes s (f.lbase 3) (f.v * f.bytes))).code = 0) := by
  decide +kernel

theorem wit_LocalMoveCompletes : let r := runOf wCopy; let s := runs .dm r;
    headRun .dm 3 s = some r ∧ r.vcode = 0 ∧ (moOf r.desc).remote = false ∧ (moOf r.desc).empty = false ∧ Memory.wf s = true := by
  decide +kernel

theorem wit_LocalMoveCompletes_copy : let r := runOf wCopy; let s := runs .dm r; let f := moOf r.desc; let a := f.saddr.toNat; let b := f.daddr.toNat;
    let n := fmtBytes f.sfmt f.n0;
    n = 128 ∧ r.raced = [] ∧ f.kind = 0 ∧ f.dfmt = f.sfmt ∧ f.sfmt ≤ 5 ∧ f.n1 = 1 ∧ f.n2 = 1 ∧ f.n3 = 1 ∧ f.ssp = false ∧ f.dsp = false ∧
    f.accum = false ∧ f.ten = false ∧ (place s a).isMem = true ∧ (place s b).isMem = true ∧ a + n ≤ b ∧ touchRead [(a, n)] s = (false, s) ∧
    ∀ l ∈ linesOf a n, poisoned s l = false := by
  decide +kernel

/-! ## Launches and long operations -/

/-- A running part in AL state `al` with handle `h` as given. -/
def withHandle (al h : Nat) (f : Handle → Handle) : State := (upAt al).modHandle h f

def selfBytes : List Byte := 1 :: List.replicate 23 0
def shadowBytes : List Byte := [1, 200, 7, 0, 4, 0, 0, 0, 0, 0, 0, 0, 0, 0, 0, 0]

theorem wit_CommandsCreateHandles_now : (∀ al ∈ [2, 4, 8], let s := upAt al;
      s.shaped = true ∧ reaches .ethercat s = true ∧ freeHandle s = some 1 ∧ odCheck .ethercat 0x2100 5 [0xFF, 0xFF, 0, 0] s = 0) ∧
    (let s := upAt 2;
      (∀ k ∈ [0, 1, 2, 3], odCheck .ethercat 0x2100 6 [BitVec.ofNat 8 k, 0, 0x0F, 0] s = 0 ∧ numAt ([BitVec.ofNat 8 k, 0, 0x0F, 0] : List Byte) 0 1 = k) ∧
      odCheck .ethercat 0x2100 8 [1, 0, 0, 0] s = 0 ∧ odCheck .ethercat 0x2100 3 [1] s = 0 ∧
      odCheck .ethercat 0x2100 7 selfBytes s = 0 ∧ numAt selfBytes 0 22 ≠ 0) ∧
    odCheck .ethercat 0x2100 9 shadowBytes up = 0 := by
  decide +kernel

theorem wit_CommandsCreateHandles_selftest : let s : State := { upAt 2 with power := { (upAt 2).power with pstate := 0 } };
    s.shaped = true ∧ reaches .ethercat s = true ∧ freeHandle s = some 1 ∧ odCheck .ethercat 0x2100 7 selfBytes s = 0 ∧ s.power.pstate ≠ 1 := by
  decide +kernel

theorem wit_CommandsCreateHandles_queued : (let s := withHandle 8 2 fun x => { x with kind := 3, state := 2 };
      s.shaped = true ∧ reaches .ethercat s = true ∧ freeHandle s = some 1 ∧ odCheck .ethercat 0x2100 4 (List.replicate 32 9) s = 0 ∧ quoteRuns s = true) ∧
    (let s := withHandle 8 2 fun x => { x with kind := 1, state := 2 };
      s.shaped = true ∧ reaches .ethercat s = true ∧ freeHandle s = some 1 ∧ launchBusy s = true ∧
      odCheck .ethercat 0x2100 1 (List.replicate 8 0) s = 0 ∧ odCheck .ethercat 0x2100 2 (List.replicate 8 0) s = 0) := by
  decide +kernel

/-- A work plan at HBM address 0x1000 for four cores of which core 3 has a stream of two words at 0x2000. -/
def planBytes : List Byte :=
  leBytes 4 1 ++ leBytes 2 4 ++ leBytes 2 1 ++ leBytes 2 0 ++ leBytes 6 0 ++ leBytes 8 0x80 ++ leBytes 8 0x100 ++ leBytes 8 0 ++ leBytes 88 0 ++
  leBytes 96 0 ++ (leBytes 8 0x2000 ++ leBytes 8 2 ++ leBytes 8 5 ++ leBytes 8 0) ++ (leBytes 4 200 ++ leBytes 4 77)

/-- The same part with a queued launch of the plan, or of a plan of another version. -/
def planned (ver : Nat) : State :=
  writeBytes 0x1000 (leBytes 1 ver) (writeBytes 0x1000 planBytes (withHandle 8 64 fun x => { x with kind := 1, state := 1, addr := 0x1000 }))

theorem wit_LaunchStarts_dequeue : ∀ v ∈ [1, 2], let s := planned v;
    s.mgmt.active = none ∧ (s.handle 64).kind = 1 ∧ (s.handle 64).state = 1 ∧ (s.handle 64).isResume = false ∧
    (∀ i ∈ List.range 65, 1 ≤ i → i ≠ 64 → (s.handle i).kind ≠ 1 ∨ (s.handle i).state ≠ 1) ∧
    (let r := readPlan ((launching 64 s).handle 64).addr (launching 64 s); (r.1 ≠ 0 ↔ v = 2) ∧ (v = 1 → r.2.1.n ≠ 0)) := by
  decide +kernel

def launched (st : Nat) (ph : LPhase) : State :=
  let s := withHandle 8 1 fun x => { x with kind := 1, state := st, phase := ph, n := 4, cores := [{ addr := 0, len := 0, events := 0 }, { addr := 0, len := 0, events := 0 }, { addr := 0, len := 0, events := 0 }, { addr := 0x2000, len := 2, events := 5 }], events := [(200, 77)] };
  { s with mgmt := { s.mgmt with active := some 1 } }

theorem wit_LaunchStarts_broadcast : ∀ ph ∈ [LPhase.validated, .broadcast], let s := launched 2 ph; let x := s.handle 1;
    s.mgmt.active = some 1 ∧ x.isResume = false ∧ x.state = 2 ∧ x.phase = ph ∧ x.parts = [3] ∧ 1 - 1 < s.handles.length := by
  decide +kernel

theorem wit_LaunchStarts_fetch : ∀ b ∈ [false, true],
    let s0 := up.modCore 3 fun k => { k with mode := .fetching, streamAddr := 0x2000, streamLen := 2 };
    let s := if b then setPoison (0x2000 / 128) s0 else s0;
    (s.core 3).mode = .fetching ∧ (touchRead [((s.core 3).streamAddr, 8 * (s.core 3).streamLen)] s).1 = b := by
  decide +kernel

theorem wit_LaunchEnds_ended : ∀ x ∈ [(2, none), (2, some 3), (6, none)],
    let s := (((launched x.1 .started).modHandle 1 fun y => { y with firstStop := x.2 }).modCore 3 fun k => { k with mode := .stopped });
    s.mgmt.active = some 1 ∧ (s.handle 1).phase = .started ∧ 1 - 1 < s.handles.length ∧
    (∀ c ∈ (s.handle 1).parts, (s.core c).mode = .stopped ∨ (s.core c).mode = .off) ∧ (s.handle 1).state = x.1 ∧ (s.handle 1).firstStop = x.2 ∧
    (∀ c ∈ (s.handle 1).parts, (s.core c).slots = []) := by
  decide +kernel

theorem wit_LaunchEnds_suspended : ∀ md ∈ [SqMode.parked, .stopped], let s := (launched 3 .started).modCore 3 fun k => { k with mode := md };
    s.mgmt.active = some 1 ∧ (s.handle 1).phase = .started ∧ 1 - 1 < s.handles.length ∧
    (∀ c ∈ (s.handle 1).parts, (s.core c).mode = .parked ∨ ((s.core c).mode = .stopped ∧ (s.core c).stopCode = 0)) ∧ (s.handle 1).state = 3 ∧
    (s.handle 1).firstStop = none := by
  decide +kernel

theorem wit_Controls : ∀ h ∈ [1, 64], reaches .ethercat up = true ∧
    (let s := withHandle 8 h fun x => { x with kind := 4, state := 2 };
      odCheck .ethercat (0x2200 + h) 3 [1] s = 0 ∧ odCheck .ethercat (0x2200 + h) 3 [3] s = 0 ∧ (s.handle h).state = 2 ∧ (s.handle h).kind = 4) ∧
    (let s := withHandle 8 h fun x => { x with kind := 4, state := 4 };
      odCheck .ethercat (0x2200 + h) 3 [2] s = 0 ∧ odCheck .ethercat (0x2200 + h) 3 [3] s = 0 ∧ odCheck .ethercat (0x2200 + h) 3 [4] s = 0 ∧
      (s.handle h).state = 4 ∧ (s.handle h).kind ≠ 1) ∧
    (let s := withHandle 8 h fun x => { x with kind := 1, state := 1 };
      odCheck .ethercat (0x2200 + h) 3 [3] s = 0 ∧ (s.handle h).state = 1) ∧
    (∀ st ∈ [7, 8, 9], let s := withHandle 8 h fun x => { x with kind := 1, state := st };
      odCheck .ethercat (0x2200 + h) 3 [4] s = 0 ∧ [7, 8, 9].contains (s.handle h).state = true) ∧
    (∀ st ∈ [3, 6], let s := withHandle 8 h fun x => { x with kind := 4, state := st };
      (s.handle h).kind ≠ 1 ∧ (s.handle h).state = st ∧ ∀ x ∈ s.handles, x.kind ≠ 3) := by
  decide +kernel

/-- No handle of that state holds a quote, whatever its number. -/
theorem wit_Controls_no_quote : let s := withHandle 8 1 fun x => { x with kind := 4, state := 6 };
    ∀ i, (s.handle i).kind ≠ 3 :=
  handle_all _ (fun x => x.kind ≠ 3) (by decide) (by decide +kernel)

theorem wit_OperationsEnd : (∀ k ∈ [4, 5, 7], let s := withHandle 8 64 fun x => { x with kind := k, state := 2 };
      (s.handle 64).state = 2 ∧ (s.handle 64).kind = k ∧ s.ecc = [] ∧ 64 - 1 < s.handles.length) ∧
    (let s := withHandle 2 64 fun x => { x with kind := 6, state := 2, params := selfBytes };
      (s.handle 64).state = 2 ∧ (s.handle 64).kind = 6 ∧ testSites (s.handle 64) = [0] ∧ (s.handle 64).tested = [] ∧
      bitAt (numAt (s.handle 64).params 23 1) 0 = false ∧ withinSpares (s.fleet.sites.getD 0 {}) = true) := by
  decide +kernel

/-- The scan of all links; group 129 of link 3 has its spare in use. -/
theorem wit_OperationsEnd_eye : let s : State := { up with fleet := { up.fleet with softMap := [{ kind := 6, unit := 0, index := 3 * 256 + 129, repl := 0, state := 1, source := 0 }] } };
    (eyeGroups 0xFFF)[519]? = some (3 * 256 + 129) ∧ 2 * 519 + 1 < 49152 ∧ spareWireUsed s (3 * 256 + 129) = true ∧ spareWireUsed s 0 = false := by
  decide +kernel

def quoting : State :=
  let s := withHandle 8 64 fun x => { x with kind := 3, state := 2 };
  { s with sec := { s.sec with aliasReady := true } }

theorem wit_OperationsEnd_quote : (quoting.handle 64).state = 2 ∧ (quoting.handle 64).kind = 3 ∧ quoting.sec.aliasReady = true ∧
    ∀ i, 1 ≤ i → i ≠ 64 → (quoting.handle i).kind ≠ 3 := by
  have k : ∀ i ∈ List.range 65, 1 ≤ i → i ≠ 64 → (quoting.handle i).kind ≠ 3 := by decide +kernel
  refine ⟨by decide +kernel, by decide +kernel, rfl, fun i h1 h2 => ?_⟩
  rcases Nat.lt_or_ge i 65 with h | h
  · exact k i (List.mem_range.2 h) h1 h2
  · rw [handle_out (s := quoting) (Nat.le_trans (by decide +kernel) h)]
    decide

/-- An update under way: of an image that fails the first check, and of one in its commit. -/
def updatingAt (commit : Bool) (img : List Byte) : State :=
  let s := withHandle 2 1 fun x => { x with kind := 2, state := 2, commit := commit };
  { s with mgmt := { s.mgmt with staged := some img } }

theorem wit_OperationsEnd_update : ∀ b ∈ [false, true], let s := updatingAt b [1, 2, 3];
    (s.handle 1).state = 2 ∧ updating s = some 1 ∧ s.mgmt.staged = some [1, 2, 3] ∧ (s.handle 1).commit = b ∧
    imageCheck s.sec.fused [1, 2, 3] ≠ 0 := by
  decide +kernel

/-- A running comparison of handle 1. -/
def comparing (own theirs : List (Nat × List Byte)) : State :=
  withHandle 8 1 fun x => { x with kind := 8, state := 2, params := shadowBytes, shadow := some { shadowOf shadowBytes with own := own, theirs := theirs } }

theorem wit_ShadowComparisons : ∀ own ∈ [[], [(0, [5])]], let s := comparing own []; let o : ShadowOp := { shadowOf shadowBytes with own := own };
    (s.handle 1).shadow = some o ∧ (s.handle 1).kind = 8 ∧ (s.handle 1).state = 2 ∧ 1 - 1 < s.handles.length ∧
    chipEvent s o.ev = 0 ∧ touchRead [(o.table, o.size)] s = (false, s) ∧ aget 0 o.theirs = none ∧ (aget 0 o.own = none ↔ own = []) ∧
    s.inbox = [] ∧ aget o.step o.theirs = none ∧ ((aget o.step o.own).isSome = true ↔ own ≠ []) := by
  decide +kernel

/-- The peer's table of step 0 has come, before or after the own one; its tally is the same, or another. -/
theorem wit_ShadowComparisons_judged : ∀ b ∈ [[5], [6]], let o : ShadowOp := { shadowOf shadowBytes with tallies := 1 };
    (let p : ShadowOp := { o with theirs := [(0, b)] }; aget 0 p.theirs = some b ∧ p.judged.contains 0 = false) ∧
    (let p : ShadowOp := { o with own := [(0, [5])] }; aget 0 p.own = some [5] ∧ p.judged.contains 0 = false) ∧
    (firstDiff o.tallies [5] b = none ↔ b = [5]) ∧ o.matched + 1 ≤ o.need := by
  decide +kernel

/-- The packet that brings the peer's table of a step. -/
def tablePkt (n : Nat) (o : ShadowOp) : Packet := { blank 10 0x41 1 0xF8 0xF8 0 n 0 (List.replicate 128 5) with sdev := o.peer }

theorem wit_ShadowComparisons_received : ∀ n ∈ [0, 2 ^ 32 - 1], let o := shadowOf shadowBytes; let e : Ejected := { xd := 0, fromE := none, pkt := tablePkt n o };
    ([e].find? (tableFrom o n (bytesAt (List.replicate 128 5) 0 o.size))) = some e := by
  decide +kernel


/-! ## Writes of the dictionary -/

def windowRow : List Byte := leBytes 6 0x1000 ++ leBytes 2 1 ++ leBytes 4 8 ++ [3, 15, 0, 0]
def memberRow : List Byte := leBytes 4 1 ++ 1 :: List.replicate 511 0
/-- The part with a job tag. -/
def tagged : State := odSet 0x2300 2 9 up

theorem wit_TableWrites_any : reaches .ethercat up = true ∧ reaches .ethercat (upAt 2) = true ∧ odCheck .ethercat 0x2450 2 windowRow up = 0 ∧
    odCheck .ethercat 0x2450 3 [1, 0] up = 0 ∧ odCheck .ethercat 0x2471 2 [1] up = 0 ∧ ofLE ([1] : List Byte) = 1 ∧
    odCheck .ethercat 0x2300 2 [9, 0] up = 0 := by
  decide +kernel

theorem wit_TableWrites_preop : (∀ i ∈ [0, 7], odCheck .ethercat 0x2810 (i + 1) (leBytes 8 5) up = 0) ∧
    (∀ e ∈ policyEntries, odCheck .ethercat 0x2700 e.1 (leBytes e.2.1 e.2.2.2.2) (upAt 2) = 0) ∧
    (∀ i ∈ [0, 3], odCheck .ethercat 0x2C20 (i + 1) (List.replicate 64 7) (upAt 2) = 0) := by
  decide +kernel

theorem wit_TableWrites_region : ∀ v ∈ [0, 1], ∀ r ∈ [0, 63], odCheck .ethercat 0x2600 (r + 1) [BitVec.ofNat 8 v] (upAt 2) = 0 ∧
    (regionMode (upAt 2) r = ofLE [BitVec.ofNat 8 v] ↔ v = 1) ∧ Memory.wf (upAt 2) = true := by
  decide +kernel

theorem wit_TableWrites_membership : odCheck .ethercat 0x2300 3 memberRow tagged = 0 ∧ reaches .ethercat tagged = true ∧
    (∀ g < 16, (tagged.group g).state ≠ 1 ∧ (tagged.group g).state ≠ 2) ∧ ∀ i, (tagged.handle (i + 1)).shadow = none :=
  ⟨by decide +kernel, by decide +kernel, by decide +kernel, fun i => handle_all tagged (fun x => x.shadow = none) rfl (by decide +kernel) (i + 1)⟩

/-- Record 15 as id 5 with the members 0 to `n` of dimension X and `k` slots wanted. -/
def grouped (n k : Nat) : State := odSet 0x251F 7 k (odSet 0x251F 2 (0x01010100 + (2 ^ (n + 1) - 1)) (odSet 0x251F 1 5 up))

theorem wit_GroupCommands_create : ∀ k ∈ [0, 64], let s := grouped 0 k;
    reaches .ethercat s = true ∧ s.shaped = true ∧ odCheck .ethercat (grpObj 15) 9 [1] s = 0 ∧ odGet s (grpObj 15) 7 = k ∧
    ∀ n ∈ s.slotsFree, odGet s (grpObj 15) 7 ≤ n := by
  decide +kernel

theorem wit_GroupCommands_full : let s : State := { grouped 0 64 with slotsFree := [63, 512, 512, 512] };
    reaches .ethercat s = true ∧ s.shaped = true ∧ odCheck .ethercat (grpObj 15) 9 [1] s = 0 ∧ odGet s (grpObj 15) 7 ≠ 0 ∧
    ∃ n ∈ s.slotsFree, n < odGet s (grpObj 15) 7 := by
  decide +kernel

theorem wit_GroupCommands_delete : ∀ st ∈ [2, 3], let s := (grouped 0 64).modGroup 15 fun x => { x with state := st, slots := 64 };
    odCheck .ethercat (grpObj 15) 9 [2] s = 0 ∧ (st = 3 → odCheck .ethercat (grpObj 15) 9 [3] s = 0) ∧ reaches .ethercat s = true ∧ s.shaped = true := by
  decide +kernel

/-- FORM from coordinate 1, rank 1, with digest `d`. -/
def formPkt (d : Nat) : Packet := { blank 10 0x1F 0 0xF0 0xF0 0 (5 + d * 2 ^ 16) 0 [] with sdev := 1 }
/-- Record 15 forming with it, the packet in the inbox. -/
def forming (d : Nat) : State :=
  let s := (grouped 1 64).modGroup 15 fun x => { x with state := 1, rank := 0, ranks := 2, digest := 9 };
  { s with inbox := [{ xd := 0, fromE := none, pkt := formPkt d }] }

theorem wit_GroupCommands_form : ∀ d ∈ [8, 9], ∀ st ∈ [1, 2], let s := (forming d).modGroup 15 fun x => { x with state := st }; let p := formPkt d;
    s.shaped = true ∧ (s.inbox.find? fun e => e.pkt == p && e.fromE.isSome == false) = some { xd := 0, fromE := none, pkt := p } ∧ p.op = 0x1F ∧
    ((List.range 16).find? fun g => ((s.group g).state == 1 || (s.group g).state == 2) && odGet s (grpObj g) 1 == fld p.arg 0 16) = some 15 ∧
    senderRank s 15 p = some 1 ∧ p.jobtag = odGet s 0x2300 2 ∧ (levelPeers s 15).contains 1 = true ∧ (fld p.arg 16 32 = (s.group 15).digest ↔ d = 9) ∧
    (∀ h < 16, h ≠ 15 → (s.group h).state ≠ 1 ∧ (s.group h).state ≠ 2) := by
  decide +kernel

theorem wit_ModeWrites : reaches .ethercat up = true ∧ odCheck .ethercat 0x2A20 1 [2] up = 0 ∧ up.power.pstate ≠ 2 ∧
    (let s : State := { up with power := { up.power with pstate := 2 } };
      odCheck .ethercat 0x2A20 1 [0] s = 0 ∧ s.power.pstate = 2 ∧ reaches .ethercat s = true) ∧
    odCheck .ethercat 0x2100 0xB [1] up = 0 := by
  decide +kernel

theorem wit_ModeWrites_test : odCheck .ethercat 0x2D00 1 [1] (upAt 2) = 0 ∧ reaches .ethercat (upAt 2) = true := by
  decide +kernel

theorem wit_ModeWrites_loopback : let s := odSet 0x2D10 1 5 (upAt 2);
    reaches .ethercat s = true ∧ odCheck .ethercat 0x2D10 1 (leBytes 4 0x80000001) s = 0 ∧ odCheck .ethercat 0x2D10 2 [8] s = 0 := by
  decide +kernel

theorem wit_ModeWrites_ports : 31 < up.ports.length ∧ loopedBack up 31 = false ∧ (up.port 31).carries = false ∧
    loopedBack (setLoopBit 31 true up) 31 = true ∧
    (let u := up.modPort 31 fun q => { q with role := 1, pstate := 1 }; loopedBack u 31 = false ∧ (u.port 31).carries = true) := by
  decide +kernel

theorem wit_ModeWrites_trip : let s : State := { upAt 2 with power := { (upAt 2).power with tripped := true, releaseSince := some 0 }, now := 60000000000 };
    reaches .ethercat s = true ∧ odCheck .ethercat 0x2100 0xA [1] s = 0 := by
  decide +kernel

theorem wit_Resets : reaches .ethercat (upAt 2) = true ∧ (upAt 2).startup.needFull = false ∧ (upAt 2).startup.fpSteps = [] ∧ (upAt 2).startup.mgSteps = [] ∧
    restartsFwd (upAt 2) = false ∧ restartsMd (upAt 2) = false ∧
    (∀ k ∈ [1, 2, 3, 4, 5, 6], odCheck .ethercat 0x2100 0xC (leBytes 1 k ++ leBytes 1 (if k = 5 then 159 else 0)) (upAt 2) = 0 ∧ coveredBy (upAt 2) k = false) ∧
    159 < (upAt 2).cores.length := by
  decide +kernel

def objAt (i u : Nat) : Obj := (findObj i u).getD (.top 0 0 0)

theorem wit_DictionaryAccess_read : (∀ x ∈ [(0x2460, 1), (0x2700, 1)], let o := objAt x.1 x.2; reaches .ethercat up = true ∧ findObj x.1 x.2 = some o ∧
      hidden .ethercat o = false ∧ hasIndex x.1 = true ∧ computed .ethercat up x.1 x.2 = none ∧ o.acc ≠ .wo) ∧
    (let o := objAt 0x2050 1; findObj 0x2050 1 = some o ∧ hidden .ethercat o = false ∧ hasIndex 0x2050 = true ∧
      (computed .ethercat up 0x2050 1).isSome = true ∧ o.acc ≠ .wo) := by
  decide +kernel

theorem wit_DictionaryAccess_write : (let o := objAt 0x2460 1; (o.life = .stored ∨ o.life = .job) ∧ (o.wh = .any ∨ o.wh = .preop) ∧
      odCheck .ethercat 0x2460 1 (leBytes 4 10) up = 0 ∧ odCheck .ethercat 0x2460 1 (leBytes 4 9) up ≠ 0) ∧
    (let o := objAt 0x2420 1; o.life = .counter ∧ odCheck .ethercat 0x2420 1 (leBytes 4 0) up = 0 ∧ findObj 0x2420 1 = some o ∧ hidden .ethercat o = false ∧
      hasIndex 0x2420 = true) := by
  decide +kernel

theorem wit_DictionaryAccess_refused : hasIndex 0x5000 = false ∧ (let o := objAt 0x2050 1; o.acc = .ro) ∧
    (let o := objAt 0x2700 1; o.acc = .rw ∧ o.ty.size = 1 ∧ o.wh = .preop ∧ up.mgmt.al ≠ 2 ∧ hidden .ethercat o = false ∧ hasIndex 0x2700 = true) := by
  decide +kernel

theorem wit_DictionaryAccess_register : 159 < coreCount up ∧ coreCount up ≤ 160 := by decide +kernel

/-! ## EtherCAT, files, sessions -/

theorem wit_AlTransitions_refused : firmwareUp (upAt 1) = true ∧ alRefusal 4 (inputsOk true 0 (upAt 1)) (upAt 1) ≠ 0 ∧ alRefusal 8 true (upAt 2) ≠ 0 ∧
    firmwareUp (upAt 2) = true ∧ alRefusal 3 true (upAt 2) ≠ 0 ∧ alRefusal 4 (inputsOk false 0 (upAt 2)) (upAt 2) ≠ 0 ∧
    (let s : State := { upAt 1 with startup := { (upAt 1).startup with preopReady := false } }; firmwareUp s = true ∧ alRefusal 2 true s ≠ 0) ∧
    (let s := odSet 0x1C33 1 2 (upAt 2); s.mgmt.al = 2 ∧ odGet s 0x1C33 1 = 2 ∧ 0 ≠ odGet s 0x1C33 2) := by
  decide +kernel

theorem wit_AlTransitions_up : (firmwareUp (upAt 1) = true ∧ alRefusal 2 true (upAt 1) = 0 ∧ (upAt 1).mgmt.al = 1) ∧
    (firmwareUp (upAt 2) = true ∧ alRefusal 4 (inputsOk true 0 (upAt 2)) (upAt 2) = 0 ∧ (upAt 2).mgmt.al = 2) ∧
    (firmwareUp (upAt 4) = true ∧ alRefusal 8 true (upAt 4) = 0 ∧ (upAt 4).mgmt.al = 4) := by
  decide +kernel

theorem wit_AlTransitions_down : ∀ al ∈ [1, 8], firmwareUp (upAt al) = true ∧ (upAt al).mgmt.al = al ∧ (∀ i, ((upAt al).handle (i + 1)).state = 0) ∧
    ∀ x ∈ (upAt al).handles, x.state = 0 ∧ x.kind = 0 := by
  intro al h
  have k : (upAt al).handles = List.replicate 64 {} := rfl
  have m : ∀ x ∈ (upAt al).handles, x.state = 0 ∧ x.kind = 0 := by rw [k]; decide +kernel
  refine ⟨?_, rfl, fun i => handle_all _ (fun x => x.state = 0) rfl (fun x hx => (m x hx).1) (i + 1), m⟩
  revert al; decide +kernel

theorem wit_AlTransitions_sample : (∀ al ∈ [4, 8], (upAt al).mgmt.al = al) ∧ let s := odSet 0x1A00 1 0x20500108 (odSet 0x1A00 2 0x20500410
    ((List.range 9).foldl (fun t i => odSet 0x1A00 (i + 3) 0 t) up)); pdoMap s = [0x20500108, 0x20500410] ∧ s.mgmt.al = 8 := by
  decide +kernel

theorem wit_MailboxAndFiles : (let s : State := { up with mgmt := { up.mgmt with coalesced := 65535 } };
      mailboxOff s = false ∧ s.mgmt.heldEmcy = [] ∧ 0 < s.mgmt.coalesced ∧ s.mgmt.coalesced < 65536 ∧ (recentEmcy s).length < 8) ∧
    (upAt 3).mgmt.al = 3 ∧ (upAt 2).mgmt.al = 2 ∧ firmwareUp (upAt 2) = true ∧
    (let s : State := { upAt 3 with mgmt := { (upAt 3).mgmt with recovering := true, staged := some [1, 2] } };
      s.mgmt.recovering = true ∧ s.mgmt.staged = some [1, 2] ∧ imageCheck s.sec.fused [1, 2] ≠ 0 ∧ coveredBy s 9 = false) := by
  decide +kernel

/-- Which image passes rests on Config's vendor key and signature; one that the part accepts meets the hypotheses about it. -/
theorem wit_images_accepted (img : List Byte) (h : imageCheck 0 img = 0) :
    (let s := updatingAt false img; (s.handle 1).state = 2 ∧ updating s = some 1 ∧ s.mgmt.staged = some img ∧ (s.handle 1).commit = false ∧
      imageCheck s.sec.fused img = 0) ∧
    (let s : State := { upAt 3 with mgmt := { (upAt 3).mgmt with recovering := true, staged := some img } };
      s.mgmt.recovering = true ∧ s.mgmt.staged = some img ∧ imageCheck s.sec.fused img = 0 ∧ coveredBy s 9 = false) :=
  ⟨⟨by rfl, by rfl, rfl, by rfl, h⟩, rfl, rfl, h, by rfl⟩

/-- A message of session 0 with one slice of an OPEN. -/
def openMsg (ofs : Nat) (data : List Byte) : SdoMsg :=
  { addr := [1], port := 9, magic := 0x505A, ver := 1, type := 1, session := 0, seq := 1, index := 0, sub := 0, flags := 0, offset := ofs,
    len := data.length, rsvd := 0, data := data, tag := List.replicate 32 0 }

theorem wit_Sessions_first : let m := openMsg 32767 [5]; m.type = 1 ∧ udpListens up = true ∧ sdoFieldsOk m = true ∧ m.session = 0 ∧ zeros m.tag = true ∧
    m.len = m.data.length ∧ m.offset + m.data.length ≤ 32768 ∧ up.mgmt.reasm = [] ∧ up.mgmt.reasmTimes = [] ∧
    assembled [(m.offset, m.data)] = none := by
  decide +kernel

/-- A request of which some slice has come from the same client, and a message that completes it. -/
def halfOpen : State := { up with mgmt := { up.mgmt with reasm := [{ addr := [1], port := 9, slices := [(0, [1])] }] } }

theorem wit_Sessions_last (d : List Byte) (hd : d.length = openSize) : let m := openMsg 0 d; m.type = 1 ∧ sdoFieldsOk m = true ∧ m.session = 0 ∧
    m.len = m.data.length ∧ m.offset + m.data.length ≤ 32768 ∧
    ∃ r b, halfOpen.mgmt.reasm = [r] ∧ r.addr = m.addr ∧ r.port = m.port ∧ assembled (r.slices ++ [(m.offset, m.data)]) = some b ∧
      1 ≤ openCheck (b.take openSize) halfOpen := by
  have c : ∀ b, 1 ≤ openCheck b halfOpen := by
    intro b
    have z : zeros (halfOpen.sec.keys.getD (numAt b 4 1) []) = true := by
      have e : halfOpen.sec.keys = List.replicate 4 [] := rfl
      rw [e, List.getD_eq_getElem?_getD]
      cases h : (List.replicate 4 ([] : List Byte))[numAt b 4 1]? with
      | none => rfl
      | some x =>
        have q := List.mem_of_getElem? h
        rw [List.eq_of_mem_replicate q]; rfl
    unfold openCheck
    simp only [z, if_true]
    split <;> omega
  have a : (assembled ([(0, [1])] ++ [(0, d)])).isSome = true := by
    unfold assembled
    rw [if_pos]
    · rfl
    · simp [covered, hd]
  obtain ⟨b, e⟩ := Option.isSome_iff_exists.1 a
  exact ⟨rfl, rfl, rfl, rfl, by show 0 + d.length ≤ 32768; rw [hd]; decide, { addr := [1], port := 9, slices := [(0, [1])] }, b, rfl, rfl, rfl, e, c _⟩

/-- Which request passes rests on Config's signature check; for one that passes, the other hypotheses hold of a part without sessions. -/
theorem wit_Sessions_accepted (b : List Byte) (s : State) (h : openCheck (b.take openSize) s = 0) (e : s.mgmt.sessions = List.replicate 4 {}) :
    openCheck (b.take openSize) s = 0 ∧ (s.session 1).isOpen = false ∧ s.mgmt.sessions.length = 4 ∧ ∀ k, 1 ≤ k → k < 1 → (s.session k).isOpen = true :=
  ⟨h, by unfold State.session; rw [e]; rfl, by rw [e]; rfl, fun k a b => by omega⟩

/-- A session that is open. -/
def session3 : State := up.modSession 3 fun x => { x with isOpen := true, slot := 1, key := List.replicate 32 7, addr := [1], port := 9 }

/-- A request of session 3 with its tag. -/
def request (type index sub len : Nat) (data : List Byte) : SdoMsg :=
  let m : SdoMsg := { addr := [1], port := 9, magic := 0x505A, ver := 1, type := type, session := 3, seq := 1, index := index, sub := sub, flags := 0,
                      offset := 0, len := len, rsvd := 0, data := data, tag := [] };
  { m with tag := sdoTag (List.replicate 32 7) m }

theorem wit_Sessions_open (type index sub len : Nat) (data : List Byte) : let m := request type index sub len data;
    udpListens session3 = true ∧ sessionOk m session3 = true ∧ seqVerdict (session3.session m.session) m.seq = 0 ∧ m.type = type ∧ m.flags = 0 ∧
    m.offset = 0 ∧ m.len = len := by
  refine ⟨by decide +kernel, ?_, (by decide +kernel : seqVerdict (session3.session 3) 1 = 0), rfl, rfl, rfl, rfl⟩
  unfold sessionOk
  rw [show (session3.session (request type index sub len data).session).isOpen = true from (by decide +kernel : (session3.session 3).isOpen = true),
    show (session3.session (request type index sub len data).session).key = List.replicate 32 7 from (by decide +kernel : (session3.session 3).key = List.replicate 32 7)]
  simp [request, sdoFieldsOk, sdoTag, sdoBytes]

theorem wit_Sessions_served : (odRead (.session 3) 0x2460 1 session3).1 = 0 ∧ odCheck (.session 3) 0x2460 1 (leBytes 4 10) session3 = 0 ∧
    (leBytes 4 10).length ≤ 1024 ∧ odCheck (.session 3) 0x2460 1 (leBytes 4 9) session3 ≠ 0 := by
  decide +kernel

theorem wit_Sessions_alias : let s : State := { up with sec := { up.sec with kemSeed := [1] } };
    s.sec.aliasReady = false ∧ s.sec.kemSeed ≠ [] ∧ firmwareUp s = true := by
  decide +kernel

theorem wit_CheckPolicy : reaches .ethercat (upAt 2) = true ∧ (upAt 2).od = [] ∧ ∀ e ∈ policyEntries,
    (leBytes e.2.1 e.2.2.2.1).length = e.2.1 ∧ ofLE (leBytes e.2.1 e.2.2.2.2) = e.2.2.2.2 ∧ e.2.2.2.1 ≤ e.2.2.2.2 ∧
    (ofLE (leBytes e.2.1 e.2.2.2.1) = e.2.2.2.1) := by
  decide +kernel

/-! ## Fabric -/

/-- A running part whose port 0 holds the link to X value 1, and port 7 the link to Y value 1. -/
def linked : State := ((odSet 0x2400 2 3 up).modPort 0 fun q => { q with role := 1, dim := 0, nval := 1, pstate := 1, peerDev := 1 }).modPort 7 fun q =>
  { q with role := 1, dim := 1, nval := 1, pstate := 2, peerDev := 8 }

/-- A WRITE of one line from device 1 to endpoint `dep` of device `ddev`. -/
def wr (ddev dep : Nat) : Packet := withCrc { blank 0 0x01 1 dep 5 ddev (2 * 2 ^ 30) 0 (List.replicate 128 7) with sdev := 1, domain := 3, h := 1, hc := 6 }

theorem crc_withCrc (p : Packet) : (withCrc p).crc = packetCrc (withCrc p) := rfl

/-- A READ request, which has no payload. -/
def rdq : Packet := blank 0 0 0 5 5 0 0 0 []

theorem wit_PacketsOnAPort_words : okPacket rdq = true ∧ okPacket { rdq with len := 1, bytes := List.replicate 128 0xFF } = true ∧
    (2 ^ 64 - 1 < 2 ^ 64) ∧ (List.replicate 159 (2 ^ 64 - 1)).length ≤ 159 ∧ ∀ w ∈ List.replicate 159 (2 ^ 64 - 1), w < 2 ^ 64 := by
  decide +kernel

theorem wit_PacketsOnAPort_discards : linked.fab.fwd = 1 ∧ portCarries linked 0 = true ∧ portCarries linked 7 = true ∧ (wr 0 5).h + 7 ≠ 7 ∧
    rdq.crc ≠ packetCrc rdq := by
  decide +kernel

/-- A broken packet of which nothing goes out, and one that leaves on port 7 as it comes in. -/
theorem wit_PacketsOnAPort_broken : (wr 8 0).h + (wr 8 0).hc = 7 ∧ headerOk linked { wr 8 0 with rsvd := 1 } = false ∧ headerOk linked (wr 8 0) = true ∧
    (wr 8 0).len ≠ 0 ∧ (wr 8 0).ddev ≠ own linked ∧ linked.fab.wait = [] ∧
    (match onward 0 (wr 8 0) (passCells 0 (wr 8 0) linked) with
      | .ok (q, _, k) => let u := (passCells 0 (wr 8 0) linked).port q; q == 7 && mayStart u k && mayRate u k && (chargePort u k .abortMark).isSome
      | .error _ => false) = true := by
  decide +kernel

theorem wit_PacketsOnAPort_route : ∀ k ∈ [withCrc { wr 0 5 with rsvd := 1 }, withCrc { wr 0 5 with domain := 1 }, withCrc { wr 1 5 with h := 5, hc := 2 }],
    k.h + k.hc = 7 ∧ k.crc = packetCrc k ∧ (formatOk k = false ∨ k.domain ≠ ownDomain linked ∨ hopsOk linked k = false) := by
  intro k hk
  simp only [List.mem_cons, List.not_mem_nil, or_false] at hk
  obtain rfl | rfl | rfl := hk
  all_goals exact ⟨by decide +kernel, crc_withCrc _, by decide +kernel⟩

/-- What a packet must pass before it ejects or is forwarded. -/
def passes (s : State) (k : Packet) : Prop := k.h + k.hc = 7 ∧ k.crc = packetCrc k ∧ formatOk k = true ∧ k.domain = ownDomain s ∧ hopsOk s k = true

theorem wit_PacketsOnAPort_membership : let s : State := { linked with fleet := { linked.fleet with epoch := 1, members := [0, 2] } }; passes s (wr 0 5) ∧
    (wr 0 5).ddev = own s ∧ s.fleet.epoch ≠ 0 ∧ s.fleet.members.contains (wr 0 5).sdev = false ∧ isShadowPeer s (wr 0 5).sdev = false ∧
    ringJoins s 0 (ejectXd s (wr 0 5) 0) = true ∧ portCarries s 0 = true ∧ s.fab.fwd = 1 :=
  ⟨⟨by decide +kernel, crc_withCrc _, by decide +kernel⟩, by decide +kernel⟩

theorem wit_PacketsOnAPort_delivered : passes linked (wr 0 159) ∧ (wr 0 159).ddev = own linked ∧ linked.fleet.epoch = 0 ∧ (wr 0 159).cls = 0 ∧
    ringJoins linked 0 (ejectXd linked (wr 0 159) 0) = true :=
  ⟨⟨by decide +kernel, crc_withCrc _, by decide +kernel⟩, by decide +kernel⟩

theorem wit_PacketsOnAPort_forwarded : let s := linked; let k := wr 8 0; passes s k ∧ k.ddev ≠ own s ∧
    nextHop (own s) k.ddev k.order (if k.detour then some (k.ddim, k.dval) else none) = some (1, 1) ∧
    holder s 1 1 0 = some 7 ∧ portCarries s 7 = true ∧ ringJoins s 0 0 = true ∧ s.fab.wait = [] ∧
    (let k' := { k with h := k.h + 1, hc := 7 - (k.h + 1) };
      mayStart (s.port 7) k' = true ∧ mayRate (s.port 7) k' = true ∧ (chargePort (s.port 7) k' .endMark).isSome = true) :=
  ⟨⟨by decide +kernel, crc_withCrc _, by decide +kernel⟩, by decide +kernel⟩

/-- Ring hops down as given, and port 15, of XD 1, holds the link to Z value 1. -/
def linkedFar (down : List Nat) : State :=
  let s := linked.modPort 15 fun q => { q with role := 1, dim := 2, nval := 1, pstate := 1, peerDev := 64 }
  { s with fab := { s.fab with hopsDown := down } }

/-- One hop down leaves the way round; with two down, XD 0 and XD 1 are cut apart. Cores 0 and 159 are on XD 0's and XD 3's die. -/
theorem wit_PacketsOnAPort_ring : let s := linkedFar [0, 3]; let k := wr 64 0; passes s k ∧ k.ddev ≠ own s ∧
    nextHop (own s) k.ddev k.order (if k.detour then some (k.ddim, k.dval) else none) = some (2, 1) ∧ holder s 2 1 0 = some 15 ∧
    portCarries s 15 = true ∧ ringJoins s 0 1 = false ∧ ringJoins (linkedFar [0]) 0 1 = true ∧ ringIntact (linkedFar [0]) = false ∧
    ringIntact linked = true ∧ passes s (wr 0 159) ∧ (wr 0 159).ddev = own s ∧ ringJoins s 0 (ejectXd s (wr 0 159) 0) = false :=
  ⟨⟨by decide +kernel, crc_withCrc _, by decide +kernel⟩, by decide +kernel, by decide +kernel, by decide +kernel, by decide +kernel,
    by decide +kernel, by decide +kernel, by decide +kernel, by decide +kernel, ⟨by decide +kernel, crc_withCrc _, by decide +kernel⟩, by decide +kernel⟩

theorem wit_PacketsOnAPort_downPort : let s := linked.modPort 7 fun q => { q with pstate := 0 };
    holder s 1 1 0 = some 7 ∧ portCarries s 7 = false := by decide +kernel

theorem wit_PacketsOnAPort_idle : let s := linked; portCarries s 1 = false ∧ ({ s with fab := { s.fab with fwd := 0 } } : State).fab.fwd ≠ 1 := by
  decide +kernel

theorem wit_PacketsOnAPort_reorder : let k := blank 10 0x40 0 0xFC 0xFC 0 0 0 []; ∀ x ∈ [(0, 5), (2 ^ 24 - 1, 2)],
    let s : State := { linked with fab := { linked.fab with flows := [{ tag := 10, sdev := 1, sep := 0, expected := x.1, held := [(x.2, 2, k)] }] } };
    (flowOf s 10 1 0).held = [(x.2, 2, k)] ∧ (flowOf s 10 1 0).expected = x.1 ∧ x.1 < 2 ^ 24 ∧ x.2 < 2 ^ 24 := by
  decide +kernel

def noticed : Packet := { blank 10 0x40 0 0xFC 0xFC 0 (3 + 1 * 2 ^ 32) 0 [] with sdev := 1 }

theorem wit_PacketsOnAPort_notice : let e : Ejected := { xd := 0, fromE := none, pkt := noticed }; let s : State := { linked with inbox := [e] };
    (s.inbox.find? fun e => e.pkt == noticed) = some e ∧ noticed.op = 0x40 ∧ noticed.dep = 0xFC ∧ fld noticed.arg 32 12 ≠ own s ∧
    fld noticed.arg 44 4 = 0 := by
  decide +kernel

/-! ## Remote memory -/

/-- A request of one line, offset `ofs` of window 2, format code `f`, from slot 3. -/
def rq (op ofs f : Nat) : Packet := { blank 0 op (if op = 0 then 0 else 1) 3 5 0 (ofs + 2 * 2 ^ 30 + f * 2 ^ 42 + 3 * 2 ^ 50) 0
  (if op = 0 then [] else List.replicate 128 7) with sdev := 1, jobtag := 9 }
def win : Window := { base := 0x8000, tag := 9, length := 4, perm := 3, ftag := 15 }

theorem wit_RemoteTarget_codes : (rq 0 0 0).jobtag = win.tag ∧ (rq 0 0 0).jobtag ≠ ({ win with tag := 8 } : Window).tag ∧
    win.length < fld (rq 0 4 0).arg 0 28 + reqLines (rq 0 4 0) ∧ fld (rq 0 3 0).arg 0 28 + reqLines (rq 0 3 0) ≤ win.length ∧
    bitAt ({ win with perm := 2 } : Window).perm 0 = false ∧ bitAt win.perm 0 = true ∧ bitAt win.perm 1 = true ∧ win.ftag < 16 ∧
    fld (rq 0 3 7).arg 42 4 = 7 := by
  decide +kernel

/-- The request in the inbox of XD 0, window 2 as given. -/
def target (op : Nat) (w : Window) (l : List Inbound) : State :=
  { up with inbox := [{ xd := 0, fromE := none, pkt := rq op 3 7 }], windows := [(2, w)], inbound := l }
def served (op n : Nat) : Inbound := { xd := 0, entry := n, req := rq op 3 7, addr := 0x8180, fromE := none }

theorem wit_RemoteTarget_requests : ∀ op ∈ [0, 1, 2], ∀ w ∈ [(win, 0), ({ win with tag := 8 }, 1), ({ win with length := 3 }, 2), ({ win with perm := 0 }, 3),
      ({ win with ftag := 5 }, 4), ({ win with ftag := 7 }, 0)],
    let s := target op w.1 []; let p := rq op 3 7;
    (s.inbox.find? fun e => e.pkt == p && e.xd == 0) = some { xd := 0, fromE := none, pkt := p } ∧ endpointUp s p.dep = true ∧ p.dep < 0xA0 ∧ p.op = op ∧
    s.window (fld p.arg 30 12) = w.1 ∧ windowCode w.1 p = w.2 ∧ freeInbound 0 s = some 0 ∧
    xdReach s 0 (w.1.base + 128 * fld p.arg 0 28) (128 * reqLines p) = true := by
  decide +kernel

theorem firstFrom_none (p : Nat → Bool) (n i : Nat) (h : ∀ j, i ≤ j → j < i + n → p j = false) : firstFrom p n i = none := by
  induction n generalizing i with
  | zero => rfl
  | succ n ih =>
    simp only [firstFrom, h i (Nat.le_refl i) (by omega), Bool.false_eq_true, if_false]
    exact ih (i + 1) fun j h1 h2 => h j (by omega) (by omega)

theorem wit_RemoteTarget_full : freeInbound 0 (target 0 win ((List.range 2048).map (served 0))) = none :=
  firstFrom_none _ _ _ fun j _ h => by simp [target, served]; omega

theorem wit_RemoteTarget_access : ∀ op ∈ [0, 2], let s := target op win [served op 2047];
    (s.inbound.find? fun x => x.xd == 0 && x.entry == 2047) = some (served op 2047) ∧ (served op 2047).req.op = op ∧ s.poison = [] ∧ s.poisonFlips = [] ∧ s.ecc = [] ∧
    racesOf [{ lo := (served op 2047).addr, len := 128 * reqLines (served op 2047).req, wr := false }] (liveSpans s) = [] := by
  decide +kernel

/-- RREAD of one line; core 3 with that MOVE running and slot 5 awaiting it. -/
def wRead : List Nat := [0x13 * 2 ^ 56 + 14 * 2 ^ 52 + 4 * 2 ^ 28 + 5 * 2 ^ 24 + 5 * 2 ^ 20, 0, 0x2000, 32 + 2 ^ 16 + 2 ^ 32 + 2 ^ 48, 0, 0, 0, 0, 0, 0, 0, 0, 0,
  2 * 2 ^ 24 + 2 ^ 36 + 5 * 2 ^ 48, 0]
def slot (wr wait : Bool) : Slot :=
  { wr := wr, dev := 1, ep := 5, win := 2, ofs := 0, lines := 1, fmt := 5, gen := 1, epoch := 0, line := 0, run := 1, desc := dOf wRead, backoff := wait }
def asks (wr wait : Bool) (l : List Packet) : State :=
  { linked.modCore 3 (fun k => { k with mode := .running, slots := [(5, slot wr wait)],
                                        dm := { run := [{ desc := dOf wRead, vcode := 0, id := 1, linesLeft := 1 }] } }) with
    inbox := l.map fun p => { xd := 0, fromE := none, pkt := p } }
/-- An answer with a code to slot 5 of core `c`. -/
def rsp (op c code : Nat) : Packet := { blank 1 op (if op = 8 ∧ code = 0 then 1 else 0) c 5 0 (code + 5 * 2 ^ 8 + 2 ^ 20) 0
  (if op = 8 ∧ code = 0 then List.replicate 128 1 else []) with sdev := 1 }

theorem wit_RemoteRequester_responses : ∀ x ∈ [(0x08, 3, 0, false), (0x08, 4, 0, false), (0x09, 3, 0, true), (0x09, 3, 5, true), (0x09, 3, 5, false)],
    let p := rsp x.1 x.2.1 x.2.2.1; let s := asks x.2.2.2 false [p]; p.op = x.1 ∧
    (s.inbox.find? fun e => e.pkt == p) = some { xd := 0, fromE := none, pkt := p } ∧ (∀ r ∈ (s.core x.2.1).dm.run, r.issued = true) ∧
    x.2.1 < s.cores.length ∧ (slot x.2.2.2 false).cancelled = false ∧ (slot x.2.2.2 false).wr = x.2.2.2 ∧ fld p.arg 0 8 = x.2.2.1 ∧
    (x.1 = 8 → p.len = (slot false false).lines) ∧
    matchSlot (x.1 == 9) p s = (if x.2.1 = 4 ∨ (x.1 = 9 ∧ x.2.2.2 = false) then none else some (3, 5, slot x.2.2.2 false)) := by
  decide +kernel

theorem wit_RemoteRequester_timers : let s := asks false true []; slotOf 3 5 s = some (slot false true) ∧ (slot false true).backoff = true ∧
    (slot false true).cancelled = false ∧ (slot false true).wr = false ∧ (∀ r ∈ (s.core 3).dm.run, r.issued = true) ∧ 3 < s.cores.length ∧
    (let x := slot false true; (sendRequest 3 { desc := x.desc, vcode := 0 } (moOf x.desc) x.epoch x.line x.lines 5 x.gen (s.modCore 3 fun k =>
      { k with slots := k.slots.map fun e => if e.1 == 5 then (5, { x with backoff := false }) else e })).1 = true) := by
  decide +kernel
/-! ## Collectives -/

/-- ALLREDUCE of `n` FP32 elements on bucket 7 of channel 0, CEV 9. -/
def wColl (n : Nat) : List Nat := [0x14 * 2 ^ 56 + 8 * 2 ^ 52 + 5 * 2 ^ 21 + 5 * 2 ^ 17 + 2 ^ 14 + 9 * 2 ^ 6, storeAddr 3 0x1000 + 7 * 2 ^ 48, storeAddr 3 0x2000, n,
  0, 0, 0, 0, 0]
def coll (n : Nat) : CollOp := { core := 3, g := 15, bucket := 7, use := 1, desc := { dOf (wColl n) with vl := 4 } }

/-- Core 3 of a part whose record 15 is READY on class 2, as rank 0 of the devices 0 and 1. -/
def ready2 (slots : Nat) (ops : List CollOp) (e : Engine) : State :=
  let s := ((grouped 1 64).modGroup 15 fun x => { x with state := 2, rank := 0, ranks := 2, slots := slots, uses := [(7, 1)] }).modCore 3 fun k =>
    { k with mode := .running, coll := e };
  { s with chans := [(0, 15)], ops := ops }

theorem wit_CollectiveStartsAndCompletes_start : let d := (coll 32).desc; let s := ready2 64 [] { queue := [d] }; let f := coOf d;
    ready .coll 3 s = some d ∧ coGroup s f = some 15 ∧ coCode s 3 d f = 0 ∧ f.opc ≤ 1 ∧ levelCount s 15 ≠ 0 ∧ s.ops.length < 64 ∧
    (s.ops.filter fun o => o.g == 15).length < 16 ∧ (s.group 15).aborts = [] ∧ (s.group 15).early = [] ∧ 15 < s.groups.length ∧ 3 < s.cores.length ∧
    Memory.wf s = true := by
  decide +kernel

theorem wit_CollectiveStartsAndCompletes_end : ∀ p ∈ [false, true],
    let o := { coll 32 with got := [(0, 0, 0, 1)], sent := [(0, 1, 0, 1)], poison := p }; let r : Run := { desc := o.desc, vcode := 0 };
    let s := ready2 64 [o] { run := [r] };
    headRun .coll 3 s = some r ∧ r.vcode = 0 ∧ o.desc = r.desc ∧
    s.ops.find? (fun o => o.core == 3 && o.g == 15 && o.bucket == (coOf r.desc).bucket) = some o ∧ o.fin = none ∧ opDone s o = true ∧
    reportBytes (coOf r.desc) (ranksOf s o.g) = 0 ∧ o.dropped = [] ∧ (coOf r.desc).ceven = true ∧ Memory.wf s = true := by
  decide +kernel

/-- Also REDUCE_SCATTER, of which this rank needs one segment after another from its peer: the most that a GRANT covers. -/
def scatterOp (n : Nat) : CollOp := { coll n with desc := { dOf ((wColl n).modify 0 (· + 2 ^ 28)) with vl := 4 } }

theorem wit_CollectiveMessages_issue : ∀ x ∈ [(coll 32, 1, 1), (coll 32, 1, 0), (scatterOp 131072, 64, 64)], let o := x.1; let n := x.2.1;
    let s := ready2 x.2.2 [o] {};
    (s.ops.find? fun o => o.g == 15 && o.bucket == 7) = some o ∧ classOf s 15 = some 2 ∧ o.live = true ∧ 1 ≤ n ∧ n ≤ 64 ∧
    (∀ i < n, ((segments o.co (ranksOf s 15)).flatMap (needsOf s o)).contains (0, 0, 0 + i, 1) = true ∧ o.got.contains (0, 0, 0 + i, 1) = false ∧
      ∀ r ∈ opGiven s o, ¬ (r.peer = 1 ∧ r.level = 0 ∧ r.phase = 0 ∧ r.seg = 0 + i)) ∧
    (grantRoom (s.modGroup 15 fun x => { x with given := x.given ++ grantRecs o.bucket o.use 1 0 0 0 n 0 }) o = true ↔ x.2.2 ≠ 0) := by
  decide +kernel

/-- A message of class 2 from device 1. -/
def msg (op arg : Nat) (b : List Byte) : Packet := { blank 2 op (b.length / 128) 0xF0 0xF0 0 arg 0 b with sdev := 1 }
/-- The part with a message in the inbox. -/
def told (p : Packet) (s : State) : State := { s with inbox := [{ xd := 0, fromE := none, pkt := p }] }

theorem wit_CollectiveMessages_early : ∀ op ∈ [0x11, 0x13], ∀ n ∈ [2, 0], let p := msg op (7 + n * 2 ^ 16) []; let u := ready2 64 [coll 32] {}; let s := told p u;
    takeFlow p.op p s = some (15, u) ∧ senderRank u 15 p = some 1 ∧ 15 < u.groups.length ∧ findOp u 15 (fld p.arg 0 16) (fld p.arg 16 2) = none ∧
    (laterUse u 15 (fld p.arg 0 16) (fld p.arg 16 2) = true ↔ n = 2) := by
  decide +kernel

theorem wit_CollectiveMessages_open : let o := coll 32; let u := ready2 64 [o] {};
    ∀ p ∈ [msg 0x11 (7 + 2 ^ 16 + (grantCheck u o + 1) % 4096 * 2 ^ 52) [], msg 0x13 (7 + 2 ^ 16) [], msg 0x12 (7 + 2 ^ 16 + 0x0C * 2 ^ 18) []],
    takeFlow p.op p (told p u) = some (15, u) ∧ senderRank u 15 p = some 1 ∧ findOp u 15 (fld p.arg 0 16) (fld p.arg 16 2) = some o ∧ o.live = true ∧
    (p.op = 0x11 → fld p.arg 52 12 ≠ grantCheck u o) ∧ (p.op = 0x12 → fld p.arg 18 8 ≠ 0x0B) := by
  decide +kernel

/-- A member that owes nothing: the operation has no elements. -/
theorem wit_CollectiveMessages_grant : let o := coll 0; let u := ready2 64 [o] {}; let p := msg 0x11 (7 + 2 ^ 16 + grantCheck u o * 2 ^ 52) [];
    takeFlow p.op p (told p u) = some (15, u) ∧ senderRank u 15 p = some 1 ∧ findOp u 15 (fld p.arg 0 16) (fld p.arg 16 2) = some o ∧ o.live = true ∧
    fld p.arg 52 12 = grantCheck u o ∧ ((segments o.co (ranksOf u o.g)).flatMap (owesOf u o)) = [] ∧ (u.group o.g).asked = [] ∧ o.g < u.groups.length := by
  decide +kernel

theorem wit_CollectiveMessages_abort : let u := ready2 64 [coll 32] {}; let p := msg 0x12 (7 + 2 ^ 16 + 0x0B * 2 ^ 18 + 1 * 2 ^ 26) [];
    takeFlow p.op p (told p u) = some (15, u) ∧ senderRank u 15 p = some 1 ∧ p.op = 0x12 ∧ fld p.arg 18 8 = 0x0B ∧ (u.group 15).state = 2 := by
  decide +kernel

theorem wit_CollectiveMessages_stray : let u := ready2 64 [coll 32] {}; let p := msg 0x10 0 (List.replicate 128 0);
    takeFlow p.op p (told p u) = some (15, u) ∧ senderRank u 15 p = some 1 ∧ (∀ a ∈ (u.group 15).given, a.peer ≠ 1) ∧ (u.group 15).asked = [] := by
  decide +kernel

/-- A segment of level `l` granted to rank 1. -/
def grantRec (l : Nat) : GrantRec := { bucket := 7, use := 1, peer := 1, level := l, phase := 0, seg := 0, ep := 0 }

theorem wit_CollectiveMessages_data : ∀ x ∈ [(0, 0), (7, regionTally 0 (List.replicate 128 0))], let o := coll 32; let a := grantRec x.1;
    let u := (ready2 64 [o] {}).modGroup 15 fun y => { y with given := [a] }; let p := msg 0x10 x.2 (List.replicate 128 0);
    takeFlow p.op p (told p u) = some (15, u) ∧ senderRank u 15 p = some 1 ∧ p.op = 0x10 ∧
    ((u.group 15).given.find? fun a => a.peer == 1 && 0xF0 + a.ep == p.sep) = some a ∧ findOp u 15 a.bucket a.use = some o ∧ o.live = true ∧
    (regionTally 0 p.bytes = p.arg ↔ a.level = 7) := by
  decide +kernel

theorem wit_CollectiveMessages_latecomer : let o := coll 32; let a := grantRec 0; let s := (ready2 64 [o] {}).modGroup 15 fun y => { y with given := [a] };
    15 < s.groups.length ∧ (s.group 15).state = 2 ∧ o ∈ s.ops ∧ o.g = 15 ∧ o.live = true ∧ a ∈ (s.group 15).given ∧ a.peer = 1 ∧ a.bucket = o.bucket ∧
    a.use = o.use := by
  decide +kernel

/-- Record 15 over this device and device 0 of domain 1 at address 7…7, port 9. -/
def crossing (x : XFlow) (l : List CollOp) : State :=
  let s := odSet 0x2530 2 (ofLE (List.replicate 16 7 ++ leBytes 2 9 ++ leBytes 2 1)) (odSet 0x251F 3 2 (ready2 64 l {}));
  { (odSet 0x251F 2 0x01010101 s).modGroup 15 fun g => { g with ranks := 2 } with xflows := [x] }
def dgram (n tries : Nat) : Unacked := { seq := n, pkt := msg 0x13 0 [], tries := tries, bucket := 7, use := 1, port := 3 }
def xack (arg : Nat) : Packet := { blank 2 0x18 0 0xF0 0xF0 0 arg 0 [] with domain := 1 }

/-- Their link address is known on both ports. -/
def resolved (s : State) : State :=
  let f := fun (e : EPort) => { e with neighbours := [List.replicate 16 7] }
  (s.modEport 0 f).modEport 3 f

theorem wit_CrossDomain_timer : let s := resolved (crossing { g := 15, peer := 1, sinceAck := 1, nextIn := 2 ^ 24 - 1 } []); classOf s 15 = some 2 ∧
    (xflowOf s 15 1).sinceAck ≠ 0 ∧ memberDom s 15 1 = 1 ∧ (s.eport 0).darkUntil ≤ s.now ∧
    (s.eport 0).neighbours.contains (xpeer s (memberDom s 15 1)).1 = true := by
  decide +kernel

theorem wit_CrossDomain_xack : ∀ n ∈ [0, 5, 2 ^ 24 - 1], let p := xack n; let e : Ejected := { xd := 0, fromE := some (0, List.replicate 16 7, 9), pkt := p };
    let s : State := { crossing { g := 15, peer := 1, unacked := [dgram 4 0, dgram 5 0] } [] with inbox := [e] };
    (s.inbox.find? fun e => e.pkt == p && e.fromE.isSome) = some e ∧ p.op = 0x18 ∧ boundGroup s p.cls = some 15 ∧ senderRank s 15 p = some 1 ∧
    fld p.arg 24 40 = 0 := by
  decide +kernel

theorem wit_CrossDomain_retry : ∀ b ∈ [false, true], let s0 := crossing { g := 15, peer := 1 } [coll 32]; let k := odGet s0 0x2520 2;
    let u := dgram 4 (if b then k else 0); let s : State := { resolved s0 with xflows := [{ g := 15, peer := 1, unacked := [u] }] };
    ((xflowOf s 15 1).unacked.find? fun u => u.seq == 4) = some u ∧ (u.tries < odGet s 0x2520 2 ↔ b = false) ∧ findOp s 15 u.bucket u.use = some (coll 32) ∧
    (coll 32).live = true ∧ (s.eport u.port).darkUntil ≤ s.now ∧ (s.eport u.port).neighbours.contains (xpeer s (memberDom s 15 1)).1 = true := by
  decide +kernel

/-! ## Ordinary-network ports -/

/-- A part whose E port 3 is up, with one bulk peer. -/
def eUp (b : Bool) : State := (odSet 0x2922 1 (ofLE (List.replicate 16 7 ++ [128])) up).modEport 3 fun e => { e with up := b }
def host : Packet := { blank 0 0 0 0xF4 0xFE 0 0 0 [] with hc := 7 }
def dg (ok : Bool) (a : Byte) (p : Packet) : Datagram := { addr := List.replicate 16 a, port := 9, ownPort := odGet up 0x2921 1, dscp := 0, hops := 64, checksumOk := ok, pkt := p }

theorem wit_EthernetPorts_datagrams : let s := eUp true; 3 < s.eports.length ∧ (s.eport 3).up = true ∧ (s.eport 3).darkUntil ≤ s.now ∧
    (dg true 7 host).ownPort = odGet s 0x2921 1 ∧
    (let d := dg true 7 host; d.checksumOk = true ∧ d.pkt.sep = 0xFE ∧ bulkPeer s d.addr = true ∧ hostOk s d.pkt = true) ∧
    (let d := dg true 6 host; d.pkt.sep = 0xFE ∧ bulkPeer s d.addr = false) ∧ (let d := dg true 7 { host with dep := 0xF5 }; hostOk s d.pkt = false) := by
  decide +kernel

theorem wit_EthernetPorts_rest : (∀ k ∈ [0, 2], let s : State := { eUp true with ptp := { state := k, port := if k = 0 then 0xFF else 3 } };
      (s.eport 3).up = true ∧ (k = 0 → s.ptp.state = 0 ∧ s.ptp.port ≠ 3) ∧ (k = 2 → s.ptp.state ≠ 0 ∧ s.ptp.port = 3)) ∧
    ((eUp false).eport 3).up = false ∧ eOn (eUp false) 3 = true ∧ ((eUp true).eport 3).spareLane = none ∧
    (((eUp true).modEport 3 fun e => { e with spareLane := some 2 }).eport 3).spareLane = some 2 := by
  decide +kernel

theorem wit_EthernetPorts_dark : (let s := (eUp true).modEport 3 fun e => { e with darkUntil := 1 }; (s.eport 3).up = true ∧ s.now < (s.eport 3).darkUntil) ∧
    (((eUp true).modEport 3 fun e => { e with unresolved := [dg true 7 host] }).eport 3).unresolved = [dg true 7 host] := by
  decide +kernel

theorem wit_EthernetPorts_clock : (let s : State := { eUp true with ptp := { state := 1, port := 2, master := [5] } }; s.ptp.port ≠ 3 ∧ [4, 9] < s.ptp.master) ∧
    (let s : State := { eUp true with ptp := { state := 1, port := 3, syncSeq := 7, delaySeq := 65535 } };
      s.ptp.state ≠ 0 ∧ s.ptp.port = 3 ∧ 7 = s.ptp.syncSeq ∧ s.ptp.t1 = none) ∧
    (let s : State := { eUp true with ptp := { state := 2, port := 3, t1 := some 100, t3 := some 200, delaySeq := 8 } };
      s.ptp.t1 = some 100 ∧ s.ptp.t3 = some 200 ∧ 8 = s.ptp.delaySeq ∧ s.ptp.state = 2) := by
  decide +kernel
/-! ## Fibre ports -/

/-- A running part with port 31 as given. -/
def pt (f : Port → Port) : State := up.modPort 31 f
def hd (fwd : Bool) : CwHead := { fwd := fwd, start := 0, shared := 0 }
/-- Port 31 has taken the common part of a word. -/
def taken (w : CwHead) (s : State) : State := cwCommon 31 w (takeFrame 31 w.errs s)

theorem wit_ControlWords_common : ∀ b ∈ [false, true], let s := pt fun q => { q with fecLock := true, peerFwd := true, id0 := some (0, 1) };
    let u := taken (hd b) s;
    (s.port 31).fecLock = true ∧ decodes (s.port 31) (hd b).errs 0 = true ∧ loopedBack s 31 = false ∧ 31 < u.ports.length ∧ 31 < s.ports.length ∧
    (s.port 31).peerFwd = true ∧ u.fab.wait = [] ∧ (u.port 31).shake = none ∧ (u.port 31).rxShake = none ∧ (b = true → (u.port 31).id0 = some (0, 1)) := by
  decide +kernel

theorem wit_ControlWords_encoded : ∀ t ∈ List.range 10, let w : CtlWord := ⟨t, true, 255, 65535, (bodyFields t).map fun f => 2 ^ f.2 - 1⟩;
    w.type ≤ 9 ∧ w.start < 256 ∧ w.shared < 65536 ∧ w.body.length = (bodyFields w.type).length ∧
    (∀ e ∈ (bodyFields w.type).zip w.body, e.2 < 2 ^ e.1.2) ∧ decodeCtl (encodeCtl w) = some w := by
  decide +kernel

/-- A phase of a swap is queued behind a heartbeat, and a heartbeat behind an echo. -/
theorem wit_ControlWords_precedence : (queuedWord [6, 7] { cwNext := [(9, []), (6, [19, 3, 0])] }).map (·.1) = some (6, [19, 3, 0]) ∧
    queuedWord [6, 7] { cwNext := [(8, []), (9, [1])] } = none ∧ (queuedWord [9] { cwNext := [(8, []), (9, [1])] }).map (·.1) = some (9, [1]) := by
  decide +kernel

theorem wit_ControlWords_echo : let u := taken (hd true) (pt fun q => { q with fecLock := true, bring := 6 }); (u.port 31).bring = 6 := by decide +kernel

def shakes (dr : Bool) (ph : Nat) : Shake := { drop := dr, lane := 19, spare := 3, phase := ph, proposer := true, why := 0 }

theorem wit_ControlWords_shake : ∀ dr ∈ [false, true], let h := shakes dr 0; let k := shakes dr 1;
    let u := taken (hd true) (pt fun q => { q with fecLock := true, shake := some h, rxShake := some k });
    (u.port 31).shake = some (shakes dr 0) ∧ (u.port 31).rxShake = some (shakes dr 1) ∧ (shakes dr 0).drop = dr ∧
    (shakes dr 0).phase = 0 ∧ (shakes dr 0).lane = 19 := by
  decide +kernel

/-- Port 31 lit, its peer the neighbour 1. -/
def hears : State :=
  let s := pt fun q => { q with fecLock := true, safety := 0, role := 1, peerDev := 1, pstate := 1, ident := some { domain := 0, coord := 1, shape := 1, port := 0 } };
  { s with fleet := { s.fleet with neighbours := [{ dev := 1, misses := 7, heard := false, ports := [31] }] } }

theorem wit_ControlWords_heartbeat : let u := taken (hd true) hears; (hears.port 31).fecLock = true ∧ portPeer (u.port 31) = some 1 ∧
    (neighbour u 1).st = 1 ∧ (neighbour u 1).ports.contains 31 = true := by
  decide +kernel

theorem wit_LinkBringUp_steps : (∀ n ∈ [1, 2, 3, 4, 5, 6], let s := measure 31 [] (pt fun q =>
      { q with safety := 3, bring := n, acked := true, echoes := List.replicate 16 9, ident := some { domain := 0, coord := 1, shape := 1, port := 0 } });
      31 < s.ports.length ∧ 16 ≤ (s.port 31).echoes.length ∧ loopedBack s 31 = false ∧ (s.port 31).bring = n ∧ (s.port 31).ident.isSome = true ∧ (s.port 31).acked = true) ∧
    (∀ n ∈ [0, 3], ((pt fun q => { q with safety := n }).port 31).safety = n ∧ loopedBack (pt fun q => { q with safety := n }) 31 = false) ∧
    (∀ n ∈ [1, 2], let s := pt fun q => { q with safety := n };
      (s.port 31).safety = n ∧ loopedBack s 31 = false ∧ mayProbe s 31 = true ∧ probing s 31 = false) ∧
    probing (pt fun q => { q with safety := 2, probeAt := some 0 }) 31 = true ∧
    ((pt fun q => { q with fecLock := true }).port 31).fecLock = true := by
  decide +kernel

theorem wit_FadesAndSpares_fade : (∀ l ∈ [0, 19], let s := pt id; 31 < s.ports.length ∧ l < 20 ∧ 0 < 10 * odGet s 0x2900 1 ∧ (s.port 31).fade.getD l 0 = 0 ∧
      299 < 300 ∧ bitAt (s.port 31).sparesUsed.toNat (l / 5) = false ∧ bitAt (s.port 31).sparesFailed.toNat (l / 5) = false ∧
      aget (l / 5) (s.port 31).spareLane = none ∧ odGet s 0x2900 3 = 1) ∧
    ((pt fun q => { q with fade := q.fade.set 19 1 }).port 31).fade.getD 19 0 = 1 ∧ ((pt fun q => { q with safety := 0 }).port 31).safety = 0 := by
  decide +kernel

theorem wit_FadesAndSpares_spare : let s := odSet 0x2900 4 1 (pt fun q => { q with safety := 0, fade := q.fade.set 19 2, spareLane := [(3, 19)] });
    (s.port 31).spareLane = [(3, 19)] ∧ (s.port 31).fade.getD 19 0 = 2 ∧ (s.port 31).shake = none ∧ (s.port 31).safety = 0 ∧ (s.port 31).fade.length = 24 ∧
    (∀ i < 20, i ≠ 19 → (s.port 31).fade.getD i 0 ≠ 3) ∧ (s.port 31).dropNext = [] ∧ (s.port 31).dropTx = 0x1F ∧ odGet s 0x2900 4 = 1 := by
  decide +kernel

theorem wit_FadesAndSpares_handshake : ∀ h ∈ [shakes false 0, shakes false 2, shakes true 2],
    (let q := (pt fun q => { q with shake := some h }).port 31; q.shake = some h ∧ q.rxShake = none ∧ q.dropNext = []) ∧
    (let q := (pt fun q => { q with rxShake := some h }).port 31; q.rxShake = some h ∧ q.dropNext = []) ∧ h.proposer = true := by
  decide +kernel
/-! ## Fleet and upkeep -/

def near1 : Neighbour := { dev := 1, ports := [31] }
def fleetOf (n : Neighbour) (w : List AggWin) : State := { up with fleet := { up.fleet with neighbours := [n], windows := w, members := [0], epoch := 1 } }

theorem wit_FleetRecords_interval : (∀ n ∈ (fleetOf near1 []).fleet.neighbours, n.st = 1 ∧ n.heard = true) ∧
    (∀ b ∈ [false, true], let n := { near1 with heard := false, misses := 7, leaving := b }; let s := fleetOf n [];
      s.fleet.neighbours = [n] ∧ n.st = 1 ∧ n.heard = false ∧ n.misses = 7) := by
  decide +kernel

theorem wit_FleetRecords_window : ∀ c ∈ [3, 4], let w : AggWin := { kind := 1, label := 2, count := c, reported := 3, lowest := 0 }; let s := fleetOf near1 [w];
    (s.fleet.windows.find? fun w => w.kind == 1 && w.label == 2) = some w ∧ (w.count ≤ w.reported ↔ c = 3) := by
  decide +kernel

theorem wit_FleetRecords_disagree : let s := fleetOf { near1 with epoch := 2 } []; disagrees s 3 1 = true ∧ s.fleet.reported.contains (3, 1) = false := by
  decide +kernel

theorem wit_FleetRecords_beat : hears.ports.length = 32 ∧ sending hears 31 = true ∧ sending hears 0 = false := by decide +kernel

theorem wit_FleetRecords_rest : (∀ n < 4, (up.eport n).up = false) ∧ aget 0 up.fleet.laserBias = none := by decide +kernel

theorem wit_MemoryUpkeep : (∀ l ∈ [0, nearBase / 128, nearBase / 128 + 1], let s : State := { up with ecc := [(16 * l, 1), (16 * l + 3, 1)] };
      odGet s 0x2620 2 ≠ 0 ∧ poisoned s l = false ∧
      (place s (128 * l) = .hbm (match place s (128 * l) with | .hbm r => r | _ => 0) ∨
        (match place s (128 * l) with | .near _ _ => true | _ => false) = true)) ∧
    (∀ v ∈ [22, -23], let s : State := { up with lanes := lset 0 (8192 * 3 + 256 * 7 + 1) v [] };
      (if v = 22 then (23 : Int) else -22) = lget 0 s.lanes (8192 * 3 + 256 * 7 + 1) + (if true = true then 1 else -1) ∧ (23 : Int).natAbs < 24 ∧ (-22 : Int).natAbs < 24) := by
  decide +kernel

/-! ## Rails, clocks and starts -/

theorem wit_RailsAndStarts_rails : (bitAt up.power.railWasGood.toNat 8 = true) ∧
    (let s : State := { up with power := { up.power with rails := 0x101, railWasGood := 0x101 } };
      bitAt s.power.rails.toNat 1 = false ∧ bitAt s.power.railWasGood.toNat 1 = false) ∧
    (∀ r ∈ [0, 1], r < 2 ∧ bitAt up.power.rails.toNat r = true) ∧ up.startup.computeUp = true ∧ bitAt up.power.rails.toNat 8 = true ∧
    up.startup.refLost = false ∧ up.ports.length = 32 ∧ (∀ d ∈ [0, 3], (up.dies.getD d { strap := 0 }).isolated = false) ∧
    (∀ x ∈ [(0, false), (11, true)], (up.d2d.getD (2 * x.1 + b2n x.2) {}).recent.length < 1000) ∧ up.startup.resetLow = false := by
  decide +kernel

def lowReset (tr : Bool) : State := { up with startup := { up.startup with resetLow := true }, power := { up.power with tripped := tr } }

theorem wit_RailsAndStarts_release : (∀ b ∈ [false, true], (lowReset b).startup.resetLow = true ∧ (lowReset b).power.tripped = b) ∧
    (lowReset false).power.tripping = false := by
  decide +kernel

/-- A start at step `n` with the steps `l` after it. -/
def startAt (n : Nat) (l : List Nat) : State := { up with startup := { up.startup with steps := n :: l, kind := 1 } }

theorem wit_RailsAndStarts_steps : (∀ x ∈ [(1, [2]), (7, [8]), (11, [])], let s := startAt x.1 x.2; s.startup.mgSteps = [] ∧ s.startup.fpSteps = [] ∧
      s.startup.steps = x.1 :: x.2 ∧ s.startup.kind ≠ 10) ∧ computeMay (startAt 7 [8]) = true ∧
    mramOk { startAt 2 [3] with sec := { up.sec with torn := true } } = false := by
  decide +kernel

/-! ## Power and heat -/

/-- The power plane as given. -/
def hot (f : Power → Power) : State := { up with power := f up.power }

theorem wit_PowerAndHeat_loop : (let s := hot fun p => { p with samples := List.replicate 100 9000 }; capInForce s < powerAvg s ∧
      mayStep s s.power.stepDownAt = true ∧ 1 < s.power.capCeil) ∧
    (let s := hot fun p => { p with samples := [1], capCeil := theta up }; powerAvg s ≤ capInForce s ∧ 100 * powerAvg s < 97 * capInForce s ∧
      s.power.capCeil = theta s ∧ mayStep s s.power.stepUpAt = true) := by
  decide +kernel

theorem wit_PowerAndHeat_pin : (∀ b ∈ [false, true], let s := if b then up else hot fun p => { p with tripped := true };
      s.power.pin = false ∧ (pinObeyed s = true ↔ b = true)) ∧ (hot fun p => { p with pinCeil := 4 }).power.pinCeil ≠ 16 ∧
    (hot fun p => { p with pin := true }).power.pin = true := by
  decide +kernel

theorem wit_PowerAndHeat_limiter : ∀ r ∈ [0, 1], 2 * odGet up 0x2A00 2 + 50 < 2 * odGet up 0x2A00 2 + 50 + r ∨ 2 * odGet up 0x2A00 2 + 50 + r ≤ 2 * odGet up 0x2A00 2 + 50 := by
  decide +kernel

/-- Sensor `i` at a temperature, in 0.01 °C, having crossed its trip level once. -/
def sensed (i : Nat) (x : Int) : State :=
  (hot fun p => { p with clamp := true }).modSensor i fun y => { y with temp := x, prev := [false, false, true, false, false, false], srate := 2 }

theorem wit_PowerAndHeat_sensors : ∀ i ∈ [0, 208, 260], let s := sensed i 0; i < s.power.sensors.length ∧ s.power.clamp = true ∧
    (s.sensor i).prev.getD 2 false = true ∧
    (s.sensor i).crossed.getD 2 false = false ∧ s.power.tripped = false ∧ s.power.tripping = false ∧ (s.sensor i).hist = [] ∧ 0 < level s i 6 ∧
    0 < level s i 5 ∧ 0 < level s i 4 ∧ 0 < rateAt s i 1 ∧ 0 < rateAt s i 2 ∧ 0 < rateAt s i 3 ∧ (s.sensor i).temp < level s i 4 - 300 ∧
    2 * (s.sensor i).rate < rateAt s i 1 := by
  decide +kernel

theorem wit_PowerAndHeat_clamp : let s := hot fun p => { p with clamp := true }; s.power.clamp = true ∧
    ∀ j < 261, (s.sensor j).temp < level s j 5 - 500 ∧ (s.sensor j).rate ≤ rateAt s j 1 := by
  refine ⟨rfl, fun j _ => ?_⟩
  have h : (hot fun p => { p with clamp := true }).sensor j = {} := by
    show (List.replicate 261 ({} : Sensor)).getD j {} = {}
    rw [List.getD_eq_getElem?_getD, List.getElem?_replicate]; split <;> rfl
  have hc : ∀ c < 6, ((0 : Int) < sx 16 (odGet (hot fun p => { p with clamp := true }) (0x2A10 + c) 5) - 500) ∧
    (0 : Int) ≤ ((10 * odGet (hot fun p => { p with clamp := true }) (0x2A10 + c) 1 : Nat) : Int) := by decide +kernel
  have hs : sensorClass j < 6 := by unfold sensorClass; repeat (first | omega | split)
  rw [h]
  exact hc _ hs

theorem wit_PowerAndHeat_states : (hot fun p => { p with tripping := true }).power.tripping = true ∧
    (let s := hot fun p => { p with pstate := 0 }; s.power.pstate = 0 ∧ coresUsed s = false ∧ s.power.ballast = 0) ∧
    (hot fun p => { p with pstate := 3 }).power.pstate = 3 := by
  decide +kernel

/-! ## Test access -/

theorem wit_TestAccess : ∀ b ∈ [false, true], let s : State := { up with test := { up.test with mode := b } };
    s.test.mode = b ∧ xdSelected s = false ∧ (15 < 16) := by
  decide +kernel
/-! ## Tallies -/

theorem wit_TalliesAdd : isMx 5 = false ∧ ([(0, 1), (1, 2)] : List (Nat × Nat)).Perm [(1, 2), (0, 1)] := by decide +kernel

theorem wit_TallySeesAChange : (2 ^ 64 - 1 < 2 ^ 64) ∧ mix 3 (2 ^ 64 - 1) false = mix 3 (2 ^ 64 - 1) false ∧ mix 3 0 false ≠ mix 3 (2 ^ 64 - 1) false := by
  decide +kernel

/-! ## Ill-formed terms: each check of WellFormed refuses one just past its bound, and takes one at it -/

def noPkt : Packet := blank 0 0 0 0 0 0 0 0 []
def noMsg : SdoMsg := ⟨[], 0, 0, 0, 0, 0, 0, 0, 0, 0, 0, 0, 0, [], []⟩
def noFault : SiteResult := { lanes := [], columns := [], nearRows := [], hard := false }
def noRep : StepReport := { straps := [], stacksFailed := [], sites := [], badGroups := [], ms := 0 }

theorem test_wf_units : wellFormed (.loop 159) = true ∧ wellFormed (.fecLinkDown 31) = true ∧ wellFormed (.ePortUp 3) = true ∧
    wellFormed (.targetAccessComplete 3 0) = true ∧ wellFormed (.quoteComplete 64) = true ∧ wellFormed (.xackTimer 15 0) = true ∧
    wellFormed (.enterBrumate (.session 4)) = true ∧ wellFormed (.sessionIdleExpiry 4) = true ∧ wellFormed (.refuseBackoffExpiry 0 4095) = true ∧
    ∀ i ∈ [Instr.loop 160, .inPlaceRetry 160 .ma, .moveComplete 160 true, .fecLinkDown 32, .ePortUp 4, .targetAccessComplete 4 0, .quoteComplete 0,
      .quoteComplete 65, .marginComplete 65 [], .xackTimer 16 0, .enterBrumate (.session 0), .enterBrumate (.session 5), .launch (.session 5) [],
      .suspend .ethercat 65, .sessionIdleExpiry 0, .sessionIdleExpiry 5, .refuseBackoffExpiry 0 4096], wellFormed i = false := by
  decide

theorem test_wf_packet : wellFormed (.readRsp noPkt) = true ∧ wellFormed (.data { noPkt with cls := 15, len := 1, bytes := List.replicate 128 0 }) = true ∧
    ∀ k ∈ [{ noPkt with cls := 16 }, { noPkt with ver := 16 }, { noPkt with op := 256 }, { noPkt with len := 32 }, { noPkt with h := 8 },
      { noPkt with order := 32 }, { noPkt with ddim := 4 }, { noPkt with ddev := 4096 }, { noPkt with dep := 256 }, { noPkt with sdev := 4096 },
      { noPkt with sep := 256 }, { noPkt with domain := 65536 }, { noPkt with jobtag := 65536 }, { noPkt with seq := 2 ^ 24 },
      { noPkt with poison := 2 ^ 16 }, { noPkt with dval := 8 }, { noPkt with hc := 8 }, { noPkt with rsvd := 512 }, { noPkt with arg := 2 ^ 64 },
      { noPkt with crc := 2 ^ 32 }, { noPkt with len := 1 }], wellFormed (.readRsp k) = false := by
  decide +kernel

theorem test_wf_carriers : ∀ i ∈ [Instr.packetReceive 32 noPkt .endMark false, .packetReceive 0 { noPkt with cls := 16 } .endMark false,
    .form false { noPkt with op := 256 }, .read 4 noPkt, .write 0 { noPkt with ver := 16 }, .eDatagramReceive 4 (dg true 0 noPkt),
    .eDatagramReceive 0 (dg true 0 { noPkt with h := 8 }), .reorderTimeout 4096 0 0, .reorderTimeout 0 256 0, .reorderTimeout 0 0 16], wellFormed i = false := by
  decide +kernel

theorem test_wf_message : wellFormed (.openSlice noMsg) = true ∧ ∀ m ∈ [{ noMsg with magic := 2 ^ 32 }, { noMsg with session := 2 ^ 32 },
    { noMsg with seq := 2 ^ 64 }, { noMsg with index := 2 ^ 16 }, { noMsg with sub := 256 }, { noMsg with flags := 256 }, { noMsg with offset := 2 ^ 32 },
    { noMsg with len := 2 ^ 32 }, { noMsg with port := 65536 }], wellFormed (.openSlice m) = false := by
  decide +kernel

theorem test_wf_engines : wellFormed (.gemvComplete 0 [{ row := 1023, col := 2048, delta := 1 }] false) = true ∧
    ∀ i ∈ [Instr.matrixComplete 0 [{ row := 1024, col := 0, delta := 1 }] false false, .gemvComplete 0 [{ row := 0, col := 2049, delta := 1 }] false,
      .proxyRetryComplete 160 .ma [] false false, .collComplete 0 16 0, .collComplete 0 0 65536, .grantIssue 0 65536 0 0 0 0 1,
      .grantIssue 0 0 (2 ^ 18) 0 0 0 1], wellFormed i = false := by
  decide +kernel

theorem test_wf_words : wellFormed (.nullWord 31 { fwd := true, start := 255, shared := 65535, errs := [(3, 19, 1088)] }) = true ∧
    ∀ i ∈ [Instr.nullWord 0 { fwd := true, start := 256, shared := 0 }, .nullWord 0 { hd true with errs := [(4, 0, 1)] }, .nullWord 0 { hd true with errs := [(0, 20, 1)] }, .nullWord 0 { fwd := true, start := 0, shared := 65536 }, .credit 0 (hd true) 16 0 0,
      .credit 0 (hd true) 0 16 0, .credit 0 (hd true) 0 0 65536, .ident0 0 (hd true) 65536 0 true, .ident0 0 (hd true) 0 65536 true,
      .ident1 0 (hd true) 65536 0, .ident1 0 (hd true) 0 32, .cal 0 (hd true) 20 0 0 [], .cal 0 (hd true) 0 65536 0 [], .cal 0 (hd true) 0 0 0 [(91, 0)],
      .txmon 0 (hd true) 30 1 0 [], .txmon 0 (hd true) 0 0 0 [], .txmon 0 (hd true) 0 5 0 [], .swap 0 (hd true) 20 0 0, .swap 0 (hd true) 0 4 0,
      .swap 0 (hd true) 0 0 4, .dropWord 0 (hd true) 20 0, .dropWord 0 (hd true) 0 4, .echo 32 (hd true) 0 true 0 0, .badControlWord 0 256,
      .heartbeat 0 (hd true) 256 0 0 true false 0, .heartbeat 0 (hd true) 0 4 0 true false 0, .heartbeat 0 (hd true) 0 0 65536 true false 0,
      .heartbeat 0 (hd true) 0 0 0 true false 64], wellFormed i = false := by
  decide +kernel

theorem test_wf_writes : ∀ i ∈ [Instr.chipWarmReset .ethercat 256, .sdoRequest .ethercat false false 65536 0 [], .sdoRequest .ethercat false false 0 256 [],
    .counterClear .ethercat 65536 0 [], .counterClear .ethercat 0 256 [], .foeWrite "" (2 ^ 32) [], .openReassemblyTimeout [] 65536, .groupCreate .ethercat 16,
    .keySlotWrite .ethercat 8 [], .hbmRegionsWrite .ethercat 64 [], .checkPolicyWrite .ethercat 256 [], .controllerKeyWrite .ethercat 4 [],
    .w1cWrite .ethercat (2 ^ 42) 0, .registerWrite .ethercat (2 ^ 42) 0], wellFormed i = false := by
  decide +kernel

theorem test_wf_upkeep : wellFormed (.dieSelect 256) = true ∧ wellFormed (.startUpStepDone noRep) = true ∧ wellFormed (.d2dCrcReplay 11 true 79) = true ∧
    ∀ i ∈ [Instr.aggregationWindowEnd 4 0, .aggregationWindowEnd 0 65536, .disagreeLimit 0 4096, .calendarSet (2 ^ 64), .ringLockLost 0 true 20, .fadeWarn 0 24 0,
      .fadeWarn 0 0 4096, .fadeRecover 0 24, .spareLocked 0 4, .eLaserReplace 0 4, .ePortDown 0 4, .railGood 9, .pllLockLost 9, .d2dCrcReplay 12 false 0,
      .d2dCrcReplay 0 false 130, .d2dCrcReplay 4 false 66, .d2dCrcReplay 8 false 80, .powerSample (2 ^ 32), .slewInterval 65537, .sensorSample 261 0 0,
      .sensorSample 0 32768 0, .sensorSample 0 (-32769) 0, .warnClear 261, .refreshBlock 4, .patrolScrubRead (2 ^ 35), .samplerTrackStep 12 0 0 ⟨true, 0⟩,
      .samplerTrackStep 0 32 0 ⟨true, 0⟩, .samplerTrackStep 0 0 64 ⟨true, 0⟩, .extest (2 ^ 64), .dieSelect 3, .dieSelect 512, .bypass 256], wellFormed i = false := by
  decide +kernel

theorem test_wf_reports : wellFormed (.selfTestSiteDone 1 175 { noFault with lanes := [8], columns := [131], nearRows := [(7, 0)] }) = true ∧
    ∀ i ∈ [Instr.selfTestSiteDone 1 176 noFault, .selfTestSiteDone 1 0 { noFault with lanes := [9] }, .selfTestSiteDone 1 0 { noFault with columns := [132] },
      .selfTestSiteDone 1 0 { noFault with nearRows := [(8, 0)] }, .startUpStepDone { noRep with straps := [64] },
      .startUpStepDone { noRep with stacksFailed := [12] }, .startUpStepDone { noRep with sites := [(176, noFault)] },
      .startUpStepDone { noRep with sites := [(0, { noFault with lanes := [9] })] }, .startUpStepDone { noRep with badGroups := [(12, 0)] },
      .startUpStepDone { noRep with badGroups := [(0, 130)] }, .startUpStepDone { noRep with ms := 65536 }], wellFormed i = false := by
  decide +kernel
/-! ## The spec's worked examples -/

/-- R271's example: links and designated ports of a Y pair in shape B. -/
theorem test_designated_ports : linkIndex 1 0 1 2 0 = 8 ∧ designated 8 = 2 ∧ linkIndex 1 2 1 0 0 = 7 ∧ designated 7 = 25 := by decide

/-- The coordinate of R276's example. -/
theorem test_coordinate : (List.range 4).map (coordOf 0x8D1) = [1, 2, 3, 4] := by decide

/-- R314's example: order 8 goes to z 3, x 1 by Z first, order 0 by X first. -/
theorem test_orders : hops 6 0 0x0C1 8 none = [(0, 2, 3), (0x0C0, 0, 1)] ∧ hops 6 0 0x0C1 0 none = [(0, 0, 1), (1, 2, 3)] := by decide +kernel

/-- R160's example: 1 + 3 · 2^-10 to BF16 under the two draws about its threshold. -/
theorem test_stochastic_rounding : (bf16.round 2 0xA00000 (.fin false 1027 (-10))).1 = 0x3F81 ∧ (bf16.round 2 0x9FFFFF (.fin false 1027 (-10))).1 = 0x3F80 := by
  decide +kernel

/-- R163's example: a block whose largest magnitude is 5. -/
theorem test_narrow_block : (narrowBlock e2m1 0 [(.fin false 5 0, 0)]).1 = 0x7F ∧ (narrowBlock e2m1 0 [(.fin false 5 0, 0)]).2.1 = [6] ∧
    (narrowBlock e4m3 0 [(.fin false 5 0, 0)]).1 = 0x79 ∧ (narrowBlock e4m3 0 [(.fin false 5 0, 0)]).2.1 = [0x7A] := by
  decide +kernel

/-- R335's example: two MXFP8 blocks added at a level. -/
theorem test_block_sum : addMx 6 ([0x7D, 0x45], [0x7F]) ([0x74, 0x00], [0x7F]) = ([0x7A, 0x3D], [0x80], false, 1) := by decide +kernel

def partial_ (v : Int) : Long := { val := v, bexp := -32 }

/-- R153's example: the long partials of four cores, in two orders. -/
theorem test_long_partials : (partial_ 16384).bits = 0x4000 + 0x0100FFE0 * 2 ^ 96 ∧
    (((partial_ 862017116176384).combine (partial_ 16384)).bind fun x => x.combine (partial_ (-862017116176384))) = some (partial_ 16384) ∧
    (((partial_ (-862017116176384)).combine (partial_ 862017116176384)).bind fun x => x.combine (partial_ 16384)) = some (partial_ 16384) ∧
    (bf16.round 0 0 (partial_ 16384).num).1 = 0x3680 := by
  decide +kernel

/-- R338's example: DISPATCH of seven rows over four ranks, CAP 2. -/
def wDisp : List Nat := [0x14 * 2 ^ 56 + 8 * 2 ^ 52 + 6 * 2 ^ 28 + 5 * 2 ^ 21 + 5 * 2 ^ 17, storeAddr 3 0x1000, storeAddr 3 0x8000, 7 + 2 * 2 ^ 32, 0, 32 * 2 ^ 32, 0x100, 0, 0]
def disp : State := (writeBytes (storeAddr 3 0x100) ([1, 0, 1, 1, 0xFFFFFFFF, 1, 0].flatMap (leBytes 4)) (ready2 64 [] {})).modGroup 15 fun x => { x with ranks := 4 }

theorem test_dispatch : let o := withRows { core := 3, g := 15, bucket := 0, use := 0, desc := dOf wDisp } false disp;
    o.kept.take 2 = [[1, 6], [0, 2]] ∧ o.dropped = [3, 5] ∧ o.kept.drop 2 = [[], []] := by
  decide +kernel

/-! ## Single steps -/

/-- R57: LOOP with COUNT 3 and its ENDLOOP two words on opens a level at the next word. -/
theorem test_loop : (match exec (.loop 3) (prog [0x01 * 2 ^ 56 + 2 * 2 ^ 32 + 3, 0, 0x02 * 2 ^ 56] id) with
    | .next t => (t.core 3).pc == 1 && (t.core 3).loops.length == 1 && ((t.core 3).loops.map (·.remaining)) == [3]
    | _ => false) = true := by
  decide +kernel

/-- R364: a control word of a reserved type is counted; R363: none is heard before the FEC has locked. -/
theorem test_bad_word : (match exec (.badControlWord 31 10) (pt fun q => { q with fecLock := true }), exec (.badControlWord 31 10) (pt id) with
    | .next t, .next u => odGet t 0x2901 5 == 1 && odGet u 0x2901 5 == 0
    | _, _ => false) = true := by
  decide +kernel
end Sys2Proof.Tests
end

/-! SUPPORT. Access through the dictionary and to a core's register words (R11, R70, R397, R416): what a read answers, when a write sets
a value and nothing else, that the verdict on a write does not depend on the answers given. -/

namespace Sys2Proof.Machine

/-! ## Rows of the object table -/

/-- A block of dictionary addresses: indices `i0` to `i1`, subindices `u0` to `u1`. -/
structure Addrs where
  i0 : Nat
  i1 : Nat
  u0 : Nat
  u1 : Nat

/-- The address lies in the block. -/
def Addrs.has (a : Addrs) (i u : Nat) : Prop := a.i0 ≤ i ∧ i ≤ a.i1 ∧ a.u0 ≤ u ∧ u ≤ a.u1

/-- The row and the block share no address. -/
def Obj.apart (o : Obj) (a : Addrs) : Prop := o.i1 < a.i0 ∨ a.i1 < o.i0 ∨ o.s1 < a.u0 ∨ a.u1 < o.s0

theorem findObj_some {i u : Nat} {o : Obj} (hf : findObj i u = some o) :
    o ∈ objs ∧ o.i0 ≤ i ∧ i ≤ o.i1 ∧ o.s0 ≤ u ∧ u ≤ o.s1 := by
  have hp := List.find?_some hf
  simp only [Bool.and_eq_true, decide_eq_true_eq, and_assoc] at hp
  exact ⟨List.mem_of_find?_eq_some hf, hp⟩

/-- The addresses at which an accepted write does more, or other, than set the stored value (`odApply`). -/
def ownEffects : List Addrs := [
  ⟨0x2100, 0x2100, 1, 0xC⟩, ⟨0x2201, 0x2240, 0, 0xFF⟩, ⟨0x2300, 0x2300, 2, 3⟩, ⟨0x2450, 0x2450, 2, 3⟩, ⟨0x2471, 0x2471, 2, 2⟩,
  ⟨0x2510, 0x251F, 9, 9⟩, ⟨0x2600, 0x2600, 0, 0xFF⟩, ⟨0x2914, 0x2914, 0, 0xFF⟩, ⟨0x2924, 0x2924, 0, 0xFF⟩, ⟨0x2A20, 0x2A20, 1, 1⟩,
  ⟨0x2C20, 0x2C20, 0, 0xFF⟩, ⟨0x2D00, 0x2D00, 1, 1⟩, ⟨0x2D01, 0x2D01, 0, 0xFF⟩, ⟨0x2D10, 0x2D10, 1, 1⟩, ⟨0x3000, 0x3000, 1, 2⟩]

/-- The address lies in none of these blocks: an accepted write sets the stored value and does nothing else (`odApply_of_setsOnly`). -/
def SetsOnly (i u : Nat) : Prop := u ≤ 0xFF ∧ ∀ a ∈ ownEffects, ¬a.has i u

theorem setsOnly_of_apart {i u : Nat} {o : Obj} (hf : findObj i u = some o) (hs : o.s1 ≤ 0xFF) (ha : ∀ a ∈ ownEffects, o.apart a) :
    SetsOnly i u := by
  obtain ⟨-, hi0, hi1, hs0, hs1⟩ := findObj_some hf
  refine ⟨Nat.le_trans hs1 hs, fun a hm ⟨h0, h1, h2, h3⟩ => ?_⟩
  have hap : o.apart a := ha a hm
  unfold Obj.apart at hap
  omega

theorem creates_of_setsOnly {i u : Nat} (h : SetsOnly i u) : creates i u = false := by
  obtain ⟨-, h⟩ := h
  simp only [ownEffects, List.forall_mem_cons, Addrs.has] at h
  simp [creates]
  omega

theorem odApply_of_setsOnly {m : Master} {i u : Nat} {b : List Byte} {s : State} (h : SetsOnly i u) :
    odApply m i u b s = odSet i u (ofLE b) s := by
  have hc := creates_of_setsOnly h
  obtain ⟨hu, h⟩ := h
  simp only [ownEffects, List.forall_mem_cons, Addrs.has] at h
  unfold odApply
  rw [if_neg (by simp [hc]), if_neg (by omega), if_neg (by omega)]
  split
  -- the last arm stores; each arm before it names an address of `ownEffects`
  case h_19 => rfl
  all_goals omega

/-- The row stands for one index of the list. -/
def Obj.indexIn (o : Obj) (is : List Nat) : Prop := o.i0 = o.i1 ∧ o.i0 ∈ is

/-- Stored and job rows that a write sets plainly; 0x2300 and 0x2600 also hold rows with their own effect (R239, R469). -/
theorem setting_rows : ∀ o ∈ objs, (o.life = .stored ∨ o.life = .job) → (o.wh = .any ∨ o.wh = .preop) →
    o.indexIn [0x2300, 0x2600] ∨ o.s1 ≤ 0xFF ∧ ∀ a ∈ ownEffects, o.apart a := by
  unfold Obj.indexIn Obj.apart
  decide +kernel

/-- Counter rows; the FEC and E-port counters of 0x2914 and 0x2924 are kept beside the dictionary. -/
theorem counter_rows : ∀ o ∈ objs, o.life = .counter → o.indexIn [0x2914, 0x2924] ∨ o.s1 ≤ 0xFF ∧ ∀ a ∈ ownEffects, o.apart a := by
  unfold Obj.indexIn Obj.apart
  decide +kernel

theorem setsOnly_of_row {i u : Nat} {o : Obj} {is : List Nat} (hf : findObj i u = some o) (hi : i ∉ is)
    (hr : o.indexIn is ∨ o.s1 ≤ 0xFF ∧ ∀ a ∈ ownEffects, o.apart a) : SetsOnly i u := by
  obtain ⟨-, hi0, hi1, -⟩ := findObj_some hf
  obtain ⟨h01, hm⟩ | ⟨hs, ha⟩ := hr
  · have h0 : o.i0 = i := by omega
    exact absurd (h0 ▸ hm) hi
  · exact setsOnly_of_apart hf hs ha

/-! ## Reading -/

section
variable {m : Master} {i u : Nat} {b : List Byte} {o : Obj} {s : State}

theorem objBytes_readable (hh : hidden m o = false) (ha : o.acc ≠ .wo) :
    objBytes m s o i u = (computed m s i u).getD (leBytes o.ty.size (odGet s i u)) := by
  have hn : ¬(o.acc = .wo ∨ (o.acc = .srw ∨ o.acc = .sro) ∧ m ≠ .secure) := by
    simpa [hidden, ha] using hh
  unfold objBytes
  rw [if_neg hn]
  cases computed m s i u <;> rfl

theorem odRead_present (hi : hasIndex i = true) (hf : findObj i u = some o) : odRead m i u s = (0, objBytes m s o i u) := by
  simp [odRead, hi, hf]

theorem exec_read (hr : reaches m s = true) :
    exec (.sdoRequest m false false i u b) s = .next (setResp m (odRead m i u s).1 (odRead m i u s).2 s) := by
  show Host.Outcome.next (dictRead m i u s) = _
  rw [dictRead, if_pos hr]

theorem exec_read_present (hr : reaches m s = true) (hi : hasIndex i = true) (hf : findObj i u = some o) (hh : hidden m o = false)
    (ha : o.acc ≠ .wo) :
    exec (.sdoRequest m false false i u b) s =
      .next (setResp m 0 ((computed m s i u).getD (leBytes o.ty.size (odGet s i u))) s) := by
  rw [exec_read hr, odRead_present hi hf, objBytes_readable hh ha]

/-! ## The verdict on a write -/

theorem odCheck_absent_index (hi : hasIndex i = false) : odCheck m i u b s = 0x06020000 := by
  simp [odCheck, hi]

theorem odCheck_readOnly (hi : hasIndex i = true) (hf : findObj i u = some o) (hh : hidden m o = false) (ha : o.acc = .ro) :
    odCheck m i u b s = 0x06010002 := by
  simp [odCheck, hi, hf, hh, ha]

theorem odCheck_wrong_length (hi : hasIndex i = true) (hf : findObj i u = some o) (hh : hidden m o = false) (ha : o.acc = .rw)
    (hl : b.length ≠ o.ty.size) : odCheck m i u b s = 0x06070010 := by
  simp [odCheck, hi, hf, hh, ha, hl]

theorem odCheck_not_preop (hi : hasIndex i = true) (hf : findObj i u = some o) (hh : hidden m o = false) (ha : o.acc = .rw)
    (hl : b.length = o.ty.size) (hw : o.wh = .preop) (hs : s.mgmt.al ≠ 2) : odCheck m i u b s = 0x08000022 := by
  have hst : stateOk o i u b s = false := by simp [stateOk, hw, hs]
  simp [odCheck, hi, hf, hh, ha, hl, hst]

theorem ofLE_of_counter_accepted (hf : findObj i u = some o) (hh : hidden m o = false) (hc : o.life = .counter)
    (h : odCheck m i u b s = 0) : ofLE b = 0 := by
  have hv := valueOk_of_odCheck hf (by simp [hh]) h
  simpa [valueOk, hc] using hv

/-! ## The verdict does not depend on the answers given -/

variable {n : Master} {c : Nat} {d : List Byte}

theorem controlSuspend_code_setResp {h : Nat} : (controlSuspend h (setResp m c d s)).1 = (controlSuspend h s).1 := by
  simp only [controlSuspend, apply_ite Prod.fst]
  rfl

theorem controlResume_code_setResp {h : Nat} : (controlResume h (setResp m c d s)).1 = (controlResume h s).1 := by
  simp only [controlResume, apply_ite Prod.fst, ite_self]

theorem controlCancel_code_setResp {h : Nat} : (controlCancel h (setResp m c d s)).1 = (controlCancel h s).1 := by
  simp only [controlCancel, apply_ite Prod.fst]
  rfl

theorem control_code_setResp {h v : Nat} : (control h v (setResp m c d s)).1 = (control h v s).1 := by
  simp only [control, apply_ite Prod.fst, controlSuspend_code_setResp, controlResume_code_setResp, controlCancel_code_setResp]
  rfl

theorem tripRelease_code_setResp {v : Nat} : (tripRelease v (setResp m c d s)).1 = (tripRelease v s).1 := by
  simp only [tripRelease, apply_ite Prod.fst]
  rfl

theorem cautiousAck_code_setResp {v : Nat} : (cautiousAck v (setResp m c d s)).1 = (cautiousAck v s).1 := by
  simp only [cautiousAck, apply_ite Prod.fst]
  rfl

theorem enterBrumate_code_setResp : (enterBrumate (setResp m c d s)).1 = (enterBrumate s).1 := by
  simp only [enterBrumate, apply_ite Prod.fst]
  rfl

theorem specialState_setResp : specialState i u b (setResp m c d s) = specialState i u b s := by
  simp only [specialState, control_code_setResp, tripRelease_code_setResp, cautiousAck_code_setResp, enterBrumate_code_setResp]
  rfl

theorem stateOk_setResp : stateOk o i u b (setResp m c d s) = stateOk o i u b s := by
  unfold stateOk
  rw [specialState_setResp]
  rfl

theorem valueOk_setResp : valueOk o i u b (setResp m c d s) = valueOk o i u b s := by
  simp only [valueOk, control_code_setResp]
  rfl

theorem ownerRule_setResp : ownerRule n i u b (setResp m c d s) = ownerRule n i u b s := rfl

theorem odCheck_setResp : odCheck n i u b (setResp m c d s) = odCheck n i u b s := by
  simp only [odCheck, stateOk_setResp, valueOk_setResp, ownerRule_setResp]
  rfl

/-! ## Writing -/

theorem odWrite_refused (hf : findObj i u = some o) (hh : hidden m o = false) (hc : odCheck m i u b s ≠ 0) :
    odWrite m i u b s = s := by
  simp [odWrite, hf, hh, hc]

theorem odWrite_accepted (hf : findObj i u = some o) (hh : hidden m o = false) (hc : odCheck m i u b s = 0) :
    odWrite m i u b s = odApply m i u b s := by
  simp [odWrite, hf, hh, hc]

theorem dictWrite_refused (hr : reaches m s = true) (hf : findObj i u = some o) (hh : hidden m o = false)
    (hc : odCheck m i u b s ≠ 0) : dictWrite m i u b s = setResp m (odCheck m i u b s) [] s := by
  have hc' : odCheck m i u b (setResp m (odCheck m i u b s) [] s) ≠ 0 := by rwa [odCheck_setResp]
  rw [dictWrite, if_pos hr, if_neg hc, odWrite_refused hf hh hc']

theorem dictWrite_accepted (hr : reaches m s = true) (hf : findObj i u = some o) (hh : hidden m o = false)
    (hc : odCheck m i u b s = 0) : dictWrite m i u b s = odApply m i u b (setResp m 0 (writeAnswer i u s) s) := by
  rw [dictWrite, if_pos hr, if_pos hc, hc, odWrite_accepted hf hh (odCheck_setResp.trans hc)]

theorem dictWrite_setsOnly (hr : reaches m s = true) (hf : findObj i u = some o) (hh : hidden m o = false)
    (hp : SetsOnly i u) (hc : odCheck m i u b s = 0) : dictWrite m i u b s = odSet i u (ofLE b) (setResp m 0 [] s) := by
  have hw : writeAnswer i u s = [] := by simp [writeAnswer, creates_of_setsOnly hp]
  rw [dictWrite_accepted hr hf hh hc, odApply_of_setsOnly hp, hw]

theorem exec_write : exec (.sdoRequest m true false i u b) s = .next (dictWrite m i u b s) := rfl

theorem exec_counterClear (hf : findObj i u = some o) (hl : o.life = .counter) :
    exec (.counterClear m i u b) s = .next (dictWrite m i u b s) := by
  show execCounterClear m i u b s = _
  simp [execCounterClear, hf, hl]

end

/-! ## Register words of a core -/

section
variable {c ofs v : Nat} {s : State}

/-- The registers of an enabled core lie above HBM, the near slices and the core stores (R229). -/
theorem place_coreReg (hc : c < coreCount s) (h160 : coreCount s ≤ 160) (ho : ofs < 0x10000) :
    place s (coreRegBase + 0x10000 * c + ofs) = .coreReg c ofs := by
  have hq : (coreRegBase + 0x10000 * c + ofs - coreRegBase) / 0x10000 = c := by omega
  have hm : (coreRegBase + 0x10000 * c + ofs - coreRegBase) % 0x10000 = ofs := by omega
  have hbm : ¬coreRegBase + 0x10000 * c + ofs < hbmTop := by simp only [coreRegBase, hbmTop, regionSize]; omega
  have near : ¬(nearBase ≤ coreRegBase + 0x10000 * c + ofs ∧ coreRegBase + 0x10000 * c + ofs < nearBase + coreCount s * nearSize) := by
    simp only [coreRegBase, nearBase, nearSize]; omega
  have store : ¬(storeBase ≤ coreRegBase + 0x10000 * c + ofs ∧ coreRegBase + 0x10000 * c + ofs < storeBase + coreCount s * storePitch) := by
    simp only [coreRegBase, storeBase, storePitch]; omega
  rw [place, if_neg hbm, if_neg near, if_neg store, if_pos (by omega), hq, hm]

theorem coreRegWrite_sqStat :
    coreRegWrite c 0 v s = s.modCore c fun k => { k with stat := k.stat &&& ~~~(BitVec.ofNat 10 v) } := rfl

theorem coreRegWrite_waitLimit : coreRegWrite c 0x10 v s = s.modCore c fun k => { k with waitLimit := BitVec.ofNat 32 v } := rfl

/-- A register word without a writable bit keeps its value (R70). -/
theorem coreRegWrite_readOnly (h0 : ofs ≠ 0) (h10 : ofs ≠ 0x10) (hm : coreRwMask ofs = 0) : coreRegWrite c ofs v s = s := by
  simp [coreRegWrite, h0, h10, hm]

theorem isW1c_coreReg (hc : c < coreCount s) (h160 : coreCount s ≤ 160) (ho : ofs < 0x10000) :
    isW1c s (coreRegBase + 0x10000 * c + ofs) = (ofs == 0) := by
  rw [isW1c, place_coreReg hc h160 ho]

/-- An unprivileged write of an aligned register word of an enabled core. -/
theorem regByMaster_coreReg (hc : c < coreCount s) (h160 : coreCount s ≤ 160) (ho : ofs < 0x10000) (h4 : ofs % 4 = 0) :
    regByMaster .unprivileged (coreRegBase + 0x10000 * c + ofs) v s = coreRegWrite c ofs v s := by
  have ha : ¬(coreRegBase + 0x10000 * c + ofs) % 4 ≠ 0 := by simp only [coreRegBase]; omega
  rw [regByMaster, if_neg ha]
  show regWrite _ v s = _
  rw [regWrite, place_coreReg hc h160 ho]

theorem exec_w1cWrite_sqStat {w : Word} (hc : c < coreCount s) (h160 : coreCount s ≤ 160) :
    exec (.w1cWrite .unprivileged (coreRegBase + 0x10000 * c) w) s = .next (coreRegWrite c 0 w.toNat s) := by
  have hw : isW1c s (coreRegBase + 0x10000 * c) = true := isW1c_coreReg hc h160 (ofs := 0) (by decide)
  have hr : regByMaster .unprivileged (coreRegBase + 0x10000 * c) w.toNat s = coreRegWrite c 0 w.toNat s :=
    regByMaster_coreReg hc h160 (ofs := 0) (by decide) rfl
  show execW1cWrite _ _ w s = _
  rw [execW1cWrite, if_pos hw, hr]

theorem exec_registerWrite_coreReg {w : Word} (hc : c < coreCount s) (h160 : coreCount s ≤ 160) (ho : ofs < 0x10000)
    (h4 : ofs % 4 = 0) (h0 : ofs ≠ 0) :
    exec (.registerWrite .unprivileged (coreRegBase + 0x10000 * c + ofs) w) s = .next (coreRegWrite c ofs w.toNat s) := by
  have hw : ¬isW1c s (coreRegBase + 0x10000 * c + ofs) = true := by simpa [isW1c_coreReg hc h160 ho] using h0
  show execRegisterWrite _ _ w s = _
  rw [execRegisterWrite, if_neg hw, regByMaster_coreReg hc h160 ho h4]

end

/-! ## The statement -/

/-- Settles O42. A plain or a counter row shares no address with those whose write does more than set a value (`ownEffects`), the
answer given before the effect does not change the verdict, and a core's register words lie where no memory does. -/
theorem dictionaryAccess : Obligations.DictionaryAccess := by
  refine ⟨fun m i u b o s hr hf hh hi => ?_, fun m i u b s hi => odCheck_absent_index hi, fun m i u b o s hf hi hh => ?_,
    fun s c a v hc h160 ha => ?_⟩
  · obtain ⟨hrow, -⟩ := findObj_some hf
    refine ⟨fun hn ha => ?stored, fun v hv ha => ?computed, fun c hc h0 => ?refused, fun hl hw h26 h23 hc => ?plain,
      fun hl h14 h24 hc => ?counter⟩
    case stored => rw [exec_read_present hr hi hf hh ha, hn, Option.getD_none]
    case computed => rw [exec_read_present hr hi hf hh ha, hv, Option.getD_some]
    case refused =>
      subst hc
      rw [exec_write, dictWrite_refused hr hf hh h0]
    case plain =>
      have hp : SetsOnly i u := setsOnly_of_row hf (by simp [h26, h23]) (setting_rows o hrow hl hw)
      rw [exec_write, dictWrite_setsOnly hr hf hh hp hc]
    case counter =>
      have hp : SetsOnly i u := setsOnly_of_row hf (by simp [h14, h24]) (counter_rows o hrow hl)
      rw [exec_counterClear hf hl, dictWrite_setsOnly hr hf hh hp hc, ofLE_of_counter_accepted hf hh hl hc]
  · exact ⟨odCheck_readOnly hi hf hh, odCheck_wrong_length hi hf hh, odCheck_not_preop hi hf hh⟩
  · subst ha
    refine ⟨?stat, ?waitLimit, ?readOnly⟩
    case stat => rw [exec_w1cWrite_sqStat hc h160, coreRegWrite_sqStat]
    case waitLimit => rw [exec_registerWrite_coreReg hc h160 (by decide) rfl (by decide), coreRegWrite_waitLimit]
    case readOnly =>
      rw [exec_registerWrite_coreReg hc h160 (by decide) rfl (by decide), coreRegWrite_readOnly (by decide) (by decide) rfl]

end Sys2Proof.Machine

/-! SUPPORT. Loops of the sequencer (R57, R58): LOOP, ENDLOOP and SETVL whose checks pass. -/

namespace Sys2Proof.Machine

/-! ## LOOP, ENDLOOP, SETVL -/

section
variable {s : State} {c w : Nat}

/-- A word with no reserved bit set passes the first check of its operation (R47). -/
theorem ReservedZero.not_stray {l : List (Nat × Nat)} (h : ReservedZero w l) : ¬strayBits w (l ++ wordHead) = true :=
  Bool.eq_false_iff.mp h

theorem exec_loop (h : Executes s c 0x01 0 w) : exec (.loop c) s = .next (doLoop c w s) :=
  congrArg Host.Outcome.next (withWord_executes h)

theorem exec_endloop (h : Executes s c 0x02 0 w) : exec (.endloop c) s = .next (doEndloop c w s) :=
  congrArg Host.Outcome.next (withWord_executes h)

theorem exec_setvl (h : Executes s c 0x03 0 w) : exec (.setvl c) s = .next (doSetvl c w s) :=
  congrArg Host.Outcome.next (withWord_executes h)

/-- The level that a LOOP word `w` at `pc` opens (R57). -/
def openedLevel (pc w : Nat) : Loop :=
  { head := pc, fin := pc + fld w 32 16, strip := bitAt w 51, iter := 0, remaining := fld w 0 32, eo := 0, vl := 0, set := false }

/-- A LOOP whose ENDLOOP lies where it says: what is left to decide are COUNT and the depth. -/
theorem doLoop_paired (hz : ReservedZero w [(51, 1), (32, 16), (0, 32)]) (hn : fld w 32 16 ≠ 0)
    (hlen : (s.core c).pc + fld w 32 16 < (s.core c).streamLen)
    (hend : fld (streamWord s c ((s.core c).pc + fld w 32 16)) 56 8 = 0x02) :
    doLoop c w s =
      if fld w 0 32 = 0 then s.modCore c fun k => { k with pc := k.pc + fld w 32 16 + 1 }
      else if 4 ≤ (s.core c).loops.length then stopCore c 0x04 s
      else s.modCore c fun k => { k with pc := k.pc + 1, loops := k.loops ++ [openedLevel (s.core c).pc w] } := by
  have hskip : (s.modCore c fun k => { k with pc := (s.core c).pc + fld w 32 16 + 1 }) =
      s.modCore c fun k => { k with pc := k.pc + fld w 32 16 + 1 } := modCore_congr rfl
  have hopen : (s.modCore c fun k => { k with pc := k.pc + 1, loops := k.loops ++ [{ openedLevel (s.core c).pc w with head := k.pc }] }) =
      s.modCore c fun k => { k with pc := k.pc + 1, loops := k.loops ++ [openedLevel (s.core c).pc w] } := modCore_congr rfl
  rw [← hskip, ← hopen]
  unfold doLoop
  rw [if_neg hz.not_stray, if_neg hn, if_neg (Nat.not_le.mpr hlen), if_neg (not_not_intro hend)]
  rfl

/-- What an iteration uses up: one, of a strip loop the VL that its SETVL set (R58). -/
def Loop.used (l : Loop) : Nat := if l.strip then l.vl else 1

/-- The level at the head of its next iteration (R57, R58). -/
def Loop.next (l : Loop) : Loop :=
  { l with remaining := l.remaining - l.used, iter := l.iter + 1, eo := if l.strip then l.eo + l.used else l.eo, set := false }

theorem Loop.next_eq (l : Loop) :
    l.next = { l with remaining := l.remaining - l.used, iter := l.iter + 1, eo := if l.strip then l.eo + l.vl else l.eo, set := false } := by
  cases hs : l.strip <;> simp [Loop.next, Loop.used, hs]

/-- An ENDLOOP that closes the innermost level, with this iteration's SETVL done. -/
theorem doEndloop_closing {l : Loop} (hz : ReservedZero w []) (hl : (s.core c).loops.getLast? = some l) (hpc : l.fin = (s.core c).pc)
    (hset : l.strip = true → l.set = true) :
    doEndloop c w s =
      if 0 < l.remaining - l.used then s.modCore c fun k => { k with pc := l.head + 1, loops := k.loops.dropLast ++ [l.next] }
      else s.modCore c fun k => { k with pc := k.pc + 1, loops := k.loops.dropLast } := by
  have hl' : (s.core c).inner = some l := hl
  have hset' : ¬(l.strip && !l.set) = true := by simpa using hset
  unfold doEndloop
  rw [if_neg (show ¬strayBits w wordHead = true from hz.not_stray)]
  simp only [hl']
  rw [if_neg (not_not_intro hpc), if_neg hset']
  rfl

/-- A SETVL at the head of a strip loop's body. -/
theorem doSetvl_first {l : Loop} (hz : ReservedZero w [(0, 16)]) (hreq : fld w 0 16 ≠ 0) (hl : (s.core c).loops.getLast? = some l)
    (hs : l.strip = true) (hpc : (s.core c).pc = l.head + 1) :
    doSetvl c w s = s.modCore c fun k => { k with
      pc := k.pc + 1
      vl := min (fld w 0 16) (min (s.core c).vlmax l.remaining)
      loops := k.loops.dropLast ++ [{ l with vl := min (fld w 0 16) (min (s.core c).vlmax l.remaining), set := true }] } := by
  have hl' : (s.core c).inner = some l := hl
  unfold doSetvl
  rw [if_neg hz.not_stray, if_neg hreq]
  simp only [hl']
  rw [if_neg (by simp [hs, hpc])]

end

/-- Settles O9. A LOOP whose ENDLOOP is in place either skips the body, opens a level, or finds four open. -/
theorem loopOpensALevel : Obligations.LoopOpensALevel := by
  intro s c w hex hz hn hlen hend
  rw [exec_loop hex, doLoop_paired hz hn hlen hend]
  refine ⟨fun h0 => ?skip, fun h0 h4 => ?opens, fun h0 h4 => ?full⟩
  case skip => rw [if_pos h0]
  case opens => rw [if_neg h0, if_neg (Nat.not_le.mpr h4)]; rfl
  case full => rw [if_neg h0, if_pos h4]

/-- Settles O10. Elements or iterations remain exactly where the iteration uses up less than the rest. -/
theorem endloopRepeatsOrEnds : Obligations.EndloopRepeatsOrEnds := by
  intro s c w l hex hz hl hpc hset
  rw [exec_endloop hex, doEndloop_closing hz hl hpc hset]
  refine ⟨fun (hlt : l.used < l.remaining) => ?repeats, fun (hle : l.remaining ≤ l.used) => ?ends⟩
  case repeats => rw [if_pos (Nat.sub_pos_of_lt hlt), l.next_eq]; rfl
  case ends => rw [if_neg (Nat.not_lt.mpr (Nat.le_of_eq (Nat.sub_eq_zero_of_le hle)))]

/-- Settles O11, by the place of the SETVL: the first word of the innermost strip loop's body. -/
theorem setvlTakesTheLeast : Obligations.SetvlTakesTheLeast := by
  intro s c w l hex hz hreq hl hs hpc
  rw [exec_setvl hex, doSetvl_first hz hreq hl hs hpc]

end Sys2Proof.Machine

/-! SUPPORT. Events and branches of the sequencer (R54 to R56, R59 to R61): what the consumers of core events leave of a core, WAIT, SIGNAL,
the root's additions to chip events, BRST. -/

namespace Sys2Proof.Machine

/-! ## Core events -/

section
variable {k old : Core}

theorem bitAt_eq_testBit (v i : Nat) : bitAt v i = v.testBit i := by
  rw [bitAt, Nat.shiftRight_eq_div_pow, Nat.testBit_eq_decide_div_mod_eq]
  rfl

theorem event_eq_getLsbD {x : Nat} : k.event x = k.events.getLsbD x := bitAt_eq_testBit _ _

theorem event_setEvent_false {x y : Nat} : (k.setEvent x false).event y = (k.event y && !decide (x = y)) := by
  simp only [event_eq_getLsbD, Core.setEvent, Bool.false_eq_true, if_false, BitVec.getLsbD_and, BitVec.getLsbD_not, BitVec.getLsbD_ofNat,
    Nat.testBit_two_pow]
  by_cases hy : y < 64
  · simp [hy]
  · simp [BitVec.getLsbD_of_ge _ _ (Nat.not_lt.mp hy)]

@[simp] theorem setEvent_pc {x : Nat} {v : Bool} : (k.setEvent x v).pc = k.pc := rfl
@[simp] theorem setEvent_sqWait {x : Nat} {v : Bool} : (k.setEvent x v).sqWait = k.sqWait := rfl
@[simp] theorem setEng_pc {e : Eng} {g : Engine} : (k.setEng e g).pc = k.pc := by cases e <;> rfl
@[simp] theorem setEng_sqWait {e : Eng} {g : Engine} : (k.setEng e g).sqWait = k.sqWait := by cases e <;> rfl
@[simp] theorem setEng_event {e : Eng} {g : Engine} {x : Nat} : (k.setEng e g).event x = k.event x := by cases e <;> rfl

/-- What a test of an engine's head can do: nothing, let the head go, or let it go and clear its event (R48, R55). -/
theorem testHead_cases (old k : Core) (e : Eng) :
    testHead old k e = k ∨ testHead old k e = k.setEng e { k.eng e with go := true } ∨
      ∃ x, testHead old k e = (k.setEng e { k.eng e with go := true }).setEvent x false := by
  unfold testHead
  dsimp only
  split
  case h_1 x _ =>
    split
    · exact .inl rfl
    split
    · exact .inr (.inl rfl)
    split
    · exact .inr (.inr ⟨x, rfl⟩)
    · exact .inl rfl
  case h_2 => exact .inl rfl

/-- What a test of a head keeps, the tests of all six keep. -/
theorem testHeads_induction {p : Core → Prop} (hp : ∀ k e, p k → p (testHead old k e)) (hk : p k) : p (allEngs.foldl (testHead old) k) :=
  List.foldlRecOn allEngs (testHead old) hk fun k hk e _ => hp k e hk

@[simp] theorem testHead_pc {e : Eng} : (testHead old k e).pc = k.pc := by
  rcases testHead_cases old k e with h | h | ⟨x, h⟩ <;> simp [h]

@[simp] theorem testHead_sqWait {e : Eng} : (testHead old k e).sqWait = k.sqWait := by
  rcases testHead_cases old k e with h | h | ⟨x, h⟩ <;> simp [h]

/-- No engine's head sets an event. -/
theorem testHead_event_false {e : Eng} {x : Nat} (h : k.event x = false) : (testHead old k e).event x = false := by
  rcases testHead_cases old k e with e | e | ⟨y, e⟩ <;> simp [e, event_setEvent_false, h]

/-- A blocked WAIT has looked for its event, before the engines' heads do (R55). -/
def Core.settleSq (k : Core) : Core :=
  match k.sqWait with
  | some (x, clr) => if k.event x then (if clr then { k with sqWait := none }.setEvent x false else { k with sqWait := none }) else k
  | none => k

theorem settleWaits_eq : k.settleWaits = allEngs.foldl (testHead k) k.settleSq := rfl

theorem settleSq_pc : k.settleSq.pc = k.pc := by
  unfold Core.settleSq
  split
  · split
    · split <;> rfl
    · rfl
  · rfl

@[simp] theorem settleWaits_pc : k.settleWaits.pc = k.pc := by
  rw [settleWaits_eq]
  exact testHeads_induction (p := fun j => j.pc = k.pc) (fun j e hj => testHead_pc.trans hj) settleSq_pc

theorem settleSq_found {x : Nat} {clr : Bool} (hw : k.sqWait = some (x, clr)) (he : k.event x = true) :
    k.settleSq = if clr then { k with sqWait := none }.setEvent x false else { k with sqWait := none } := by
  simp [Core.settleSq, hw, he]

/-- A blocked WAIT whose event is set has found it. -/
theorem settleWaits_found {x : Nat} {clr : Bool} (hw : k.sqWait = some (x, clr)) (he : k.event x = true) :
    k.settleWaits.sqWait = none := by
  have h0 : k.settleSq.sqWait = none := by
    rw [settleSq_found hw he]
    split <;> rfl
  rw [settleWaits_eq]
  exact testHeads_induction (p := fun j => j.sqWait = none) (fun j e hj => testHead_sqWait.trans hj) h0

/-- One that asks for it has cleared its event. -/
theorem settleWaits_cleared {x : Nat} (hw : k.sqWait = some (x, true)) (he : k.event x = true) : k.settleWaits.event x = false := by
  have h0 : k.settleSq.event x = false := by
    rw [settleSq_found hw he, if_pos rfl, event_setEvent_false]
    simp
  rw [settleWaits_eq]
  exact testHeads_induction (p := fun j => j.event x = false) (fun j e hj => testHead_event_false hj) h0

end

/-! ## WAIT -/

section
variable {s : State} {c w : Nat}

theorem exec_wait (h : Executes s c 0x04 0 w) : exec (.wait c) s = .next (doWait c w s) :=
  congrArg Host.Outcome.next (withWord_executes h)

theorem exec_signal (h : Executes s c 0x05 0 w) : exec (.signal c) s = .next (doSignal c w s) :=
  congrArg Host.Outcome.next (withWord_executes h)

theorem exec_brst (h : Executes s c 0x06 0 w) : exec (.brst c) s = .next (doBrst c w s) :=
  congrArg Host.Outcome.next (withWord_executes h)

theorem doWait_coreEvent (hz : ReservedZero w [(51, 1), (50, 1), (40, 8), (0, 32)]) (hc : bitAt w 51 = false) (hv : fld w 0 32 = 0)
    (he : fld w 40 8 ≤ 63) :
    doWait c w s = if (s.core c).event (fld w 40 8) then releaseWait c w s else blockWait c w s := by
  unfold doWait waitMet
  rw [if_neg hz.not_stray, if_neg (by simp [hc, hv]), if_neg (by simp [he])]
  simp only [hc, Bool.false_eq_true, if_false]

theorem releaseWait_coreEvent (hc : bitAt w 51 = false) :
    releaseWait c w s = s.modCore c fun k =>
      { (if bitAt w 50 then k.setEvent (fld w 40 8) false else k) with pc := k.pc + 1, mode := .running } := by
  cases h : bitAt w 50 <;> simp [releaseWait, hc, h]

theorem blockWait_coreEvent (hc : bitAt w 51 = false) :
    blockWait c w s = s.modCore c fun k => { k with mode := .waiting, sqWait := some (fld w 40 8, bitAt w 50) } := by
  simp [blockWait, hc]

/-- A WAIT on a core event is done once it has found its event (R55). -/
theorem waitDone_coreEvent (hc : bitAt w 51 = false) : waitDone s c w = (s.core c).sqWait.isNone := by
  simp [waitDone, hc]

theorem exec_waitRelease (hm : (s.core c).mode = .waiting) (hd : waitDone s c (streamWord s c (s.core c).pc) = true) :
    exec (.waitRelease c) s = .next (s.modCore c fun k => { k with pc := k.pc + 1, mode := .running }) :=
  congrArg Host.Outcome.next (if_pos ⟨hm, hd⟩)

theorem exec_waitTimeout (hm : (s.core c).mode = .waiting) (hl : (s.core c).waitLimit ≠ 0)
    (hd : waitDone s c (streamWord s c (s.core c).pc) = false) : exec (.waitTimeout c) s = .next (stopCore c 0x0B s) :=
  congrArg Host.Outcome.next (if_pos ⟨hm, hl, hd⟩)

/-! ## SIGNAL and the root of chip events -/

theorem doSignal_coreEvent (hz : ReservedZero w [(51, 1), (50, 1), (40, 8), (0, 32)]) (hc : bitAt w 51 = false) (hv : fld w 0 32 = 0)
    (he : fld w 40 8 ≤ 63) :
    doSignal c w s = s.modCore c fun k => { (k.setEvent (fld w 40 8) (!bitAt w 50)).settleWaits with pc := k.pc + 1 } := by
  unfold doSignal
  rw [if_neg hz.not_stray, if_neg (by simp [hc, hv]), if_neg (by simp [he]), if_neg (by simp [hc])]
  simp only [advance, settleWaits_pc, setEvent_pc]

theorem doSignal_chipEvent (hz : ReservedZero w [(51, 1), (50, 1), (40, 8), (0, 32)]) (hc : bitAt w 51 = true) (hv : bitAt w 50 = false) :
    doSignal c w s = { s.modCore c (fun k => { k with pc := k.pc + 1 }) with eventIn := s.eventIn ++ [(fld w 40 8, fld w 0 32)] } := by
  unfold doSignal
  rw [if_neg hz.not_stray, if_neg (by simp [hc, hv]), if_neg (by simp [hc]), if_pos hc]
  rfl

/-- No addition to the event is on its way: the root holds the visible value. -/
theorem rootValue_visible {e : Nat} (h : ∀ x ∈ s.eventOut, x.1 ≠ e) : rootValue s e = lget 0 s.chipEvents e := by
  have hn : (s.eventOut.reverse.find? fun x => x.1 == e) = none := by simpa using h
  rw [rootValue, hn]
  rfl

/-- The newest addition on its way is what the root holds. -/
theorem rootValue_newest {e v : Nat} {r : List (Nat × Nat)} (h : s.eventOut = r ++ [(e, v)]) : rootValue s e = v := by
  simp [rootValue, h]

/-- One increment has arrived. -/
theorem exec_chipEventAdd_one {e n : Nat} (h : s.eventIn = [(e, n)]) :
    exec .chipEventAdd s = .next { s with eventIn := [], eventOut := s.eventOut ++ [(e, min 0xFFFFFFFF (rootValue s e + n))] } := by
  show execChipEventAdd s = _
  rw [execChipEventAdd, h]
  rfl

theorem exec_chipEventVisible {e v : Nat} {r : List (Nat × Nat)} (h : s.eventOut = (e, v) :: r) :
    exec .chipEventVisible s = .next { s with chipEvents := lset 0 e v s.chipEvents, eventOut := r } := by
  show execChipEventVisible s = _
  rw [execChipEventVisible, h]

/-! ## BRST -/

/-- A BRST on a status bit with its target in the innermost loop, whose queue has completed. -/
theorem doBrst_status (hz : ReservedZero w [(51, 1), (50, 1), (40, 8), (32, 8), (0, 16)]) (hb : fld w 40 8 ≤ 9)
    (hidle : fld w 40 8 ≤ 5 → maskIdle (2 ^ fld w 40 8) (s.core c) = true) (ho : fld w 0 16 ≠ 0)
    (hlen : (s.core c).pc + fld w 0 16 < (s.core c).streamLen)
    (hin : ∀ l, (s.core c).loops.getLast? = some l → (s.core c).pc + fld w 0 16 ≤ l.fin) :
    doBrst c w s = s.modCore c fun k => { k with
      stat := if bitAt w 50 then k.stat &&& ~~~(BitVec.ofNat 10 (2 ^ fld w 40 8)) else k.stat
      pc := if bitAt (s.core c).stat.toNat (fld w 40 8) = bitAt w 51 then k.pc + fld w 0 16 else k.pc + 1 } := by
  have hloop : (fld w 40 8 == 0x12 || fld w 40 8 == 0x13) = false := by
    simp only [Bool.or_eq_false_iff, beq_eq_false_iff_ne, ne_eq]
    omega
  have hevent : (fld w 40 8 == 0x10) = false := by
    rw [beq_eq_false_iff_ne]
    omega
  have hwait : ¬(decide (fld w 40 8 ≤ 5) && !maskIdle (2 ^ fld w 40 8) (s.core c)) = true := by simpa using hidle
  have hcond : brstCond s c w = bitAt (s.core c).stat.toNat (fld w 40 8) := if_pos hb
  unfold doBrst
  rw [if_neg hz.not_stray, if_neg ?target, if_neg (by simp [hloop]), if_neg (by simp [hevent]), if_neg hwait, hcond]
  case target =>
    cases hl : (s.core c).inner with
    | none => simp [hb, ho, hlen, hloop]
    | some l =>
      have hle := hin l hl
      simp [hb, ho, hlen, hle]
  refine modCore_congr ?_
  cases h50 : bitAt w 50 <;> simp [hb]

end

/-- Settles O12. A blocked WAIT finds its event before the engines' heads look for theirs, and no head sets an event. -/
theorem waitOnACoreEvent : Obligations.WaitOnACoreEvent := by
  intro s c w hz hc hv he
  refine ⟨fun hex hset => ?set, fun hex hclear => ?clear, fun k x clr hw hset => ?found, fun hm hword hw => ?released,
    fun hm hword hw hl => ?limit⟩
  case set => rw [exec_wait hex, doWait_coreEvent hz hc hv he, if_pos hset, releaseWait_coreEvent hc]
  case clear => rw [exec_wait hex, doWait_coreEvent hz hc hv he, if_neg (by simp [hclear]), blockWait_coreEvent hc]
  case found =>
    refine ⟨settleWaits_found hw hset, fun hclr => ?_⟩
    subst hclr
    exact settleWaits_cleared hw hset
  case released =>
    subst hword
    exact exec_waitRelease hm (by simp [waitDone_coreEvent hc, hw])
  case limit =>
    subst hword
    exact exec_waitTimeout hm hl (by simpa [waitDone_coreEvent hc, Option.isSome_iff_ne_none] using hw)

/-- Settles O13. What the root adds to is the newest addition on its way, or else the visible value. -/
theorem signalsAndChipEvents : Obligations.SignalsAndChipEvents := by
  refine ⟨fun s c w hex hz => ⟨fun hc hv he => ?core, fun hc hv => ?chip⟩, fun s e n hin hout => ?visible, fun s e n v r hin hout => ?newest,
    fun s e v r hout => exec_chipEventVisible hout⟩
  case core => rw [exec_signal hex, doSignal_coreEvent hz hc hv he]
  case chip => rw [exec_signal hex, doSignal_chipEvent hz hc hv]
  case visible => rw [exec_chipEventAdd_one hin, rootValue_visible hout]
  case newest => rw [exec_chipEventAdd_one hin, rootValue_newest hout, hout, List.append_assoc]; rfl

/-- Settles O14. None of the checks for loop conditions and core events applies to a status bit. -/
theorem branchOnStatus : Obligations.BranchOnStatus := by
  intro s c w hex hz hb hidle ho hlen hin
  rw [exec_brst hex, doBrst_status hz hb hidle ho hlen hin]

end Sys2Proof.Machine

/-! SUPPORT. Waits for queues and the remote epoch (R62, R63, R65, R71, R311, R312): YIELD, FENCE and HALT begin one, a park ends one. -/

namespace Sys2Proof.Machine

section
variable {s : State} {c w : Nat} {k : Core} {f : FenceWait}

/-! ## The beginning of a wait -/

/-- A wait whose queues have completed closes the open epoch as it begins (R311). -/
theorem beginFence_closes (hr : f.remote = true) (hc : f.closed = none) (hi : maskIdle f.mask k = true) :
    beginFence f k = { k with mode := .fencing, epoch := (k.epoch + 1) % 4, fence := some { f with closed := some k.epoch } } := by
  have hi' : maskIdle f.mask { k with mode := .fencing, fence := some f } = true := hi
  simp [beginFence, fenceClose, hr, hc, hi']

/-- Any other leaves it open. -/
theorem beginFence_waits (h : f.remote = false ∨ maskIdle f.mask k = false) :
    beginFence f k = { k with mode := .fencing, fence := some f } := by
  have hn : ¬(f.remote && f.closed.isNone && maskIdle f.mask { k with mode := .fencing, fence := some f }) = true := by
    rintro h1
    simp only [Bool.and_eq_true] at h1
    obtain ⟨⟨hr, -⟩, hi : maskIdle f.mask k = true⟩ := h1
    simp [hr, hi] at h
  exact if_neg hn

theorem modCore_beginFence_closes (hr : f.remote = true) (hc : f.closed = none) (hi : maskIdle f.mask (s.core c) = true) :
    s.modCore c (beginFence f) = s.modCore c fun k => { k with
      mode := .fencing, epoch := (k.epoch + 1) % 4, fence := some { f with closed := some (s.core c).epoch } } :=
  modCore_congr (beginFence_closes hr hc hi)

theorem modCore_beginFence_waits (h : f.remote = false ∨ maskIdle f.mask (s.core c) = false) :
    s.modCore c (beginFence f) = s.modCore c fun k => { k with mode := .fencing, fence := some f } :=
  modCore_congr (beginFence_waits h)

/-! ## The words -/

theorem exec_yieldOp (h : Executes s c 0x07 0 w) : exec (.yieldOp c) s = .next (doYield c w s) :=
  congrArg Host.Outcome.next (withWord_executes h)

theorem exec_fence (h : Executes s c 0x08 0 w) : exec (.fence c) s = .next (doFence c w s) :=
  congrArg Host.Outcome.next (withWord_executes h)

theorem exec_halt (h : Executes s c 0x0A 0 w) : exec (.halt c) s = .next (doHalt c w s) :=
  congrArg Host.Outcome.next (withWord_executes h)

/-- A YIELD at the head of a loop's body parks where a suspend is pending, and passes where none is (R62). -/
theorem doYield_first {l : Loop} (hz : ReservedZero w []) (hl : (s.core c).loops.getLast? = some l) (hpc : l.head + 1 = (s.core c).pc) :
    doYield c w s =
      if (s.core c).suspPend then s.modCore c (beginFence (fullFence 2 0)) else s.modCore c fun k => { k with pc := k.pc + 1 } := by
  have hl' : (s.core c).inner = some l := hl
  unfold doYield
  rw [if_neg (show ¬strayBits w wordHead = true from hz.not_stray)]
  simp only [hl']
  rw [if_neg (not_not_intro hpc)]
  rfl

theorem doFence_begins (hz : ReservedZero w [(40, 6), (39, 1), (0, 32)]) :
    doFence c w s = s.modCore c (beginFence
      { kind := 0, mask := fld w 40 6, remote := bitAt w 39, limit := fld w 0 32, exit := 0, closed := none }) :=
  if_neg hz.not_stray

theorem doHalt_begins (hz : ReservedZero w [(0, 16)]) : doHalt c w s = s.modCore c (beginFence (fullFence 1 (fld w 0 16))) :=
  if_neg hz.not_stray

/-! ## The end of a wait -/

/-- A wait with a REMOTE part is over once its queues have completed and its epoch holds no slot (R312). -/
theorem fenceMet_closed {e : Nat} (hi : maskIdle f.mask k = true) (hc : f.closed = some e) (hs : ∀ x ∈ k.slots, x.2.epoch ≠ e) :
    fenceMet k f = true := by
  have he : (epochSlots k e).isEmpty = true := by simpa [epochSlots] using hs
  simp [fenceMet, hi, hc, he]

/-- The books of an epoch all of whose requests ended OK are dropped, without a report (R317). -/
theorem closeBooks_clean {e outcome : Nat} (h : epochErr k e = false) :
    closeBooks e outcome k = { k with epochDests := k.epochDests.filter fun d => d.epoch != e } := by
  have hn : (k.epochDests.filter fun d => d.epoch == e && d.bad) = [] := by
    simpa [epochErr] using h
  simp [closeBooks, hn]

/-- A park ends whose epoch holds no error (R71, R73). -/
theorem exec_corePark_clean {e : Nat} (hm : (s.core c).mode = .fencing) (hf : (s.core c).fence = some f) (hk : f.kind = 2)
    (hmet : fenceMet (s.core c) f = true) (hc : f.closed = some e) (he : epochErr (s.core c) e = false) :
    exec (.corePark c) s = .next (s.modCore c fun k => { k with
      mode := .parked, fence := none, xregs := [], xPoison := 0, epochDests := k.epochDests.filter fun d => d.epoch != e }) := by
  show execCorePark c s = _
  simp only [execCorePark, hf, hm, hk, hmet, hc, and_self, if_true]
  refine congrArg Host.Outcome.next (modCore_congr ?_)
  rw [he, if_neg Bool.false_ne_true, closeBooks_clean he]

end

/-- Settles O15. A park begins as a FENCE of all queues does, and ends with the books of its epoch closed. -/
theorem yieldParks : Obligations.YieldParks := by
  intro s c
  refine ⟨fun w l hex hz hl hpc => ?word, fun f e hm hf hk _ hc hi hs he => ?park⟩
  case word =>
    rw [exec_yieldOp hex, doYield_first hz hl hpc]
    refine ⟨fun hp => ?passes, fun hp hi => ?waits, fun hp hi => ?closes⟩
    case passes => rw [if_neg (by simp [hp])]
    case waits => rw [if_pos hp, modCore_beginFence_waits (.inr hi)]; rfl
    case closes => rw [if_pos hp, modCore_beginFence_closes rfl rfl hi]; rfl
  case park => exact exec_corePark_clean hm hf hk (fenceMet_closed hi hc hs) hc he

/-- Settles O16. Whether the epoch is closed at once turns on the REMOTE part and on the selected queues alone. -/
theorem fenceBegins : Obligations.FenceBegins := by
  intro s c w
  refine ⟨fun hex hz => ?fence, fun hex hz => ?halt⟩
  case fence =>
    rw [exec_fence hex, doFence_begins hz]
    refine ⟨fun h => ?waits, fun hr hi => ?closes⟩
    case waits => rw [modCore_beginFence_waits h]
    case closes => rw [modCore_beginFence_closes hr rfl hi, hr]
  case halt =>
    rw [exec_halt hex, doHalt_begins hz]
    refine ⟨fun hi => ?waits, fun hi => ?closes⟩
    case waits => rw [modCore_beginFence_waits (.inr hi)]; rfl
    case closes => rw [modCore_beginFence_closes rfl rfl hi]; rfl

end Sys2Proof.Machine

/-! SUPPORT. TALLY (R64), and the stops of cores (R47, R67): an illegal word, what a stop leaves, the stop of a launch's other cores. -/

namespace Sys2Proof.Machine

/-! ## TALLY -/

section
variable {s : State} {c w x : Nat}

/-- A double that fits its one field at bit 0 sets no bit outside it. -/
theorem strayBits_low {n : Nat} (h : x < 2 ^ n) (hn : n ≤ 64) : strayBits x [(0, n)] = false := by
  have hm : 2 ^ 64 - 1 - (2 ^ n - 1) = 2 ^ n * (2 ^ (64 - n) - 1) := by
    rw [Nat.mul_sub, ← Nat.pow_add, Nat.add_sub_cancel' hn]
    have := Nat.one_le_two_pow (n := n)
    omega
  have hand : x &&& (2 ^ n * (2 ^ (64 - n) - 1)) = 0 := by
    refine Nat.eq_of_testBit_eq fun i => ?_
    rw [Nat.testBit_and, Nat.testBit_two_pow_mul, Nat.zero_testBit]
    by_cases hi : n ≤ i
    · rw [Nat.testBit_lt_two_pow (Nat.lt_of_lt_of_le h (Nat.pow_le_pow_right (by decide) hi)), Bool.false_and]
    · simp [hi]
  simp only [strayBits, List.foldl_cons, List.foldl_nil, Nat.zero_or, Nat.shiftLeft_zero, hm, hand]
  rfl

theorem fld_low {n : Nat} (h : x < 2 ^ n) : fld x 0 n = x := Nat.mod_eq_of_lt h

/-- The operand double of a TALLY word of action `act` is in order: 0 for a clear, else an aligned offset in the core store (R64). -/
def OperandOk (act x : Nat) : Prop := act = 0 ∧ x = 0 ∨ act ≠ 0 ∧ x % 8 = 0 ∧ x + 8 ≤ storeSize

theorem OperandOk.lt {act : Nat} (h : OperandOk act x) : x < 2 ^ 23 := by
  simp only [OperandOk, storeSize] at h
  omega

theorem OperandOk.not_stray {act : Nat} (h : OperandOk act x) : ¬strayBits x (if act = 0 then [] else [(0, 23)]) = true := by
  have hlt := h.lt
  rcases h with ⟨ha, rfl⟩ | ⟨ha, -⟩
  · rw [if_pos ha]; decide
  · rw [if_neg ha, strayBits_low hlt (by decide)]; decide

theorem OperandOk.inStore {act : Nat} (h : OperandOk act x) : ¬(act ≠ 0 ∧ (x % 8 ≠ 0 ∨ storeSize < x + 8)) := by
  simp only [OperandOk] at h
  omega

/-- A TALLY word whose operand is in order and whose DM is idle does its action (R64). -/
theorem tally_valid {act : Nat} {f : Nat → Nat → Nat → State → State} (hex : Executes s c 0x09 1 w)
    (hx : streamWord s c ((s.core c).pc + 1) = x) (hz : ReservedZero w [(45, 3), (42, 3)]) (hi : (s.core c).dm.idle = true)
    (ha : fld w 42 3 = act) (h3 : act ≤ 3) (hop : OperandOk act x) :
    tally act f c s = f c (fld w 45 3) x s := by
  have hword : ¬(strayBits w ([(45, 3), (42, 3)] ++ wordHead) || decide (3 < act)) = true := by
    rw [Bool.eq_false_iff.mpr hz.not_stray]
    simpa using h3
  unfold tally
  rw [withWord_executes hex]
  dsimp only
  rw [hx, ha, fld_low hop.lt, if_neg hword, if_neg (not_not_intro rfl), if_neg hop.not_stray, if_neg hop.inStore, if_neg (by simp [hi])]

/-- The operand of a TALLY whose line carries no mark and that no running descriptor writes (R52, R64, R195). -/
theorem tallyRead_plain (ht : touchRead [(storeAddr c x, 8)] s = (false, s))
    (hr : racesOf [{ lo := storeAddr c x, len := 8, wr := false }] (liveSpans s) = []) :
    tallyRead c x s = (readNum s (storeAddr c x) 8, s) := by
  have hv : readView [(storeAddr c x, 8)] s = s := by
    simp only [readView, List.map_cons, List.map_nil, hr, viewRaced, List.foldl_nil]
  simp only [tallyRead, ht, hv, Bool.false_eq_true, if_false]

end

/-- Settles O18. The checks of all four actions are one (`tally_valid`), and a plain operand reads what memory holds. -/
theorem tallyOps : Obligations.TallyOps := by
  intro s c w x hex hx hz hi
  refine ⟨fun ha h0 => ?clear, fun ha hm hl => ?store, fun ha hm hl ht hr => ?compare, fun ha hm hl ht hr => ?load⟩
  case clear => exact congrArg Host.Outcome.next (tally_valid hex hx hz hi ha (by decide) (.inl ⟨rfl, h0⟩))
  case store => exact congrArg Host.Outcome.next (tally_valid hex hx hz hi ha (by decide) (.inr ⟨by decide, hm, hl⟩))
  case compare =>
    show Host.Outcome.next (tally 2 _ c s) = _
    rw [tally_valid hex hx hz hi ha (by decide) (.inr ⟨by decide, hm, hl⟩), tallyRead_plain ht hr]
    refine congrArg Host.Outcome.next (modCore_congr ?_)
    dsimp only
    split <;> rfl
  case load =>
    show Host.Outcome.next (tally 3 _ c s) = _
    rw [tally_valid hex hx hz hi ha (by decide) (.inr ⟨by decide, hm, hl⟩), tallyRead_plain ht hr]
    rfl

/-! ## Stops -/

section
variable {s : State} {c code : Nat} {k : Core}

theorem exec_illegalOp_undefined (hm : (s.core c).mode = .running) (hl : (s.core c).pc < (s.core c).streamLen)
    (ho : opDefined (fld (streamWord s c (s.core c).pc) 56 8) = false) : exec (.illegalOp c) s = .next (stopCore c 0x01 s) := by
  show execIllegalOp c s = _
  simp [execIllegalOp, hm, Nat.not_le.mpr hl, ho]

/-- A stopped core: its mode and code stand, its queues are empty (R67). -/
theorem haltCore_stopped {exit : Nat} :
    (haltCore code exit k).mode = .stopped ∧ (haltCore code exit k).stopCode = code ∧ ∀ e, ((haltCore code exit k).eng e).queue = [] :=
  ⟨rfl, rfl, fun e => by cases e <;> rfl⟩

/-- A stop acts on one core; what else it notes, the launch's handle holds (R67, R411). -/
theorem stopCore_cores : (stopCore c code s).cores = (s.modCore c (haltCore code 0)).cores := by
  unfold stopCore
  dsimp only
  split <;> rfl

@[simp] theorem stopCore_mem : (stopCore c code s).mem = s.mem := by
  unfold stopCore
  dsimp only
  split <;> rfl

theorem stopCore_core {d : Nat} : (stopCore c code s).core d = (s.modCore c (haltCore code 0)).core d := by
  rw [State.core, stopCore_cores]
  rfl

theorem stopCore_core_same (h : c < s.cores.length) : (stopCore c code s).core c = haltCore code 0 (s.core c) :=
  stopCore_core.trans (core_modCore_same h)

theorem stopCore_core_other {d : Nat} (h : d ≠ c) : (stopCore c code s).core d = s.core d :=
  stopCore_core.trans (core_modCore_other h.symm)

/-- With no collective open and no retry requested, no work of the cores is left to end (R204, R344). -/
theorem endWork_none {hit : Core → Bool} (ho : s.ops = []) (hp : s.proxyReqs = []) : endWork hit s = s := by
  have hops : ∀ f, (s.ops.filter fun o => hit (s.core o.core)).foldl f s = s := fun f => by rw [ho]; rfl
  have hreqs : (s.proxyReqs.filter fun q => !hit (s.core q.1)) = s.proxyReqs := by rw [hp]; rfl
  unfold endWork
  dsimp only
  rw [hops, hreqs]

theorem peerStopCore_eq (k : Core) : peerStopCore k = if k.mode = .off ∨ k.mode = .stopped then k else cancelCore 0x12 k := by
  unfold peerStopCore cancelCore
  by_cases hs : k.mode = .stopped
  · simp [hs]
  · by_cases ho : k.mode = .off <;> simp [hs, ho]

theorem exec_launchPeerStop {h : Nat} (ha : s.mgmt.active = some h) (hf : (s.handle h).firstStop.isSome = true)
    (hp : (s.handle h).peersStopped = false) (hs : (s.handle h).state ≠ 6) :
    exec .launchPeerStop s = .next ((endPeers s).modHandle h fun x => { x with peersStopped := true }) := by
  show execLaunchPeerStop s = _
  rw [execLaunchPeerStop, ha]
  exact congrArg Host.Outcome.next (if_pos ⟨hf, hp, hs⟩)

end

/-- Settles O19. A stop empties one core's queues and touches no other core; with no collective open, a peer stop is the CANCEL of each
other core that has not stopped. -/
theorem stopsOfCores : Obligations.StopsOfCores := by
  refine ⟨fun s c hm hl ho => exec_illegalOp_undefined hm hl ho, fun s c code hc => ?stop, fun s h ha hf hp hs hops hreq => ?peers⟩
  case stop =>
    obtain ⟨hmode, hcode, hqueues⟩ := haltCore_stopped (code := code) (exit := 0) (k := s.core c)
    rw [stopCore_core_same hc]
    exact ⟨hmode, hcode, hqueues, fun d hd => stopCore_core_other hd, stopCore_mem⟩
  case peers =>
    rw [exec_launchPeerStop ha hf hp hs, endPeers, endWork_none hops hreq, peerStopCores, funext peerStopCore_eq]

end Sys2Proof.Machine

/-! SUPPORT. Issue of engine descriptors (R49, R51, R58): every row that issues one hands its words to `issue`, which latches, stalls or stops. -/

namespace Sys2Proof.Machine

section
variable {i : Instr} {r : IssueRow}

/-- The command's meaning is to issue what its row says, of every word that carries the row's code. -/
def IssuedAs (i : Instr) (r : IssueRow) : Prop :=
  ∃ p : Nat → Bool, (∀ w, fld w r.lo r.width = r.code → p w = true) ∧ ∀ s, exec i s = .next (issue r.eng r.op r.xw p r.core s)

/-- A row whose words are told by a test `q` of their code. -/
theorem issuedAs_of_test (q : Nat → Bool) (hq : q r.code = true)
    (h : ∀ s, exec i s = .next (issue r.eng r.op r.xw (fun w => q (fld w r.lo r.width)) r.core s)) : IssuedAs i r :=
  ⟨fun w => q (fld w r.lo r.width), fun _ hw => (congrArg q hw).trans hq, h⟩

/-- A row whose words are told by their code alone. -/
theorem issuedAs_of_code (h : ∀ s, exec i s = .next (issue r.eng r.op r.xw (fun w => fld w r.lo r.width == r.code) r.core s)) :
    IssuedAs i r :=
  issuedAs_of_test (· == r.code) (beq_self_eq_true _) h

/-- Every row but seven tells its words by their code alone: MATRIX, RAND and SAMPLE are the only rows of their operation, and GEMV, ADD,
COPY and ALLREDUCE issue the words of reserved codes too (R106, R123, R249, R341). -/
theorem issuedAs_of_issueRow (h : issueRow i = some r) : IssuedAs i r := by
  cases i
  case matrix | rand | sample => cases h; exact issuedAs_of_test (fun _ => true) rfl fun _ => rfl
  case gemv => cases h; exact issuedAs_of_test (· != 1) rfl fun _ => rfl
  case add => cases h; exact issuedAs_of_test (fun k => k == 0x01 || vecReserved k) rfl fun _ => rfl
  case copy => cases h; exact issuedAs_of_test (fun k => k == 0 || decide (7 ≤ k)) rfl fun _ => rfl
  case allreduce => cases h; exact issuedAs_of_test (fun k => k == 0 || decide (8 ≤ k)) rfl fun _ => rfl
  -- the commands without a row go with `h`
  all_goals cases h
  all_goals exact issuedAs_of_code fun _ => rfl

end

section
variable {s : State} {e : Eng} {op xw c w : Nat} {p : Nat → Bool}

/-- In a strip loop, or for another operation than VEC, an engine with room takes the descriptor (R51). -/
theorem issue_latches (hex : Executes s c op xw w) (hp : p w = true) (hs : op = 0x12 → (s.core c).loops.any (·.strip) = true)
    (hq : ((s.core c).eng e).queue.length < 8) :
    issue e op xw p c s = s.modCore c fun k => { k.enqueue e
      { pc := k.pc, words := (List.range (xw + 1)).map fun j => BitVec.ofNat 64 (streamWord s c (k.pc + j))
        idx := k.loops.map (·.iter), eo := ((k.loops.reverse.find? (·.strip)).map (·.eo)).getD 0, vl := k.vl
        rst := op == 0x12 && rstHolds (k.latch k.pc [] false) w } with pc := k.pc + 1 + xw } := by
  unfold issue
  rw [withWord_executes hex, if_neg (by simp [hp]), if_neg (by simpa using hs), if_neg (Nat.not_le.mpr hq)]
  refine modCore_congr ?_
  simp only [Core.latch]
  cases (s.core c).loops.reverse.find? (·.strip) <;> rfl

/-- A full queue stalls the SQ (R49). -/
theorem issue_stalls (hex : Executes s c op xw w) (hp : p w = true) (hs : op = 0x12 → (s.core c).loops.any (·.strip) = true)
    (hq : 8 ≤ ((s.core c).eng e).queue.length) : issue e op xw p c s = s := by
  unfold issue
  rw [withWord_executes hex, if_neg (by simp [hp]), if_neg (by simpa using hs), if_pos hq]

/-- A VEC descriptor outside every strip loop stops the core (R58). -/
theorem issue_outside_strip (hex : Executes s c op xw w) (hp : p w = true) (hop : op = 0x12)
    (hs : (s.core c).loops.any (·.strip) = false) : issue e op xw p c s = stopCore c 0x0E s := by
  unfold issue
  rw [withWord_executes hex, if_neg (by simp [hp]), if_pos (by rw [hs]; simpa using hop)]

end

/-- Settles O20. Every row's command is `issue` with its row's engine and operation, whose three outcomes exclude each other. -/
theorem descriptorIssue : Obligations.DescriptorIssue := by
  intro i r s w hrow hex hcode
  obtain ⟨p, hp, hi⟩ := issuedAs_of_issueRow hrow
  rw [hi]
  refine ⟨fun hs hq => ?latched, fun hs hq => ?stalled, fun hop hs => ?outside⟩
  case latched => rw [issue_latches hex (hp w hcode) hs hq]
  case stalled => rw [issue_stalls hex (hp w hcode) hs hq]
  case outside => rw [issue_outside_strip hex (hp w hcode) hop hs]

end Sys2Proof.Machine

/-! SUPPORT. Start of engine descriptors (R50, R53, R93, R109, R117, R220, R263): a valid head is handed to `startRun`, which starts it where no
tile is in conflict. -/

namespace Sys2Proof.Machine

section
variable {s : State} {c : Nat} {d : Desc}

/-- A valid head none of whose tiles is held in conflict starts. -/
theorem startRun_started {e : Eng} {ts : List (Nat × Bool)} {spans : List Span} (h : tileHazard e ts (s.core c) = false) :
    startRun e c d 0 ts spans s = started e c d ts spans s := by
  simp only [startRun, ne_eq, not_true, h, Bool.false_eq_true, if_false]
  rfl

/-- A valid head one of whose tiles is held in conflict leaves its queue and stops the core (R53). -/
theorem startRun_hazard {e : Eng} {ts : List (Nat × Bool)} {spans : List Span} (h : tileHazard e ts (s.core c) = true) :
    startRun e c d 0 ts spans s = stopCore c 0x0D (s.modCore c (takeHead e)) := by
  simp only [startRun, ne_eq, not_true, h, if_true, if_false]

/-- A descriptor that names no tile is in no conflict. -/
theorem tileHazard_nil {e : Eng} {k : Core} : tileHazard e [] k = false := by
  simp [tileHazard]

/-- What the MA may start it starts with no retry in hand (R200). -/
theorem matRetries_of_mayStart {k : Core} {f : Mat} (h : matMayStart k f = true) : matRetries k = false := by
  rw [← Bool.not_eq_true]
  intro hr
  simp [matMayStart, hr] at h

theorem exec_matrixStart_valid (hr : ready .ma c s = some d) (hv : matCode d (matOf d) = 0) (hm : matMayStart (s.core c) (matOf d) = true) :
    exec (.matrixStart c) s = .next (startRun .ma c d 0 (matTiles (matOf d))
      ((matSpans c (matOf d)).map fun x => { lo := x.1, len := x.2, wr := false }) s) := by
  show execMatrixStart c s = _
  simp [execMatrixStart, hr, hv, hm, matRetries_of_mayStart hm]

theorem exec_mvecStart_valid (hr : ready .mvp c s = some d) (hv : mvCode s c d (mvOf d) = 0) (hm : mvMayStart (s.core c) (mvOf d) = true) :
    exec (.mvecStart c) s = .next (startRun .mvp c d 0 (mvTiles (mvOf d))
      ((mvSpans s c (mvOf d)).map fun x => { lo := x.1, len := x.2, wr := false }) s) := by
  show execMvecStart c s = _
  simp [execMvecStart, hr, hv, hm]

theorem exec_vecStart_valid (hr : ready .ve c s = some d) (hv : vecCode d (vecOf d) = 0)
    (hz : vecHazard (s.core c) ((vecOf d).tiles (s.core c)) = false) (hd : (vecOf d).dynRange (s.core c) = false) :
    exec (.vecStart c) s = .next (startRun .ve c d 0 ((vecOf d).tiles (s.core c)) [] s) := by
  show execVecStart c s = _
  simp [execVecStart, hr, hv, hz, hd]

theorem exec_sguStart_rand (hr : ready .sgu c s = some d) (hi : (s.core c).sgu.run = []) (ho : d.op = 0x16) (hf : rndField d (rndOf d) = false)
    (hg : rndRange (rndOf d) = false) :
    exec (.sguStart c) s = .next (startRun .sgu c d 0 ((rndOf d).tiles.map (·, true)) [] s) := by
  show execSguStart c s = _
  simp [execSguStart, hr, hi, ho, hf, hg]

theorem exec_sguStart_sample (hr : ready .sgu c s = some d) (hi : (s.core c).sgu.run = []) (ho : d.op = 0x15)
    (hf : smpField d (smpOf d) = false) (hg : smpRange (smpOf d) = false) :
    exec (.sguStart c) s = .next (startRun .sgu c d 0 []
      [{ lo := (smpOf d).lbase c, len := (smpOf d).v * (smpOf d).bytes, wr := false },
       { lo := storeAddr c (smpOf d).oofs, len := 16, wr := true }] s) := by
  show execSguStart c s = _
  simp [execSguStart, hr, hi, ho, hf, hg]

/-- A local MOVE that moves something and accumulates nothing, on an idle mover (R263). -/
theorem exec_moveStart_local (hr : ready .dm c s = some d) (hi : (s.core c).dm.run = []) (hv : moCode s c d (moOf d) = 0)
    (he : (moOf d).empty = false) (hl : (moOf d).remote = false) (ha : (moOf d).accum = false) :
    exec (.moveStart c) s = .next (startRun .dm c d 0 (moTiles (moOf d) (moRows (moOf d) (moIndices s c (moOf d))))
      (spansOf s false (srcSpans c (moOf d) (moRows (moOf d) (moIndices s c (moOf d)))) ++
        spansOf s true (dstSpans (moOf d) (moRows (moOf d) (moIndices s c (moOf d))))) s) := by
  show execMoveStart c s = _
  simp [execMoveStart, hr, hi, hv, he, hl, ha]

end

/-- Settles O21. Each engine's start hands a valid head to `startRun`, which decides by the tiles alone. -/
theorem descriptorStart : Obligations.DescriptorStart := by
  intro s c d
  refine ⟨fun hr hv hm => ⟨fun ht => ?ma, fun ht => ?hazard⟩, fun hr hv hm ht => ?mvp, fun hr hv hz hd ht => ?ve,
    fun hr hi ho hf hg ht => ?rand, fun hr hi ho hf hg => ?sample, fun hr hi hv he hl ha ht => ?move⟩
  case ma => rw [exec_matrixStart_valid hr hv hm, startRun_started ht]
  case hazard => rw [exec_matrixStart_valid hr hv hm, startRun_hazard ht]
  case mvp => rw [exec_mvecStart_valid hr hv hm, startRun_started ht]
  case ve => rw [exec_vecStart_valid hr hv hz hd, startRun_started ht]
  case rand => rw [exec_sguStart_rand hr hi ho hf hg, startRun_started ht]
  case sample => rw [exec_sguStart_sample hr hi ho hf hg, startRun_started tileHazard_nil]
  case move => rw [exec_moveStart_local hr hi hv he hl ha, startRun_started ht]

end Sys2Proof.Machine

/-! SUPPORT. The end of an attempt that is no check fault (R87, R92, R101, R109, R110, R201): its descriptor completes, and completion
touches the descriptor's own core and what reports it. -/

namespace Sys2Proof.Machine

/-! ## What reports an event: the management state and the dictionary's counters -/

/-- From `s` to `t` only the management state and the object dictionary have changed. -/
def Reported (s t : State) : Prop := ∃ m o, t = { s with mgmt := m, od := o }

section
variable {s t u : State} {e : Eng} {r : Run} {c code : Nat} {inexact : Bool}

theorem Reported.refl : Reported s s := ⟨s.mgmt, s.od, rfl⟩

theorem Reported.trans (h : Reported s t) (k : Reported t u) : Reported s u := by
  obtain ⟨m, o, rfl⟩ := h
  obtain ⟨m', o', rfl⟩ := k
  exact ⟨m', o', rfl⟩

theorem Reported.cores (h : Reported s t) : t.cores = s.cores := by obtain ⟨m, o, rfl⟩ := h; rfl
theorem Reported.mem (h : Reported s t) : t.mem = s.mem := by obtain ⟨m, o, rfl⟩ := h; rfl
theorem Reported.proxyReqs (h : Reported s t) : t.proxyReqs = s.proxyReqs := by obtain ⟨m, o, rfl⟩ := h; rfl

theorem odInc_reported {i u n k : Nat} : Reported s (odInc i u n k s) := ⟨_, _, rfl⟩

theorem emcy_reported {bytes : List Nat} : Reported s (emcy code bytes s) := by
  unfold emcy emcySend
  split
  · split <;> exact ⟨_, _, rfl⟩
  · split <;> exact ⟨_, _, rfl⟩

theorem reportCheck_reported {low row col : Nat} : Reported s (reportCheck low c e r row col code s) :=
  emcy_reported.trans ⟨_, _, rfl⟩

/-- A retry that passed is only reported (R203, R206). -/
theorem noteRecovery_reported : Reported s (noteRecovery e c r code s) := by
  unfold noteRecovery
  split
  · exact .refl
  · split
    · exact odInc_reported.trans reportCheck_reported
    · split
      · exact odInc_reported.trans reportCheck_reported
      · exact .refl

/-- A first attempt recovers nothing. -/
theorem noteRecovery_first (hp : r.phase = .running) (ha : r.attempt = 0) : noteRecovery e c r code s = s := by
  simp [noteRecovery, hp, ha]

/-! ## What a completion does to its core -/

/-- A completion's SEV is set, and the waits look for it (R50, R55). -/
def setSev (r : Run) (k : Core) : Core :=
  match r.desc.sev with
  | some x => (k.setEvent x true).settleWaits
  | none => k

/-- The core whose engine's first running descriptor completes (R50, R68, R101). -/
def completedCore (e : Eng) (r : Run) (code : Nat) (inexact : Bool) (k : Core) : Core :=
  let k2 := setSev r (popRun e k)
  let k3 := if code ≠ 0 then k2.setStat (engNum e) else k2
  let k4 := if inexact then k3.setStat 6 else k3
  fenceClose (if code = 2 then { k4.setStat 7 with poisonReported := true } else k4)

/-- A completion changes its core; poisoned input is also counted and reported (R203). -/
theorem complete_eq : complete e c r code inexact s =
    let s1 := s.modCore c (completedCore e r code inexact)
    if code = 2 then
      if (s.core c).poisonReported then odInc 0x2711 (c + 1) 4 1 s1
      else reportCheck 0x65 c e { r with attempt := 0, phase := .running } 0xFF 0xFF 2 (odInc 0x2711 (c + 1) 4 1 s1)
    else s1 := rfl

theorem complete_reported : Reported (s.modCore c (completedCore e r code inexact)) (complete e c r code inexact s) := by
  rw [complete_eq]
  dsimp only
  split
  · split
    · exact odInc_reported
    · exact odInc_reported.trans reportCheck_reported
  · exact .refl

end

/-! ## What the events, waits and registers of a core leave: its tiles and the running descriptors -/

/-- The tiles with their poison bits, and the running descriptors of all engines, are the same. -/
structure SameWork (k j : Core) : Prop where
  tiles : j.tiles = k.tiles
  poison : j.tilePoison = k.tilePoison
  runs : ∀ e, (j.eng e).run = (k.eng e).run

section
variable {k j l : Core} {e : Eng}

theorem SameWork.refl : SameWork k k := ⟨rfl, rfl, fun _ => rfl⟩

theorem SameWork.trans (h : SameWork k j) (g : SameWork j l) : SameWork k l :=
  ⟨g.tiles.trans h.tiles, g.poison.trans h.poison, fun e => (g.runs e).trans (h.runs e)⟩

/-- A step that may be left out. -/
theorem SameWork.opt {p : Prop} [Decidable p] (h : SameWork k j) (g : SameWork j l) : SameWork k (if p then l else j) := by
  split
  · exact h.trans g
  · exact h

theorem setEvent_sameWork {x : Nat} {v : Bool} : SameWork k (k.setEvent x v) := ⟨rfl, rfl, fun _ => rfl⟩
theorem setStat_sameWork {bit : Nat} : SameWork k (k.setStat bit) := ⟨rfl, rfl, fun _ => rfl⟩
theorem setReg_sameWork {ofs v : Nat} : SameWork k (k.setReg ofs v) := ⟨rfl, rfl, fun _ => rfl⟩

theorem bump_sameWork {ofs lo w : Nat} : SameWork k (k.bump ofs lo w) := by
  unfold Core.bump
  dsimp only
  split
  · exact setReg_sameWork
  · exact .refl

theorem setGo_sameWork : SameWork k (k.setEng e { k.eng e with go := true }) := by
  refine ⟨?_, ?_, fun x => ?_⟩
  · cases e <;> rfl
  · cases e <;> rfl
  · cases e <;> cases x <;> rfl

theorem testHead_sameWork {old : Core} : SameWork k (testHead old k e) := by
  rcases testHead_cases old k e with h | h | ⟨x, h⟩ <;> rw [h]
  · exact .refl
  · exact setGo_sameWork
  · exact setGo_sameWork.trans setEvent_sameWork

theorem settleSq_sameWork : SameWork k k.settleSq := by
  unfold Core.settleSq
  split
  · split
    · split <;> exact ⟨rfl, rfl, fun _ => rfl⟩
    · exact .refl
  · exact .refl

theorem settleWaits_sameWork : SameWork k k.settleWaits := by
  rw [settleWaits_eq]
  exact testHeads_induction (p := SameWork k) (fun _ _ h => h.trans testHead_sameWork) settleSq_sameWork

theorem fenceClose_sameWork : SameWork k (fenceClose k) := by
  unfold fenceClose
  split
  · split
    · exact ⟨rfl, rfl, fun _ => rfl⟩
    · exact .refl
  · exact .refl

theorem setSev_sameWork {r : Run} : SameWork k (setSev r k) := by
  unfold setSev
  split
  · exact setEvent_sameWork.trans settleWaits_sameWork
  · exact .refl

/-- A completed descriptor leaves its engine; the tiles and all other running descriptors stay (R50). -/
theorem completedCore_sameWork {r : Run} {code : Nat} {inexact : Bool} :
    SameWork (popRun e k) (completedCore e r code inexact k) := by
  have hpois : ∀ k : Core, SameWork k { k.setStat 7 with poisonReported := true } := fun _ => ⟨rfl, rfl, fun _ => rfl⟩
  unfold completedCore
  exact .trans (.opt (.opt (.opt setSev_sameWork setStat_sameWork) setStat_sameWork) (hpois _)) fenceClose_sameWork

theorem maStatus_sameWork {f : Mat} {a : Attempt} : SameWork k (maStatus f a k) := by
  unfold maStatus
  exact .opt (.opt (.opt setReg_sameWork bump_sameWork) bump_sameWork) bump_sameWork

theorem popRun_runs : ((popRun e k).eng e).run = (k.eng e).run.tail := by cases e <;> rfl
theorem popRun_tiles : (popRun e k).tiles = k.tiles := by cases e <;> rfl
theorem popRun_tilePoison : (popRun e k).tilePoison = k.tilePoison := by cases e <;> rfl

end

/-! ## Destination tiles -/

section
variable {k : Core} {e : Eng} {ts : List Nat} {code : Nat} {whole : Bool}

theorem writeTiles_eng {ws : List (Nat × Nat × Nat × Word)} : (writeTiles ws k).eng e = k.eng e :=
  List.foldlRecOn (motive := fun j : Core => j.eng e = k.eng e) ws _ rfl fun _ h _ _ => h

/-- Settling the destination of an attempt changes poison bits alone (R100). -/
theorem settleTiles_poisonOnly : ∃ b, settleTiles ts code whole k = { k with tilePoison := b } := by
  unfold settleTiles
  split
  · exact ⟨_, rfl⟩
  · split
    · refine List.foldlRecOn (motive := fun j : Core => ∃ b, j = { k with tilePoison := b }) ts _ ⟨_, rfl⟩ ?_
      rintro j ⟨b, rfl⟩ t -
      exact ⟨_, rfl⟩
    · exact ⟨_, rfl⟩

theorem settleTiles_tiles : (settleTiles ts code whole k).tiles = k.tiles := by
  obtain ⟨b, h⟩ := settleTiles_poisonOnly (k := k) (ts := ts) (code := code) (whole := whole)
  rw [h]

theorem settleTiles_eng : (settleTiles ts code whole k).eng e = k.eng e := by
  obtain ⟨b, h⟩ := settleTiles_poisonOnly (k := k) (ts := ts) (code := code) (whole := whole)
  rw [h]
  rfl

theorem tilePois_eq_getLsbD {t : Nat} : k.tilePois t = k.tilePoison.getLsbD t := bitAt_eq_testBit _ _

theorem getLsbD_poisonBits {b : BitVec 16} {x : Nat} (hx : x < 16) :
    (ts.foldl (fun b t => b ||| BitVec.ofNat 16 (2 ^ (t % 16))) b).getLsbD x = (b.getLsbD x || ts.any fun t => decide (t % 16 = x)) := by
  induction ts generalizing b with
  | nil => simp
  | cons t ts ih =>
    rw [List.foldl_cons, ih, List.any_cons, BitVec.getLsbD_or, BitVec.getLsbD_ofNat, Nat.testBit_two_pow, Bool.or_assoc]
    simp [hx]

/-- An attempt that ends with a code poisons its destination tiles (R100, R194). -/
theorem settleTiles_poisons {x : Nat} (hc : code ≠ 0) (hm : x ∈ ts) (hx : x < 16) : (settleTiles ts code whole k).tilePois x = true := by
  rw [settleTiles, if_pos hc, tilePois_eq_getLsbD, poisonTiles, getLsbD_poisonBits hx, Bool.or_eq_true, List.any_eq_true]
  exact .inr ⟨x, hm, by simp [Nat.mod_eq_of_lt hx]⟩

end

/-! ## The end of an attempt -/

/-- The state in which an attempt's outputs `w`, its completion and its status `st` have been written. -/
def finished (e : Eng) (c : Nat) (r : Run) (a : Attempt) (w st : Core → Core) (s : State) : State :=
  (complete e c r a.code a.inexact (dropProxy c e (noteRecovery e c r a.code (s.modCore c w)))).modCore c st

/-- A core with a MATRIX attempt's outputs written (R98, R100). -/
def matOut (f : Mat) (a : Attempt) (k : Core) : Core := settleTiles f.dTiles a.code (f.m == 128 && f.n == 128) (writeTiles a.words k)

/-- A core with a GEMV attempt's outputs written (R110). -/
def gemvOut (f : Mv) (a : Attempt) (k : Core) : Core := settleTiles [f.td] a.code (f.rows == 2048 && f.nv == 8) (writeTiles a.words k)

section
variable {s : State} {c : Nat} {e : Eng} {r : Run} {a : Attempt} {errs : List CellErr} {pin cd par : Bool} {w st : Core → Core}

/-- An attempt without a check fault completes its descriptor (R198); what it left in the descriptor does not show there. -/
theorem endAttempt_completes {eligible : Bool} (h : isCheckFault a.code = false) :
    endAttempt e c (r.after a) eligible (fun t => t.modCore c st) (s.modCore c w) = finished e c r a w st s :=
  if_neg (Bool.eq_false_iff.mp h)

/-- A descriptor without races reads memory as it is (R52). -/
theorem raceView_without_races (h : r.raced = []) : raceView r s = s := by
  rw [raceView, h]
  rfl

/-- A MATRIX attempt that computes and ends in no check fault completes its descriptor. -/
theorem matFinish_completes (hv : r.vcode = 0) (hr : r.raced = []) (hm : (matOf r.desc).m ≠ 0) (hn : (matOf r.desc).n ≠ 0)
    (ht : touchRead (matSpans c (matOf r.desc)) s = (pin, s)) (ha : matAttempt s c (matOf r.desc) pin errs cd par = a)
    (hc : isCheckFault a.code = false) :
    matFinish c r errs cd par s = finished .ma c r a (matOut (matOf r.desc) a) (maStatus (matOf r.desc) a) s := by
  unfold matFinish
  simp only [hv, hm, hn, ht, ha, raceView_without_races hr, ne_eq, not_true, or_self, if_false]
  change endAttempt _ _ _ _ _ (s.modCore c (matOut (matOf r.desc) a)) = _
  exact endAttempt_completes hc

/-- A GEMV attempt that computes and ends in no check fault completes its descriptor. -/
theorem gemvFinish_completes (hv : r.vcode = 0) (hr : r.raced = []) (hn : (mvOf r.desc).rows ≠ 0)
    (ht : touchRead (mvSpans s c (mvOf r.desc)) s = (pin, s)) (ha : gemvAttempt s c (mvOf r.desc) pin errs par = a)
    (hc : isCheckFault a.code = false) :
    gemvFinish c r errs par s = finished .mvp c r a (gemvOut (mvOf r.desc) a) (mvpStatus a) s := by
  unfold gemvFinish
  simp only [hv, hn, ht, ha, raceView_without_races hr, ne_eq, not_true, if_false]
  change endAttempt _ _ _ _ _ (s.modCore c (gemvOut (mvOf r.desc) a)) = _
  exact endAttempt_completes hc

/-- A LOADX that reads no poison and does not fill its X registers copies and completes (R109). -/
theorem loadxFinish_copies (hv : r.vcode = 0) (hr : r.raced = []) (hf : (mvOf r.desc).c ≠ 32768)
    (ht : touchRead (mvSpans s c (mvOf r.desc)) s = (false, s)) :
    loadxFinish c r s = (complete .mvp c r 0 false (s.modCore c fun k => (List.range (mvOf r.desc).nv).foldl
      (fun k v => setX v (readBytes s (storeAddr c ((mvOf r.desc).waddr + v * (mvOf r.desc).ldx)) (mvOf r.desc).c) k) k)).modCore c
      (mvpStatus {}) := by
  unfold loadxFinish
  simp only [hv, hf, ht, raceView_without_races hr, ne_eq, not_true, if_false, Bool.false_eq_true]
  rfl

theorem exec_matrixComplete (hh : headRun .ma c s = some r) (hp : r.phase = .running) :
    exec (.matrixComplete c errs cd par) s = .next (matFinish c r errs cd par s) := by
  show execMatrixComplete c errs cd par s = _
  simp only [execMatrixComplete, hh, hp, if_true]

theorem exec_gemvComplete (hh : headRun .mvp c s = some r) (hp : r.phase = .running) (ho : (mvOf r.desc).opc = 0) :
    exec (.gemvComplete c errs par) s = .next (gemvFinish c r errs par s) := by
  show execGemvComplete c errs par s = _
  simp [execGemvComplete, hh, hp, ho]

theorem exec_loadxComplete (hh : headRun .mvp c s = some r) (ho : (mvOf r.desc).opc = 1) :
    exec (.loadxComplete c) s = .next (loadxFinish c r s) := by
  show execLoadxComplete c s = _
  simp only [execLoadxComplete, hh, ho, if_true]

theorem exec_proxyRetryComplete_ma {site : Nat} (hh : headRun .ma c s = some r) (hp : r.phase = .proxyRun site) :
    exec (.proxyRetryComplete c .ma errs cd par) s = .next (matFinish c r errs cd par s) := by
  show execProxyRetryComplete c .ma errs cd par s = _
  simp only [execProxyRetryComplete, hh, hp]

/-! ## What a completed attempt changes -/

/-- A first attempt reports no recovery. -/
theorem finished_first (hp : r.phase = .running) (h0 : r.attempt = 0) :
    finished e c r a w st s = (complete e c r a.code a.inexact (dropProxy c e (s.modCore c w))).modCore c st := by
  rw [finished, noteRecovery_first hp h0]

theorem finished_proxyReqs :
    (finished e c r a w st s).proxyReqs = s.proxyReqs.filter fun q => !(q.1 == c && q.2 == engNum e) := by
  simp only [finished, State.modCore_proxyReqs, complete_reported.proxyReqs, dropProxy, noteRecovery_reported.proxyReqs]

theorem finished_mem : (finished e c r a w st s).mem = s.mem := by
  simp only [finished, State.modCore_mem, complete_reported.mem, dropProxy, noteRecovery_reported.mem]

/-- Its cores are those of a change of core `c` alone. -/
theorem finished_cores : (finished e c r a w st s).cores = (s.modCore c fun k => st (completedCore e r a.code a.inexact (w k))).cores := by
  have hthree : (finished e c r a w st s).cores = (((s.modCore c w).modCore c (completedCore e r a.code a.inexact)).modCore c st).cores := by
    simp only [finished, State.modCore_cores, complete_reported.cores, dropProxy, noteRecovery_reported.cores]
  rw [hthree, modCore_modCore, modCore_modCore]

theorem finished_core_other {d : Nat} (h : d ≠ c) : (finished e c r a w st s).core d = s.core d := by
  rw [State.core, finished_cores]
  exact core_modCore_other h.symm

/-- The status registers and the events of a completion leave what the attempt wrote (R50). -/
theorem finished_core_same (hst : ∀ k, SameWork k (st k)) (h : c < s.cores.length) :
    SameWork (popRun e (w (s.core c))) ((finished e c r a w st s).core c) := by
  have hcore : (finished e c r a w st s).core c = st (completedCore e r a.code a.inexact (w (s.core c))) := by
    rw [State.core, finished_cores]
    exact core_modCore_same h
  rw [hcore]
  exact completedCore_sameWork.trans (hst _)

end

section
variable {k : Core} {f : Mat} {a : Attempt}

theorem matOut_tiles : (matOut f a k).tiles = (writeTiles a.words k).tiles := settleTiles_tiles
theorem matOut_eng {e : Eng} : (matOut f a k).eng e = k.eng e := settleTiles_eng.trans writeTiles_eng

theorem matOut_poisons {x : Nat} (hc : a.code ≠ 0) (hm : x ∈ f.dTiles) (hx : x < 16) : (matOut f a k).tilePois x = true :=
  settleTiles_poisons hc hm hx

end

/-- Settles O23. An attempt without a check fault ends in `finished`; what a retry and poisoned input report besides changes no core,
no memory and no request. -/
theorem matrixEnginesComplete : Obligations.MatrixEnginesComplete := by
  intro s c r errs pin cd par hv hr
  refine ⟨fun a hh hp h0 hm hn ht ha hc => ?matrix, fun a hh hp h0 ho hn ht ha hc => ?gemv, fun hh ho hf ht => ?loadx,
    fun a site hh hp hm hn ht ha hc => ?proxy⟩
  case matrix =>
    rw [exec_matrixComplete hh hp, matFinish_completes hv hr hm hn ht ha hc, finished_first hp h0]
    rfl
  case gemv =>
    rw [exec_gemvComplete hh hp ho, gemvFinish_completes hv hr hn ht ha hc, finished_first hp h0]
    rfl
  case loadx => rw [exec_loadxComplete hh ho, loadxFinish_copies hv hr hf ht]
  case proxy =>
    rw [exec_proxyRetryComplete_ma hh hp, matFinish_completes hv hr hm hn ht ha hc]
    refine ⟨_, rfl, finished_proxyReqs, finished_mem, fun d hd => finished_core_other hd, fun hcl => ?core⟩
    obtain ⟨htiles, hpoison, hruns⟩ := finished_core_same (e := .ma) (r := r) (a := a) (w := matOut (matOf r.desc) a)
      (fun _ => maStatus_sameWork (f := matOf r.desc) (a := a)) hcl
    refine ⟨(hruns .ma).trans ?run, ?tiles, fun x hx hx16 hcode => ?poison⟩
    case run =>
      rw [popRun_runs, matOut_eng]
      rfl
    case tiles => rw [htiles, popRun_tiles, matOut_tiles]
    case poison =>
      rw [Core.tilePois, hpoison, popRun_tilePoison]
      exact matOut_poisons (by simp [hcode]) hx hx16

end Sys2Proof.Machine

/-! SUPPORT. INT8 output elements (R81, R85): a whole accumulator converts at scale 1.0 without rounding, and saturates to 32 bits. -/

namespace Sys2Proof.Machine

section
variable {k : Core} {f : Mat} {p : Panels} {c : Cell} {u m n rnd : Nat} {x : Int}

theorem f32_one32 : f32 one32 = .fin false (2 ^ 23) (-23) := by decide

/-- A whole number written with `j` bits below the point has nothing to round (R159). -/
theorem roundSteps_whole {a j : Nat} : roundSteps rnd u (a * 2 ^ j) (-j) 0 = a := by
  have hshift : (a * 2 ^ j) >>> j = a := by rw [Nat.shiftRight_eq_div_pow, Nat.mul_div_cancel _ (Nat.two_pow_pos j)]
  by_cases hj : j = 0 <;> simp [roundSteps, hj, hshift]

/-- A value of `x` whole steps rounds to `x` saturated to 32 bits (R149, R162). -/
theorem roundInt_saturates {a : Nat} {e : Int} (hk : roundSteps rnd u a e 0 = x.natAbs) :
    roundInt 32 true rnd u (.fin (decide (x < 0)) a e) =
      (unsx 32 (max (-(2 ^ 31)) (min (2 ^ 31 - 1) x)), decide (x < -(2 ^ 31) ∨ 2 ^ 31 - 1 < x)) := by
  have hx : (if decide (x < 0) = true then -(x.natAbs : Int) else x.natAbs) = x := by
    simp only [decide_eq_true_eq]
    omega
  simp only [roundInt, roundInt.lim, hk, hx, if_true]
  by_cases hlo : x < -(2 ^ 31)
  · have hmax : max (-(2 ^ 31)) (min (2 ^ 31 - 1) x) = -(2 ^ 31) := by omega
    rw [if_pos (.inl hlo), hmax, decide_eq_true (Or.inl hlo), decide_eq_true (show x < 0 by omega)]
    rfl
  by_cases hhi : 2 ^ 31 - 1 < x
  · have hmax : max (-(2 ^ 31)) (min (2 ^ 31 - 1) x) = 2 ^ 31 - 1 := by omega
    rw [if_pos (.inr hhi), hmax, decide_eq_true (Or.inr hhi), decide_eq_false (show ¬x < 0 by omega)]
    rfl
  · have hmax : max (-(2 ^ 31)) (min (2 ^ 31 - 1) x) = x := by omega
    have hfits : ¬(x < -(2 ^ 31) ∨ 2 ^ 31 - 1 < x) := by omega
    rw [if_neg hfits, hmax, decide_eq_false hfits]

/-- An accumulator of whole units without a special converts at scale 1.0 to itself, saturated (R85, R150). -/
theorem roundInt_cell (hs : c.special = none) (hb : c.bexp = 0) :
    roundInt 32 true rnd u (c.num.scaled (f32 one32)) =
      (unsx 32 (max (-(2 ^ 31)) (min (2 ^ 31 - 1) c.val)), decide (c.val < -(2 ^ 31) ∨ 2 ^ 31 - 1 < c.val)) := by
  by_cases h0 : c.val = 0
  · have hn : c.num.scaled (f32 one32) = .fin (decide (c.val < 0)) 0 0 := by simp [Cell.num, hs, h0, f32_one32, Num.scaled]
    rw [hn]
    exact roundInt_saturates (by simp [h0, roundSteps])
  · have hn : c.num.scaled (f32 one32) = .fin (decide (c.val < 0)) (c.val.natAbs * 2 ^ 23) (-23) := by
      simp [Cell.num, hs, hb, h0, f32_one32, Num.ofInt, Num.scaled, Num.mul]
    rw [hn]
    exact roundInt_saturates (roundSteps_whole (j := 23))

/-- The element of an exact cell without C in the INT32 format (R85). -/
theorem exactElem_int32 (ho : f.ofmt = 4) (ha : f.acc = false) :
    exactElem k f u m n c = { words := [(roundInt 32 true f.rnd u (c.num.scaled (f32 f.dscale))).1],
                              sat := (roundInt 32 true f.rnd u (c.num.scaled (f32 f.dscale))).2, inexact := c.lost } := by
  simp [exactElem, ho, ha, outRound]

theorem exactCell_int8 (hf : f.fmt = 4) : exactCell f p m n = int8Cell f p m n := if_pos hf

end

/-- Settles O24. The accumulator holds the sum itself, at weight 1 and without specials, so its conversion only saturates. -/
theorem int8CellsAreSums : Obligations.Int8CellsAreSums := by
  intro k f p u m n x hf ho ha hd hx
  have hr := roundInt_cell (c := int8Cell f p m n) (rnd := f.rnd) (u := u) rfl rfl
  rw [exactCell_int8 hf, exactElem_int32 ho ha, hd, hr, ← hx]
  exact ⟨rfl, rfl⟩

end Sys2Proof.Machine

/-! SUPPORT. The end of an elementwise VEC attempt without physical errors (R115, R123, R139, R144): no check sees an error, so the
descriptor completes with code 0 over the words of its elements. -/

namespace Sys2Proof.Machine

/-! ## What events, waits, tiles and poison marks of a core leave: its engine registers -/

section
variable {k j old : Core} {e : Eng}

@[simp] theorem setEng_regs {g : Engine} : (k.setEng e g).regs = k.regs := by cases e <;> rfl
@[simp] theorem setEvent_regs {x : Nat} {v : Bool} : (k.setEvent x v).regs = k.regs := rfl
@[simp] theorem setStat_regs {bit : Nat} : (k.setStat bit).regs = k.regs := rfl

@[simp] theorem testHead_regs : (testHead old k e).regs = k.regs := by
  rcases testHead_cases old k e with h | h | ⟨x, h⟩ <;> simp [h]

@[simp] theorem settleSq_regs : k.settleSq.regs = k.regs := by
  unfold Core.settleSq
  split
  · split
    · split <;> rfl
    · rfl
  · rfl

@[simp] theorem settleWaits_regs : k.settleWaits.regs = k.regs := by
  rw [settleWaits_eq]
  exact testHeads_induction (p := fun j => j.regs = k.regs) (fun _ _ h => testHead_regs.trans h) settleSq_regs

@[simp] theorem fenceClose_regs : (fenceClose k).regs = k.regs := by
  unfold fenceClose
  split
  · split <;> rfl
  · rfl

@[simp] theorem popRun_regs : (popRun e k).regs = k.regs := setEng_regs

@[simp] theorem setSev_regs {r : Run} : (setSev r k).regs = k.regs := by
  unfold setSev
  split
  · exact settleWaits_regs
  · rfl

/-- A completion writes no register; its engine's status does (R50). -/
@[simp] theorem completedCore_regs {r : Run} {code : Nat} {inexact : Bool} : (completedCore e r code inexact k).regs = k.regs := by
  simp [completedCore, apply_ite Core.regs]

@[simp] theorem writeTiles_regs {ws : List (Nat × Nat × Nat × Word)} : (writeTiles ws k).regs = k.regs :=
  List.foldlRecOn (motive := fun j : Core => j.regs = k.regs) ws _ rfl fun _ h _ _ => h

@[simp] theorem settleTiles_regs {ts : List Nat} {code : Nat} {whole : Bool} : (settleTiles ts code whole k).regs = k.regs := by
  obtain ⟨b, h⟩ := settleTiles_poisonOnly (k := k) (ts := ts) (code := code) (whole := whole)
  rw [h]

/-! ## The status registers of the vector engine (R144) -/

theorem veStatus_sameWork {paired : Bool} {a : Attempt} : SameWork k (veStatus paired a k) := by
  unfold veStatus
  exact .opt (.opt (.opt setReg_sameWork bump_sameWork) bump_sameWork) bump_sameWork

/-- A status without an error counts none. -/
theorem veStatus_ok {paired : Bool} {a : Attempt} (hc : a.code = 0) : veStatus paired a k =
    k.setReg 0x50 (256 * b2n a.sat + 1024 * a.verdict + 4096 * b2n paired + 65536 * ((fld (k.reg 0x50) 16 16 + 1) % 65536)) := by
  simp [veStatus, hc]

theorem veStatus_ok_regs_congr {paired : Bool} {a : Attempt} (hc : a.code = 0) (h : j.regs = k.regs) :
    (veStatus paired a j).regs = (veStatus paired a k).regs := by
  simp only [veStatus_ok hc, Core.setReg, Core.reg, h]

end

/-! ## The outcome of an elementwise attempt -/

/-- The words an elementwise descriptor writes: for each element its place in D (tile, row, column) and its result (R115, R123). -/
def elementWords (s : State) (k : Core) (v : Vec) : List (Nat × Nat × Nat × Word) :=
  v.grid.map fun p => ((v.pos v.d p.1 p.2).2 / 128, (v.pos v.d p.1 p.2).1, (v.pos v.d p.1 p.2).2 % 128,
    (vecElem v (v.draw s p.1 p.2) (v.src k v.a p.1 p.2) (if v.usesB then v.src k v.b p.1 p.2 else 0)
      (if v.usesC then v.src k v.c p.1 p.2 else 0)).1)

section
variable {s : State} {k : Core} {v : Vec} {c : Nat} {o : VOut} {outs : List VOut} {paired : Bool}

theorem laneErr_nil : laneErr [] o = 0 := rfl

/-- No check sees an error where there is none (R138, R139). -/
theorem caught_nil : outs.filter (caught paired []) = [] := List.filter_eq_nil_iff.mpr fun _ _ => Bool.false_ne_true

/-- Nothing is left open where no region of a source meets D (R142). -/
theorem spoil_without_overlaps (h : v.overlaps k = []) : spoil v k outs s = (outs, s) := by
  rw [spoil, h]
  rfl

theorem stateErr_elementwise (h : (v.hasState || v.isFin) = false) : v.stateErr k = false := by
  simp only [Vec.hasState, Bool.or_eq_false_iff] at h
  obtain ⟨⟨⟨⟨⟨hred, -⟩, -⟩, -⟩, -⟩, hfin⟩ := h
  simp [Vec.stateErr, hred, hfin]

theorem vecOuts_elementwise (h : (v.hasState || v.isFin) = false) : vecOuts s k v = elemOuts s k v := by
  simp only [Vec.hasState, Bool.or_eq_false_iff] at h
  obtain ⟨⟨⟨⟨⟨hred, hcmpr⟩, hexpd⟩, hscan⟩, hrec⟩, hfin⟩ := h
  simp [vecOuts, hred, hcmpr, hexpd, hscan, hrec, hfin]

/-- The words of an attempt without errors are those of its elements. -/
theorem elemOuts_words : ((elemOuts s k v).1.map fun o =>
    (o.pos.2 / 128, o.pos.1, o.pos.2 % 128, o.w + BitVec.ofInt 32 (laneErr [] o))) = elementWords s k v := by
  simp [elemOuts, elementWords, laneErr_nil, Function.comp_def]

/-- An elementwise attempt without overlap, poison or a physical error ends with code 0 over its elements' words, and no value of it
is left open (R123, R139, R142). -/
theorem vecAttempt_elementwise (hst : (v.hasState || v.isFin) = false) (hov : v.overlaps (s.core c) = [])
    (hpois : (v.reads (s.core c)).any (s.core c).tilePois = false) :
    vecAttempt s c v [] false = ({ sat := (elemOuts s (s.core c) v).2, words := elementWords s (s.core c) v,
                                   verdict := if v.paired s then 2 else if v.residue then 1 else 0 }, s) := by
  simp only [vecAttempt, stateErr_elementwise hst, vecOuts_elementwise hst, spoil_without_overlaps hov, caught_nil, hpois, elemOuts_words,
    Bool.false_eq_true, if_false]

end

/-! ## Its completion -/

/-- A core with the outputs of a VEC attempt that ended with code 0 written (R196). -/
def vecOut (v : Vec) (a : Attempt) (k : Core) : Core := settleTiles (v.d.rect v.eo v.nr v.vl).tiles 0 v.whole (writeTiles a.words k)

section
variable {s : State} {k : Core} {v : Vec} {c : Nat} {r : Run} {a : Attempt} {errs : List CellErr} {parity : Bool}

theorem vecOut_tiles : (vecOut v a k).tiles = (writeTiles a.words k).tiles := settleTiles_tiles
theorem vecOut_eng {e : Eng} : (vecOut v a k).eng e = k.eng e := settleTiles_eng.trans writeTiles_eng
theorem vecOut_regs : (vecOut v a k).regs = k.regs := settleTiles_regs.trans writeTiles_regs

/-- A VEC attempt that ends with code 0 and used no free value completes its descriptor. -/
theorem vecFinish_completes (hv : r.vcode = 0) (ha : vecAttempt s c (vecOf r.desc) errs parity = (a, s)) (hc : a.code = 0) :
    vecFinish c r errs parity s = finished .ve c r a (vecOut (vecOf r.desc) a) (veStatus ((vecOf r.desc).paired s) a) s := by
  have hfault : isCheckFault a.code = false := by rw [hc]; rfl
  unfold vecFinish
  simp only [hv, ha, hc, ne_eq, not_true, if_false, if_true, show ¬(0 = 6) by decide]
  change endAttempt _ _ _ _ _ (s.modCore c (vecOut (vecOf r.desc) a)) = _
  exact endAttempt_completes hfault

theorem exec_vecComplete (hh : headRun .ve c s = some r) (hp : r.phase = .running) :
    exec (.vecComplete c errs parity) s = .next (vecFinish c r errs parity s) := by
  show execVecComplete c errs parity s = _
  simp only [execVecComplete, hh, hp, if_true]

/-- The core whose attempt has completed. -/
theorem finished_core {e : Eng} {w st : Core → Core} (h : c < s.cores.length) :
    (finished e c r a w st s).core c = st (completedCore e r a.code a.inexact (w (s.core c))) := by
  rw [State.core, finished_cores]
  exact core_modCore_same h

end

/-- Settles O25. The attempt ends with code 0 over its elements' words; its completion adds the status and takes the descriptor off. -/
theorem elementwiseCompletes : Obligations.ElementwiseCompletes := by
  intro s c r hcl hh hv hp _ hst hov hpois
  have hatt := vecAttempt_elementwise hst hov hpois
  rw [exec_vecComplete hh hp, vecFinish_completes hv hatt rfl, hatt]
  refine ⟨_, rfl, ?run, ?tiles, ?regs, finished_mem, fun d hd => finished_core_other hd⟩
  case run =>
    refine ((finished_core_same (fun _ => veStatus_sameWork) hcl).runs .ve).trans ?_
    rw [popRun_runs, vecOut_eng]
    rfl
  case tiles =>
    refine (finished_core_same (fun _ => veStatus_sameWork) hcl).tiles.trans ?_
    rw [popRun_tiles, vecOut_tiles]
    rfl
  case regs =>
    rw [finished_core hcl]
    exact veStatus_ok_regs_congr rfl (completedCore_regs.trans vecOut_regs)

end Sys2Proof.Machine

/-! SUPPORT. Integer and bit element operations on INT32 words (R123, R124): a word's signed value, the exact results that fit it. -/

namespace Sys2Proof.Machine

section
variable {v : Vec} {draw : Nat → Nat} {a b c : Word} {opc : Nat} {r x y : Int}

/-! ## Values of INT32 words -/

theorem sx_toNat : sx 32 a.toNat = a.toInt := by
  rw [sx, BitVec.toInt_eq_toNat_cond, Nat.mod_eq_of_lt a.isLt]
  split <;> split <;> omega

theorem intVal_int32 : intVal 3 a = a.toInt := rfl

theorem veNum_int32 {h : Nat} : veNum 3 h a = Num.ofInt a.toInt 0 := by
  rw [← sx_toNat]
  rfl

theorem sgn_natAbs : sgn (decide (x < 0)) x.natAbs = x := by
  simp only [sgn, decide_eq_true_eq]
  omega

/-- Whole values compare as integers. -/
theorem lt_ofInt : (Num.ofInt x 0).lt (Num.ofInt y 0) = decide (x < y) := by
  simp [Num.ofInt, Num.lt, sgn_natAbs]

/-- The lowest INT32 value is the one whose opposite does not fit. -/
theorem toInt_ne_min (h : a ≠ 0x80000000) : a.toInt ≠ -(2 ^ 31) := fun he =>
  h (BitVec.eq_of_toInt_eq (he.trans (by decide)))

/-! ## Integer results -/

/-- A result that fits INT32 is exact (R123). -/
theorem intFit_int32 (hlo : -(2 ^ 31) ≤ r) (hhi : r < 2 ^ 31) : intFit opc 3 a b r = BitVec.ofInt 32 r := by
  simp only [intFit, if_true, decide_eq_true hlo, decide_eq_true hhi, Bool.and_self]

theorem intElem_add (hlo : -(2 ^ 31) ≤ a.toInt + b.toInt) (hhi : a.toInt + b.toInt < 2 ^ 31) : intElem 0x01 3 a b = a + b := by
  simp only [intElem, intVal_int32]
  rw [intFit_int32 hlo hhi, BitVec.ofInt_add, BitVec.ofInt_toInt, BitVec.ofInt_toInt]

theorem ofInt_neg_toInt : BitVec.ofInt 32 (-a.toInt) = -a := by
  rw [BitVec.ofInt_neg, BitVec.ofInt_toInt]

theorem intElem_sub (hlo : -(2 ^ 31) ≤ a.toInt - b.toInt) (hhi : a.toInt - b.toInt < 2 ^ 31) : intElem 0x02 3 a b = a - b := by
  simp only [intElem, intVal_int32]
  rw [intFit_int32 hlo hhi, Int.sub_eq_add_neg, BitVec.ofInt_add, ofInt_neg_toInt, BitVec.ofInt_toInt, BitVec.sub_eq_add_neg]

theorem intElem_mul : intElem 0x03 3 a b = a * b := by
  simp only [intElem, intVal_int32]
  rw [BitVec.ofInt_mul, BitVec.ofInt_toInt, BitVec.ofInt_toInt]

theorem intElem_min : intElem 0x05 3 a b = if a.sle b then a else b := by
  by_cases hle : a.toInt ≤ b.toInt <;> simp [intElem, intVal_int32, BitVec.sle_iff_toInt_le, hle]

theorem intElem_max : intElem 0x06 3 a b = if a.sle b then b else a := by
  by_cases hle : a.toInt ≤ b.toInt <;> simp [intElem, intVal_int32, BitVec.sle_iff_toInt_le, hle]

theorem intElem_neg (h : a ≠ 0x80000000) : intElem 0x08 3 a b = -a := by
  have hne := toInt_ne_min h
  have hlo := a.le_toInt
  have hhi := a.toInt_lt
  simp only [intElem, intVal_int32]
  rw [intFit_int32 (by omega) (by omega), ofInt_neg_toInt]

theorem intElem_abs (h : a ≠ 0x80000000) : intElem 0x07 3 a b = if a.slt 0 then -a else a := by
  have hne := toInt_ne_min h
  have hlo := a.le_toInt
  have hhi := a.toInt_lt
  have hslt : a.slt 0 = decide (a.toInt < 0) := by
    rw [BitVec.slt_eq_decide, BitVec.ofNat_eq_ofNat, BitVec.toInt_zero]
  have habs : (a.toInt.natAbs : Int) = if a.toInt < 0 then -a.toInt else a.toInt := by omega
  simp only [intElem, intVal_int32]
  rw [intFit_int32 (by omega) (by omega), habs, hslt]
  by_cases hneg : a.toInt < 0
  · rw [if_pos hneg, if_pos (decide_eq_true hneg), ofInt_neg_toInt]
  · rw [if_neg hneg, if_neg (by simpa using hneg), BitVec.ofInt_toInt]

/-! ## Elements of a VEC descriptor on INT32 words -/

/-- On INT32 words the arithmetic codes, below 0x10, and the bit codes, 0x18 to 0x1F, take their element from `intElem` (R123). -/
theorem vecElem_int32 (hdt : v.dt = 3) (ho : v.opc = opc) (hc : opc < 0x10 ∨ 0x18 ≤ opc ∧ opc < 0x20) :
    vecElem v draw a b c = (intElem opc 3 a b, false) := by
  subst ho
  unfold vecElem
  split <;> simp_all [isFP]

/-- CMP of INT32 words for "less": 1 or 0 (R124). -/
theorem vecElem_less (hdt : v.dt = 3) (ho : v.opc = 0x10) (hc : v.cond = 2) :
    vecElem v draw a b c = (if a.slt b then 1 else 0, false) := by
  have hlt : cmpHolds 2 (veNum 3 0 a) (veNum 3 0 b) = a.slt b := by
    rw [veNum_int32, veNum_int32, BitVec.slt_eq_decide]
    exact lt_ofInt
  simp only [vecElem, perHalf, ho, hdt, hc, hlt]
  cases a.slt b <;> rfl

/-- SEL of INT32 words: the mask is true where it is not zero (R124). -/
theorem vecElem_select (hdt : v.dt = 3) (ho : v.opc = 0x11) : vecElem v draw a b c = (if b = 0 then c else a, false) := by
  by_cases hb : b = 0 <;> simp [vecElem, ho, hdt, heldWord, maskTrue, hb]

theorem vecElem_copy (hdt : v.dt = 3) (ho : v.opc = 0x24) : vecElem v draw a b c = (a, false) := by
  simp [vecElem, ho, hdt, heldWord]

end

/-- Settles O26. An operation with a result that may not fit, or with a choice, by the lemma on its element; the bit operations and the
shifts, with the count that `intElem` reduces modulo 32, are those of `BitVec`. -/
theorem integerElements : Obligations.IntegerElements := by
  intro v draw a b c hdt
  refine ⟨fun ho hlo hhi => ?add, fun ho hlo hhi => ?sub, fun ho => ?mul, fun ho => ?min, fun ho => ?max, fun ho ha => ?abs,
    fun ho ha => ?neg, vecElem_less hdt, vecElem_select hdt, fun ho => ?and, fun ho => ?or, fun ho => ?xor, fun ho => ?not,
    fun ho => ?shl, fun ho => ?shr, fun ho => ?sar, vecElem_copy hdt⟩
  case add => rw [vecElem_int32 hdt ho (by decide), intElem_add hlo hhi]
  case sub => rw [vecElem_int32 hdt ho (by decide), intElem_sub hlo hhi]
  case mul => rw [vecElem_int32 hdt ho (by decide), intElem_mul]
  case min => rw [vecElem_int32 hdt ho (by decide), intElem_min]
  case max => rw [vecElem_int32 hdt ho (by decide), intElem_max]
  case abs => rw [vecElem_int32 hdt ho (by decide), intElem_abs ha]
  case neg => rw [vecElem_int32 hdt ho (by decide), intElem_neg ha]
  all_goals exact vecElem_int32 hdt ho (by decide)

end Sys2Proof.Machine

/-! SUPPORT. Tallies (R186 to R190): a tally is a sum modulo 2^64 of contributions, and a narrow contribution, for its index, determines
the bits of its element. -/

namespace Sys2Proof.Machine

/-! ## Sums of contributions -/

theorem tallyOf_append {wide : Bool} {a b : List (Nat × Nat)} :
    tallyOf wide (a ++ b) = (tallyOf wide a + tallyOf wide b) % 2 ^ 64 := by
  simp only [tallyOf, m64, List.map_append, List.sum_append]
  exact Nat.add_mod ..

theorem tallyOf_perm {wide : Bool} {a b : List (Nat × Nat)} (h : a.Perm b) : tallyOf wide a = tallyOf wide b := by
  simp only [tallyOf, (h.map fun x => mix x.1 x.2 wide).sum_nat]

theorem tallyOf_lt {wide : Bool} {a : List (Nat × Nat)} : tallyOf wide a < 2 ^ 64 := Nat.mod_lt _ (by decide)

/-- A row of a MOVE tallies the bits of its elements at their logical indices (R188, R258). -/
theorem tallyRow_eq_tallyOf {fmt base : Nat} {xs : List Nat} (h : isMx fmt = false) :
    tallyRow fmt base xs [] = tallyOf (fmt == 9) (xs.zipIdx.map fun x => (m64 (base + x.2), x.1)) := by
  simp [tallyRow, tallyOf, h, Function.comp_def]

/-- Settles O30. Addition modulo 2^64 is associative and commutative, and a row's elements contribute one by one. -/
theorem talliesAdd : Obligations.TalliesAdd := fun _ _ _ =>
  ⟨tallyOf_append, tallyOf_perm, tallyOf_lt, fun _ _ _ => tallyRow_eq_tallyOf⟩

/-! ## The steps of the mixing function (R186) -/

theorem xor_left_cancel {c x y : Nat} (h : c ^^^ x = c ^^^ y) : x = y := by
  have cancel : ∀ z, c ^^^ (c ^^^ z) = z := fun z => by rw [← Nat.xor_assoc, Nat.xor_self, Nat.zero_xor]
  rw [← cancel x, h, cancel]

/-- A number folded onto itself by a right shift is determined: its higher part is, shift by shift. -/
theorem xorShift_injective {k : Nat} (hk : 0 < k) {x y : Nat} (h : x ^^^ (x >>> k) = y ^^^ (y >>> k)) : x = y := by
  induction x using Nat.strongRecOn generalizing y with
  | _ x ih =>
    have shorter : ∀ z, 0 < z → z >>> k < z := fun z hz => by
      rw [Nat.shiftRight_eq_div_pow]
      exact Nat.div_lt_self hz (Nat.one_lt_two_pow (Nat.ne_of_gt hk))
    rcases Nat.eq_zero_or_pos x with rfl | hx
    · rcases Nat.eq_zero_or_pos y with rfl | hy
      · rfl
      · rw [Nat.zero_shiftRight, Nat.xor_self, ← Nat.xor_self y] at h
        exact absurd (xor_left_cancel h) (Nat.ne_of_gt (shorter y hy))
    · have high : x >>> k = y >>> k := ih _ (shorter x hx) (by rw [← Nat.shiftRight_xor_distrib, h, Nat.shiftRight_xor_distrib])
      rw [high, Nat.xor_comm x, Nat.xor_comm y] at h
      exact xor_left_cancel h

theorem xorShift_lt {k x : Nat} (h : x < 2 ^ 64) : x ^^^ (x >>> k) < 2 ^ 64 :=
  Nat.xor_lt_two_pow h (Nat.lt_of_le_of_lt (Nat.shiftRight_le x k) h)

/-- Multiplication by a constant with an inverse `d` can be undone modulo 2^64. -/
theorem m64_mul_injective {c x y : Nat} (d : Nat) (hd : c * d % 2 ^ 64 = 1) (hx : x < 2 ^ 64) (hy : y < 2 ^ 64)
    (h : m64 (x * c) = m64 (y * c)) : x = y := by
  have undo : ∀ z < 2 ^ 64, m64 (m64 (z * c) * d) = z := fun z hz => by
    rw [m64, m64, Nat.mod_mul_mod, Nat.mul_assoc, Nat.mul_mod, hd, Nat.mul_one, Nat.mod_mod, Nat.mod_eq_of_lt hz]
  rw [← undo x hx, h, undo y hy]

theorem m64_lt {x : Nat} : m64 x < 2 ^ 64 := Nat.mod_lt _ (by decide)

theorem fmix_lt {x : Nat} : fmix x < 2 ^ 64 := xorShift_lt m64_lt

theorem fmix_injective {x y : Nat} (hx : x < 2 ^ 64) (hy : y < 2 ^ 64) (h : fmix x = fmix y) : x = y := by
  have second := xorShift_injective (by decide) h
  have middle := xorShift_injective (by decide)
    (m64_mul_injective 0x36B6D07298536E85 (by decide) (xorShift_lt m64_lt) (xorShift_lt m64_lt) second)
  exact xorShift_injective (by decide)
    (m64_mul_injective 0xA3105C13AB16B4A3 (by decide) (xorShift_lt hx) (xorShift_lt hy) middle)

/-- Settles O31. The index only masks the bits, and both mixing functions are injective on doubles. -/
theorem tallySeesAChange : Obligations.TallySeesAChange := by
  intro i u v hu hv h
  simp only [mix, Bool.false_eq_true, if_false, m64, Nat.mod_eq_of_lt hu, Nat.mod_eq_of_lt hv] at h
  exact xor_left_cancel (fmix_injective (Nat.xor_lt_two_pow fmix_lt hu) (Nat.xor_lt_two_pow fmix_lt hv) h)

end Sys2Proof.Machine

/-! SUPPORT. Attempts after a failed one (R198, R200, R201, R204): where an engine may start one, the in-place retry and the proxy attempt
begin. -/

namespace Sys2Proof.Machine

section
variable {e : Eng} {c : Nat} {r : Run} {s : State}

theorem mayStartAttempt_of_credit (hc : 0 ≤ ((s.core c).eng e).credit) (h1 : s.power.tripping = false) (h2 : s.power.tripped = false) :
    mayStartAttempt e c s = true := by
  simp [mayStartAttempt, hc, h1, h2]

theorem retryInPlace_failedTry (hh : headRun e c s = some r) (hp : r.phase = .failedTry) (hm : mayStartAttempt e c s = true) :
    retryInPlace c e s = s.modCore c (setHeadRun e { r with phase := .running, attempt := r.attempt + 1 }) := by
  rw [retryInPlace, hh]
  exact if_pos ⟨hp, hm⟩

theorem retryProxy_oldest {site : Nat} {done : Run → State → State} (hh : headRun e c s = some r) (hp : r.phase = .proxyQueued)
    (hm : mayStartAttempt e c s = true) (hs : proxySite s (dieOf s c) = some site)
    (hq : s.proxyReqs.find? (fun q => dieOf s q.1 == dieOf s c) = some (c, engNum e)) :
    retryProxy c e done s = s.modCore c (setHeadRun e { r with phase := .proxyRun site }) := by
  simp [retryProxy, hh, hp, hs, hq, hm]

end

/-- Settles O22. With credit and no trip the engine may start, and the head of its running descriptors changes its phase alone. -/
theorem retries : Obligations.Retries := by
  intro s c e r hh h1 h2
  refine ⟨fun hp hc => ?inPlace, fun site hp hc hs hq => ?proxy⟩
  case inPlace =>
    have hm := mayStartAttempt_of_credit hc h1 h2
    show execInPlaceRetry c e s = _
    rw [execInPlaceRetry, retryInPlace_failedTry hh hp hm]
    rfl
  case proxy =>
    have hm := mayStartAttempt_of_credit hc h1 h2
    show execProxyRetry c e s = _
    rw [execProxyRetry, retryProxy_oldest hh hp hm hs hq]
    rfl

end Sys2Proof.Machine

/-! SUPPORT. The checking policy (R205): its rows of the object table, the verdict on a write to one, and its digest. -/

namespace Sys2Proof.Machine

/-! ## The rows -/

/-- Each entry has a row that a master writes in PreOp only, with the entry's size, default and range. -/
theorem policy_rows : ∀ e ∈ policyEntries,
    findObj 0x2700 e.1 = some (.flag 0x2700 e.1 e.2.2.1 .stored .preop) ∧ e.2.1 = 1 ∧ e.2.2.2 = (0, 1) ∨
    findObj 0x2700 e.1 = some (.rng 0x2700 e.1 e.2.1 e.2.2.1 e.2.2.2.1 e.2.2.2.2 .stored .preop) := by
  decide +kernel

theorem odGet_reset_policy : ∀ e ∈ policyEntries, odGet State.reset 0x2700 e.1 = e.2.2.1 := by decide +kernel

theorem findObj_policy_top : findObj 0x2700 0 = some (.top 0x2700 0x2700 9) := by decide +kernel

theorem findObj_policy_digest : findObj 0x2700 9 = some (.fixed 0x2700 9 9 (.dom 32)) := by decide +kernel

theorem hasIndex_policy : hasIndex 0x2700 = true := by decide +kernel

theorem setsOnly_policy : ∀ e ∈ policyEntries, SetsOnly 0x2700 e.1 := by
  unfold SetsOnly Addrs.has
  decide +kernel

section
variable {m : Master} {i u d lo hi n : Nat} {b : List Byte} {s : State} {o : Obj} {e : Nat × Nat × Nat × Nat × Nat}

/-! ## The verdict on a write -/

theorem valueOk_policy_rng :
    valueOk (.rng 0x2700 u n d lo hi .stored .preop) 0x2700 u b s = (decide (lo ≤ ofLE b) && decide (ofLE b ≤ hi)) := by
  simp [valueOk, Obj.rng]

theorem valueOk_policy_flag : valueOk (.flag 0x2700 u d .stored .preop) 0x2700 u b s = decide (ofLE b ≤ 1) := by
  simp [valueOk, Obj.flag]

/-- In PreOp an object without further rules of its own takes the values in its range. -/
theorem odCheck_preop (hi : hasIndex i = true) (hf : findObj i u = some o) (hh : hidden m o = false) (ha : o.acc = .rw)
    (hl : b.length = o.ty.size) (hw : o.wh = .preop) (hs : s.mgmt.al = 2) (hm : i ≠ 0x1A00) (ho : ownerRule m i u b s = true)
    (hc : creates i u = false) : odCheck m i u b s = if valueOk o i u b s = false then 0x06090030 else 0 := by
  have hst : stateOk o i u b s = true := by simp [stateOk, hw, hs]
  simp [odCheck, hi, hf, hh, ha, hl, hst, hm, ho, hc]

/-- What the verdict on a write to an entry turns on. -/
theorem findObj_policy (he : e ∈ policyEntries) : ∃ o, findObj 0x2700 e.1 = some o ∧ o.acc = .rw ∧ o.wh = .preop ∧ o.ty.size = e.2.1 ∧
    (∀ m, hidden m o = false) ∧
    ∀ b s, valueOk o 0x2700 e.1 b s = (decide (e.2.2.2.1 ≤ ofLE b) && decide (ofLE b ≤ e.2.2.2.2)) := by
  obtain ⟨hf, hn, hr⟩ | hf := policy_rows e he
  · exact ⟨_, hf, rfl, rfl, hn.symm, fun _ => rfl, fun b s => by simp [valueOk_policy_flag, hr]⟩
  · exact ⟨_, hf, rfl, rfl, rfl, fun _ => rfl, fun b s => valueOk_policy_rng⟩

theorem odCheck_policy_preop (hf : findObj 0x2700 u = some o) (ha : o.acc = .rw) (hw : o.wh = .preop) (hh : hidden m o = false)
    (hl : b.length = o.ty.size) (hs : s.mgmt.al = 2) :
    odCheck m 0x2700 u b s = if valueOk o 0x2700 u b s = false then 0x06090030 else 0 :=
  odCheck_preop hasIndex_policy hf hh ha hl hw hs (by decide) rfl rfl

/-! ## Accesses -/

theorem exec_checkPolicyWrite : exec (.checkPolicyWrite m u b) s = .next (dictWrite m 0x2700 u b s) := rfl

theorem exec_checkPolicyWrite_readOnly (hr : reaches m s = true) (hf : findObj 0x2700 u = some o) (hh : hidden m o = false)
    (ha : o.acc = .ro) : exec (.checkPolicyWrite m u b) s = .next (setResp m 0x06010002 [] s) := by
  have hc := odCheck_readOnly (b := b) (s := s) hasIndex_policy hf hh ha
  rw [exec_checkPolicyWrite, dictWrite_refused hr hf hh (by rw [hc]; decide), hc]

theorem computed_policy : ∀ e ∈ policyEntries, computed m s 0x2700 e.1 = none := by
  simp only [policyEntries, List.forall_mem_cons, List.not_mem_nil, false_imp_iff, implies_true, and_true]
  exact ⟨rfl, rfl, rfl, rfl, rfl, rfl, rfl, rfl⟩

theorem policyDigest_eq : policyDigest s = shake256 (policyEntries.flatMap fun e => leBytes e.2.1 (odGet s 0x2700 e.1)) 32 := rfl

theorem exec_read_policy (hr : reaches m s = true) (he : e ∈ policyEntries) :
    exec (.sdoRequest m false false 0x2700 e.1 []) s = .next (setResp m 0 (leBytes e.2.1 (odGet s 0x2700 e.1)) s) := by
  obtain ⟨o, hf, ha, -, hn, hh, -⟩ := findObj_policy he
  rw [exec_read_present hr hasIndex_policy hf (hh m) (by simp [ha]), computed_policy e he, hn]
  rfl

end

/-- Settles O60. A write to an entry passes every check of R397 but those of its state and of its range. -/
theorem checkPolicy : Obligations.CheckPolicy := by
  refine ⟨odGet_reset_policy, fun m s b hr => ⟨fun e he => ?_, fun u hu => ?readOnly, fun hd => ?top, ?digest⟩⟩
  · obtain ⟨o, hf, ha, hw, hn, hh, hv⟩ := findObj_policy he
    refine ⟨fun hs hl => ?otherState, fun hs hl hlo hhi => ?inRange, fun hs hl hout => ?outOfRange, exec_read_policy hr he⟩ <;>
      rw [exec_checkPolicyWrite]
    case otherState =>
      have hc := odCheck_not_preop hasIndex_policy hf (hh m) ha (hl.trans hn.symm) hw hs
      rw [dictWrite_refused hr hf (hh m) (by rw [hc]; decide), hc]
    case inRange =>
      have hc : odCheck m 0x2700 e.1 b s = 0 := by
        rw [odCheck_policy_preop hf ha hw (hh m) (hl.trans hn.symm) hs, hv]
        simp [hlo, hhi]
      exact congrArg _ (dictWrite_setsOnly hr hf (hh m) (setsOnly_policy e he) hc)
    case outOfRange =>
      have hc : odCheck m 0x2700 e.1 b s = 0x06090030 := by
        rw [odCheck_policy_preop hf ha hw (hh m) (hl.trans hn.symm) hs, hv]
        exact if_pos (by simp only [Bool.and_eq_false_iff, decide_eq_false_iff_not]; omega)
      rw [dictWrite_refused hr hf (hh m) (by rw [hc]; decide), hc]
  case readOnly =>
    obtain rfl | rfl := hu
    · exact exec_checkPolicyWrite_readOnly hr findObj_policy_top rfl rfl
    · exact exec_checkPolicyWrite_readOnly hr findObj_policy_digest rfl rfl
  case top =>
    have h9 : odGet s 0x2700 0 = 9 := by
      rw [odGet, hd]
      decide +kernel
    rw [exec_read_present hr hasIndex_policy findObj_policy_top rfl (by decide), h9]
    rfl
  case digest =>
    rw [exec_read_present hr hasIndex_policy findObj_policy_digest rfl (by decide), ← policyDigest_eq]
    rfl

end Sys2Proof.Machine

/-! SUPPORT. What traffic, reports and the ends of operations leave alone: memory, the fleet's records, the security state, and whether a
recovery image waits for its verdict. -/

namespace Sys2Proof.Machine

/-- From `s` to `t` these stand; queues, ports, groups, operations, handles and what is told of them may change. -/
structure Undisturbed (s t : State) : Prop where
  mem : t.mem = s.mem
  fleet : t.fleet = s.fleet
  sec : t.sec = s.sec
  recovering : t.mgmt.recovering = s.mgmt.recovering

namespace Undisturbed

variable {s t u : State}

theorem refl : Undisturbed s s := ⟨rfl, rfl, rfl, rfl⟩

theorem trans (h : Undisturbed s t) (k : Undisturbed t u) : Undisturbed s u :=
  ⟨k.mem.trans h.mem, k.fleet.trans h.fleet, k.sec.trans h.sec, k.recovering.trans h.recovering⟩

/-- The same, the later step first: from it the state between is known. -/
theorem after (k : Undisturbed t u) (h : Undisturbed s t) : Undisturbed s u := h.trans k

theorem ite {c : Prop} [Decidable c] (h : c → Undisturbed s t) (k : ¬c → Undisturbed s u) : Undisturbed s (if c then t else u) := by
  split
  · exact h ‹_›
  · exact k ‹_›

theorem foldl {α : Type} {f : State → α → State} {l : List α} (h : ∀ t a, Undisturbed t (f t a)) : Undisturbed s (l.foldl f s) :=
  List.foldlRecOn l f (motive := Undisturbed s) refl fun t ht a _ => ht.trans (h t a)

end Undisturbed

section
variable {s : State} {g h p n : Nat} {o : CollOp} {k : Packet} {w : Wait} {f : Flow}

/-! ## Reports (R203, R206, R398) -/

theorem odInc_undisturbed {i v : Nat} : Undisturbed s (odInc i p n v s) := ⟨rfl, rfl, rfl, rfl⟩

theorem emcy_undisturbed {code : Nat} {bytes : List Nat} : Undisturbed s (emcy code bytes s) := by
  unfold emcy emcySend
  split
  · split <;> exact ⟨rfl, rfl, rfl, rfl⟩
  · split <;> exact ⟨rfl, rfl, rfl, rfl⟩

theorem settleAl_undisturbed : Undisturbed s (settleAl s) := by
  unfold settleAl
  split
  · exact .ite (fun _ => .refl) fun _ => ⟨rfl, rfl, rfl, rfl⟩
  · exact .refl

theorem setHandle_undisturbed {st result : Nat} : Undisturbed s (setHandle h st result s) := by
  have hm : Undisturbed s (s.modHandle h fun x =>
      { x with state := st, result := if st = 7 ∨ st = 8 then result else 0xFFFF,
               ended := if decide (st = 7 ∨ st = 8 ∨ st = 9) then calendar s else x.ended }) := ⟨rfl, rfl, rfl, rfl⟩
  exact .ite (fun _ => hm.trans (emcy_undisturbed.trans settleAl_undisturbed)) fun _ => hm

theorem setPState_undisturbed : Undisturbed s (setPState n s) :=
  .ite (fun _ => .refl) fun _ => emcy_undisturbed.after ⟨rfl, rfl, rfl, rfl⟩

/-! ## Handles, groups and operations that end (R344, R391, R412, R474) -/

theorem partnerLost_undisturbed : Undisturbed s (partnerLost h n s) := by
  unfold partnerLost
  split
  · exact .ite (fun _ => setHandle_undisturbed.trans emcy_undisturbed) fun _ => .refl
  · exact .refl

theorem endLaunch_undisturbed {st result : Nat} : Undisturbed s (endLaunch h st result s) :=
  setHandle_undisturbed.after (.ite (fun _ => ⟨rfl, rfl, rfl, rfl⟩) fun _ => ⟨rfl, rfl, rfl, rfl⟩)

theorem failLaunches_undisturbed : Undisturbed s (failLaunches s) :=
  .foldl fun _ _ => .ite (fun _ => .refl) fun _ => .ite (fun _ => endLaunch_undisturbed) fun _ =>
    .ite (fun _ => endLaunch_undisturbed) fun _ => .refl

theorem endOp_undisturbed : Undisturbed s (endOp o n s) := by
  unfold endOp
  extract_lets s1 s2
  have h2 : Undisturbed s s2 := odInc_undisturbed.after ⟨rfl, rfl, rfl, rfl⟩
  exact .ite (fun _ => .ite (fun _ => h2) fun _ => emcy_undisturbed.after (h2.trans ⟨rfl, rfl, rfl, rfl⟩)) fun _ => .refl

theorem settleForming_undisturbed : Undisturbed s (settleForming g s) :=
  .ite (fun _ => ⟨rfl, rfl, rfl, rfl⟩) fun _ => .refl

theorem groupReform_undisturbed : Undisturbed s (groupReform g s) := settleForming_undisturbed.after ⟨rfl, rfl, rfl, rfl⟩

theorem faultGroup_untold_undisturbed {reason rank : Nat} : Undisturbed s (faultGroup g reason rank none s) :=
  .after (.foldl fun _ _ => endOp_undisturbed) (emcy_undisturbed.after ⟨rfl, rfl, rfl, rfl⟩)

theorem reformGroups_undisturbed : Undisturbed s (reformGroups s) :=
  .foldl fun _ _ => .ite (fun _ => .refl) fun _ => groupReform_undisturbed.after (.foldl fun _ _ => endOp_undisturbed)

/-! ## Packets on the ring and at the ports (R285 to R291) -/

theorem leaveRx_undisturbed : Undisturbed s (leaveRx w s) := by
  unfold leaveRx
  split
  · exact .ite (fun _ => ⟨rfl, rfl, rfl, rfl⟩) fun _ => .refl
  · exact .refl

theorem crossAll_undisturbed {done l : List Wait} : Undisturbed s (crossAll done l s).2 := by
  induction l generalizing done s with
  | nil => exact .refl
  | cons w r ih => exact ih.after (.ite (fun _ => leaveRx_undisturbed) fun _ => .refl)

theorem settleRing_undisturbed : Undisturbed s (settleRing s) :=
  (crossAll_undisturbed (done := []) (l := s.fab.wait)).trans ⟨rfl, rfl, rfl, rfl⟩

theorem settleBuffers_undisturbed : Undisturbed s (settleBuffers s) := settleRing_undisturbed.after ⟨rfl, rfl, rfl, rfl⟩

theorem leavePort_undisturbed {q : Port} {t : Trailer} : Undisturbed s (leavePort p q k t s) := ⟨rfl, rfl, rfl, rfl⟩

theorem sendOut_undisturbed : Undisturbed s (sendOut p n s) := by
  induction n generalizing s with
  | zero => exact .refl
  | succ n ih =>
    unfold sendOut
    split
    · exact .refl
    · split
      · exact .refl
      · exact ih.after (settleBuffers_undisturbed.after (leaveRx_undisturbed.after ⟨rfl, rfl, rfl, rfl⟩))

theorem noteStall_undisturbed : Undisturbed s (noteStall s w) :=
  .ite (fun _ => .refl) fun _ => .ite (fun _ => ⟨rfl, rfl, rfl, rfl⟩) fun _ => emcy_undisturbed.after ⟨rfl, rfl, rfl, rfl⟩

theorem drainPort_undisturbed : Undisturbed s (drainPort p s) :=
  .after (.foldl fun _ _ => noteStall_undisturbed) (sendOut_undisturbed.after settleBuffers_undisturbed)

theorem emit_undisturbed {src : Option Nat} {xd : Nat} {way : List Nat} : Undisturbed s (emit p k src xd way s) := by
  unfold emit
  dsimp only
  split
  · exact leavePort_undisturbed.trans leaveRx_undisturbed
  · exact drainPort_undisturbed.after ⟨rfl, rfl, rfl, rfl⟩

theorem inject_undisturbed : Undisturbed s (inject p k s) :=
  .ite (fun _ => emit_undisturbed) fun _ => odInc_undisturbed

/-! ## Packets that eject (R284, R285) -/

theorem releaseHeld_undisturbed : Undisturbed s (releaseHeld n f s) := by
  induction n generalizing f s with
  | zero => exact ⟨rfl, rfl, rfl, rfl⟩
  | succ n ih =>
    unfold releaseHeld
    split
    · exact ih.after ⟨rfl, rfl, rfl, rfl⟩
    · exact ⟨rfl, rfl, rfl, rfl⟩

theorem reorder_undisturbed {xd : Nat} : Undisturbed s (reorder xd k s) :=
  .ite (fun _ => releaseHeld_undisturbed.after ⟨rfl, rfl, rfl, rfl⟩) fun _ => .ite (fun _ => odInc_undisturbed) fun _ =>
    .ite (fun _ => odInc_undisturbed) fun _ => ⟨rfl, rfl, rfl, rfl⟩

theorem eject_undisturbed {port : Option Nat} : Undisturbed s (eject port k s) := by
  refine .ite (fun _ => odInc_undisturbed) fun _ => .ite (fun _ => ?_) fun _ => .ite (fun _ => ⟨rfl, rfl, rfl, rfl⟩) fun _ =>
    .ite (fun _ => odInc_undisturbed) fun _ => reorder_undisturbed
  split
  · exact odInc_undisturbed
  · exact .refl

/-! ## Sending (R278 to R280, R333, R345) -/

theorem chooseRoute_undisturbed {b : Nat} {permit : Bool} : Undisturbed s (chooseRoute s b permit).2 := by
  unfold chooseRoute
  dsimp only
  split <;> exact ⟨rfl, rfl, rfl, rfl⟩

theorem sendRaw_undisturbed {permit : Bool} : Undisturbed s (sendRaw permit k s).2 := by
  unfold sendRaw
  dsimp only
  split
  · exact odInc_undisturbed
  split
  · dsimp only
    exact .ite (fun _ => eject_undisturbed.after ⟨rfl, rfl, rfl, rfl⟩) fun _ => ⟨rfl, rfl, rfl, rfl⟩
  have hc : Undisturbed s (chooseRoute s (stamp s k).ddev permit).2 := chooseRoute_undisturbed
  generalize chooseRoute s (stamp s k).ddev permit = r at hc
  obtain ⟨_ | ⟨r, x⟩, s1⟩ := r
  · exact hc
  · change Undisturbed s s1 at hc
    have hn : Undisturbed s (nextSeq (stamp s k) s1) := hc.trans ⟨rfl, rfl, rfl, rfl⟩
    dsimp only
    split
    · exact hc
    · split
      · exact inject_undisturbed.after hn
      · exact hc

theorem frameE_undisturbed {x : EFrame} : Undisturbed s (frameE n x s) := .ite (fun _ => ⟨rfl, rfl, rfl, rfl⟩) fun _ => ⟨rfl, rfl, rfl, rfl⟩

theorem datagramE_undisturbed {x : Datagram} : Undisturbed s (datagramE n x s) :=
  .ite (fun _ => ⟨rfl, rfl, rfl, rfl⟩) fun _ => ⟨rfl, rfl, rfl, rfl⟩

theorem sendE_undisturbed {bulk : Bool} {addr : List Byte} {udp : Nat} : Undisturbed s (sendE n bulk addr udp k s) :=
  .ite (fun _ => datagramE_undisturbed) fun _ => .ite (fun _ => ⟨rfl, rfl, rfl, rfl⟩) fun _ => frameE_undisturbed.after ⟨rfl, rfl, rfl, rfl⟩

theorem memberSend_undisturbed {rank bucket use : Nat} {permit : Bool} : Undisturbed s (memberSend p g rank bucket use permit k s) :=
  .ite (fun _ => sendRaw_undisturbed) fun _ => sendE_undisturbed.after ⟨rfl, rfl, rfl, rfl⟩

theorem sendAbort_undisturbed {bucket use code rank : Nat} : Undisturbed s (sendAbort g bucket use code rank s) := by
  unfold sendAbort
  split
  · exact .refl
  · exact .foldl fun _ _ => memberSend_undisturbed

theorem failOp_undisturbed : Undisturbed s (failOp o n s) :=
  .ite (fun _ => sendAbort_undisturbed.after endOp_undisturbed) fun _ => .refl

/-! ## The end of the compute plane's work (R204, R344) -/

theorem poisonRest_undisturbed : Undisturbed s (poisonRest o s) := .foldl fun _ _ => ⟨rfl, rfl, rfl, rfl⟩

theorem endWork_undisturbed {hit : Core → Bool} : Undisturbed s (endWork hit s) := by
  have ended : ∀ t o, Undisturbed t (poisonRest (nowOp o (failOp o 0x0D t)) (failOp o 0x0D t)) := fun _ _ =>
    poisonRest_undisturbed.after failOp_undisturbed
  unfold endWork
  extract_lets s1
  have h1 : Undisturbed s s1 := .foldl fun t o => (ended t o).trans ⟨rfl, rfl, rfl, rfl⟩
  exact h1.trans ⟨rfl, rfl, rfl, rfl⟩

theorem endCores_undisturbed : Undisturbed s (endCores n s) :=
  (endWork_undisturbed (hit := fun k => k.mode != .off)).trans ⟨rfl, rfl, rfl, rfl⟩

end

end Sys2Proof.Machine

/-! SUPPORT. The mailbox, files and recovery (R203, R399, R454, R481): a recovery image that has been written stands through the restart
that follows it. -/

namespace Sys2Proof.Machine

/-! ## What a restart from step 1 leaves of a written image (R449, R481) -/

/-- From `s` to `t` the image in MRAM stands, and no recovery image is waited for that was not before. -/
structure ImageStands (s t : State) : Prop where
  body : t.sec.body = s.sec.body
  recovering : s.mgmt.recovering = false → t.mgmt.recovering = false

section
variable {s t u : State} {n : Nat}

theorem ImageStands.trans (h : ImageStands s t) (k : ImageStands t u) : ImageStands s u :=
  ⟨k.body.trans h.body, fun hr => k.recovering (h.recovering hr)⟩

theorem Undisturbed.imageStands (h : Undisturbed s t) : ImageStands s t := ⟨by rw [h.sec], fun hr => by rw [h.recovering, hr]⟩

theorem stopCompute_imageStands : ImageStands s (stopCompute s) := by
  have ended : Undisturbed s (failLaunches (endCores 0x10 s)) := failLaunches_undisturbed.after endCores_undisturbed
  unfold stopCompute
  generalize failLaunches (endCores 0x10 s) = t at ended
  exact ended.imageStands.trans ⟨rfl, id⟩

theorem restartMd_imageStands : ImageStands s (restartMd s) := ⟨rfl, fun _ => rfl⟩

theorem clearJob_imageStands : ImageStands s (clearJob s) := ⟨rfl, id⟩

theorem cutHbm_imageStands : ImageStands s (cutHbm s) := ⟨rfl, id⟩

theorem dropFabric_undisturbed : Undisturbed s (dropFabric s) := ⟨rfl, rfl, rfl, rfl⟩

theorem stopForwarding_quiet_undisturbed {st : Nat} : Undisturbed s (stopForwarding st false s) :=
  reformGroups_undisturbed.after (dropFabric_undisturbed.after (.after (.foldl fun _ _ => ⟨rfl, rfl, rfl, rfl⟩) ⟨rfl, rfl, rfl, rfl⟩))

theorem restartXds_imageStands {keep : Bool} : ImageStands s (restartXds keep s) := ⟨rfl, id⟩

theorem freshClock_imageStands : ImageStands s (freshClock s) := ⟨rfl, id⟩

theorem awake_undisturbed : Undisturbed s (awake s) := .ite (fun _ => .refl) fun _ => setPState_undisturbed

theorem pinStop_imageStands : ImageStands s (pinStop s) := by
  have stopped : ImageStands s (restartMd (stopCompute s)) := stopCompute_imageStands.trans restartMd_imageStands
  have dark := (stopped.trans (clearJob_imageStands.trans cutHbm_imageStands)).trans (stopForwarding_quiet_undisturbed (st := 0)).imageStands
  have fresh := dark.trans ((restartXds_imageStands (keep := false)).trans freshClock_imageStands)
  unfold pinStop
  extract_lets s1 keep
  change ImageStands s s1 at fresh
  clear_value s1
  refine .trans ?_ awake_undisturbed.imageStands
  exact fresh.trans ⟨rfl, id⟩

theorem beginStart_recovery : beginStart 9 s = setSteps 9 (pinStop (saveLife s)) := rfl

theorem setSteps_imageStands {kind : Nat} : ImageStands s (setSteps kind s) := ⟨rfl, id⟩

theorem beginStart_recovery_imageStands : ImageStands s (beginStart 9 s) := by
  rw [beginStart_recovery]
  have saved : ImageStands s (saveLife s) := ⟨rfl, id⟩
  exact (saved.trans pinStop_imageStands).trans setSteps_imageStands

theorem beginStart_recovery_startup :
    (beginStart 9 s).startup.steps = [1, 2, 3, 4, 5, 6, 7, 8, 9, 10, 11] ∧ (beginStart 9 s).startup.kind = 9 := by
  rw [beginStart_recovery]
  exact ⟨rfl, rfl⟩

/-- Where no start runs that is as deep, the restart begins. -/
theorem requestStart_recovery (hc : coveredBy s 9 = false) :
    requestStart 9 s = beginStart 9 { s with startup := { s.startup with fpSteps := [], mgSteps := [] } } := by
  simp [requestStart, hc]

/-! ## Emergencies and stored settings -/

theorem emcyDrain_none_held (hh : s.mgmt.heldEmcy = []) : emcyDrain (n + 1) s = s := by
  simp [emcyDrain, hh]

theorem exec_emcyCoalescedReport (ho : mailboxOff s = false) (hh : s.mgmt.heldEmcy = []) (h0 : 0 < s.mgmt.coalesced)
    (h16 : s.mgmt.coalesced < 65536) (hr : (recentEmcy s).length < 8) :
    exec .emcyCoalescedReport s = .next (emcyPut 0xFF6F [s.mgmt.coalesced % 256, s.mgmt.coalesced / 256]
      { s with mgmt := { s.mgmt with coalesced := 0 } }) := by
  have hn : min 65535 s.mgmt.coalesced = s.mgmt.coalesced := by omega
  have hb : (mailboxOff s || s.mgmt.coalesced == 0 || decide (8 ≤ (recentEmcy s).length)) = false := by
    simp [ho]
    omega
  show execEmcyCoalescedReport s = _
  simp only [execEmcyCoalescedReport, emcyDrain_none_held hh, hn, hb, Bool.false_eq_true, if_false]

/-! ## Files (R399) -/

section
variable {data : List Byte}

theorem foeCode_recovery (hl : data.length ≤ 16777216) : foeCode "zp160-recovery" 0 data.length 3 = 0 := by
  simp [foeCode, maxImage, Nat.not_lt.2 hl]

theorem foeCode_update (hl : data.length ≤ 16777216) : foeCode "zp160-update" 0 data.length 2 = 0 := by
  simp [foeCode, maxImage, Nat.not_lt.2 hl]

/-- An update is not taken in Bootstrap. -/
theorem foeCode_update_bootstrap : foeCode "zp160-update" 0 n 3 = 0x8002 := by
  simp [foeCode]

theorem exec_foeWrite_taken {name : String} (h1 : s.mgmt.al ≠ 1) (hu : s.mgmt.al = 3 ∨ firmwareUp s = true)
    (hc : foeCode name 0 data.length s.mgmt.al = 0) :
    exec (.foeWrite name 0 data) s = .next { s with mgmt := { s.mgmt with
      staged := some data, recovering := decide (s.mgmt.al = 3), foeAnswer := b2n (decide (s.mgmt.al = 3)), foeText := "" } } := by
  have hon : ¬(s.mgmt.al = 1 ∨ s.mgmt.al ≠ 3 ∧ firmwareUp s = false) := by
    rintro (h | ⟨h3, hf⟩)
    · exact h1 h
    · rcases hu with h | h
      · exact h3 h
      · simp [hf] at h
  show execFoeWrite name 0 data s = _
  simp only [execFoeWrite, hc, if_neg hon, ne_eq, not_true, if_false]

theorem exec_foeWrite_refused {name : String} (h3 : s.mgmt.al = 3) (hc : foeCode name 0 data.length 3 ≠ 0) :
    exec (.foeWrite name 0 data) s = .next { s with mgmt := { s.mgmt with
      foeAnswer := foeCode name 0 data.length 3, foeText := "" } } := by
  show execFoeWrite name 0 data s = _
  simp [execFoeWrite, h3, hc]

end

/-! ## The verdict on a recovery image (R481) -/

section
variable {img : List Byte}

theorem exec_recoveryVerifyDone (hr : s.mgmt.recovering = true) (hs : s.mgmt.staged = some img) :
    exec .recoveryVerifyDone s = .next (
      let n := imageCheck s.sec.fused img
      let t : State := { s with mgmt := { s.mgmt with
        recovering := false, staged := none, foeAnswer := if n = 0 then 0 else 0x800B, foeText := checkName n } }
      if n = 0 then requestStart 9 (writeImage img t) else t) := by
  show execRecoveryVerifyDone s = _
  rw [execRecoveryVerifyDone, hr, hs]

theorem exec_recoveryVerifyDone_fails (hr : s.mgmt.recovering = true) (hs : s.mgmt.staged = some img)
    (hn : imageCheck s.sec.fused img ≠ 0) :
    exec .recoveryVerifyDone s = .next { s with mgmt := { s.mgmt with
      recovering := false, staged := none, foeAnswer := 0x800B, foeText := checkName (imageCheck s.sec.fused img) } } := by
  rw [exec_recoveryVerifyDone hr hs]
  simp only [hn, if_false]

theorem exec_recoveryVerifyDone_passes (hr : s.mgmt.recovering = true) (hs : s.mgmt.staged = some img)
    (hn : imageCheck s.sec.fused img = 0) (hc : coveredBy s 9 = false) :
    ∃ u, exec .recoveryVerifyDone s = .next (beginStart 9 u) ∧ u.sec.body = some img ∧ u.mgmt.recovering = false := by
  have hstart := requestStart_recovery (s := writeImage img { s with mgmt := { s.mgmt with
    recovering := false, staged := none, foeAnswer := 0, foeText := checkName 0 } }) hc
  rw [exec_recoveryVerifyDone hr hs]
  simp only [hn, if_true]
  exact ⟨_, congrArg _ hstart, rfl, rfl⟩

end
end

/-- Settles O44. A report, a write-through, a file and a failing image each change the fields that their rule names; a passing image is
written before the restart, which leaves it. -/
theorem mailboxAndFiles : Obligations.MailboxAndFiles := by
  refine ⟨fun s => exec_emcyCoalescedReport, fun s => rfl, fun s data hl => ⟨fun h3 => ?recovery, fun h2 hu => ?update, fun h3 => ?refused⟩,
    fun s img n hr hs hn => ⟨fun h0 => ?fails, fun h0 hc => ?passes⟩⟩
  case recovery =>
    rw [exec_foeWrite_taken (by omega) (.inl h3) (by rw [h3]; exact foeCode_recovery hl), h3]
    rfl
  case update =>
    rw [exec_foeWrite_taken (by omega) (.inr hu) (by rw [h2]; exact foeCode_update hl), h2]
    rfl
  case refused => rw [exec_foeWrite_refused h3 (by simp [foeCode_update_bootstrap]), foeCode_update_bootstrap]
  case fails =>
    subst hn
    exact exec_recoveryVerifyDone_fails hr hs h0
  case passes =>
    obtain ⟨u, he, hb, hw⟩ := exec_recoveryVerifyDone_passes hr hs (hn.trans h0) hc
    obtain ⟨body, recovering⟩ := beginStart_recovery_imageStands (s := u)
    obtain ⟨steps, kind⟩ := beginStart_recovery_startup (s := u)
    exact ⟨_, he, body.trans hb, recovering hw, steps, kind⟩

end Sys2Proof.Machine

/-! SUPPORT. Accepted writes of the tables that have rows of their own (R205, R212, R239, R266, R300, R318, R469, R475, R487). -/

namespace Sys2Proof.Machine

/-! ## The tables' rows -/

/-- Job and membership, windows, refusals, regions, checking policy, key slots, controller keys. -/
def ownTables : List Nat := [0x2300, 0x2450, 0x2471, 0x2600, 0x2700, 0x2810, 0x2C20]

theorem ownTables_rows : ∀ i ∈ ownTables, ∀ o ∈ objs, o.i0 ≤ i → i ≤ o.i1 → (o.acc ≠ .srw ∧ o.acc ≠ .sro) ∧ o.s1 ≤ 0xFF := by
  decide +kernel

section
variable {m : Master} {i u r v n : Nat} {b : List Byte} {s : State} {o : Obj}

/-- A write is accepted at an object that is there. -/
theorem findObj_of_accepted (hc : odCheck m i u b s = 0) : ∃ o, findObj i u = some o := by
  cases hf : findObj i u with
  | some o => exact ⟨o, rfl⟩
  | none =>
    cases hi : hasIndex i <;> simp [odCheck, hi, hf] at hc

theorem creates_ownTables (hi : i ∈ ownTables) : creates i u = false := by
  have hne : i ≠ 0x2100 := by
    rintro rfl
    revert hi
    decide
  simp [creates, hne]

/-- An accepted write of a table answers with a success and takes effect. -/
theorem dictWrite_ownTables (hi : i ∈ ownTables) (hr : reaches m s = true) (hc : odCheck m i u b s = 0) :
    dictWrite m i u b s = odApply m i u b (setResp m 0 [] s) := by
  obtain ⟨o, hf⟩ := findObj_of_accepted hc
  obtain ⟨hm, h0, h1, -, -⟩ := findObj_some hf
  obtain ⟨⟨hsrw, hsro⟩, -⟩ := ownTables_rows i hi o hm h0 h1
  have hh : hidden m o = false := by simp [hidden, hsrw, hsro]
  have hw : writeAnswer i u s = [] := by simp [writeAnswer, creates_ownTables hi]
  rw [dictWrite_accepted hr hf hh hc, hw]

/-- The checking policy and the key slots only take the value. -/
theorem setsOnly_ownTables (hi : i = 0x2700 ∨ i = 0x2810) (hc : odCheck m i u b s = 0) : SetsOnly i u := by
  have ht : i ∈ ownTables := by rcases hi with rfl | rfl <;> decide
  obtain ⟨o, hf⟩ := findObj_of_accepted hc
  obtain ⟨hm, h0, h1, -, hu⟩ := findObj_some hf
  obtain ⟨-, hs⟩ := ownTables_rows i ht o hm h0 h1
  refine ⟨Nat.le_trans hu hs, ?_⟩
  simp only [ownEffects, List.forall_mem_cons, Addrs.has]
  rcases hi with rfl | rfl <;> simp

theorem dictWrite_setting (hi : i = 0x2700 ∨ i = 0x2810) (hr : reaches m s = true) (hc : odCheck m i u b s = 0) :
    dictWrite m i u b s = odSet i u (ofLE b) (setResp m 0 [] s) := by
  have ht : i ∈ ownTables := by rcases hi with rfl | rfl <;> decide
  rw [dictWrite_ownTables ht hr hc, odApply_of_setsOnly (setsOnly_ownTables hi hc)]

/-! ## Regions (R239, R266) -/

/-- A byte of a range that becomes unspecified is a free byte of the draw. -/
theorem readByte_makeWild_in {lo hi a : Nat} (h : Memory.wf s = true) (h1 : lo ≤ a) (h2 : a < hi) :
    readByte (makeWild lo hi s) a = Config.freeByte (s.free + (a - lo)) := by
  have hb : blankByte (makeWild lo hi s).wild a = Config.freeByte (s.free + (a - lo)) := by
    simp [makeWild, blankByte, h1, h2]
  have hs := (memWf_iff.1 h).1
  show lget (blankByte (makeWild lo hi s).wild a) (s.mem.filter _) a = _
  rw [hb]
  refine lget_of_not_mem (hs.filter _) fun e he eq => ?_
  have := (List.mem_filter.1 he).2
  simp only [Bool.or_eq_true, decide_eq_true_eq] at this
  omega

/-- The marks of lines and units outside a range stay. -/
def keepMarks (out : Nat → Bool) (s : State) : State :=
  { s with poison := s.poison.filter fun l => out (128 * l)
           poisonFlips := s.poisonFlips.filter fun e => out (128 * e.1)
           ecc := s.ecc.filter fun e => out (8 * e.1) }

theorem changeRegion_eq : changeRegion r v s =
    if regionMode s r = v ∨ 64 ≤ r then odSet 0x2600 (r + 1) v s
    else keepMarks (fun a => decide (a < r * regionSize) || decide ((r + 1) * regionSize ≤ a))
      (makeWild (r * regionSize) ((r + 1) * regionSize) (odSet 0x2600 (r + 1) v s)) := rfl

theorem keepMarks_frame {out : Nat → Bool} {lo hi : Nat} : (keepMarks out (makeWild lo hi s)).od = s.od ∧
    (keepMarks out (makeWild lo hi s)).cores = s.cores := ⟨rfl, rfl⟩

theorem readByte_keepMarks {out : Nat → Bool} {a : Nat} : readByte (keepMarks out s) a = readByte s a := rfl

theorem readByte_makeWild_odSet {lo hi a : Nat} : readByte (makeWild lo hi (odSet i u v s)) a = readByte (makeWild lo hi s) a := rfl

theorem changeRegion_same (h : regionMode s r = v) : changeRegion r v s = odSet 0x2600 (r + 1) v s := by
  rw [changeRegion_eq, if_pos (.inl h)]

theorem changeRegion_frame : (changeRegion r v s).od = (odSet 0x2600 (r + 1) v s).od ∧ (changeRegion r v s).cores = s.cores := by
  rw [changeRegion_eq]
  split
  · exact ⟨rfl, rfl⟩
  · exact keepMarks_frame

theorem readByte_changeRegion {a : Nat} (hr : r < 64) (h : regionMode s r ≠ v) :
    readByte (changeRegion r v s) a = readByte (makeWild (r * regionSize) ((r + 1) * regionSize) s) a := by
  rw [changeRegion_eq, if_neg (by omega), readByte_keepMarks, readByte_makeWild_odSet]

theorem readByte_changeRegion_out {a : Nat} (hw : Memory.wf s = true) (hr : r < 64) (h : regionMode s r ≠ v) (ha : a / regionSize ≠ r) :
    readByte (changeRegion r v s) a = readByte s a := by
  rw [readByte_changeRegion hr h]
  refine readByte_makeWild_out hw ?_
  simp only [regionSize] at ha ⊢
  omega

theorem readByte_changeRegion_in {a : Nat} (hw : Memory.wf s = true) (hr : r < 64) (h : regionMode s r ≠ v) (ha : a / regionSize = r) :
    readByte (changeRegion r v s) a = Config.freeByte (s.free + (a - r * regionSize)) := by
  rw [readByte_changeRegion hr h]
  refine readByte_makeWild_in hw ?_ ?_ <;> simp only [regionSize] at ha ⊢ <;> omega

/-! ## Membership (R469, R475) -/

theorem foldl_eq_self {α β : Type} {f : β → α → β} {l : List α} {x : β} (h : ∀ a ∈ l, f x a = x) : l.foldl f x = x :=
  List.foldlRecOn l f (motive := (· = x)) rfl fun _ hy a ha => by rw [hy, h a ha]

theorem foldl_foldl_eq_self {α β γ : Type} {f : γ → α → γ} {g : γ → β → γ} {l : List α} {k : List β} {x : γ} (hf : ∀ a ∈ l, f x a = x)
    (hg : ∀ a ∈ k, g x a = x) : k.foldl g (l.foldl f x) = x := by
  rw [foldl_eq_self hf, foldl_eq_self hg]

/-- The state with the epoch and the set that a write of `membership` names. -/
def enrolled (b : List Byte) (s : State) : State :=
  { s with fleet := { s.fleet with epoch := numAt b 0 4, members := memberList (b.drop 4), reported := [] } }

/-- Groups with an excluded member and comparisons with an excluded partner end; memory and the fleet's records stand (R470, R474). -/
theorem setMembership_undisturbed : Undisturbed (enrolled b s) (setMembership b s) := by
  refine .after (.foldl fun t i => ?_) (.foldl fun t g => .ite (fun _ => ?_) fun _ => .refl)
  · split
    · exact .ite (fun _ => .refl) fun _ => partnerLost_undisturbed
    · exact .refl
  · split
    · exact faultGroup_untold_undisturbed
    · exact .refl

theorem setMembership_alone (hg : ∀ g < 16, (s.group g).state ≠ 1 ∧ (s.group g).state ≠ 2) (hh : ∀ i, (s.handle (i + 1)).shadow = none) :
    setMembership b s = enrolled b s := by
  unfold setMembership
  refine foldl_foldl_eq_self (x := enrolled b s) (fun g hm => if_neg (not_or.2 (hg g (List.mem_range.1 hm)))) fun i _ => ?_
  have hn : ((enrolled b s).handle (i + 1)).shadow = none := hh i
  rw [hn]

/-! ## Each table's write -/

theorem exec_windowEntryWrite (hr : reaches m s = true) (hc : odCheck m 0x2450 2 b s = 0) :
    exec (.windowEntryWrite m b) s = .next { setResp m 0 [] s with windows := aset (odGet s 0x2450 1) (windowOf b) s.windows } := by
  show Host.Outcome.next (dictWrite m 0x2450 2 b s) = _
  rw [dictWrite_ownTables (by decide) hr hc]
  rfl

theorem exec_windowRevoke (hr : reaches m s = true) (hc : odCheck m 0x2450 3 b s = 0) :
    exec (.windowRevoke m b) s = .next (revokeTag (ofLE b) (setResp m 0 [] s)) := by
  show Host.Outcome.next (dictWrite m 0x2450 3 b s) = _
  rw [dictWrite_ownTables (by decide) hr hc]
  rfl

theorem exec_refusedByClear (hr : reaches m s = true) (hc : odCheck m 0x2471 2 b s = 0) (h1 : ofLE b = 1) :
    exec (.refusedByClear m b) s = .next { setResp m 0 [] s with refusedBy := [] } := by
  show Host.Outcome.next (dictWrite m 0x2471 2 b s) = _
  rw [dictWrite_ownTables (by decide) hr hc]
  show Host.Outcome.next (if ofLE b = 1 then _ else _) = _
  rw [if_pos h1]

theorem exec_controllerKeyWrite (hr : reaches m s = true) (hc : odCheck m 0x2C20 (n + 1) b s = 0) :
    exec (.controllerKeyWrite m n b) s = .next { setResp m 0 [] s with
      sec := { s.sec with keys := s.sec.keys.set n b, counters := s.sec.counters.set n 0 } } := by
  show Host.Outcome.next (dictWrite m 0x2C20 (n + 1) b s) = _
  rw [dictWrite_ownTables (by decide) hr hc]
  rfl

theorem exec_hbmRegionsWrite (hr : reaches m s = true) (hc : odCheck m 0x2600 (r + 1) b s = 0) :
    exec (.hbmRegionsWrite m r b) s = .next (changeRegion r (ofLE b) (setResp m 0 [] s)) := by
  show Host.Outcome.next (dictWrite m 0x2600 (r + 1) b s) = _
  rw [dictWrite_ownTables (by decide) hr hc]
  rfl

theorem exec_jobTagWrite (hr : reaches m s = true) (hc : odCheck m 0x2300 2 b s = 0) :
    exec (.jobTagWrite m b) s = .next (setJobTag (ofLE b) (setResp m 0 [] s)) := by
  show Host.Outcome.next (dictWrite m 0x2300 2 b s) = _
  rw [dictWrite_ownTables (by decide) hr hc]
  rfl

theorem exec_membershipWrite (hr : reaches m s = true) (hc : odCheck m 0x2300 3 b s = 0) :
    exec (.membershipWrite m b) s = .next (setMembership b (setResp m 0 [] s)) := by
  show Host.Outcome.next (dictWrite m 0x2300 3 b s) = _
  rw [dictWrite_ownTables (by decide) hr hc]
  rfl

/-! ## What the statement says of the free bytes -/

/-- The row of the regions' modes. -/
def regionRow : Obj :=
  { i0 := 0x2600, i1 := 0x2600, s0 := 1, s1 := 0x40, acc := .rw, ty := .u 1, dflt := 1, lo := 0, hi := 5, wh := .preop,
    life := .stored }

theorem findObj_region : findObj 0x2600 2 = some regionRow := by decide +kernel

theorem valueOk_region :
    valueOk regionRow 0x2600 u b s = (decide (ofLE b ≤ 5) && regionsOk (u - 1) (ofLE b) s) := by
  have range : (decide ((0 : Int) ≤ ofLE b) && decide ((ofLE b : Int) ≤ 5)) = decide (ofLE b ≤ 5) := by
    rw [Bool.eq_iff_iff, Bool.and_eq_true, decide_eq_true_eq, decide_eq_true_eq, decide_eq_true_eq]
    omega
  exact congrArg (· && regionsOk (u - 1) (ofLE b) s) range

/-- A part in PreOp whose draws of free bytes stand at `n`. -/
def preopAt (n : Nat) : State :=
  { State.reset with
    free := n
    mgmt := { al := 2 }
    startup := { State.reset.startup with steps := [], mgSteps := [], resetLow := false }
    power := { State.reset.power with rails := 0x1FF } }

/-- It accepts that region 1 becomes absent. -/
theorem preopAt_region : reaches .secure (preopAt n) = true ∧ odCheck .secure 0x2600 2 [0] (preopAt n) = 0 ∧
    regionMode (preopAt n) 1 ≠ ofLE [0] ∧ Memory.wf (preopAt n) = true := by
  have up : reaches .secure (preopAt 0) = true := by decide +kernel
  have changes : regionMode (preopAt 0) 1 ≠ ofLE [0] := by decide +kernel
  have fits : regionsOk (2 - 1) (ofLE [0]) (preopAt n) = true := by
    show regionsOk (2 - 1) (ofLE [0]) (preopAt 0) = true
    decide +kernel
  refine ⟨up, ?_, changes, rfl⟩
  rw [odCheck_preop (by decide +kernel) findObj_region rfl rfl rfl rfl rfl (by decide) rfl rfl, valueOk_region, fits]
  rfl

theorem freeByte_add_regions (h : ∀ n, Config.freeByte (n + regionSize) = Config.freeByte n) :
    Config.freeByte (n + r * regionSize) = Config.freeByte n := by
  induction r with
  | zero => rw [Nat.zero_mul, Nat.add_zero]
  | succ r ih => rw [Nat.succ_mul, ← Nat.add_assoc, h, ih]

end

/-- O38 reads byte `a` of a changed region as the free byte `free + a`, where the draw gives `free` plus the offset IN the region
(`readByte_changeRegion_in`). Everything else in it holds, so it is this period of the free bytes, which are opaque: no proof can settle
it. -/
theorem tableWrites_iff_freeByte_periodic : Obligations.TableWrites ↔ ∀ n, Config.freeByte (n + regionSize) = Config.freeByte n := by
  constructor
  · intro h n
    obtain ⟨hr, hc, hm, hw⟩ := preopAt_region (n := n)
    obtain ⟨-, -, -, -, -, -, region, -⟩ := h .secure [0] (preopAt n) hr
    obtain ⟨t, he, -, -, -, inside⟩ := (region 1 (by decide) hc).2 hm hw
    obtain rfl : changeRegion 1 (ofLE [0]) (setResp .secure 0 [] (preopAt n)) = t :=
      Host.Outcome.next.inj ((exec_hbmRegionsWrite hr hc).symm.trans he)
    have drawn := readByte_changeRegion_in (s := setResp .secure 0 [] (preopAt n)) (a := regionSize) hw (by decide) hm rfl
    have stated := inside regionSize rfl
    rw [drawn] at stated
    rw [Nat.one_mul, Nat.sub_self] at stated
    exact stated.symm
  · intro period m b s hr
    refine ⟨exec_windowEntryWrite hr, exec_windowRevoke hr, exec_refusedByClear hr, fun slot _ hc => ?slot, fun sub hc => ?policy,
      fun slot _ => exec_controllerKeyWrite hr, fun r h64 hc => ⟨fun hm => ?same, fun hm hw => ?changed⟩, exec_jobTagWrite hr,
      fun hc => ?membership⟩
    case slot => exact congrArg _ (dictWrite_setting (.inr rfl) hr hc)
    case policy => exact congrArg _ (dictWrite_setting (.inl rfl) hr hc)
    case same => rw [exec_hbmRegionsWrite hr hc, changeRegion_same (s := setResp m 0 [] s) hm]
    case changed =>
      obtain ⟨hod, hcores⟩ := changeRegion_frame (r := r) (v := ofLE b) (s := setResp m 0 [] s)
      refine ⟨_, exec_hbmRegionsWrite hr hc, hod, hcores, fun a ha => ?_, fun a ha => ?_⟩
      · exact readByte_changeRegion_out (s := setResp m 0 [] s) hw h64 hm ha
      · have hle : r * regionSize ≤ a := by
          rw [← ha]
          exact Nat.div_mul_le_self a regionSize
        have drawn := readByte_changeRegion_in (s := setResp m 0 [] s) hw h64 hm ha
        rw [drawn, ← freeByte_add_regions period (r := r), Nat.add_assoc, Nat.sub_add_cancel hle]
        rfl
    case membership =>
      have kept := setMembership_undisturbed (b := b) (s := setResp m 0 [] s)
      refine ⟨_, exec_membershipWrite hr hc, kept.mem, by rw [kept.fleet]; rfl, by rw [kept.fleet]; rfl, fun hg hh => ?_⟩
      exact setMembership_alone (s := setResp m 0 [] s) hg hh

end Sys2Proof.Machine

/-! SUPPORT. The ends of valid RAND and SAMPLE descriptors without a parity error (R218, R220, R222 to R225). -/

namespace Sys2Proof.Machine

/-! ## What a RAND draws -/

/-- The value of element (i, j) of a RAND, and whether it saturates: of the words drawn at its logical index (R217, R218). -/
def Rnd.drawn (s : State) (d : Desc) (f : Rnd) (i j : Nat) : Nat × Bool := f.value (wcg (launchKey s f.ksel) (f.index d i j) f.sid f.draw)

/-- Element (i, j) of a RAND as a word of its tile: tile, row, column and value (R115, R217). -/
def Rnd.cell (s : State) (d : Desc) (f : Rnd) (i j : Nat) : Nat × Nat × Nat × Word :=
  (f.td + (f.dcol + j) / 128, f.drow + i, (f.dcol + j) % 128, BitVec.ofNat 32 (f.drawn s d i j).1)

/-- The elements of a RAND in order, each with its SATURATED flag. -/
def Rnd.elements (s : State) (d : Desc) (f : Rnd) : List ((Nat × Nat × Nat × Word) × Bool) :=
  (List.range f.nr).flatMap fun i => (List.range f.nc).map fun j => (f.cell s d i j, (f.drawn s d i j).2)

/-- A core with a RAND's words written; a tile written whole loses its poison (R196). -/
def Rnd.written (s : State) (d : Desc) (f : Rnd) (k : Core) : Core :=
  settleTiles (Rect.fullTiles ⟨f.td, f.drow, f.nr, f.dcol, f.nc⟩) 0 true
    (writeTiles ((List.range f.nr).flatMap fun i => (List.range f.nc).map (f.cell s d i)) k)

/-- The value of some element saturates (R225). -/
def Rnd.saturates (s : State) (d : Desc) (f : Rnd) : Bool :=
  ((List.range f.nr).flatMap fun i => (List.range f.nc).map fun j => (f.drawn s d i j).2).any id

section
variable {s : State} {c : Nat} {d : Desc} {f : Rnd} {r : Run} {parity pin : Bool}

theorem Rnd.elements_cells :
    (f.elements s d).map (·.1) = (List.range f.nr).flatMap fun i => (List.range f.nc).map (f.cell s d i) := by
  simp [elements, List.map_flatMap, Function.comp_def]

theorem Rnd.elements_saturate : (f.elements s d).any (·.2) = f.saturates s d := by
  simp [elements, saturates, List.any_flatMap, List.any_map, Function.comp_def]

/-! ## Their completions -/

/-- A valid RAND writes its elements and completes with OK (R220, R225). -/
theorem randFinish_completes (hv : r.vcode = 0) (hf : rndOf r.desc = f) : randFinish c r false s =
    (complete .sgu c r 0 false (s.modCore c (f.written s r.desc))).modCore c (sguStatus 0 0 (f.saturates s r.desc)) := by
  unfold randFinish
  simp only [hv, hf, ne_eq, not_true, if_false, Bool.false_eq_true]
  change (complete .sgu c r 0 false (s.modCore c fun k => settleTiles _ 0 true (writeTiles ((f.elements s r.desc).map (·.1)) k))).modCore c
    (sguStatus 0 0 ((f.elements s r.desc).any (·.2))) = _
  rw [Rnd.elements_cells, Rnd.elements_saturate]
  rfl

theorem exec_randComplete (hh : headRun .sgu c s = some r) (ho : r.desc.op = 0x16) :
    exec (.randComplete c parity) s = .next (randFinish c r parity s) := by
  show execRandComplete c parity s = _
  simp only [execRandComplete, hh, ho, if_true]

/-- A valid SAMPLE without races that finds a token writes its record, and completes with OK or POISON_IN (R222 to R225). -/
theorem sampleFinish_completes {f : Smp} {p : Pick} (hv : r.vcode = 0) (hr : r.raced = []) (hf : smpOf r.desc = f)
    (ht : touchRead [(f.lbase c, f.v * f.bytes)] s = (pin, s)) (hp : samplePick s f (readBytes s (f.lbase c) (f.v * f.bytes)) = p)
    (hc : p.code = 0) :
    sampleFinish c r false s = odInc 0x2830 1 8 1 ((complete .sgu c r (if pin then 2 else 0) false
      (storePieces [(storeAddr c f.oofs, (sampleRecord s f p).1)] pin (sampleRecord s f p).2)).modCore c
      (sguStatus 1 (if pin then 2 else 0) false)) := by
  have notBadLogit : ¬(if pin then 2 else 0) = 7 := by cases pin <;> decide
  have notNoCandidate : ¬(if pin then 2 else 0) = 8 := by cases pin <;> decide
  unfold sampleFinish
  simp only [hv, hf, ht, hp, hc, raceView_without_races hr, notBadLogit, notNoCandidate, ne_eq, not_true, if_false, Bool.false_eq_true]

theorem exec_sampleComplete (hh : headRun .sgu c s = some r) (ho : r.desc.op = 0x15) :
    exec (.sampleComplete c parity) s = .next (sampleFinish c r parity s) := by
  show execSampleComplete c parity s = _
  simp only [execSampleComplete, hh, ho, if_true]

end

/-- Settles O27. A RAND's elements part into the words written and the flags; a SAMPLE without races picks from memory as it is, and
having found a token counts neither a bad logit nor a missing candidate. -/
theorem samplerCompletes : Obligations.SamplerCompletes := by
  intro s c r pin hh hv
  refine ⟨fun f ho hf => ?rand, fun f p ho hr hf ht hp hc => ?sample⟩
  case rand =>
    rw [exec_randComplete hh ho, randFinish_completes hv hf]
    rfl
  case sample => rw [exec_sampleComplete hh ho, sampleFinish_completes hv hr hf ht hp hc]

end Sys2Proof.Machine

/-! SUPPORT. Reads of memory lines for their check (R193 to R196, R234 to R247): what they count and report touches neither memory nor a
core, and a line without errors is read without a trace. -/

namespace Sys2Proof.Machine

/-- From `s` to `t` memory and the cores stand; marks, counters, records and messages may change. -/
structure DataStands (s t : State) : Prop where
  mem : t.mem = s.mem
  cores : t.cores = s.cores

namespace DataStands

variable {s t u : State}

theorem refl : DataStands s s := ⟨rfl, rfl⟩

theorem trans (h : DataStands s t) (k : DataStands t u) : DataStands s u := ⟨k.mem.trans h.mem, k.cores.trans h.cores⟩

theorem ite {c : Prop} [Decidable c] (h : DataStands s t) (k : DataStands s u) : DataStands s (if c then t else u) := by
  split
  · exact h
  · exact k

theorem foldl {α : Type} {f : State → α → State} {l : List α} (h : ∀ t a, DataStands t (f t a)) : DataStands s (l.foldl f s) :=
  List.foldlRecOn l f (motive := DataStands s) refl fun t ht a _ => ht.trans (h t a)

end DataStands

section
variable {s : State} {l n c : Nat} {us : List Nat}

/-! ## Counts and reports (R245, R246, R458) -/

theorem Reported.dataStands {t : State} (h : Reported s t) : DataStands s t := ⟨h.mem, h.cores⟩

theorem modSite_dataStands {f : Site → Site} : DataStands s (modSite n f s) := ⟨rfl, rfl⟩

theorem noteCorrected_dataStands {key b0 b1 : Nat} : DataStands s (noteCorrected key b0 b1 s) := by
  unfold noteCorrected
  extract_lets times noted told
  have hnoted : DataStands s noted := ⟨rfl, rfl⟩
  have htold : DataStands s { noted with corrOver := key :: told } := ⟨rfl, rfl⟩
  exact .ite ⟨rfl, rfl⟩ (.ite hnoted (htold.trans emcy_reported.dataStands))

theorem recordRepair_dataStands {kind unit index repl source state : Nat} :
    DataStands s (recordRepair kind unit index repl source state s) := by
  unfold recordRepair
  extract_lets _ counted entry
  have hcounted : DataStands s counted := ⟨rfl, rfl⟩
  have hentered : DataStands s { counted with fleet := { counted.fleet with softMap := counted.fleet.softMap ++ [entry] } } := ⟨rfl, rfl⟩
  exact .ite .refl (.ite (hcounted.trans emcy_reported.dataStands) (hentered.trans emcy_reported.dataStands))

theorem recordRow_dataStands : DataStands s (recordRow c n s) := recordRepair_dataStands

theorem noteNear_dataStands : DataStands s (noteNear l c n s) := by
  unfold noteNear
  extract_lets times noted
  have hnoted : DataStands s noted := ⟨rfl, rfl⟩
  exact .ite (hnoted.trans recordRow_dataStands) hnoted

theorem countCorrected_dataStands : DataStands s (countCorrected l n s) := by
  have fleetOnly : ∀ f, DataStands s { s with fleet := f } := fun _ => ⟨rfl, rfl⟩
  unfold countCorrected
  refine .ite .refl ?_
  split
  case h_1 =>
    exact ((fleetOnly _).trans odInc_reported.dataStands).trans (.foldl fun _ _ => noteCorrected_dataStands)
  case h_2 =>
    exact ((modSite_dataStands.trans odInc_reported.dataStands).trans noteCorrected_dataStands).trans noteNear_dataStands
  case h_3 =>
    exact (modSite_dataStands.trans odInc_reported.dataStands).trans (.foldl fun _ _ => noteCorrected_dataStands)
  case h_4 => exact .refl

theorem countUncorrected_dataStands : DataStands s (countUncorrected l us s) := by
  unfold countUncorrected
  extract_lets counted
  have hcounted : DataStands s counted := odInc_reported.dataStands
  have fleetOnly : ∀ f, DataStands s { counted with fleet := f } := fun _ => ⟨hcounted.mem, hcounted.cores⟩
  split
  case h_1 => exact ((fleetOnly _).trans odInc_reported.dataStands).trans emcy_reported.dataStands
  case h_2 =>
    exact (((hcounted.trans modSite_dataStands).trans odInc_reported.dataStands).trans emcy_reported.dataStands).trans recordRow_dataStands
  case h_3 => exact (hcounted.trans modSite_dataStands).trans emcy_reported.dataStands
  case h_4 => exact hcounted

/-! ## Reading and scrubbing a line -/

theorem readUnits_dataStands : DataStands s (readUnits l us s).2 := by
  unfold readUnits
  extract_lets bad corrected uncorrected
  have hcorrected : DataStands s corrected := countCorrected_dataStands
  have huncorrected : DataStands s uncorrected := hcorrected.trans countUncorrected_dataStands
  split
  · exact hcorrected
  · exact huncorrected.trans ⟨rfl, rfl⟩

/-- A line that is not poisoned, in a part without errors, shows no error (R243). -/
theorem unitFinds_clean {u : Nat} (he : s.ecc = []) (hp : poisoned s l = false) : unitFinds s l u = 0 := by
  have hn : lget 0 s.ecc u = 0 := by rw [he, lget]
  unfold unitFinds
  simp only [hn, hp, Bool.false_eq_true, if_false]
  split <;> rfl

theorem readUnits_clean (he : s.ecc = []) (hp : poisoned s l = false) : (readUnits l us s).2 = s := by
  simp [readUnits, unitFinds_clean he hp, countCorrected]

/-- A scrub takes the correctable errors of a line that is not poisoned from it (R245, R247). -/
theorem scrubLine_unpoisoned (hp : poisoned s l = false) : scrubLine l s =
    { (readLine l s).2 with ecc := (readLine l s).2.ecc.filter fun e => !(e.1 / 16 == l && unitFinds s l e.1 == 1) } := by
  rw [scrubLine, hp]
  rfl

theorem scrubLine_ecc {e : Nat × Nat} (hp : poisoned s l = false) (he : e ∈ (scrubLine l s).ecc) :
    ¬(e.1 / 16 = l ∧ unitFinds s l e.1 = 1) := by
  rw [scrubLine_unpoisoned hp] at he
  have hkept := (List.mem_filter.1 he).2
  rintro ⟨hl, hu⟩
  simp only [hl, hu, BEq.rfl, Bool.and_self, Bool.not_true, Bool.false_eq_true] at hkept

theorem scrubLine_dataStands : DataStands s (scrubLine l s) := by
  have hread : DataStands s (readLine l s).2 := readUnits_dataStands
  exact .ite hread (hread.trans ⟨rfl, rfl⟩)

theorem scrubLine_clean (he : s.ecc = []) (hp : poisoned s l = false) : scrubLine l s = s := by
  have hread : (readLine l s).2 = s := readUnits_clean he hp
  rw [scrubLine_unpoisoned hp, hread, he]
  cases s
  cases he
  rfl

/-- The patrol scrub reads lines of HBM and of the near slices (R247). -/
theorem exec_patrolScrubRead (hr : odGet s 0x2620 2 ≠ 0) (hl : (∃ r, place s (128 * l) = .hbm r) ∨ ∃ c o, place s (128 * l) = .near c o) :
    exec (.patrolScrubRead l) s = .next (scrubLine l s) := by
  show execPatrolScrubRead l s = _
  rw [execPatrolScrubRead, if_neg hr]
  rcases hl with ⟨r, h⟩ | ⟨c, o, h⟩ <;> simp only [h]

/-! ## Samplers (R244) -/

/-- A sampler that stays near its centre, on a lane with few corrected bits, moves and is counted. -/
theorem exec_samplerTrackStep {ch lane : Nat} {x : TrackStep} {v : Int}
    (hv : v = lget 0 s.lanes (8192 * n + 256 * ch + lane) + (if x.up then 1 else -1)) (h24 : v.natAbs < 24) (hr : x.rate ≤ 16) :
    exec (.samplerTrackStep n ch lane x) s =
      .next (odInc 0x2630 1 8 1 { s with lanes := lset 0 (8192 * n + 256 * ch + lane) v s.lanes }) := by
  have hnew : (if x.up then lget 0 s.lanes (8192 * n + 256 * ch + lane) + 1 else lget 0 s.lanes (8192 * n + 256 * ch + lane) - 1) = v := by
    rw [hv]
    split <;> rfl
  have hin : ¬(32 < v ∨ v < -32) := by omega
  show execSamplerTrackStep n ch lane x s = _
  simp only [execSamplerTrackStep, hnew, hin, h24, hr, and_self, true_or, if_true, if_false]

end

/-- Settles O56. A patrol read counts and reports what it finds, which leaves memory and the cores, and then drops the line's correctable
errors. -/
theorem memoryUpkeep : Obligations.MemoryUpkeep := by
  refine ⟨fun s n => rfl, fun s l hr hp hl => ?patrol, fun s a b c rate up v hv h24 hrate => exec_samplerTrackStep hv h24 hrate⟩
  case patrol =>
    obtain ⟨hmem, hcores⟩ := scrubLine_dataStands (s := s) (l := l)
    exact ⟨_, exec_patrolScrubRead hr hl, fun e => scrubLine_ecc hp, hmem, hcores, fun he => scrubLine_clean he hp⟩

end Sys2Proof.Machine

/-! SUPPORT. Sparse tables and the poison marks of lines (R193, R237): what a set or dropped key leaves of a table, what poisoning lines leaves
of the others. -/

namespace Sys2Proof.Machine

/-! ## Sparse tables: what is certain without their canonical form -/

section
variable {α : Type} {d v : α} {k j : Nat} {l : List (Nat × α)}

theorem above_filter {p : Nat × α → Bool} (h : above k l = true) : above k (l.filter p) = true := by
  simp only [above, List.all_eq_true] at h ⊢
  exact fun e he => h e (List.mem_filter.1 he).1

theorem lget_of_above (h : above k l = true) : lget d l k = d := by
  cases l with
  | nil => rfl
  | cons e r =>
    obtain ⟨k', x⟩ := e
    simp only [above, List.all_cons, Bool.and_eq_true, decide_eq_true_eq] at h
    simp [lget, h.1]

/-- A key that has been dropped reads as the default. -/
theorem lget_filter_self : lget d (l.filter fun e => e.1 != k) k = d := by
  induction l with
  | nil => rfl
  | cons e r ih =>
    obtain ⟨k', x⟩ := e
    rw [List.filter_cons]
    split
    · rw [lget, ih, if_neg (fun hk : k = k' => by simp_all)]
      split <;> rfl
    · exact ih

theorem mem_sinsert {a b : Nat} {l : List Nat} : a ∈ sinsert b l ↔ a = b ∨ a ∈ l := by
  induction l with
  | nil => simp [sinsert]
  | cons x r ih =>
    unfold sinsert
    split
    · simp
    · split
      · subst b
        simp
      · rw [List.mem_cons, ih, List.mem_cons, or_left_comm]

variable [DecidableEq α]

/-- A value other than the default is found again, whatever the table. -/
theorem lget_lset_of_ne (hv : v ≠ d) : lget d (lset d k v l) k = v := by
  induction l with
  | nil => simp [lset, lget, hv]
  | cons e r ih =>
    obtain ⟨k', x⟩ := e
    unfold lset
    split
    · simp [lget]
    · split
      · simp [lget]
      · rw [lget, if_neg ‹_›, if_neg ‹_›, ih]

/-- Setting a key to another value than the default leaves the keys below it, whatever the table. -/
theorem lget_lset_below (hv : v ≠ d) (hk : k < j) : lget d (lset d j v l) k = lget d l k := by
  induction l with
  | nil => simp [lset, lget, hv, hk]
  | cons e r ih =>
    obtain ⟨k', x⟩ := e
    unfold lset
    split
    · simp [lget, hk, Nat.lt_trans hk ‹_›]
    · split
      · subst j
        simp [lget, hk]
      · simp only [lget, ih]

theorem lwf_filter {p : Nat × α → Bool} (h : lwf d l = true) : lwf d (l.filter p) = true := by
  induction l with
  | nil => rfl
  | cons e r ih =>
    obtain ⟨k', x⟩ := e
    simp only [lwf, Bool.and_eq_true] at h
    obtain ⟨⟨hx, ha⟩, hr⟩ := h
    rw [List.filter_cons]
    split
    · simp only [lwf, Bool.and_eq_true]
      exact ⟨⟨hx, above_filter ha⟩, ih hr⟩
    · exact ih hr

/-- Dropping a key leaves the others in a canonical table. -/
theorem lget_filter_ne (h : lwf d l = true) (hk : k ≠ j) : lget d (l.filter fun e => e.1 != j) k = lget d l k := by
  induction l with
  | nil => rfl
  | cons e r ih =>
    obtain ⟨k', x⟩ := e
    simp only [lwf, Bool.and_eq_true] at h
    obtain ⟨⟨-, ha⟩, hr⟩ := h
    rw [List.filter_cons]
    split
    · simp only [lget, ih hr]
    · have hj : k' = j := by simp_all
      subst hj
      rw [ih hr, lget, if_neg hk]
      split
      · refine lget_of_above ?_
        simp only [above, List.all_eq_true, decide_eq_true_eq] at ha ⊢
        exact fun e he => Nat.lt_trans ‹_› (ha e he)
      · rfl

end

/-! ## Poison marks (R193, R237) -/

section
variable {s : State} {l l' : Nat} {ls : List Nat}

theorem poisoned_setPoison_same : poisoned (setPoison l s) l = true := by
  have hm : (sinsert l s.poison).contains l = true := List.contains_iff_mem.2 (mem_sinsert.2 (.inl rfl))
  have hf : lget 0 (s.poisonFlips.filter fun e => e.1 != l) l = 0 := lget_filter_self
  show ((sinsert l s.poison).contains l != decide (2 ≤ lget 0 (s.poisonFlips.filter fun e => e.1 != l) l)) = true
  rw [hm, hf]
  rfl

theorem poisoned_setPoison_other (hw : lwf 0 s.poisonFlips = true) (hl : l' ≠ l) : poisoned (setPoison l s) l' = poisoned s l' := by
  have hm : (sinsert l s.poison).contains l' = s.poison.contains l' := by
    rw [Bool.eq_iff_iff, List.contains_iff_mem, List.contains_iff_mem, mem_sinsert, or_iff_right hl]
  show ((sinsert l s.poison).contains l' != decide (2 ≤ lget 0 (s.poisonFlips.filter fun e => e.1 != l) l')) = _
  rw [hm, lget_filter_ne hw hl]
  rfl

/-- A list of lines is poisoned; the others stay as they are. -/
theorem poisoned_foldl_setPoison (hw : lwf 0 s.poisonFlips = true) :
    poisoned (ls.foldl (fun t l => setPoison l t) s) l = (ls.contains l || poisoned s l) := by
  induction ls generalizing s with
  | nil => simp
  | cons x r ih =>
    rw [List.foldl_cons, ih (s := setPoison x s) (lwf_filter hw), List.contains_cons]
    by_cases hx : l = x
    · subst hx
      simp [poisoned_setPoison_same]
    · rw [poisoned_setPoison_other hw hx, beq_false_of_ne hx, Bool.false_or]

end

end Sys2Proof.Machine

/-! SUPPORT. The ends of local MOVEs (R50, R252, R264, R265): completion with its status, and what a MOVE abandoned at a parity error
leaves. -/

namespace Sys2Proof.Machine

/-! ## The end of a MOVE (R50, R265) -/

/-- A core whose first running MOVE ends: the descriptor completes and the status is written. -/
def dmEnd (r : Run) (code : Nat) (sat inexact pois : Bool) (k : Core) : Core :=
  let j := completedCore .dm r code inexact k
  dmStatus code sat inexact (if pois then j.setStat 7 else j)

section
variable {s : State} {k : Core} {c d code ofs : Nat} {r : Run} {sat inexact pois parity : Bool}

/-- The end of a MOVE changes its own core; the management state and the counters report it. -/
theorem dmDone_eq : ∃ m o, dmDone c r code sat inexact pois s =
    ({ s with mgmt := m, od := o }.modCore c (dmEnd r code sat inexact pois)) := by
  obtain ⟨m, o, h⟩ := complete_reported (s := s) (e := .dm) (r := r) (c := c) (code := code) (inexact := inexact)
  refine ⟨m, o, ?_⟩
  rw [dmDone, h]
  change ({ s with mgmt := m, od := o }.modCore c (completedCore .dm r code inexact)).modCore c _ = _
  rw [modCore_modCore]
  rfl

theorem dmDone_mem : (dmDone c r code sat inexact pois s).mem = s.mem := by
  obtain ⟨m, o, h⟩ := dmDone_eq (s := s) (c := c) (r := r) (code := code) (sat := sat) (inexact := inexact) (pois := pois)
  rw [h]
  rfl

theorem dmDone_poisoned {l : Nat} : poisoned (dmDone c r code sat inexact pois s) l = poisoned s l := by
  obtain ⟨m, o, h⟩ := dmDone_eq (s := s) (c := c) (r := r) (code := code) (sat := sat) (inexact := inexact) (pois := pois)
  rw [h]
  rfl

theorem dmDone_readByte {a : Nat} : readByte (dmDone c r code sat inexact pois s) a = readByte s a := by
  obtain ⟨m, o, h⟩ := dmDone_eq (s := s) (c := c) (r := r) (code := code) (sat := sat) (inexact := inexact) (pois := pois)
  rw [h]
  rfl

theorem dmDone_core_other (hd : d ≠ c) : (dmDone c r code sat inexact pois s).core d = s.core d := by
  obtain ⟨m, o, h⟩ := dmDone_eq (s := s) (c := c) (r := r) (code := code) (sat := sat) (inexact := inexact) (pois := pois)
  rw [h, core_modCore_other hd.symm]
  rfl

theorem dmDone_core_same (hc : c < s.cores.length) :
    (dmDone c r code sat inexact pois s).core c = dmEnd r code sat inexact pois (s.core c) := by
  obtain ⟨m, o, h⟩ := dmDone_eq (s := s) (c := c) (r := r) (code := code) (sat := sat) (inexact := inexact) (pois := pois)
  rw [h]
  exact core_modCore_same hc

/-! ### The status registers -/

/-- A counter that rises leaves the registers below it. -/
theorem bump_reg_below {lo w : Nat} (h : d < ofs) : (k.bump ofs lo w).reg d = k.reg d := by
  unfold Core.bump
  dsimp only
  split
  · exact lget_lset_below (Nat.ne_of_gt (Nat.add_pos_right _ (Nat.two_pow_pos lo))) h
  · rfl

/-- The word that `DM_STAT` takes at a completion. -/
def dmStatWord (code : Nat) (sat inexact : Bool) (k : Core) : Nat :=
  code + 256 * b2n sat + 512 * b2n inexact + 65536 * ((fld (k.reg 0x70) 16 16 + 1) % 65536)

theorem dmStatus_stat : (dmStatus code sat inexact k).reg 0x70 = (k.setReg 0x70 (dmStatWord code sat inexact k)).reg 0x70 := by
  have bumped : ∀ {lo w : Nat} {j : Core}, (j.bump 0x74 lo w).reg 0x70 = j.reg 0x70 := fun {_ _ _} => bump_reg_below (by decide)
  unfold dmStatus
  simp only [apply_ite (fun j : Core => j.reg 0x70), bumped, ite_self]
  rfl

theorem dmStatWord_code (h : code < 256) : fld (dmStatWord code sat inexact k) 0 8 = code := by
  simp only [fld, dmStatWord, Nat.shiftRight_zero]
  omega

/-- A code other than OK is written whatever the register table; OK, with the sequence number 0, is read back from a canonical one. -/
theorem dmStatus_code (h : code < 256) (hw : code = 0 → lwf 0 k.regs = true) : fld ((dmStatus code sat inexact k).reg 0x70) 0 8 = code := by
  have hreg : (k.setReg 0x70 (dmStatWord code sat inexact k)).reg 0x70 = dmStatWord code sat inexact k := by
    by_cases h0 : code = 0
    · exact lget_lset_same (hw h0)
    · refine lget_lset_of_ne ?_
      simp only [dmStatWord]
      omega
  rw [dmStatus_stat, hreg, dmStatWord_code h]

theorem dmStatus_sameWork : SameWork k (dmStatus code sat inexact k) := by
  have written : SameWork k (k.setReg 0x70 (dmStatWord code sat inexact k)) := setReg_sameWork
  have counted : ∀ {lo w : Nat}, SameWork k ((k.setReg 0x70 (dmStatWord code sat inexact k)).bump 0x74 lo w) := written.trans bump_sameWork
  unfold dmStatus
  extract_lets seq stat
  change SameWork k stat at written
  change ∀ {lo w : Nat}, SameWork k (stat.bump 0x74 lo w) at counted
  split
  · exact counted
  split
  · exact counted
  split
  · exact counted
  · exact written

theorem dmEnd_run : (dmEnd r code sat inexact pois k).dm.run = k.dm.run.tail := by
  have work : SameWork (popRun .dm k) (dmEnd r code sat inexact pois k) :=
    (completedCore_sameWork.opt setStat_sameWork).trans dmStatus_sameWork
  exact (work.runs .dm).trans popRun_runs

theorem dmEnd_code (h : code < 256) (hw : code = 0 → lwf 0 k.regs = true) :
    fld ((dmEnd r code sat inexact pois k).reg 0x70) 0 8 = code := by
  refine dmStatus_code h fun h0 => ?_
  rw [apply_ite Core.regs, setStat_regs, ite_self, completedCore_regs]
  exact hw h0

/-! ### Which end it is -/

theorem exec_moveComplete_local (hh : headRun .dm c s = some r) (hl : (moOf r.desc).remote = false) :
    exec (.moveComplete c parity) s = .next (moveFinish c r parity s) := by
  show execMoveComplete c parity s = _
  simp only [execMoveComplete, hh, hl, or_true, if_true]

theorem moveFinish_moves (hv : r.vcode = 0) (he : (moOf r.desc).empty = false) : moveFinish c r false s =
    let m := moveLocal c (moOf r.desc) r s
    dmDone c r (if m.pois then 2 else 0) m.sat m.inexact m.pois m.st := by
  simp [moveFinish, hv, he]

/-- A MOVE without a parity error completes with OK, or with POISON_IN where it met poison (R264). -/
theorem exec_moveComplete_moves {m : MAcc} (hh : headRun .dm c s = some r) (hv : r.vcode = 0) (hl : (moOf r.desc).remote = false)
    (he : (moOf r.desc).empty = false) (hm : moveLocal c (moOf r.desc) r s = m) :
    exec (.moveComplete c false) s = .next (dmDone c r (if m.pois then 2 else 0) m.sat m.inexact m.pois m.st) := by
  rw [exec_moveComplete_local hh hl, moveFinish_moves hv he, hm]

theorem moveFinish_abandons (hv : r.vcode = 0) (he : (moOf r.desc).empty = false) :
    moveFinish c r true s = dmDone c r 9 false false false (moverFault c (moOf r.desc) s) := by
  simp [moveFinish, hv, he]

end

/-! ## A MOVE that is abandoned (R264, log 38) -/

section
variable {s : State} {c d n a l : Nat} {f : Mo} {rs : List (Nat × Nat)} {ws : List (Nat × Nat × Nat)} {e : Eng}

/-- What a change of one core leaves in it, it leaves in every core. -/
theorem core_modCore_of_kept {α : Type} {g : Core → α} {h : Core → Core} (hk : ∀ k, g (h k) = g k) :
    g ((s.modCore c h).core d) = g (s.core d) := by
  by_cases hd : c = d
  · subst hd
    by_cases hc : c < s.cores.length
    · rw [core_modCore_same hc, hk]
    · rw [State.modCore, List.modify_eq_self (Nat.le_of_not_lt hc)]
  · rw [core_modCore_other hd]

theorem freeRanges_frame : ∃ m n, freeRanges rs s = { s with mem := m, free := n } :=
  List.foldlRecOn rs _ (motive := fun t : State => ∃ m n, t = { s with mem := m, free := n }) ⟨s.mem, s.free, rfl⟩
    fun _ ⟨_, _, h⟩ _ _ => by rw [h]; exact ⟨_, _, rfl⟩

/-- A byte outside the ranges whose contents become free reads as before. -/
theorem readByte_freeRanges_out (hw : Memory.wf s = true) (ha : ∀ x ∈ rs, a < x.1 ∨ x.1 + x.2 ≤ a) :
    readByte (freeRanges rs s) a = readByte s a := by
  induction rs generalizing s with
  | nil => rfl
  | cons x rs ih =>
    have hx : a < x.1 ∨ x.1 + (freeBytes x.2 s).1.length ≤ a := by simpa [freeBytes] using ha x (List.mem_cons_self ..)
    have hwf : Memory.wf (freeBytes x.2 s).2 = true := hw
    have kept : Keeps ⟨false, false, false⟩ (freeBytes x.2 s).2 (writeBytes x.1 (freeBytes x.2 s).1 (freeBytes x.2 s).2) :=
      writeBytes_keeps Keeps.refl
    exact (ih (kept.mem hwf) fun y hy => ha y (List.mem_cons_of_mem _ hy)).trans (readByte_writeBytes_out hwf hx)

theorem freeWords_frame : ∃ ks n, freeWords c ws s = { s with cores := ks, free := n } :=
  List.foldlRecOn ws _ (motive := fun t : State => ∃ ks n, t = { s with cores := ks, free := n }) ⟨s.cores, s.free, rfl⟩
    fun _ ⟨_, _, h⟩ _ _ => by rw [h]; exact ⟨_, _, rfl⟩

/-- Free words in tiles leave what no tile shows of a core. -/
theorem core_freeWords_of_kept {α : Type} {g : Core → α} (hk : ∀ (k : Core) x y z w, g (k.setTile x y z w) = g k) :
    g ((freeWords c ws s).core d) = g (s.core d) :=
  List.foldlRecOn ws _ (motive := fun t : State => g (t.core d) = g (s.core d)) rfl
    fun _ h _ _ => (core_modCore_of_kept fun _ => hk ..).trans h

theorem freeWords_core_other (hd : d ≠ c) : (freeWords c ws s).core d = s.core d :=
  List.foldlRecOn ws _ (motive := fun t : State => t.core d = s.core d) rfl
    fun _ h _ _ => (core_modCore_other hd.symm).trans h

theorem freeWords_length : (freeWords c ws s).cores.length = s.cores.length :=
  List.foldlRecOn ws _ (motive := fun t : State => t.cores.length = s.cores.length) rfl
    fun _ h _ _ => (List.length_modify ..).trans h

theorem foldl_setPoison_frame {ls : List Nat} : ∃ p q, ls.foldl (fun t l => setPoison l t) s = { s with poison := p, poisonFlips := q } :=
  List.foldlRecOn ls _ (motive := fun t : State => ∃ p q, t = { s with poison := p, poisonFlips := q }) ⟨s.poison, s.poisonFlips, rfl⟩
    fun _ ⟨_, _, h⟩ _ _ => by rw [h]; exact ⟨_, _, rfl⟩

/-- An overlap with a range lies in it. -/
theorem mem_overlapOf_single {x y : Nat × Nat} (h : y ∈ overlapOf [x] rs) : x.1 ≤ y.1 ∧ y.1 + y.2 ≤ x.1 + x.2 := by
  simp only [overlapOf, List.flatMap_cons, List.flatMap_nil, List.append_nil, List.mem_filterMap] at h
  obtain ⟨b, -, hb⟩ := h
  split at hb
  · cases hb
    dsimp only
    omega
  · cases hb

/-- The lines that an abandoned MOVE poisons: the first ones of its destinations. -/
def faultLines (s : State) (f : Mo) (rows : List MRow) : List Nat :=
  (destLines s f rows).take (1 + (nextFreeWord s).1.toNat % max 1 (destLines s f rows).length)

theorem head_mem_faultLines {rows : List MRow} (h : (destLines s f rows).head? = some l) : l ∈ faultLines s f rows := by
  unfold faultLines
  cases hl : destLines s f rows with
  | nil => simp [hl] at h
  | cons x r =>
    rw [hl] at h
    cases h
    simp [Nat.add_comm 1]

theorem mem_destLines_of_faultLines {rows : List MRow} (h : l ∈ faultLines s f rows) : l ∈ destLines s f rows := List.mem_of_mem_take h

/-- An abandoned MOVE: its written lines are poisoned, the bytes of them that it writes are free, and of its core the tiles alone
have changed. -/
structure Abandoned (c : Nat) (f : Mo) (rows : List MRow) (s t : State) : Prop where
  marks : lwf 0 s.poisonFlips = true → ∀ l, poisoned t l = ((faultLines s f rows).contains l || poisoned s l)
  bytes : Memory.wf s = true → ∀ a, (∀ x ∈ dstSpans f rows, a < x.1 ∨ x.1 + x.2 ≤ a) → readByte t a = readByte s a
  others : ∀ d, d ≠ c → t.core d = s.core d
  length : t.cores.length = s.cores.length
  run : (t.core c).dm.run = (s.core c).dm.run

theorem moverFault_abandoned : Abandoned c f (moRows f (moIndices s c f)) s (moverFault c f s) := by
  unfold moverFault
  extract_lets rows d ls ts hit words s1
  obtain ⟨p, q, hpois⟩ := foldl_setPoison_frame (ls := ls) (s := s1)
  obtain ⟨m, n, hfree⟩ := freeRanges_frame (rs := hit) (s := d.2)
  obtain ⟨ks, n', hword⟩ := freeWords_frame (c := c) (ws := words) (s := freeRanges hit d.2)
  have hs1 : s1 = { s with mem := m, cores := ks, free := n' } := by
    show freeWords c words (freeRanges hit d.2) = _
    rw [hword, hfree]
    rfl
  refine ⟨fun hw l => ?marks, fun hw a ha => ?bytes, fun d' hd => ?others, ?length, ?run⟩
  case marks =>
    have folded := poisoned_foldl_setPoison (s := s1) (ls := ls) (l := l) (by rw [hs1]; exact hw)
    rw [hs1] at folded
    exact hs1 ▸ folded
  case bytes =>
    have inside : ∀ y ∈ hit, a < y.1 ∨ y.1 + y.2 ≤ a := by
      intro y hy
      obtain ⟨x, hx, hyx⟩ := List.mem_flatMap.1 hy
      have hin := mem_overlapOf_single hyx
      have hout := ha x hx
      omega
    have hread : readByte s1 a = readByte (freeRanges hit d.2) a := by
      show readByte (freeWords c words (freeRanges hit d.2)) a = _
      rw [hword]
      rfl
    rw [hpois]
    exact hread.trans (readByte_freeRanges_out (s := d.2) hw inside)
  case others =>
    rw [core_modCore_other hd.symm, hpois]
    refine (freeWords_core_other (s := freeRanges hit d.2) (ws := words) hd).trans ?_
    rw [hfree]
    rfl
  case length =>
    rw [hpois]
    refine (List.length_modify ..).trans (freeWords_length.trans ?_)
    rw [hfree]
    rfl
  case run =>
    refine (core_modCore_of_kept (g := fun k => k.dm.run) (h := poisonTiles ts) fun _ => rfl).trans ?_
    rw [hpois]
    refine (core_freeWords_of_kept (g := fun k => k.dm.run) (s := freeRanges hit d.2) fun _ _ _ _ _ => rfl).trans ?_
    rw [hfree]
    rfl

/-- What the statement says of a MOVE with a parity error holds where the flips of poison bits are listed canonically (R264). -/
theorem exec_moveComplete_abandons {r : Run} (hh : headRun .dm c s = some r) (hv : r.vcode = 0) (hl : (moOf r.desc).remote = false)
    (he : (moOf r.desc).empty = false) (hw : lwf 0 s.poisonFlips = true) {rows : List MRow}
    (hrows : rows = moRows (moOf r.desc) (moIndices s c (moOf r.desc))) :
    ∃ t, exec (.moveComplete c true) s = .next t ∧
      (∀ l, (destLines s (moOf r.desc) rows).head? = some l → poisoned t l = true) ∧
      (∀ l, l ∉ destLines s (moOf r.desc) rows → poisoned t l = poisoned s l) ∧
      (Memory.wf s = true → ∀ a, (∀ x ∈ dstSpans (moOf r.desc) rows, a < x.1 ∨ x.1 + x.2 ≤ a) → readByte t a = readByte s a) ∧
      (∀ d, d ≠ c → t.core d = s.core d) ∧
      (c < s.cores.length → (t.core c).dm.run = (s.core c).dm.run.tail ∧ fld ((t.core c).reg 0x70) 0 8 = 9) := by
  subst hrows
  have fault : Abandoned c (moOf r.desc) _ s _ := moverFault_abandoned
  refine ⟨_, (exec_moveComplete_local hh hl).trans (congrArg _ (moveFinish_abandons hv he)), fun l hm => ?head, fun l hm => ?rest,
    fun hm a ha => dmDone_readByte.trans (fault.bytes hm a ha), fun d hd => (dmDone_core_other hd).trans (fault.others d hd), fun hc => ?core⟩
  case head =>
    rw [dmDone_poisoned, fault.marks hw, List.contains_iff_mem.2 (head_mem_faultLines hm), Bool.true_or]
  case rest =>
    have hn : (faultLines s (moOf r.desc) (moRows (moOf r.desc) (moIndices s c (moOf r.desc)))).contains l = false := by
      rw [← Bool.not_eq_true, List.contains_iff_mem]
      exact fun h => hm (mem_destLines_of_faultLines h)
    rw [dmDone_poisoned, fault.marks hw, hn, Bool.false_or]
  case core =>
    rw [dmDone_core_same (fault.length ▸ hc), dmEnd_run, fault.run]
    exact ⟨rfl, dmEnd_code (by decide) fun h => absurd h (by decide)⟩

end

end Sys2Proof.Machine

/-! SUPPORT. A COPY of one row between memories (R251, R252, R264): the bytes that it carries over, its end, and a part on which the statement
of local MOVEs fails. -/

namespace Sys2Proof.Machine

/-! ## Bytes of a row and its element codes (R251) -/

section
variable {n b fmt : Nat} {bs : List Byte}

theorem leBytes_ofLE : leBytes bs.length (ofLE bs) = bs := by
  induction bs with
  | nil => rfl
  | cons x r ih =>
    have hq : ofLE (x :: r) / 256 = ofLE r := by
      have := x.isLt
      simp only [ofLE]
      omega
    have hx : BitVec.ofNat 8 (ofLE (x :: r)) = x := by
      apply BitVec.eq_of_toNat_eq
      have := x.isLt
      simp only [ofLE, BitVec.toNat_ofNat]
      omega
    rw [List.length_cons, leBytes, hx, hq, ih]

/-- A number read from within a list and written out again is the bytes it was read from. -/
theorem leBytes_numAt {off : Nat} (h : off + n ≤ bs.length) : leBytes n (numAt bs off n) = (bs.drop off).take n := by
  have hl : ((bs.drop off).take n).length = n := by
    rw [List.length_take, List.length_drop]
    omega
  have hb : bytesAt bs off n = (bs.drop off).take n := by simp [bytesAt, hl]
  rw [numAt, hb]
  have back := leBytes_ofLE (bs := (bs.drop off).take n)
  rwa [hl] at back

theorem flatMap_chunks (h : bs.length = b * n) : (List.range n).flatMap (fun i => (bs.drop (b * i)).take b) = bs := by
  induction n generalizing bs with
  | zero =>
    rw [Nat.mul_zero] at h
    rw [List.eq_nil_of_length_eq_zero h]
    rfl
  | succ n ih =>
    have hd : (bs.drop b).length = b * n := by
      rw [List.length_drop, h, Nat.mul_succ]
      omega
    have hrest : ∀ i, (bs.drop (b * (i + 1))).take b = ((bs.drop b).drop (b * i)).take b := by
      intro i
      rw [List.drop_drop, Nat.mul_succ, Nat.add_comm]
    rw [List.range_succ_eq_map, List.flatMap_cons, List.flatMap_map, Nat.mul_zero, List.drop_zero]
    simp only [Nat.succ_eq_add_one, hrest, ih hd, List.take_append_drop]

/-- Elements of the formats 0 to 5 take whole bytes. -/
theorem nibs_even (h : fmt ≤ 5) : nibs fmt = 2 * (nibs fmt / 2) := by
  match fmt, h with
  | 0, _ | 1, _ | 2, _ | 3, _ | 4, _ | 5, _ => rfl

theorem fmtBytes_whole (h : fmt ≤ 5) : fmtBytes fmt n = nibs fmt / 2 * n := by
  have hn : nibs fmt * n = 2 * (nibs fmt / 2 * n) := by rw [← Nat.mul_assoc, ← nibs_even h]
  rw [fmtBytes, hn]
  omega

/-- A row taken apart into element codes and put together again is the same bytes. -/
theorem joinCodes_splitCodes (h : fmt ≤ 5) (hb : bs.length = fmtBytes fmt n) : joinCodes fmt (splitCodes fmt n bs) = bs := by
  rw [fmtBytes_whole h] at hb
  have h8 : fmt ≠ 8 := by omega
  have hcode : ∀ i ∈ List.range n, leBytes (nibs fmt / 2) (numAt bs (nibs fmt / 2 * i) (nibs fmt / 2)) =
      (bs.drop (nibs fmt / 2 * i)).take (nibs fmt / 2) := by
    intro i hi
    refine leBytes_numAt ?_
    rw [hb, ← Nat.mul_succ]
    exact Nat.mul_le_mul_left _ (List.mem_range.1 hi)
  rw [joinCodes, if_neg h8, splitCodes, if_neg h8, List.flatMap_map, List.flatMap_def, List.map_congr_left hcode, ← List.flatMap_def,
    flatMap_chunks hb]

theorem readBytes_length {s : State} {a : Nat} : (readBytes s a n).length = n := by simp [readBytes]

end

/-! ## A COPY of one row between memories (R252) -/

/-- A COPY of one row, without tiles, conversion, ACCUM or tally. -/
structure Mo.RowCopy (f : Mo) : Prop where
  kind : f.kind = 0
  fmt : f.dfmt = f.sfmt
  whole : f.sfmt ≤ 5
  n1 : f.n1 = 1
  n2 : f.n2 = 1
  n3 : f.n3 = 1
  ssp : f.ssp = false
  dsp : f.dsp = false
  accum : f.accum = false
  ten : f.ten = false

/-- Its one row. -/
def Mo.row (f : Mo) : MRow :=
  { lbase := m64 f.idx0, src := some (.mem f.saddr), dst := some (.mem f.daddr), sscale := scaleLoc f.ssaddr f.lp 0 0 0,
    dscale := scaleLoc f.dsaddr f.lp 0 0 0 }

section
variable {s : State} {c a b n : Nat} {f : Mo} {r : Run} {idx : List Nat}

theorem isMx_whole {fmt : Nat} (h : fmt ≤ 5) : isMx fmt = false := by
  simp [isMx]
  omega

theorem Mo.RowCopy.rows (h : f.RowCopy) : moRows f idx = [f.row] := by
  simp [moRows, h.kind, h.n1, h.n2, h.n3, h.ssp, h.dsp, sideLoc, Mo.row]

theorem Mo.RowCopy.srcSpans (h : f.RowCopy) : srcSpans c f [f.row] = [(f.saddr.toNat, fmtBytes f.sfmt f.n0)] := by
  simp [Machine.srcSpans, h.kind, isMx_whole h.whole, Mo.row, locSpan]

theorem Mo.RowCopy.dstSpans (h : f.RowCopy) : dstSpans f [f.row] = [(f.daddr.toNat, fmtBytes f.sfmt f.n0)] := by
  simp [Machine.dstSpans, h.kind, h.fmt, isMx_whole h.whole, Mo.row, locSpan]

theorem overlapOf_disjoint (h : a + n ≤ b ∨ b + n ≤ a) : overlapOf [(a, n)] [(b, n)] = [] := by
  have hn : ¬max a b < min (a + n) (b + n) := by omega
  simp only [overlapOf, List.flatMap_cons, List.flatMap_nil, List.filterMap_cons, List.filterMap_nil, hn, if_false, List.append_nil]

/-- A row without poison in memory is read as its codes and not converted. -/
theorem Mo.RowCopy.readConv (h : f.RowCopy) (hm : (place s f.saddr.toNat).isMem = true)
    (hp : ∀ l ∈ linesOf f.saddr.toNat (fmtBytes f.sfmt f.n0), poisoned s l = false) :
    ∃ sc, readConv s c f f.row = (sc, splitCodes f.sfmt f.n0 (readBytes s f.saddr.toNat (fmtBytes f.sfmt f.n0)),
      { codes := splitCodes f.sfmt f.n0 (readBytes s f.saddr.toNat (fmtBytes f.sfmt f.n0)), scales := sc }, none) := by
  have hl : f.sfmt ≠ 9 := by have := h.whole; omega
  have hnone : (linesOf f.saddr.toNat (fmtBytes f.sfmt f.n0)).find? (poisoned s) = none := by
    simpa [List.find?_eq_none] using hp
  refine ⟨List.replicate (f.n0 / 32) 0, ?_⟩
  simp only [Machine.readConv, isMx_whole h.whole, Mo.row, Bool.false_and, Bool.false_eq_true, if_false, readRow, rowBytes, hm, if_true,
    Option.isNone_some, convRow, h.fmt, hl, rowBad, hnone, Option.map_none, firstOf]

/-- It writes the bytes that were read to the destination. -/
theorem Mo.RowCopy.moveRow (h : f.RowCopy) {m : MAcc} (ha : (place s f.saddr.toNat).isMem = true) (hb : (place m.st f.daddr.toNat).isMem = true)
    (hp : ∀ l ∈ linesOf f.saddr.toNat (fmtBytes f.sfmt f.n0), poisoned s l = false) :
    moveRow s c f m (f.row, 0) = { m with
      st := writeBytes f.daddr.toNat (readBytes s f.saddr.toNat (fmtBytes f.sfmt f.n0)) m.st
      ranges := m.ranges ++ [(f.daddr.toNat, fmtBytes f.sfmt f.n0)]
      tally := m64 m.tally } := by
  obtain ⟨sc, hread⟩ := h.readConv (c := c) ha hp
  have hjoin := joinCodes_splitCodes (n := f.n0) h.whole (readBytes_length (s := s) (a := f.saddr.toNat))
  have hdst : f.row.dst = some (.mem f.daddr) := rfl
  simp only [Machine.moveRow, hread, putRow, h.accum, h.ten, h.kind, h.fmt, isMx_whole h.whole, hdst, putRun, hb, hjoin, readBytes_length,
    firstOf, if_true, if_false, Bool.false_eq_true, Bool.or_false, Bool.false_and, Option.isSome_none, Nat.add_zero, show ¬(0 = 3) by decide]

end

section
variable {s : State} {c : Nat} {f : Mo} {r : Run}

/-- The ranges that a COPY of one row reads and writes lie apart in memory; nothing read is poisoned or shows an error (R252, R259). -/
structure Mo.Clean (f : Mo) (s : State) : Prop where
  src : (place s f.saddr.toNat).isMem = true
  dst : (place s f.daddr.toNat).isMem = true
  apart : f.saddr.toNat + fmtBytes f.sfmt f.n0 ≤ f.daddr.toNat ∨ f.daddr.toNat + fmtBytes f.sfmt f.n0 ≤ f.saddr.toNat
  read : touchRead [(f.saddr.toNat, fmtBytes f.sfmt f.n0)] s = (false, s)
  sound : ∀ l ∈ linesOf f.saddr.toNat (fmtBytes f.sfmt f.n0), poisoned s l = false

/-- The state with a row copied: the bytes written and the marks of their lines settled (R196). -/
def Mo.copied (f : Mo) (s : State) : State :=
  settleRanges [(f.daddr.toNat, fmtBytes f.sfmt f.n0)] false
    (writeBytes f.daddr.toNat (readBytes s f.saddr.toNat (fmtBytes f.sfmt f.n0)) s)

/-- Where no line is poisoned and no unit in error, a read finds nothing and leaves no trace. -/
theorem touchRead_clean {spans : List (Nat × Nat)} (he : s.ecc = []) (hp : ∀ l, poisoned s l = false) : touchRead spans s = (false, s) := by
  have hmeets : ∀ l us, meetsPoison s l us = false := by
    intro l us
    have hfinds : ∀ u, unitFinds s l u = 0 := fun u => unitFinds_clean he (hp l)
    unfold meetsPoison
    split
    · simp [hfinds]
    · simp [hfinds]
    · exact hp l
  have hunits : ∀ l us, readUnits l us s = (false, s) := by
    intro l us
    simp [readUnits, unitFinds_clean he (hp l), hmeets, countCorrected]
  unfold touchRead
  refine List.foldlRecOn _ _ (motive := fun x : Bool × State => x = (false, s)) rfl ?_
  rintro _ rfl l -
  simp only [hunits, Bool.or_false]

theorem settleLine_dataStands {ps : List (Nat × Nat)} {bad : Bool} {l : Nat} : DataStands s (settleLine ps bad l s) := by
  unfold settleLine
  extract_lets cleared part full units _ settled
  have hcleared : DataStands s cleared := ⟨rfl, rfl⟩
  have hunits : DataStands s units.2 := readUnits_dataStands
  have hsettled : DataStands s settled := hunits.trans ⟨rfl, rfl⟩
  exact .ite (.ite (hcleared.trans ⟨rfl, rfl⟩) (hcleared.trans ⟨rfl, rfl⟩)) (.ite (hsettled.trans ⟨rfl, rfl⟩) hsettled)

theorem settleRanges_dataStands {rs : List (Nat × Nat)} {bad : Bool} : DataStands s (settleRanges rs bad s) :=
  .foldl fun _ _ => settleLine_dataStands

theorem Mo.copied_dataStands :
    DataStands (writeBytes f.daddr.toNat (readBytes s f.saddr.toNat (fmtBytes f.sfmt f.n0)) s) (f.copied s) := settleRanges_dataStands

theorem modCore_id : s.modCore c (fun k => k) = s := by
  have hid : s.cores.modify c (fun k => k) = s.cores := List.modify_id ..
  rw [State.modCore, hid]

/-- A COPY of one row copies it; no flag is set. -/
theorem Mo.RowCopy.moveLocal (h : f.RowCopy) (hs : f.Clean s) (hr : r.raced = []) : moveLocal c f r s =
    { st := f.copied s, ranges := [(f.daddr.toNat, fmtBytes f.sfmt f.n0)] } := by
  unfold Machine.moveLocal
  extract_lets rows src dst mem rd ov ow view idxBad st m0 m panels m1 ts s1 s2
  have hrows : rows = [f.row] := h.rows
  have hsrc : mem src = [(f.saddr.toNat, fmtBytes f.sfmt f.n0)] := by
    simp [mem, src, hrows, h.srcSpans, hs.src]
  have hdst : mem dst = [(f.daddr.toNat, fmtBytes f.sfmt f.n0)] := by
    simp [mem, dst, hrows, h.dstSpans, hs.dst]
  have hrd : rd = (false, s) := by
    simp only [rd, hsrc, h.accum, Bool.false_eq_true, if_false, List.append_nil, hs.read]
  have hov : ov = [] := by
    simp only [ov, hsrc, hdst, overlapOf_disjoint hs.apart]
  have how : ow = [] := by
    simp [ow, overlapWords, h.ssp]
  have hview : view = s := by
    simp only [view, hov, how, hrd, raceView_without_races hr]
    rfl
  have hidx : idxBad = false := by
    simp [idxBad, h.kind]
  have hm0 : m0 = { st := s } := by
    have hst : st = s := congrArg Prod.snd hrd
    simp [m0, hst, hview, hrd, hidx, h.kind]
  have hm : m = { st := writeBytes f.daddr.toNat (readBytes s f.saddr.toNat (fmtBytes f.sfmt f.n0)) s,
                  ranges := [(f.daddr.toNat, fmtBytes f.sfmt f.n0)] } := by
    simp only [m, hrows, hview, hm0, List.zipIdx_cons, List.zipIdx_nil, List.foldl_cons, List.foldl_nil]
    exact h.moveRow hs.src hs.dst hs.sound
  have hm1 : m1 = m := by
    simp [m1, h.kind]
  have hs1 : s1 = f.copied s := by
    simp only [s1, hov, how, hm1, hm]
    rfl
  have hs2 : s2 = f.copied s := by
    simp only [s2, hs1, hm1, hm, wholeTiles, h.dsp, Bool.false_eq_true, if_false, List.foldl_nil]
    exact modCore_id
  rw [h.ten, hs2, hm1, hm]
  rfl

/-- What the statement says of a COPY holds where the core's register table is canonical (R252, R264, R265). -/
theorem exec_moveComplete_copies (hh : headRun .dm c s = some r) (hv : r.vcode = 0) (hl : (moOf r.desc).remote = false)
    (he : (moOf r.desc).empty = false) (hw : lwf 0 (s.core c).regs = true) (hr : r.raced = []) (hf : (moOf r.desc).RowCopy)
    (hs : (moOf r.desc).Clean s) :
    ∃ t, exec (.moveComplete c false) s = .next t ∧
      t.mem = (writeBytes (moOf r.desc).daddr.toNat
        (readBytes s (moOf r.desc).saddr.toNat (fmtBytes (moOf r.desc).sfmt (moOf r.desc).n0)) s).mem ∧
      (∀ d, d ≠ c → t.core d = s.core d) ∧
      (c < s.cores.length → (t.core c).dm.run = (s.core c).dm.run.tail ∧ fld ((t.core c).reg 0x70) 0 8 = 0) := by
  obtain ⟨hmem, hcores⟩ := Mo.copied_dataStands (s := s) (f := moOf r.desc)
  have hcore : ∀ d, ((moOf r.desc).copied s).core d = s.core d := fun d => by rw [State.core, hcores]; rfl
  refine ⟨dmDone c r 0 false false false ((moOf r.desc).copied s), ?exec, dmDone_mem.trans hmem,
    fun d hd => (dmDone_core_other hd).trans (hcore d), fun hc => ?core⟩
  case exec =>
    rw [exec_moveComplete_local hh hl, moveFinish_moves hv he, hf.moveLocal hs hr]
    rfl
  case core =>
    rw [dmDone_core_same (by rw [hcores]; exact hc), hcore, dmEnd_run]
    exact ⟨rfl, dmEnd_code (by decide) fun _ => hw⟩

end

/-! ## Why the statement fails -/

/-- A COPY of one byte from the start of core store 0 to its second line. -/
def byteCopy : Run :=
  { desc := {
      pc := 0
      words := [0x1100000, BitVec.ofNat 64 storeBase, BitVec.ofNat 64 (storeBase + 128), 0x0001000100010001]
      idx := []
      eo := 0
      vl := 0
      rst := false }
    vcode := 0 }

/-- A part of one core on which that COPY runs, whose register table lists `DM_STAT` twice. -/
def statListedTwice : State :=
  { State.reset with
    fleet := { State.reset.fleet with coreMap := [0] }
    cores := [{ dm := { run := [byteCopy] }, regs := [(0x70, 0xFFFF0000), (0x70, 9)] }] }

theorem byteCopy_rowCopy : (moOf byteCopy.desc).RowCopy := by
  constructor <;> decide

theorem byteCopy_addresses : (moOf byteCopy.desc).saddr.toNat = storeBase ∧ (moOf byteCopy.desc).daddr.toNat = storeBase + 128 ∧
    fmtBytes (moOf byteCopy.desc).sfmt (moOf byteCopy.desc).n0 = 1 := by
  decide

theorem statListedTwice_sound {l : Nat} : poisoned statListedTwice l = false := rfl

/-- The sequence number 0xFFFF is followed by 0: the new word is 0, its entry leaves the table, and the second one is read. -/
theorem byteCopy_leaves_second_entry {t : State} (h : exec (.moveComplete 0 false) statListedTwice = .next t) :
    fld ((t.core 0).reg 0x70) 0 8 = 9 := by
  cases h
  decide +kernel

/-- Refutes O28: a COPY with code 0 whose sequence number comes round to 0 writes the word 0 to `DM_STAT`, which takes the entry out of the
register table. Nothing in the statement asks that table to be canonical, and one that lists `DM_STAT` twice then shows the older entry's
code. In the same way poisoning a line can uncover flips of another line's poison bits where their table is not in order. For canonical
tables what the statement says is `exec_moveComplete_moves`, `exec_moveComplete_copies` and `exec_moveComplete_abandons`. -/
theorem not_localMoveCompletes : ¬ Obligations.LocalMoveCompletes := by
  intro h
  obtain ⟨-, copies, -⟩ := h statListedTwice 0 byteCopy rfl rfl (by decide) (by decide)
  obtain ⟨kind, fmt, whole, n1, n2, n3, ssp, dsp, accum, ten⟩ := byteCopy_rowCopy
  obtain ⟨ha, hb, hn⟩ := byteCopy_addresses
  obtain ⟨t, he, -, -, core⟩ := copies _ _ _ _ rfl ha hb hn rfl kind fmt whole n1 n2 n3 ssp dsp accum ten (by decide +kernel)
    (by decide +kernel) (.inl (by decide)) (touchRead_clean rfl fun _ => statListedTwice_sound) fun _ _ => statListedTwice_sound
  obtain ⟨-, code⟩ := core (by decide)
  rw [byteCopy_leaves_second_entry he] at code
  exact absurd code (by decide)

end Sys2Proof.Machine

/-! SUPPORT. Commands that create a handle (R248, R409, R413, R414, R461, R472, R482, R486): the lowest free handle is answered and taken for
the operation, which runs at once or waits behind one that has not ended. -/

namespace Sys2Proof.Machine

/-! ## The free handle (R409) -/

section
variable {s : State} {m : Master} {b : List Byte} {h u : Nat}

theorem firstFrom_some {p : Nat → Bool} {n i k : Nat} (hf : firstFrom p n i = some k) : i ≤ k ∧ k < i + n ∧ p k = true := by
  induction n generalizing i with
  | zero => cases hf
  | succ n ih =>
    unfold firstFrom at hf
    split at hf
    · cases hf
      exact ⟨Nat.le_refl _, by omega, ‹_›⟩
    · obtain ⟨hi, hk, hp⟩ := ih hf
      exact ⟨by omega, by omega, hp⟩

theorem freeHandle_some (hf : freeHandle s = some h) : 1 ≤ h ∧ h ≤ 64 ∧ (s.handle h).kind = 0 := by
  obtain ⟨h1, h64, hk⟩ := firstFrom_some hf
  exact ⟨h1, by omega, of_decide_eq_true hk⟩

theorem shaped_handles (hs : s.shaped = true) : s.handles.length = 64 := by
  simp only [State.shaped, Bool.and_eq_true, decide_eq_true_eq] at hs
  exact hs.1.2

/-! ## The write of a command (R402, R409) -/

theorem command_rows : ∀ o ∈ objs, o.i0 ≤ 0x2100 → 0x2100 ≤ o.i1 → o.acc ≠ .srw ∧ o.acc ≠ .sro := by
  decide +kernel

/-- An accepted command that creates a handle is answered with the lowest free one, and starts under it. -/
theorem command_creates (hr : reaches m s = true) (hc : odCheck m 0x2100 u b s = 0) (hu : creates 0x2100 u = true)
    (hf : freeHandle s = some h) : command m u b s = startCommand u h (ownerOf m) b (setResp m 0 (leBytes 1 h) s) := by
  obtain ⟨o, ho⟩ := findObj_of_accepted hc
  obtain ⟨hmem, h0, h1, -, -⟩ := findObj_some ho
  obtain ⟨hsrw, hsro⟩ := command_rows o hmem h0 h1
  have hh : hidden m o = false := by simp [hidden, hsrw, hsro]
  have hw : writeAnswer 0x2100 u s = leBytes 1 h := by simp [writeAnswer, hu, hf]
  have hf' : freeHandle (setResp m 0 (leBytes 1 h) s) = some h := hf
  rw [command, dictWrite_accepted hr ho hh hc, hw]
  unfold odApply
  rw [if_pos hu, hf', Option.getD_some]

/-! ## Operations that run at once (R248, R414, R472, R482) -/

theorem startOp_eq {kind : Nat} : startOp h kind (ownerOf m) b (setResp m 0 (leBytes 1 h) s) =
    accepted m h kind 2 (fun x => { x with params := b }) s := rfl

theorem startShadow_eq : startShadow h (ownerOf m) b (setResp m 0 (leBytes 1 h) s) =
    { accepted m h 8 2 (fun x => { x with params := b, shadow := some (shadowOf b) }) s with
      fleet := { s.fleet with suspect := false } } := rfl

/-! ## A self-test (R431, R461) -/

theorem ofLE_lt {l : List Byte} : ofLE l < 256 ^ l.length := by
  induction l with
  | nil => simp [ofLE]
  | cons x r ih =>
    have hx := x.isLt
    rw [ofLE, List.length_cons, Nat.pow_succ]
    omega

theorem bytesAt_length {l : List Byte} {off n : Nat} : (bytesAt l off n).length = n := by
  simp only [bytesAt, List.length_append, List.length_take, List.length_drop, List.length_replicate]
  omega

theorem numAt_lt {l : List Byte} {off n : Nat} : numAt l off n < 256 ^ n := by
  have h := ofLE_lt (l := bytesAt l off n)
  rwa [bytesAt_length] at h

/-- A mask of 176 bits that is not 0 names a site. -/
theorem testSites_ne_nil {x : Handle} (hp : numAt x.params 0 22 ≠ 0) : testSites x ≠ [] := by
  intro hn
  refine hp (Nat.eq_of_testBit_eq fun i => ?_)
  rw [Nat.zero_testBit]
  by_cases hi : i < 176
  · have hno : ¬bitAt (numAt x.params 0 22) i = true := List.filter_eq_nil_iff.1 hn i (List.mem_range.2 hi)
    rwa [bitAt_eq_testBit, Bool.not_eq_true] at hno
  · refine Nat.testBit_lt_two_pow (Nat.lt_of_lt_of_le numAt_lt ?_)
    rw [show (256 : Nat) ^ 22 = 2 ^ 176 from rfl]
    exact Nat.pow_le_pow_right (by decide) (by omega)

theorem wakeCores_awake (hp : s.power.pstate ≠ 1) : wakeCores s = s := if_neg hp

/-- Outside Bask a self-test that names a site runs. -/
theorem startSelfTest_runs {owner : Nat} (hh : h - 1 < s.handles.length) (hp : s.power.pstate ≠ 1) (hb : numAt b 0 22 ≠ 0) :
    startSelfTest h owner b s = startOp h 6 owner b s := by
  have hw : wakeCores (startOp h 6 owner b s) = startOp h 6 owner b s := wakeCores_awake hp
  have hparams : ((startOp h 6 owner b s).handle h).params = b :=
    congrArg Handle.params (handle_modHandle_same (f := fun _ => _) hh)
  have hsites : (testSites ((startOp h 6 owner b s).handle h)).isEmpty = false := by
    rw [List.isEmpty_eq_false_iff]
    exact testSites_ne_nil (hparams.symm ▸ hb)
  rw [startSelfTest, hw]
  simp only [hsites, Bool.false_eq_true, if_false]

/-! ## Operations that wait (R413, R486) -/

/-- A change of an entry that a test does not accept leaves one that it does. -/
theorem any_modify_of_not {α : Type} {l : List α} {p : α → Bool} {f : α → α} {i : Nat} {d : α} (hl : l.any p = true)
    (hi : p (l.getD i d) = false) : (l.modify i f).any p = true := by
  obtain ⟨x, hx, hp⟩ := List.any_eq_true.1 hl
  obtain ⟨j, hj⟩ := List.mem_iff_getElem?.1 hx
  have hne : i ≠ j := by
    rintro rfl
    rw [List.getD_eq_getElem?_getD, hj, Option.getD_some, hp] at hi
    cases hi
  refine List.any_eq_true.2 ⟨x, List.mem_of_getElem? (i := j) ?_, hp⟩
  simp [hne, hj]

theorem startQuotes_busy {n : Nat} (hq : quoteRuns s = true) : startQuotes n s = s := by
  cases n with
  | zero => rfl
  | succ n => rw [startQuotes, if_pos hq]

/-- A quote waits behind one that runs. -/
theorem createQuote_waits {owner : Nat} (hk : (s.handle h).kind = 0) (hq : quoteRuns s = true) :
    createQuote h owner b s = newHandle h 3 1 owner (fun x => { x with params := b }) s := by
  have hnot : ((s.handle h).kind == 3 && [2, 6].contains (s.handle h).state) = false := by rw [hk]; rfl
  exact startQuotes_busy (any_modify_of_not hq hnot)

theorem createLaunch_waits {owner addr : Nat} (hl : launchBusy s = true) : createLaunch h owner addr s =
    newHandle h 1 1 owner (fun x => { x with addr := addr, detail := bytesAt (leBytes 2 0xFFFF) 0 64 }) s := if_pos hl

theorem createResume_waits {owner area : Nat} (hl : launchBusy s = true) : createResume h owner area s =
    newHandle h 1 1 owner (fun x => { x with ctx := area, isResume := true, keys := keysNow s, detail := bytesAt (leBytes 2 0xFFFF) 0 64 }) s :=
  if_pos hl

/-! ## The commands -/

/-- A command whose operation starts as `t`. -/
theorem next_command_creates {t : State} (hr : reaches m s = true) (hf : freeHandle s = some h) (hc : odCheck m 0x2100 u b s = 0)
    (hu : creates 0x2100 u = true) (ht : startCommand u h (ownerOf m) b (setResp m 0 (leBytes 1 h) s) = t) :
    (Host.Outcome.next (command m u b s) : Out) = .next t := by
  rw [command_creates hr hc hu hf, ht]

theorem next_marginRow {kind : Nat} {t : State} (hk : numAt b 0 1 = kind) (ht : (Host.Outcome.next (command m 6 b s) : Out) = .next t) :
    (Host.Outcome.next (marginRow kind m b s) : Out) = .next t := by
  rw [marginRow, if_pos hk, ht]

end

/-- Settles O32. Every accepted command starts under the lowest free handle (`command_creates`); a self-test that names a site has one to
run, a quote and a launch find one before them that has not ended. -/
theorem commandsCreateHandles : Obligations.CommandsCreateHandles := by
  intro m b s h hs hr hf
  obtain ⟨h1, h64, hk⟩ := freeHandle_some hf
  have hlen : h - 1 < s.handles.length := by
    rw [shaped_handles hs]
    omega
  have creates_as := fun {u : Nat} {t : State} => next_command_creates (m := m) (b := b) (u := u) (t := t) hr hf
  have margin := fun hc => creates_as (u := 6) hc rfl startOp_eq
  refine ⟨fun hc => creates_as hc rfl startOp_eq,
    fun hc => ⟨fun hk => next_marginRow hk (margin hc), fun hk => next_marginRow hk (margin hc), fun hk => next_marginRow hk (margin hc),
      fun hk => next_marginRow hk (margin hc)⟩,
    fun hc => creates_as hc rfl startOp_eq, fun hc => creates_as hc rfl startOp_eq,
    fun hc hq => creates_as hc rfl ?quote, fun hc hp hb => creates_as hc rfl ?selfTest, fun hc => creates_as hc rfl startShadow_eq,
    fun hc hl => creates_as hc rfl ?launch, fun hc hl => creates_as hc rfl ?resume⟩
  case quote => exact createQuote_waits (s := setResp m 0 (leBytes 1 h) s) hk hq
  case selfTest => exact startSelfTest_runs (s := setResp m 0 (leBytes 1 h) s) hlen hp hb
  case launch => exact createLaunch_waits (s := setResp m 0 (leBytes 1 h) s) hl
  case resume => exact createResume_waits (s := setResp m 0 (leBytes 1 h) s) hl

end Sys2Proof.Machine

/-! SUPPORT. The ends of long operations (R248, R411, R414, R461, R481, R482, R485): what `setHandle` leaves of the handles, when no quote
waits, what a self-test of a sound site keeps, the records of a margin operation, the image that a commit writes. -/

namespace Sys2Proof.Machine

/-! ## Handles that change state (R411) -/

/-- A handle put into a state with a result, at a calendar time. -/
def Handle.into (st res time : Nat) (x : Handle) : Handle :=
  { x with
    state := st
    result := if st = 7 ∨ st = 8 then res else 0xFFFF
    ended := if decide (st = 7 ∨ st = 8 ∨ st = 9) then time else x.ended }

section
variable {s t : State} {h i st res n k : Nat} {f : Handle → Handle}

theorem Reported.handles (hr : Reported s t) : t.handles = s.handles := by
  obtain ⟨m, o, rfl⟩ := hr
  rfl

theorem settleAl_reported : Reported s (settleAl s) := by
  unfold settleAl
  split
  · split
    · exact .refl
    · exact ⟨_, _, rfl⟩
  · exact .refl

/-- A handle's change of state is a change of that handle, and is reported. -/
theorem setHandle_reported : Reported (s.modHandle h (Handle.into st res (calendar s))) (setHandle h st res s) := by
  unfold setHandle
  extract_lets term s1
  change Reported s1 _
  split
  · exact emcy_reported.trans settleAl_reported
  · exact .refl

theorem setHandle_handle_same (hh : h - 1 < s.handles.length) :
    (setHandle h st res s).handle h = (s.handle h).into st res (calendar s) := by
  rw [State.handle, setHandle_reported.handles]
  exact handle_modHandle_same hh

theorem setHandle_handle_other (hi : i - 1 ≠ h - 1) : (setHandle h st res s).handle i = s.handle i := by
  rw [State.handle, setHandle_reported.handles]
  exact handle_modHandle_other hi.symm

/-- A handle past the last one is a free one. -/
theorem handle_in_range (hk : (s.handle h).kind ≠ 0) : h - 1 < s.handles.length := by
  refine Nat.lt_of_not_le fun hout => hk ?_
  rw [State.handle, List.getD_eq_getElem?_getD, List.getElem?_eq_none hout]
  rfl

theorem runs_of (hk : (s.handle h).kind = k) (hs : (s.handle h).state = 2) : runs s h k = true := by
  simp [runs, hk, hs]

/-! ## Scrub, margin, calibration (R248, R414) -/

/-- A scrub of a part without errors corrects none. -/
theorem exec_scrubComplete_clean (hr : runs s h 4 = true) (he : s.ecc = []) :
    exec (.scrubComplete h) s = .next (setHandle h 7 0 (s.modHandle h fun x => { x with progress := 1000 })) := by
  show execScrubComplete h s = _
  simp only [execScrubComplete, hr, he, if_true]
  rfl

theorem exec_marginComplete {b : List Byte} (hr : runs s h 5 = true) : exec (.marginComplete h b) s = .next (setHandle h 7 0
    ({ s with margin := marginRecord s (numAt (s.handle h).params 0 1) (numAt (s.handle h).params 2 2) b }.modHandle h fun x =>
      { x with progress := 1000 })) := by
  show execMarginComplete h b s = _
  simp only [execMarginComplete, hr, if_true]

theorem exec_calibrationComplete (hr : runs s h 7 = true) : exec (.calibrationComplete h) s = .next (setHandle h 7 0
    ((((List.range 32).filter (bitAt (numAt (s.handle h).params 0 4))).foldl (fun t p => rebuildTable p t) s).modHandle h fun x =>
      { x with progress := 1000 })) := by
  show execCalibrationComplete h s = _
  simp only [execCalibrationComplete, hr, if_true]

/-! ## Quotes (R485, R486) -/

/-- No quote runs, is being cancelled or waits. -/
def NoQuote (s : State) : Prop := ∀ i, (s.handle (i + 1)).kind = 3 → (s.handle (i + 1)).state ∉ [1, 2, 6]

theorem quoteRuns_of_noQuote (hq : NoQuote s) : quoteRuns s = false := by
  rw [quoteRuns, List.any_eq_false]
  intro x hx
  obtain ⟨j, hj⟩ := List.mem_iff_getElem?.1 hx
  have hxj : s.handle (j + 1) = x := by rw [State.handle, Nat.add_sub_cancel, List.getD_eq_getElem?_getD, hj, Option.getD_some]
  have hno := hq j
  rw [hxj] at hno
  simp only [List.mem_cons, List.not_mem_nil, or_false, not_or] at hno
  simp only [Bool.and_eq_true, beq_iff_eq, List.contains_iff_mem, List.mem_cons, List.not_mem_nil, or_false, not_and, not_or]
  exact fun hk => (hno hk).2

theorem nextQuote_of_noQuote (hq : NoQuote s) : nextQuote s = none := by
  refine List.foldlRecOn _ _ (motive := (· = none)) rfl ?_
  rintro _ rfl i -
  refine if_neg fun hw => ?_
  simp only [Bool.and_eq_true, beq_iff_eq] at hw
  exact hq i hw.1 (by rw [hw.2]; decide)

theorem startQuotes_of_noQuote (hq : NoQuote s) : startQuotes n s = s := by
  cases n with
  | zero => rfl
  | succ n => simp [startQuotes, quoteRuns_of_noQuote hq, nextQuote_of_noQuote hq]

/-- Where one handle alone holds a quote, none is left once that one is done. -/
theorem noQuote_of_done (hh : 1 ≤ h) (hin : h - 1 < s.handles.length) (ho : ∀ i, 1 ≤ i → i ≠ h → (s.handle i).kind ≠ 3) :
    NoQuote (setHandle h 7 res s) := by
  intro i hk
  by_cases hi : i + 1 = h
  · rw [hi, setHandle_handle_same hin]
    show 7 ∉ [1, 2, 6]
    decide
  · rw [setHandle_handle_other (by omega)] at hk
    exact absurd hk (ho _ (by omega) hi)

/-- The one quote is signed and done. -/
theorem exec_quoteComplete_alone (hr : runs s h 3 = true) (ha : s.sec.aliasReady = true) (hh : 1 ≤ h) (hin : h - 1 < s.handles.length)
    (ho : ∀ i, 1 ≤ i → i ≠ h → (s.handle i).kind ≠ 3) :
    exec (.quoteComplete h) s = .next (setHandle h 7 0 (s.modHandle h fun x => { x with
      progress := 1000, quote := x.quote ++ bytesAt (Config.aliasSign s.sec.aliasSeeds x.quote) 0 29792 })) := by
  have signed : s.modHandle h (fun x => { x with
        progress := 1000, quote := x.quote ++ bytesAt (Config.aliasSign s.sec.aliasSeeds x.quote) 0 29792 }) =
      s.modHandle h (fun x => { x with
        quote := (s.handle h).quote ++ bytesAt (Config.aliasSign s.sec.aliasSeeds (s.handle h).quote) 0 sigSize, progress := 1000 }) :=
    modHandle_congr rfl
  show execQuoteComplete h s = _
  simp only [execQuoteComplete, hr, ha, Bool.and_self, if_true]
  rw [signed, startQuotes_of_noQuote (noQuote_of_done hh ?_ ?_)]
  · exact Nat.lt_of_lt_of_eq hin (List.length_modify ..).symm
  · intro i h1 hi
    rw [handle_modHandle_other (by omega)]
    exact ho i h1 hi

end

/-! ## A self-test of a sound site (R461) -/

section
variable {l acc : List Nat} {x : Nat}

theorem mem_dedup : x ∈ dedup l acc ↔ x ∈ l ∨ x ∈ acc := by
  induction l generalizing acc with
  | nil => simp [dedup]
  | cons y r ih =>
    rw [dedup, ih]
    split
    · have hy : y ∈ acc := List.contains_iff_mem.1 ‹_›
      have hsame : x = y → x ∈ r ∨ x ∈ acc := fun e => .inr (e ▸ hy)
      rw [List.mem_cons, or_assoc, or_iff_right_of_imp hsame]
    · rw [List.mem_cons, List.mem_cons, or_left_comm, or_assoc]

theorem dedup_nodup (h : acc.Nodup) : (dedup l acc).Nodup := by
  induction l generalizing acc with
  | nil => exact (List.reverse_perm acc).nodup_iff.2 h
  | cons y r ih =>
    rw [dedup]
    split
    · exact ih h
    · exact ih (List.nodup_cons.2 ⟨fun hm => ‹¬_› (List.contains_iff_mem.2 hm), h⟩)

/-- A list without repeats is no longer than one that holds all of it. -/
theorem dedup_length_le {l' : List Nat} (h : ∀ x ∈ l, x ∈ l') : (dedup l []).length ≤ l'.length := by
  refine (dedup_nodup List.nodup_nil).length_le_of_subset fun x hx => ?_
  exact h x (by simpa using mem_dedup.1 hx)

/-- The rows of a site, each once. -/
def rowsOnce (l : List (Nat × Nat)) : List (Nat × Nat) := l.foldl (fun l r => if l.contains r then l else l ++ [r]) []

theorem rowsOnce_spec (l : List (Nat × Nat)) : (rowsOnce l).Nodup ∧ rowsOnce l ⊆ l := by
  refine List.foldlRecOn l _ (motive := fun k => k.Nodup ∧ k ⊆ l) ⟨List.nodup_nil, List.nil_subset _⟩ ?_
  rintro k ⟨hn, hs⟩ r hr
  split
  · exact ⟨hn, hs⟩
  · have hr' : r ∉ k := fun hm => ‹¬_› (List.contains_iff_mem.2 hm)
    refine ⟨List.nodup_append.2 ⟨hn, List.nodup_cons.2 ⟨List.not_mem_nil, List.nodup_nil⟩, ?_⟩, List.append_subset.2 ⟨hs, by simpa using hr⟩⟩
    intro a ha b hb hab
    exact hr' (by simpa [hab, List.mem_singleton.1 hb] using ha)

/-- A test that finds nothing leaves a site within its spares. -/
theorem withinSpares_addNothing {y : Site} {hard : Bool} (h : withinSpares y = true) :
    withinSpares (addFound { lanes := [], columns := [], nearRows := [], hard := hard } y) = true := by
  simp only [withinSpares, Bool.and_eq_true, decide_eq_true_eq, List.all_eq_true] at h ⊢
  obtain ⟨⟨hlanes, hcols⟩, hrows⟩ := h
  have hrows' : (addFound { lanes := [], columns := [], nearRows := [], hard := hard } y).lostRows = rowsOnce y.lostRows := by
    simp [addFound, rowsOnce]
  obtain ⟨hn, hs⟩ := rowsOnce_spec y.lostRows
  refine ⟨⟨?lanes, ?cols⟩, fun r hr => ?rows⟩
  case lanes => exact Nat.le_trans (dedup_length_le fun x hx => by simpa using hx) hlanes
  case cols =>
    refine Nat.le_trans (dedup_length_le fun x hx => ?_) hcols
    simp only [addFound, List.append_nil, List.mem_append, mem_dedup, List.not_mem_nil, or_false] at hx
    exact mem_dedup.2 (.inl (List.mem_append.2 hx))
  case rows =>
    rw [hrows'] at hr ⊢
    have hsub : (rowsOnce y.lostRows).filter (fun q => q.1 == r.1) ⊆ y.lostRows.filter fun q => q.1 == r.1 :=
      fun q hq => List.mem_filter.2 ⟨hs (List.mem_filter.1 hq).1, (List.mem_filter.1 hq).2⟩
    exact Nat.le_trans (List.Nodup.length_le_of_subset (hn.filter _) hsub) (hrows r (hs hr))

end

section
variable {s t : State} {h site : Nat}

/-- A self-test's handle with one more site that passed and needed no repair. -/
def Handle.sitePassed (site : Nat) (x : Handle) : Handle :=
  let y : Handle := { x with tested := x.tested ++ [site], passed := x.passed + 1 }
  { y with progress := y.tested.length * 1000 / (testSites y).length, detail := testDetail y }

theorem exec_selfTestSiteDone_last (hr : runs s h 6 = true) (hin : h - 1 < s.handles.length) (hsite : testSites (s.handle h) = [site])
    (htested : (s.handle h).tested = []) (hnote : bitAt (numAt (s.handle h).params 23 1) 0 = false)
    (hw : withinSpares (s.fleet.sites.getD site {}) = true) :
    exec (.selfTestSiteDone h site { lanes := [], columns := [], nearRows := [], hard := false }) s =
      .next (setHandle h 7 0 (s.modHandle h (Handle.sitePassed site))) := by
  have hlast : ((s.modHandle h (Handle.sitePassed site)).handle h).tested.length =
      (testSites ((s.modHandle h (Handle.sitePassed site)).handle h)).length := by
    rw [handle_modHandle_same hin]
    show ((s.handle h).tested ++ [site]).length = (testSites (s.handle h)).length
    rw [htested, hsite]
    rfl
  have hthis : (runs s h 6 && (testSites (s.handle h)).contains site && !(s.handle h).tested.contains site) = true := by
    simp [hr, hsite, htested]
  show execSelfTestSiteDone h site _ s = _
  unfold execSelfTestSiteDone
  rw [if_pos hthis]
  extract_lets note ok any s1 _ s2 s3
  have hok : ok = true := (Bool.and_true _).trans (withinSpares_addNothing hw)
  have hs1 : s1 = s := if_neg (by simp [note, hnote])
  have hs2 : s2 = s := (if_pos hok).trans hs1
  have hs3 : s3 = s.modHandle h (Handle.sitePassed site) := by
    simp only [s3, hs2, hok, any, if_true]
    rfl
  rw [hs3, if_pos hlast]

/-! ## Updates (R481, R482) -/

/-- The image in MRAM and what is known of it. -/
structure SameImage (s t : State) : Prop where
  body : t.sec.body = s.sec.body
  header : t.sec.header = s.sec.header
  fwVersion : t.sec.fwVersion = s.sec.fwVersion
  svn : t.sec.svn = s.sec.svn
  torn : t.sec.torn = s.sec.torn

theorem abandonHandles_undisturbed : Undisturbed s (abandonHandles s) :=
  .foldl fun _ _ => .ite (fun _ => setHandle_undisturbed) fun _ => .refl

/-- A management reset erases keys; the image stands (R452). -/
theorem requestStart_management_sameImage : SameImage s (requestStart 6 s) := by
  have hsec : (abandonHandles (saveLife s)).sec = s.sec := abandonHandles_undisturbed.sec
  have erased : (beginStart 6 s).sec = { s.sec with udsLocked := false, aliasReady := false, aliasSeeds := [], kemSeed := [] } := by
    rw [← hsec]
    rfl
  show SameImage s (if restartsMd s || !s.startup.mgSteps.isEmpty then s else beginStart 6 s)
  split
  · exact ⟨rfl, rfl, rfl, rfl, rfl⟩
  · constructor <;> rw [erased]

/-- A commit writes the image, ends its handle and asks for a management reset (R482). -/
theorem exec_fwUpdateCommitted {img : List Byte} (hu : updating s = some h) (hi : s.mgmt.staged = some img)
    (hc : (s.handle h).commit = true) :
    exec .fwUpdateCommitted s = .next (requestStart 6 (setHandle h 7 0 (writeImage img s))) := by
  show execFwUpdateCommitted s = _
  simp only [execFwUpdateCommitted, hu, hi, hc, if_true]

theorem exec_fwUpdateVerified {img : List Byte} (hu : updating s = some h) (hi : s.mgmt.staged = some img)
    (hc : (s.handle h).commit = false) : exec .fwUpdateVerified s = .next (
      if imageCheck s.sec.fused img = 0 then
        { s.modHandle h (fun x => { x with commit := true }) with sec := { s.sec with fused := max s.sec.fused (min 64 (numAt img 0x0C 4)) } }
      else setHandle h 8 (updateResult (imageCheck s.sec.fused img)) s) := by
  show execFwUpdateVerified s = _
  simp only [execFwUpdateVerified, hu, hi, hc, Bool.false_eq_true, if_false]

end

/-! ## The records of a margin operation (R35, R248) -/

section
variable {s : State} {kind mask i j g : Nat} {b : List Byte}

/-- Of a list of pairs laid end to end, the entries of pair `i`. -/
theorem getElem?_flatMap_pair {α β : Type} {f : α → List β} {l : List α} {a : α} (hf : ∀ a, (f a).length = 2) (hl : l[i]? = some a)
    (hj : j < 2) : (l.flatMap f)[2 * i + j]? = (f a)[j]? := by
  induction l generalizing i with
  | nil => cases hl
  | cons x r ih =>
    rw [List.flatMap_cons]
    cases i with
    | zero =>
      cases hl
      rw [Nat.mul_zero, Nat.zero_add, List.getElem?_append_left (by rw [hf]; exact hj)]
    | succ i =>
      have hrest : 2 * (i + 1) + j - (f x).length = 2 * i + j := by
        rw [hf]
        omega
      rw [List.getElem?_append_right (by rw [hf]; omega), hrest]
      exact ih hl

theorem marginRecord_edges (hk : kind ≠ 3) : marginRecord s kind mask b = (b.map (marginEdge kind)).take 49152 := by
  simp only [marginRecord, hk, if_false]

/-- The two bytes of a group's record in an eye scan. -/
def eyePair (s : State) (b : List Byte) (g : Nat × Nat) : List Byte :=
  if spareWireUsed s g.1 then [0x80, 0x80] else [marginEdge 3 (b.getD (2 * g.2) 0), marginEdge 3 (b.getD (2 * g.2 + 1) 0)]

theorem marginRecord_eye : marginRecord s 3 mask b = ((eyeGroups mask).zipIdx.flatMap (eyePair s b)).take 49152 := rfl

/-- A group whose spare wire is in use is marked as not scanned. -/
theorem marginRecord_spare (hg : (eyeGroups mask)[i]? = some g) (hs : spareWireUsed s g = true) (hj : j < 2) (hi : 2 * i + j < 49152) :
    (marginRecord s 3 mask b).getD (2 * i + j) 0 = 0x80 := by
  have hpair : ∀ x, (eyePair s b x).length = 2 := fun x => by
    unfold eyePair
    split <;> rfl
  have hx : (eyeGroups mask).zipIdx[i]? = some (g, i) := by simp [List.getElem?_zipIdx, hg]
  have hmarked : eyePair s b (g, i) = [0x80, 0x80] := if_pos hs
  rw [marginRecord_eye, List.getD_eq_getElem?_getD, List.getElem?_take_of_lt hi, getElem?_flatMap_pair hpair hx hj, hmarked]
  match j, hj with
  | 0, _ | 1, _ => rfl

theorem marginSpan_bounds : 0 ≤ marginSpan kind ∧ marginSpan kind ≤ 127 := by
  unfold marginSpan
  split
  · decide
  · split
    · decide
    · split <;> decide

/-- A measured edge is recorded within the span of its kind. -/
theorem marginEdge_within {x : Byte} : -marginSpan kind ≤ (marginEdge kind x).toInt ∧ (marginEdge kind x).toInt ≤ marginSpan kind := by
  obtain ⟨h0, h127⟩ := marginSpan_bounds (kind := kind)
  have hv : (marginEdge kind x).toInt = max (-marginSpan kind) (min (marginSpan kind) x.toInt) := by
    rw [marginEdge, BitVec.toInt_ofInt]
    exact Int.bmod_eq_of_le (by omega) (by omega)
  omega

end

/-- Settles O36. Each operation ends in `setHandle`, which changes one handle and reports it; the quote that ends leaves none to start, a
site whose test found nothing stays within its spares, and the reset after a commit leaves the image. -/
theorem operationsEnd : Obligations.OperationsEnd := by
  refine ⟨fun s h st res hin => ⟨?state, ?result, fun i hi => setHandle_handle_other hi, setHandle_undisturbed.mem⟩, fun s h hst =>
    ⟨fun hk he => exec_scrubComplete_clean (runs_of hk hst) he, fun b hk => exec_marginComplete (runs_of hk hst),
      fun hk => exec_calibrationComplete (runs_of hk hst), fun hk ha ho hh => ?quote, fun site hk hsite htested hnote hw => ?selfTest,
      fun img hu hi => ⟨fun hc h0 => ?passes, fun n hc hn h0 => ?fails, fun hc => ?commits⟩⟩,
    fun s kind mask b => ⟨marginRecord_edges, fun i g hg hi hs => ⟨?first, ?second⟩⟩, fun kind x => marginEdge_within⟩
  case state => rw [setHandle_handle_same hin, Handle.into]
  case result => rw [setHandle_handle_same hin, Handle.into]
  case quote =>
    have hin : h - 1 < s.handles.length := handle_in_range (by rw [hk]; decide)
    exact exec_quoteComplete_alone (runs_of hk hst) ha hh hin ho
  case selfTest =>
    have hin : h - 1 < s.handles.length := handle_in_range (by rw [hk]; decide)
    refine ⟨_, exec_selfTestSiteDone_last (runs_of hk hst) hin hsite htested hnote hw, setHandle_undisturbed.fleet, fun _ => ?_⟩
    have hin' : h - 1 < (s.modHandle h (Handle.sitePassed site)).handles.length := Nat.lt_of_lt_of_eq hin (List.length_modify ..).symm
    rw [setHandle_handle_same hin', handle_modHandle_same hin]
    refine ⟨rfl, rfl, ?_⟩
    show (s.handle h).tested ++ [site] = [site]
    rw [htested, List.nil_append]
  case passes => rw [exec_fwUpdateVerified hu hi hc, if_pos h0]
  case fails => rw [exec_fwUpdateVerified hu hi hc, hn, if_neg h0]
  case commits =>
    obtain ⟨body, header, fwVersion, svn, torn⟩ := requestStart_management_sameImage (s := setHandle h 7 0 (writeImage img s))
    have written : (setHandle h 7 0 (writeImage img s)).sec = (writeImage img s).sec := setHandle_undisturbed.sec
    rw [written] at body header fwVersion svn torn
    exact ⟨_, exec_fwUpdateCommitted hu hi hc, body, header, fwVersion, svn, torn⟩
  case first => exact marginRecord_spare (j := 0) hg hs (by decide) (by omega)
  case second => exact marginRecord_spare (j := 1) hg hs (by decide) hi

end Sys2Proof.Machine

/-! SUPPORT. The framing of a fibre (R282, R361 to R364, R466): fields in disjoint places of a number are read back, numbers as bytes and as
64-bit words, and with them a packet, its data words, a superframe and a control word. -/

namespace Sys2Proof.Machine

/-! ## Fields in their places -/

/-- The number whose fields, given as ((lowest bit, width), value), stand in their places. -/
def placed : List ((Nat × Nat) × Nat) → Nat
  | [] => 0
  | ((lo, _), v) :: r => v * 2 ^ lo + placed r

/-- Field `f` ends before field `g` begins. -/
abbrev Below (f g : Nat × Nat) : Prop := f.1 + f.2 ≤ g.1

section
variable {a b v lo w n : Nat} {l : List ((Nat × Nat) × Nat)}

theorem fld_eq_div_mod : fld v lo w = v / 2 ^ lo % 2 ^ w := by rw [fld, Nat.shiftRight_eq_div_pow]

/-- Fields from bit `n` on do not see what stands below it. -/
theorem fld_above (ha : a < 2 ^ n) (hn : n ≤ lo) : fld (a + 2 ^ n * b) lo w = fld (2 ^ n * b) lo w := by
  obtain ⟨k, rfl⟩ := Nat.exists_eq_add_of_le hn
  simp only [fld_eq_div_mod, Nat.pow_add, ← Nat.div_div_eq_div_mul]
  rw [Nat.add_mul_div_left _ _ (Nat.two_pow_pos n), Nat.div_eq_of_lt ha, Nat.zero_add, Nat.mul_div_cancel_left _ (Nat.two_pow_pos n)]

/-- A field below all others is read back. -/
theorem fld_lowest (ha : a < 2 ^ w) : fld (a * 2 ^ lo + 2 ^ (lo + w) * b) lo w = a := by
  rw [fld_eq_div_mod, Nat.pow_add, Nat.mul_assoc, Nat.mul_comm a, ← Nat.mul_add, Nat.mul_div_cancel_left _ (Nat.two_pow_pos lo),
    Nat.add_mul_mod_self_left, Nat.mod_eq_of_lt ha]

/-- Fields from bit `n` on leave the bits below it 0. -/
theorem placed_multiple (h : ∀ e ∈ l, n ≤ e.1.1) : ∃ b, placed l = 2 ^ n * b := by
  induction l with
  | nil => exact ⟨0, rfl⟩
  | cons e r ih =>
    obtain ⟨⟨lo, w⟩, v⟩ := e
    obtain ⟨b, hb⟩ := ih fun x hx => h x (.tail _ hx)
    obtain ⟨k, rfl⟩ := Nat.exists_eq_add_of_le (h _ (.head _))
    exact ⟨v * 2 ^ k + b, by rw [placed, hb, Nat.pow_add, Nat.mul_add, Nat.mul_left_comm]⟩

/-- Each of the fields placed apart is read back. -/
theorem fld_placed (apart : (l.map (·.1)).Pairwise Below) (fits : ∀ e ∈ l, e.2 < 2 ^ e.1.2) (he : ((lo, w), v) ∈ l) :
    fld (placed l) lo w = v := by
  induction l with
  | nil => cases he
  | cons x r ih =>
    obtain ⟨⟨lx, wx⟩, vx⟩ := x
    rw [List.map_cons, List.pairwise_cons] at apart
    obtain ⟨hx, hr⟩ := apart
    have hup : ∀ y ∈ r, lx + wx ≤ y.1.1 := fun y hy => hx _ (List.mem_map_of_mem hy)
    have hfit : vx < 2 ^ wx := fits _ (.head _)
    obtain ⟨b, hb⟩ := placed_multiple hup
    rw [placed]
    rcases List.mem_cons.1 he with heq | hmem
    · cases heq
      rw [hb, fld_lowest hfit]
    · have hlow : vx * 2 ^ lx < 2 ^ (lx + wx) := by
        rw [Nat.pow_add, Nat.mul_comm]
        exact Nat.mul_lt_mul_of_pos_left hfit (Nat.two_pow_pos _)
      rw [hb, fld_above hlow (hup _ hmem), ← hb]
      exact ih hr (fun y hy => fits y (.tail _ hy)) hmem

theorem bitAt_eq_fld : bitAt v lo = (fld v lo 1 == 1) := rfl

theorem b2n_beq_one {x : Bool} : (b2n x == 1) = x := by cases x <;> rfl

theorem b2n_lt {x : Bool} : b2n x < 2 := by cases x <;> decide

end

/-! ## Numbers as bytes and words -/

section
variable {v n i : Nat} {bs cs : List Byte} {l : List Nat}

@[simp] theorem leBytes_length : (leBytes n v).length = n := by
  induction n generalizing v with
  | zero => rfl
  | succ n ih => rw [leBytes, List.length_cons, ih]

theorem ofLE_leBytes (h : v < 256 ^ n) : ofLE (leBytes n v) = v := by
  induction n generalizing v with
  | zero =>
    rw [Nat.pow_zero] at h
    rw [leBytes, ofLE]
    omega
  | succ n ih =>
    rw [leBytes, ofLE, ih (Nat.div_lt_of_lt_mul (by rwa [Nat.pow_succ, Nat.mul_comm] at h)), BitVec.toNat_ofNat]
    omega

/-- A number that begins behind other bytes. -/
theorem numAt_append_right (h : bs.length = i) (j : Nat) : numAt (bs ++ cs) (i + j) n = numAt cs j n := by
  subst h
  rw [numAt, numAt, bytesAt, bytesAt, List.drop_length_add_append]

theorem numAt_append_left (h : bs.length = n) : numAt (bs ++ cs) 0 n = ofLE bs := by
  simp [numAt, bytesAt, ← h]

theorem wordBytes_cons : wordBytes (v :: l) = leBytes 8 v ++ wordBytes l := List.flatMap_cons

theorem wordBytes_length : (wordBytes l).length = 8 * l.length := by
  induction l with
  | nil => rfl
  | cons v r ih => rw [wordBytes_cons, List.length_append, ih, leBytes_length, List.length_cons]; omega

theorem wordBytes_take : wordBytes (l.take n) = (wordBytes l).take (8 * n) := by
  induction l generalizing n with
  | nil => simp [wordBytes]
  | cons v r ih =>
    cases n with
    | zero => rfl
    | succ n =>
      rw [List.take_succ_cons, wordBytes_cons, wordBytes_cons, ih, List.take_append,
        List.take_of_length_le (l := leBytes 8 v) (by rw [leBytes_length]; omega), leBytes_length]
      rfl

theorem wordBytes_drop : wordBytes (l.drop n) = (wordBytes l).drop (8 * n) := by
  induction l generalizing n with
  | nil => simp [wordBytes]
  | cons v r ih =>
    cases n with
    | zero => rfl
    | succ n =>
      rw [List.drop_succ_cons, wordBytes_cons, ih, List.drop_append,
        List.drop_of_length_le (l := leBytes 8 v) (by rw [leBytes_length]; omega), leBytes_length]
      rfl

theorem wordsOf_length : (wordsOf bs).length = bs.length / 8 := by rw [wordsOf, List.length_map, List.length_range]

/-- Bytes in whole words are the bytes of their words. -/
theorem wordBytes_wordsOf (h : bs.length = 8 * n) : wordBytes (wordsOf bs) = bs := by
  have hn : bs.length / 8 = n := by omega
  have hword : ∀ i ∈ List.range n, leBytes 8 (numAt bs (8 * i) 8) = (bs.drop (8 * i)).take 8 := fun i hi =>
    leBytes_numAt (by rw [h]; have := List.mem_range.1 hi; omega)
  rw [wordBytes, wordsOf, hn, List.flatMap_map, List.flatMap_def, List.map_congr_left hword, ← List.flatMap_def, flatMap_chunks h]

/-- Words of 64 bits are read back from their bytes. -/
theorem map_numAt_wordBytes (h : ∀ w ∈ l, w < 2 ^ 64) : (List.range l.length).map (fun i => numAt (wordBytes l) (8 * i) 8) = l := by
  induction l with
  | nil => rfl
  | cons v r ih =>
    have hv : v < 256 ^ 8 := h v (.head _)
    have hfirst : numAt (wordBytes (v :: r)) (8 * 0) 8 = v := by
      rw [wordBytes_cons, Nat.mul_zero, numAt_append_left leBytes_length, ofLE_leBytes hv]
    have hnext : ∀ i, numAt (wordBytes (v :: r)) (8 * (i + 1)) 8 = numAt (wordBytes r) (8 * i) 8 := fun i => by
      rw [wordBytes_cons, Nat.mul_succ, Nat.add_comm, numAt_append_right leBytes_length]
    rw [List.length_cons, List.range_succ_eq_map, List.map_cons, List.map_map, hfirst]
    exact congrArg (v :: ·) ((List.map_congr_left fun i _ => hnext i).trans (ih fun w hw => h w (.tail _ hw)))

end

/-! ## Packets (R282, R362) -/

section
variable {k : Packet} {tr : Trailer} {rest : List Nat}

/-- Header fields in their places, the CRC above them (R282). -/
def headerFields (k : Packet) : List ((Nat × Nat) × Nat) :=
  [((0, 4), k.cls), ((4, 4), k.ver), ((8, 8), k.op), ((16, 5), k.len), ((21, 3), k.h), ((24, 5), k.order), ((29, 1), b2n k.detour),
   ((30, 2), k.ddim), ((32, 12), k.ddev), ((44, 8), k.dep), ((52, 12), k.sdev), ((64, 8), k.sep), ((72, 16), k.domain), ((88, 16), k.jobtag),
   ((104, 24), k.seq), ((128, 16), k.poison), ((144, 3), k.dval), ((147, 1), b2n k.xcopy), ((148, 3), k.hc), ((151, 9), k.rsvd),
   ((160, 64), k.arg), ((224, 32), k.crc)]

/-- The 256 bits of a packet's header. -/
def headerBits (k : Packet) : Nat := headerNat k k.h k.hc + k.crc * 2 ^ 224

theorem headerBits_eq_placed : headerBits k = placed (headerFields k) := by
  simp only [headerBits, headerNat, headerFields, placed, Nat.add_assoc, Nat.pow_zero, Nat.mul_one, Nat.add_zero]

theorem headerFields_apart : ((headerFields k).map (·.1)).Pairwise Below := by
  show List.Pairwise Below [(0, 4), (4, 4), (8, 8), (16, 5), (21, 3), (24, 5), (29, 1), (30, 2), (32, 12), (44, 8), (52, 12), (64, 8), (72, 16),
    (88, 16), (104, 24), (128, 16), (144, 3), (147, 1), (148, 3), (151, 9), (160, 64), (224, 32)]
  decide

theorem okPacket_bytes (h : okPacket k = true) : k.bytes.length = 128 * k.len := by
  simp only [okPacket, Bool.and_eq_true, decide_eq_true_eq] at h
  exact h.2

theorem headerFields_fit (h : okPacket k = true) : ∀ e ∈ headerFields k, e.2 < 2 ^ e.1.2 := by
  simp only [okPacket, Bool.and_eq_true, decide_eq_true_eq] at h
  simp only [headerFields, List.forall_mem_cons, List.not_mem_nil, false_implies, implies_true, and_true]
  have := b2n_lt (x := k.detour)
  have := b2n_lt (x := k.xcopy)
  omega

/-- A header gives back the packet's fields. -/
theorem packetOf_headerBits (h : okPacket k = true) : packetOf (headerBits k) k.bytes = k := by
  have field : ∀ e ∈ headerFields k, fld (headerBits k) e.1.1 e.1.2 = e.2 := fun e he => by
    rw [headerBits_eq_placed]
    exact fld_placed headerFields_apart (headerFields_fit h) he
  simp only [headerFields, List.forall_mem_cons, List.not_mem_nil, false_implies, implies_true, and_true] at field
  simp only [packetOf, bitAt_eq_fld, field, b2n_beq_one]

theorem headerBits_lt (h : okPacket k = true) : headerBits k < 256 ^ 32 := by
  simp only [okPacket, Bool.and_eq_true, decide_eq_true_eq] at h
  have := b2n_lt (x := k.detour)
  have := b2n_lt (x := k.xcopy)
  simp only [headerBits, headerNat]
  omega

theorem headerBits_len (h : okPacket k = true) : fld (headerBits k) 16 5 = k.len :=
  congrArg Packet.len (packetOf_headerBits h)

/-- Header and lines of a packet as bytes, a whole number of words. -/
def packetBytes (k : Packet) : List Byte := leBytes 32 (headerBits k) ++ k.bytes

theorem packetBytes_length (h : okPacket k = true) : (packetBytes k).length = 8 * (4 + 16 * k.len) := by
  rw [packetBytes, List.length_append, leBytes_length, okPacket_bytes h]
  omega

theorem trailerOf_trailerWord : trailerOf (trailerWord tr) = tr := by cases tr <;> rfl

/-- The data words of a packet give it back, with its trailer and what follows (R282, R362). -/
theorem readPacket_packetWords (h : okPacket k = true) : readPacket (packetWords k tr ++ rest) = some (k, tr, rest) := by
  have hbytes := packetBytes_length h
  have hwords : (wordsOf (packetBytes k)).length = 4 + 16 * k.len := by rw [wordsOf_length, hbytes]; omega
  have hstream : packetWords k tr ++ rest = wordsOf (packetBytes k) ++ trailerWord tr :: rest := by
    rw [packetWords, List.append_assoc]; rfl
  have hheader : wordBytes ((wordsOf (packetBytes k) ++ trailerWord tr :: rest).take 4) = leBytes 32 (headerBits k) := by
    rw [List.take_append_of_le_length (by omega), wordBytes_take, wordBytes_wordsOf hbytes]
    exact List.take_left' leBytes_length
  have hlines : wordBytes (((wordsOf (packetBytes k) ++ trailerWord tr :: rest).drop 4).take (16 * k.len)) = k.bytes := by
    rw [List.drop_append_of_le_length (by omega), List.take_append_of_le_length (by rw [List.length_drop]; omega),
      List.take_of_length_le (by rw [List.length_drop]; omega), wordBytes_drop, wordBytes_wordsOf hbytes]
    exact List.drop_left' leBytes_length
  have htrailer : (wordsOf (packetBytes k) ++ trailerWord tr :: rest).getD (4 + 16 * k.len) 0 = trailerWord tr := by
    rw [← hwords]
    simp
  have hrest : (wordsOf (packetBytes k) ++ trailerWord tr :: rest).drop (5 + 16 * k.len) = rest := by
    rw [show 5 + 16 * k.len = (wordsOf (packetBytes k)).length + 1 by omega, List.drop_length_add_append]
    rfl
  have hwhole : ¬(wordsOf (packetBytes k) ++ trailerWord tr :: rest).length < 5 + 16 * k.len := by
    rw [List.length_append, List.length_cons]
    omega
  rw [hstream]
  simp only [readPacket, hheader, ofLE_leBytes (headerBits_lt h), headerBits_len h, hlines, htrailer, hrest, packetOf_headerBits h,
    trailerOf_trailerWord, if_neg hwhole]

end

/-! ## Superframes (R361) -/

section
variable {ctl : Nat} {data : List Nat}

/-- The data words of a superframe: those to send, then IDLE words. -/
def filled (data : List Nat) : List Nat := data ++ List.replicate (frameWords - data.length) 0

theorem filled_length (h : data.length ≤ frameWords) : (filled data).length = frameWords := by
  rw [filled, List.length_append, List.length_replicate]
  omega

theorem superframe_eq (h : data.length ≤ frameWords) : superframe ctl data = leBytes 8 ctl ++ wordBytes (filled data) := by
  rw [superframe, ← filled, List.take_of_length_le (Nat.le_of_eq (filled_length h))]

theorem superframe_length (h : data.length ≤ frameWords) : (superframe ctl data).length = 1280 := by
  rw [superframe_eq h, List.length_append, leBytes_length, wordBytes_length, filled_length h]
  rfl

/-- A superframe gives back its control word and its data words, IDLE words behind them. -/
theorem frameParts_superframe (hc : ctl < 2 ^ 64) (h : data.length ≤ frameWords) (hd : ∀ w ∈ data, w < 2 ^ 64) :
    frameParts (superframe ctl data) = (ctl, filled data) := by
  have hwords : ∀ w ∈ filled data, w < 2 ^ 64 := by
    intro w hw
    rcases List.mem_append.1 hw with hw | hw
    · exact hd w hw
    · rw [List.eq_of_mem_replicate hw]
      exact Nat.two_pow_pos 64
  have hctl : numAt (leBytes 8 ctl ++ wordBytes (filled data)) 0 8 = ctl := by
    rw [numAt_append_left leBytes_length, ofLE_leBytes hc]
  have hdata := map_numAt_wordBytes hwords
  rw [filled_length h] at hdata
  rw [superframe_eq h, frameParts, hctl]
  simp only [numAt_append_right leBytes_length, hdata]

end

/-! ## Control words (R363, R364, R466) -/

section
variable {w : CtlWord}

/-- A control word's fields in their places: the common part, and above it the body's of its TYPE. -/
def ctlFields (w : CtlWord) : List ((Nat × Nat) × Nat) :=
  ((0, 4), w.type) :: ((4, 1), b2n w.fwd) :: ((6, 8), w.start) :: ((14, 16), w.shared) :: (bodyFields w.type).zip w.body

/-- Every field of a control word fits its place, and its TYPE is none of the reserved. -/
structure CtlWord.Fits (w : CtlWord) : Prop where
  type : w.type ≤ 9
  start : w.start < 256
  shared : w.shared < 65536
  length : w.body.length = (bodyFields w.type).length
  body : ∀ e ∈ (bodyFields w.type).zip w.body, e.2 < 2 ^ e.1.2

/-- Fields that fit, laid in one after the other. -/
theorem foldl_fields {l : List ((Nat × Nat) × Nat)} (v : Nat) (fits : ∀ e ∈ l, e.2 < 2 ^ e.1.2) :
    l.foldl (fun v e => v + e.2 % 2 ^ e.1.2 * 2 ^ e.1.1) v = v + placed l := by
  induction l generalizing v with
  | nil => rfl
  | cons e r ih =>
    rw [List.foldl_cons, ih _ fun x hx => fits x (.tail _ hx), Nat.mod_eq_of_lt (fits e (.head _)), Nat.add_assoc]
    rfl

theorem ctlFields_apart : ∀ t ≤ 9, List.Pairwise Below ((0, 4) :: (4, 1) :: (6, 8) :: (14, 16) :: bodyFields t) := by
  decide

theorem CtlWord.Fits.all (h : w.Fits) : ∀ e ∈ ctlFields w, e.2 < 2 ^ e.1.2 := by
  obtain ⟨ht, hs, hc, -, hb⟩ := h
  simp only [ctlFields, List.forall_mem_cons]
  exact ⟨by omega, b2n_lt, hs, hc, hb⟩

theorem encodeCtl_eq_placed (h : w.Fits) : encodeCtl w = placed (ctlFields w) := by
  obtain ⟨ht, hs, hc, -, hb⟩ := h
  rw [encodeCtl, bodyBits, foldl_fields 0 hb, Nat.mod_eq_of_lt hs, Nat.mod_eq_of_lt hc]
  simp only [ctlFields, placed]
  omega

/-- A control word's 64 bits give back its fields. -/
theorem decodeCtl_encodeCtl (h : w.Fits) : decodeCtl (encodeCtl w) = some w := by
  have hfst : ((bodyFields w.type).zip w.body).map (·.1) = bodyFields w.type := List.map_fst_zip (Nat.le_of_eq h.length.symm)
  have hsnd : ((bodyFields w.type).zip w.body).map (·.2) = w.body := List.map_snd_zip (Nat.le_of_eq h.length)
  have apart : ((ctlFields w).map (·.1)).Pairwise Below := by
    simp only [ctlFields, List.map_cons, hfst]
    exact ctlFields_apart w.type h.type
  have field : ∀ e ∈ ctlFields w, fld (encodeCtl w) e.1.1 e.1.2 = e.2 := fun e he => by
    rw [encodeCtl_eq_placed h]
    exact fld_placed apart h.all he
  simp only [ctlFields, List.forall_mem_cons] at field
  obtain ⟨htype, hfwd, hstart, hshared, hbody⟩ := field
  have hfields : (bodyFields w.type).map (fun f => fld (encodeCtl w) f.1 f.2) = w.body := by
    have hpairs : (((bodyFields w.type).zip w.body).map (·.1)).map (fun f => fld (encodeCtl w) f.1 f.2) =
        ((bodyFields w.type).zip w.body).map (·.2) := by
      rw [List.map_map]
      exact List.map_congr_left hbody
    rwa [hfst, hsnd] at hpairs
  simp only [decodeCtl, htype, if_neg (Nat.not_lt.2 h.type), bitAt_eq_fld, hfwd, b2n_beq_one, hstart, hshared, hfields]

end
end Sys2Proof.Machine

/-! SUPPORT. Packets on a fibre port (R278, R281 to R287): what a port that carries packets does with one that arrives, the flow whose oldest
held packet is overdue, and a link-state notice. -/

namespace Sys2Proof.Machine

/-! ## What ejects (R284, R285, R470) -/

section
variable {s : State} {k : Packet} {port : Option Nat}

theorem eject_not_member (he : s.fleet.epoch ≠ 0) (hm : s.fleet.members.contains k.sdev = false) (hp : isShadowPeer s k.sdev = false) :
    eject port k s = odInc 0x2300 5 8 1 s := if_pos ⟨he, hm, hp⟩

/-- A request from a device that membership does not bar waits for its unit. -/
theorem eject_request (he : s.fleet.epoch = 0) (hc : k.cls = 0) : eject port k s = deliver port (ejectXd s k (port.getD 0 / 8)) k s := by
  unfold eject
  extract_lets xd col
  rw [if_neg (fun h => h.1 he), if_neg (fun h => h.1 hc), if_pos (.inl hc)]

end

/-! ## The way on (R278, R284) -/

section
variable {s : State} {p q d v xd : Nat} {k : Packet}

/-- The packet as it goes on the next hop. -/
def onNext (k : Packet) : Packet := { k with h := k.h + 1, hc := 7 - (k.h + 1) }

/-- Port `q` holds the link of a packet's next hop from this device (R278). -/
def NextPort (s : State) (k : Packet) (q : Nat) : Prop :=
  ∃ d v, nextHop (own s) k.ddev k.order (if k.detour then some (k.ddim, k.dval) else none) = some (d, v) ∧
    holder s d v (if d = 0 ∧ s.fab.shape = 0 then b2n k.xcopy else 0) = some q

theorem onward_carried (hn : NextPort s k q) (hq : portCarries s q = true) (hr : ringJoins s xd (q / 8) = true) :
    ∃ way, onward xd k s = .ok (q, way, (onNext k)) := by
  obtain ⟨d, v, hhop, hhold⟩ := hn
  obtain ⟨way, hway⟩ := Option.isSome_iff_exists.1 hr
  refine ⟨way, ?_⟩
  simp only [onward, hhop, hhold, hway, hq, if_true]
  rfl

theorem onward_lost (hn : NextPort s k q) (hl : portCarries s q = false ∨ ringJoins s xd (q / 8) = false) : onward xd k s = .error q := by
  obtain ⟨d, v, hhop, hhold⟩ := hn
  simp only [onward, hhop, hhold]
  cases hway : ringPath s xd (q / 8) with
  | none => rfl
  | some way =>
    have hq : portCarries s q = false := hl.resolve_right (by simp [ringJoins, hway])
    simp only [hq, Bool.false_eq_true, if_false]

/-- Where nothing is held and nothing hinders it, a packet from port `p` goes at once, and its cells come free. -/
theorem emit_at_once {q' : Port} {way : List Nat} (hw : s.fab.wait = []) (hq : portCarries s q = true)
    (hstart : mayStart (s.port q) (onNext k) = true) (hrate : mayRate (s.port q) (onNext k) = true)
    (hcharge : chargePort (s.port q) (onNext k) .endMark = some q') :
    emit q (onNext k) (some p) xd way s =
      freeCells p (landsShared s p k) k.cls k.h (cells k) { s.modPort q (fun _ => q') with egress := (q, (onNext k), .endMark) :: s.egress } := by
  simp only [emit, hw, List.isEmpty_nil, hq, hstart, hrate, Bool.and_self, if_true, hcharge]
  rfl

end

/-! ## A packet that has arrived whole (R283, R284) -/

section
variable {s : State} {p : Nat} {k : Packet} {tr : Trailer}

theorem arrive_idle {fecBad : Bool} (h : portCarries s p = false ∨ s.fab.fwd ≠ 1) : arrive p k tr fecBad s = s := by
  refine if_pos ?_
  rcases h with h | h <;> simp [h]

/-- The checks of a packet on a port that carries packets, in their order. -/
theorem arrive_carried {fecBad : Bool} (hf : s.fab.fwd = 1) (hp : portCarries s p = true) : arrive p k tr fecBad s =
    if fecBad then crcDiscard p (passCells p k s)
    else if tr = .abortMark then passCells p k s
    else if k.h + k.hc ≠ 7 then crcDiscard p (passCells p k s)
    else if tr = .bad ∨ k.crc ≠ packetCrc k then
      crcDiscard p (if headerOk s k then forwardBroken p k (passCells p k s) else passCells p k s)
    else if !headerOk s k then routeDiscard p (passCells p k s)
    else if k.ddev = own s then
      (if ringJoins s (p / 8) (ejectXd s k (p / 8)) then eject (some p) k (passCells p k s) else routeDiscard p (passCells p k s))
    else forward p k s := if_neg (by simp [hf, hp])

variable (hf : s.fab.fwd = 1) (hp : portCarries s p = true)
include hf hp

theorem arrive_fecBad : arrive p k tr true s = crcDiscard p (passCells p k s) := by
  rw [arrive_carried hf hp, if_pos rfl]

theorem arrive_aborted : arrive p k .abortMark false s = passCells p k s := by
  rw [arrive_carried hf hp, if_neg Bool.false_ne_true, if_pos rfl]

/-- The hop index does not fit its complement. -/
theorem arrive_badHop (ht : tr ≠ .abortMark) (hh : k.h + k.hc ≠ 7) : arrive p k tr false s = crcDiscard p (passCells p k s) := by
  rw [arrive_carried hf hp, if_neg Bool.false_ne_true, if_neg ht, if_pos hh]

/-- The trailer or the CRC is wrong. -/
theorem arrive_broken (ht : tr ≠ .abortMark) (hh : k.h + k.hc = 7) (hb : tr = .bad ∨ k.crc ≠ packetCrc k) : arrive p k tr false s =
    crcDiscard p (if headerOk s k then forwardBroken p k (passCells p k s) else passCells p k s) := by
  rw [arrive_carried hf hp, if_neg Bool.false_ne_true, if_neg ht, if_neg (not_not_intro hh), if_pos hb]

/-- The packet itself is whole. -/
theorem arrive_whole (hh : k.h + k.hc = 7) (hc : k.crc = packetCrc k) : arrive p k .endMark false s =
    if !headerOk s k then routeDiscard p (passCells p k s)
    else if k.ddev = own s then
      (if ringJoins s (p / 8) (ejectXd s k (p / 8)) then eject (some p) k (passCells p k s) else routeDiscard p (passCells p k s))
    else forward p k s := by
  rw [arrive_carried hf hp, if_neg Bool.false_ne_true, if_neg nofun, if_neg (not_not_intro hh), if_neg (not_or.2 ⟨nofun, not_not_intro hc⟩)]

variable (hh : k.h + k.hc = 7) (hc : k.crc = packetCrc k)
include hh hc

theorem arrive_badHeader (ho : headerOk s k = false) : arrive p k .endMark false s = routeDiscard p (passCells p k s) := by
  rw [arrive_whole hf hp hh hc, ho]
  rfl

variable (ho : headerOk s k = true)
include ho

theorem arrive_ejects (hd : k.ddev = own s) (hr : ringJoins s (p / 8) (ejectXd s k (p / 8)) = true) :
    arrive p k .endMark false s = eject (some p) k (passCells p k s) := by
  rw [arrive_whole hf hp hh hc, ho, if_neg (by decide), if_pos hd, if_pos hr]

/-- The ring does not lead to the unit. -/
theorem arrive_unreached (hd : k.ddev = own s) (hr : ringJoins s (p / 8) (ejectXd s k (p / 8)) = false) :
    arrive p k .endMark false s = routeDiscard p (passCells p k s) := by
  rw [arrive_whole hf hp hh hc, ho, if_neg (by decide), if_pos hd, if_neg (Bool.eq_false_iff.1 hr)]

theorem arrive_forwards (hd : k.ddev ≠ own s) : arrive p k .endMark false s = forward p k s := by
  rw [arrive_whole hf hp hh hc, ho, if_neg (by decide), if_neg hd]

end

/-! ### Broken packets (R283, R362) -/

section
variable {s : State} {p q : Nat} {k k' : Packet} {q' : Port} {way : List Nat}

/-- Nothing of it has gone out where it has no lines, is for this device, or would have waited. -/
theorem forwardBroken_held (h : k.len = 0 ∨ k.ddev = own s ∨ s.fab.wait ≠ []) : forwardBroken p k s = s := by
  have hstays : k.len = 0 ∨ k.ddev = own s ∨ (!s.fab.wait.isEmpty) = true := by simpa using h
  rw [forwardBroken, if_pos hstays]

theorem forwardBroken_aborts (hl : k.len ≠ 0) (hd : k.ddev ≠ own s) (hw : s.fab.wait = []) (ho : onward (p / 8) k s = .ok (q, way, k'))
    (hstart : mayStart (s.port q) k' = true) (hrate : mayRate (s.port q) k' = true) (hcharge : chargePort (s.port q) k' .abortMark = some q') :
    forwardBroken p k s = leavePort q q' k' .abortMark s := by
  have hgoes : ¬(k.len = 0 ∨ k.ddev = own s ∨ (!s.fab.wait.isEmpty) = true) := by simp [hl, hd, hw]
  simp only [forwardBroken, if_neg hgoes, ho, hstart, hrate, Bool.and_self, if_true, hcharge]

end

/-! ### Whole packets (R284) -/

section
variable {s : State} {k : Packet}

theorem headerOk_iff : headerOk s k = true ↔ formatOk k = true ∧ k.domain = ownDomain s ∧ hopsOk s k = true := by
  simp only [headerOk, Bool.and_eq_true, beq_iff_eq, and_assoc]

theorem headerOk_false (h : formatOk k = false ∨ k.domain ≠ ownDomain s ∨ hopsOk s k = false) : headerOk s k = false := by
  rw [Bool.eq_false_iff, Ne, headerOk_iff]
  rintro ⟨hformat, hdomain, hhops⟩
  rcases h with h | h | h
  · simp [hformat] at h
  · exact h hdomain
  · simp [hhops] at h

end

/-! ## An overdue flow (R285) -/

section
variable {s : State} {f : Flow} {n q xd sdev sep cls : Nat} {k : Packet}

theorem flowOf_names : (flowOf s cls sdev sep).tag = flowTag s cls ∧ (flowOf s cls sdev sep).sdev = sdev ∧ (flowOf s cls sdev sep).sep = sep := by
  rw [flowOf]
  cases h : s.fab.flows.find? fun f => f.tag == flowTag s cls && f.sdev == sdev && f.sep == sep with
  | none => exact ⟨rfl, rfl, rfl⟩
  | some f =>
    have hf := List.find?_some h
    simp only [Bool.and_eq_true, beq_iff_eq, and_assoc] at hf
    exact hf

/-- A flow that has been set is found again. -/
theorem flowOf_setFlow (ht : f.tag = flowTag s cls) (hd : f.sdev = sdev) (he : f.sep = sep) : flowOf (setFlow f s) cls sdev sep = f := by
  have htag : flowTag (setFlow f s) cls = f.tag := ht.symm
  subst hd he
  rw [flowOf, htag]
  simp [setFlow]

/-- Numbers from the expected one to before the held one, modulo 2^24, leave out the held one. -/
theorem not_mem_seqRun : q ∉ seqRun n ((q + 2 ^ 24 - n) % 2 ^ 24) := by
  simp only [seqRun, List.mem_map, List.mem_range, not_exists, not_and]
  intro i hi
  omega

theorem seqRun_length : (seqRun n q).length = q := by rw [seqRun, List.length_map, List.length_range]

theorem aget_single_other {α : Type} {i j : Nat} {x : α} (h : i ≠ j) : aget i [(j, x)] = none := by
  simp [aget, beq_false_of_ne h.symm]

theorem foldl_fixed_of_mem {α β : Type} {g : β → α → β} {b : β} {l : List α} (h : ∀ a ∈ l, g b a = b) : l.foldl g b = b :=
  List.foldlRecOn l g (motive := (· = b)) rfl fun _ hc a ha => hc.symm ▸ h a ha

/-- A held packet that is the expected one is delivered. -/
theorem releaseHeld_one (hheld : f.held = [(f.expected, xd, k)]) : releaseHeld 1 f s =
    setFlow { f with expected := (f.expected + 1) % 2 ^ 24, held := [] } (deliver none xd k s) := by
  have hfound : aget f.expected [(f.expected, xd, k)] = some (xd, k) := by simp [aget]
  have hgone : adel f.expected [(f.expected, xd, k)] = [] := by simp [adel]
  simp only [releaseHeld, hheld, hfound, hgone]

/-- Of a flow that holds one packet, all the numbers before it are lost, and it is delivered (R285). -/
theorem declareLost_one (hheld : f.held = [(q, xd, k)]) : (declareLost f s).2 =
    setFlow { f with expected := (q + 1) % 2 ^ 24, held := [] }
      (deliver none xd k (odInc 0x2430 1 8 ((q + 2 ^ 24 - f.expected) % 2 ^ 24) s)) := by
  have hout := not_mem_seqRun (n := f.expected) (q := q)
  have hcount := seqRun_length (n := f.expected) (q := (q + 2 ^ 24 - f.expected) % 2 ^ 24)
  simp only [declareLost, hheld]
  generalize seqRun f.expected ((q + 2 ^ 24 - f.expected) % 2 ^ 24) = run at hout hcount ⊢
  have hnone : ∀ i ∈ run, aget i [(q, xd, k)] = none := fun i hi => aget_single_other fun h => hout (h ▸ hi)
  have hlost : run.filter (fun i => (aget i [(q, xd, k)]).isNone) = run := List.filter_eq_self.2 fun i hi => by rw [hnone i hi]; rfl
  have hkept : [(q, xd, k)].filter (fun e => !run.contains e.1) = [(q, xd, k)] := by simp [hout]
  rw [hlost, hcount, hkept, foldl_fixed_of_mem]
  · exact releaseHeld_one (f := { f with expected := q, held := [(q, xd, k)] }) rfl
  · intro i hi
    rw [hnone i hi]

theorem boundGroup_ctl : boundGroup s 10 = none := if_neg (by decide)

/-- A CTL flow whose one held packet is overdue is given up to it. -/
theorem exec_reorderTimeout_ctl (hheld : (flowOf s 10 sdev 0).held = [(q, xd, k)]) :
    exec (.reorderTimeout sdev sep 10) s = .next (declareLost (flowOf s 10 sdev 0) s).2 := by
  show execReorderTimeout sdev sep 10 s = _
  simp only [execReorderTimeout, if_true, hheld, boundGroup_ctl]

end

/-! ## A link-state notice (R281) -/

section
variable {s : State} {k : Packet} {e : Ejected} {bits origin : Nat}

theorem relayNotice_none : relayNotice bits origin 0 s = s := rfl

/-- The notice of another device that is not to be relayed sets that device's bits. -/
theorem exec_linkStateNotice_last (he : (s.inbox.find? fun e => e.pkt == k) = some e) (ho : k.op = 0x40) (hd : k.dep = 0xFC)
    (hother : fld k.arg 32 12 ≠ own s) (hlast : fld k.arg 44 4 = 0) : exec (.linkStateNotice k) s = .next { s with
      inbox := s.inbox.erase e
      fab := { s.fab with linkDown := lset 0 (fld k.arg 32 12) (fld k.arg 0 32) s.fab.linkDown } } := by
  show execLinkStateNotice k s = _
  simp only [execLinkStateNotice, he, ho, hd, and_self, if_true, hother, if_false, hlast, relayNotice_none]

end

/-- Settles O46. Fields in disjoint places are read back (`fld_placed`); the checks of an arrival go in one order (`arrive_carried`); of a flow
that holds one packet every number before it is lost (`declareLost_one`). -/
theorem packetsOnAPort : Obligations.PacketsOnAPort := by
  refine ⟨fun k tr rest h => readPacket_packetWords h, fun ctl data hc hl hd => ⟨superframe_length hl, frameParts_superframe hc hl hd⟩,
    fun s p k hf hp => ?arrives, fun s p k tr b h => congrArg Host.Outcome.next (arrive_idle h), fun s dev sep n q xd k hheld hexp _ _ => ?overdue,
    fun s k e => exec_linkStateNotice_last⟩
  case overdue =>
    obtain ⟨htag, hdev, hsep⟩ := flowOf_names (s := s) (cls := 10) (sdev := dev) (sep := 0)
    have hflow := declareLost_one (s := s) hheld
    rw [hexp] at hflow
    refine ⟨_, exec_reorderTimeout_ctl hheld, ?_⟩
    have hset := flowOf_setFlow (f := { flowOf s 10 dev 0 with expected := (q + 1) % 2 ^ 24, held := [] })
      (s := deliver none xd k (odInc 0x2430 1 8 ((q + 2 ^ 24 - n) % 2 ^ 24) s)) (cls := 10) htag hdev hsep
    rw [hflow]
    refine ⟨rfl, rfl, ?_⟩
    rw [hset]
    exact ⟨rfl, rfl⟩
  case arrives =>
    have out : ∀ {tr b t}, arrive p k tr b s = t → exec (.packetReceive p k tr b) s = .next t := congrArg Host.Outcome.next
    refine ⟨fun tr => out (arrive_fecBad hf hp), out (arrive_aborted hf hp), fun tr ht hh => out (arrive_badHop hf hp ht hh),
      fun tr ht hh hb => ⟨fun h => out ?held, fun q way k' q' h hl hd hw ho hstart hrate hcharge => out ?sent⟩,
      fun hh hc h => out (arrive_badHeader hf hp hh hc (headerOk_false h)), fun hh hc hformat hdomain hhops => ?valid⟩
    case held =>
      rw [arrive_broken hf hp ht hh hb]
      rcases h with h | h
      · rw [h]; rfl
      · rw [forwardBroken_held (s := passCells p k s) h, ite_self]; rfl
    case sent =>
      rw [arrive_broken hf hp ht hh hb, if_pos h, forwardBroken_aborts (s := passCells p k s) hl hd hw ho hstart hrate hcharge]
      rfl
    case valid =>
      have hok := headerOk_iff.2 ⟨hformat, hdomain, hhops⟩
      refine ⟨fun hown hring he hm hs => out ?notMember, fun hown hring => out (arrive_unreached hf hp hh hc hok hown hring),
        fun hown hring he hcls => out ?delivered,
        fun d v q q' k' hother hhop hhold hk => ⟨fun hq hring hw hstart hrate hcharge => out ?forwarded, fun hlost => out ?lost⟩⟩
      case notMember =>
        rw [arrive_ejects hf hp hh hc hok hown hring]
        exact eject_not_member (s := passCells p k s) he hm hs
      case delivered =>
        rw [arrive_ejects hf hp hh hc hok hown hring]
        exact eject_request (s := passCells p k s) he hcls
      case forwarded =>
        subst hk
        obtain ⟨way, ho⟩ := onward_carried ⟨d, v, hhop, hhold⟩ hq hring
        rw [arrive_forwards hf hp hh hc hok hother, forward, ho]
        exact emit_at_once hw hq hstart hrate hcharge
      case lost =>
        rw [arrive_forwards hf hp hh hc hok hother, forward, onward_lost ⟨d, v, hhop, hhold⟩ hlost]
        rfl

end Sys2Proof.Machine

/-! SUPPORT. Control words of a fibre port (R287, R363 to R366, R372, R378, R379, R466): what the service of a port leaves of its links, which
queued word a superframe carries, and what a word that is decoded does to the port that hears it. -/

namespace Sys2Proof.Machine

/-! ## What packets that leave do not touch (R286 to R291) -/

/-- From `s` to `t` the peers' forwarding states and the control words sent stand. -/
structure PeersStand (s t : State) : Prop where
  length : t.ports.length = s.ports.length
  peerFwd : ∀ i, (t.port i).peerFwd = (s.port i).peerFwd
  cwOut : t.cwOut = s.cwOut

namespace PeersStand

variable {s t u : State}

theorem refl : PeersStand s s := ⟨rfl, fun _ => rfl, rfl⟩

theorem trans (h : PeersStand s t) (k : PeersStand t u) : PeersStand s u :=
  ⟨k.length.trans h.length, fun i => (k.peerFwd i).trans (h.peerFwd i), k.cwOut.trans h.cwOut⟩

/-- The same, the later step first: from it the state between is known. -/
theorem after (k : PeersStand t u) (h : PeersStand s t) : PeersStand s u := h.trans k

theorem ite {c : Prop} [Decidable c] (h : PeersStand s t) (k : PeersStand s u) : PeersStand s (if c then t else u) := by
  split
  · exact h
  · exact k

theorem foldl {α : Type} {f : State → α → State} {l : List α} (h : ∀ t a, PeersStand t (f t a)) : PeersStand s (l.foldl f s) :=
  List.foldlRecOn l f (motive := PeersStand s) refl fun t ht a _ => ht.trans (h t a)

/-- A change of one port that keeps its peer's forwarding state. -/
theorem modPort {p : Nat} {f : Port → Port} (h : (f (s.port p)).peerFwd = (s.port p).peerFwd) : PeersStand s (s.modPort p f) := by
  refine ⟨List.length_modify .., fun i => ?_, rfl⟩
  by_cases hi : p = i
  · subst hi
    by_cases hp : p < s.ports.length
    · rw [port_modPort_same hp, h]
    · rw [State.port, State.port, State.modPort_ports, List.modify_eq_self (Nat.le_of_not_lt hp)]
  · rw [port_modPort_other hi]

end PeersStand

section
variable {s t : State} {p n : Nat} {w : Wait} {q q' : Port} {k : Packet} {tr : Trailer}

theorem Reported.ports (h : Reported s t) : t.ports = s.ports := by obtain ⟨m, o, rfl⟩ := h; rfl

theorem Reported.port (h : Reported s t) : t.port p = s.port p := by rw [State.port, h.ports]; rfl

theorem Reported.peersStand (h : Reported s t) : PeersStand s t := by obtain ⟨m, o, rfl⟩ := h; exact ⟨rfl, fun _ => rfl, rfl⟩

theorem leaveRx_peersStand : PeersStand s (leaveRx w s) := by
  unfold leaveRx
  split
  · refine .ite (.modPort ?_) .refl
    dsimp only
    split <;> rfl
  · exact .refl

theorem crossAll_peersStand {done l : List Wait} : PeersStand s (crossAll done l s).2 := by
  induction l generalizing done s with
  | nil => exact .refl
  | cons w r ih => exact .trans (.ite leaveRx_peersStand .refl) ih

theorem settleRing_peersStand : PeersStand s (settleRing s) :=
  (crossAll_peersStand (done := []) (l := s.fab.wait)).trans ⟨rfl, fun _ => rfl, rfl⟩

theorem settleBuffers_peersStand : PeersStand s (settleBuffers s) := settleRing_peersStand.after ⟨rfl, fun _ => rfl, rfl⟩

theorem leavePort_peersStand (h : q.peerFwd = (s.port p).peerFwd) : PeersStand s (leavePort p q k tr s) :=
  (PeersStand.modPort (f := fun _ => q) h).trans ⟨rfl, fun _ => rfl, rfl⟩

theorem takeCells_peerFwd (h : takeCells q k = some q') : q'.peerFwd = q.peerFwd := by
  unfold takeCells at h
  extract_lets n key used at h
  split at h
  · cases h; rfl
  · split at h
    · cases h; rfl
    · cases h

theorem chargePort_peerFwd (h : chargePort q k tr = some q') : q'.peerFwd = q.peerFwd := by
  obtain ⟨r, hr, rfl⟩ := Option.map_eq_some_iff.1 h
  exact takeCells_peerFwd (q' := r) hr

theorem roundRobin_peerFwd {mine : List Wait} (h : roundRobin s mine n q = some (w, q')) : q'.peerFwd = q.peerFwd := by
  induction n generalizing q with
  | zero => cases h
  | succ n ih =>
    have hnext : (nextQueue s mine q).peerFwd = q.peerFwd := rfl
    unfold roundRobin at h
    split at h
    · split at h
      · cases h; rfl
      · exact (ih h).trans hnext
    · exact (ih h).trans hnext

theorem nextOut_peerFwd (h : nextOut s p = some (w, q)) : q.peerFwd = (s.port p).peerFwd := by
  unfold nextOut at h
  extract_lets _ mine at h
  split at h
  · cases h
  · split at h
    · rw [← (Prod.mk.inj (Option.some.inj h)).2]
    · exact roundRobin_peerFwd h

theorem sendOut_peersStand : PeersStand s (sendOut p n s) := by
  induction n generalizing s with
  | zero => exact .refl
  | succ n ih =>
    unfold sendOut
    split
    · exact .refl
    · rename_i w q hout
      split
      · exact .refl
      · rename_i q' hcharge
        have hq : q'.peerFwd = (s.port p).peerFwd := (chargePort_peerFwd hcharge).trans (nextOut_peerFwd hout)
        have hleft : PeersStand s (leavePort p q' w.pkt .endMark { s with fab := { s.fab with wait := s.fab.wait.erase w } }) :=
          (leavePort_peersStand (s := { s with fab := { s.fab with wait := s.fab.wait.erase w } }) hq).after ⟨rfl, fun _ => rfl, rfl⟩
        exact ((hleft.trans leaveRx_peersStand).trans settleBuffers_peersStand).trans ih

theorem noteStall_peersStand : PeersStand s (noteStall s w) := by
  unfold noteStall
  extract_lets q mark _ s1
  have hstall : PeersStand s ({ s with fab := { s.fab with wait := s.fab.wait.map mark } }.modPort w.port fun q =>
      { q with stallReported := true }) := .after (.modPort rfl) ⟨rfl, fun _ => rfl, rfl⟩
  have hcounted : PeersStand s s1 := odInc_reported.peersStand.after hstall
  exact .ite .refl (.ite hcounted (emcy_reported.peersStand.after hcounted))

theorem drainPort_peersStand : PeersStand s (drainPort p s) :=
  (settleBuffers_peersStand.trans sendOut_peersStand).trans (.foldl fun _ _ => noteStall_peersStand)

/-- Where no packet is held, a port has nothing to send. -/
theorem drainPort_empty (h : s.fab.wait = []) : drainPort p s = s := by
  have hfab : { s.fab with wait := [] } = s.fab := by rw [← h]
  have hsettled : settleBuffers s = s := by
    simp only [settleBuffers, settleRing, h, queueUp, crossAll]
    rw [hfab]
  have hnone : atPort s p = [] := by rw [atPort, h]; rfl
  rw [drainPort, hsettled, h]
  show (atPort s p).foldl noteStall s = s
  rw [hnone]
  rfl

end

/-! ## The word that a superframe carries (R363, R365) -/

section
variable {s : State} {p free : Nat} {x : (Nat × List Nat) × Port}

/-- A phase of a swap or drop goes first. -/
theorem chooseWord_phase (h : queuedWord [6, 7] (s.port p) = some x) : chooseWord s p (s.port p) free = x := by
  rw [chooseWord, h, Option.getD_some]

/-- A heartbeat goes before all but those. -/
theorem chooseWord_heartbeat (h : queuedWord [6, 7] (s.port p) = none) (h9 : queuedWord [9] (s.port p) = some x) :
    chooseWord s p (s.port p) free = x := by
  rw [chooseWord, h, Option.getD_none, h9, Option.getD_some]

theorem sendFrame_cwOut : (sendFrame p s).cwOut = (p, encodeCtl
    { type := (chooseWord s p (s.port p) ((nextFreeWord s).1.toNat % 4096)).1.1, fwd := s.fab.fwd == 1, start := startIndex (frameData (s.port p)),
      shared := (s.port p).rxFreedShared, body := (chooseWord s p (s.port p) ((nextFreeWord s).1.toNat % 4096)).1.2 }) :: s.cwOut :=
  drainPort_peersStand.cwOut

end

/-! ## Changes of one port -/

section
variable {s : State} {p : Nat} {f g : Port → Port}

theorem modPort_modPort : (s.modPort p f).modPort p g = s.modPort p fun q => g (f q) := by
  simp only [State.modPort, List.modify_modify_eq]
  rfl

theorem modPort_length : (s.modPort p f).ports.length = s.ports.length := List.length_modify ..

theorem aget_aset_same {α : Type} {k : Nat} {v : α} {l : List (Nat × α)} : aget k (aset k v l) = some v := by
  induction l with
  | nil => simp [aset, aget]
  | cons e r ih =>
    obtain ⟨k', x⟩ := e
    unfold aset
    split
    · simp [aget]
    · rename_i hk
      rw [aget, List.find?_cons_of_neg (by simpa using fun h => hk h.symm), ← aget, ih]

end

/-! ## The common part of a word (R287, R292, R363) -/

section
variable {s : State} {p : Nat} {w : CwHead}

theorem takeFrame_peerFwd {errs : List (Nat × Nat × Nat)} : ((takeFrame p errs s).port p).peerFwd = (s.port p).peerFwd :=
  (PeersStand.modPort rfl).peerFwd p

/-- After its common part the port knows the peer's forwarding state. -/
theorem cwCommon_peerFwd (hp : p < (cwCommon p w s).ports.length) : ((cwCommon p w s).port p).peerFwd = w.fwd := by
  unfold cwCommon at hp ⊢
  extract_lets at hp ⊢
  split at hp
  · rename_i hc
    rw [modPort_length] at hp
    rw [if_pos hc, port_modPort_same hp]
    simp only [Bool.and_eq_true, Bool.not_eq_true'] at hc
    exact hc.2.symm
  · rename_i hc
    rw [drainPort_peersStand.length, modPort_length] at hp
    rw [if_neg hc, drainPort_peersStand.peerFwd, port_modPort_same hp]

/-- A peer that stops forwarding loses its identity. -/
theorem cwCommon_forgets (hp : p < (cwCommon p w s).ports.length) (hq : (s.port p).peerFwd = true) (hw : w.fwd = false) :
    ((cwCommon p w s).port p).ident = none := by
  have hc : ((s.port p).peerFwd && !w.fwd) = true := by rw [hq, hw]; rfl
  unfold cwCommon at hp ⊢
  extract_lets at hp ⊢
  rw [if_pos hc] at hp ⊢
  rw [modPort_length] at hp
  rw [port_modPort_same hp]

end

/-! ## Losses are judged (R372) -/

section
variable {s : State} {p : Nat}

/-- Judging the losses of a port sets its loss word, and reports it. -/
theorem judgeLoss_eq : ∃ v, Reported (s.modPort p fun q => { q with loss := v }) (judgeLoss p s) := by
  unfold judgeLoss
  extract_lets q v s1
  refine ⟨v, ?_⟩
  split
  · exact .refl
  · exact emcy_reported

theorem judgeLoss_mem : (judgeLoss p s).mem = s.mem := by
  obtain ⟨v, hv⟩ := judgeLoss_eq (s := s) (p := p)
  exact hv.mem

/-- A changed port whose losses are judged is the changed one, but for its loss word. -/
theorem judgeLoss_modPort_port {f : Port → Port} (hp : p < s.ports.length) :
    ∃ v, (judgeLoss p (s.modPort p f)).port p = { f (s.port p) with loss := v } := by
  obtain ⟨v, hv⟩ := judgeLoss_eq (s := s.modPort p f) (p := p)
  refine ⟨v, hv.port.trans ?_⟩
  rw [modPort_modPort, port_modPort_same hp]

end

/-! ## What a word of each TYPE does (R287, R364 to R366, R372, R378, R379, R466) -/

section
variable {s u : State} {p l k n : Nat} {w : CwHead} {f : State → State}

theorem commit_eq {x : Shake} : commit p x u = u.modPort p fun q => { q with
    shake := some { x with phase := 2 }
    toSwitch := 64
    cwNext := q.cwNext ++ [(if x.drop then 7 else 6, if x.drop then [x.lane, 2] else [x.lane, x.spare, 2])] } := by
  rw [commit, setShake, modPort_modPort]
  exact modPort_modPort

/-- Port `p` hears a word: its FEC has lock, the word's codeword is decoded, the port does not hear itself; `u` is the state after the word's
common part. -/
structure Hears (p : Nat) (w : CwHead) (s u : State) : Prop where
  lock : (s.port p).fecLock = true
  decoded : decodes (s.port p) w.errs 0 = true
  apart : loopedBack s p = false
  common : cwCommon p w (takeFrame p w.errs s) = u

variable (h : Hears p w s u)
include h

theorem Hears.wordTaken : wordTaken p w s f = f u := by
  obtain ⟨hlock, hdec, hapart, rfl⟩ := h
  exact (if_pos hlock).trans (if_pos (by rw [hdec, hapart]; rfl))

theorem Hears.onWord : onWord p w s f = .next (f u) := congrArg Host.Outcome.next h.wordTaken

theorem Hears.nullWord : exec (.nullWord p w) s = .next (settlePeer p u) := h.onWord

theorem Hears.credit {c : Nat} (hc : c ≤ 10) (h1 : 1 ≤ l) (h5 : l ≤ 5) (hw : u.fab.wait = []) : exec (.credit p w c l n) s =
    .next (u.modPort p fun q => { q with
      credTot := aset (16 * c + l) n q.credTot
      credUsed := aset (16 * c + l) ((aget (16 * c + l) q.credUsed).getD 0 - freedBy n ((aget (16 * c + l) q.credTot).getD 0)) q.credUsed }) := by
  refine h.onWord.trans (congrArg Host.Outcome.next ?_)
  rw [if_neg (by omega)]
  exact drainPort_empty hw

theorem Hears.ident1 {d c shape port : Nat} (hi : (u.port p).id0 = some (d, c)) : exec (.ident1 p w shape port) s =
    .next (settlePeer p (u.modPort p fun q => { q with ident := some { domain := d, coord := c, shape := shape, port := port }, id0 := none })) := by
  refine h.onWord.trans (congrArg Host.Outcome.next ?_)
  simp only [hi]

theorem Hears.echo_reply {time ta now : Nat} (hb : (u.port p).bring = 6) : exec (.echo p w time true ta now) s =
    .next (u.modPort p fun q => { q with echoes := q.echoes ++ [(now + 2 ^ 24 - time % 2 ^ 24) % 2 ^ 24 - ta] }) :=
  h.onWord.trans (congrArg Host.Outcome.next (if_pos hb))

theorem Hears.badControlWord (hn : 9 < n) : exec (.badControlWord p n) s = .next (odInc 0x2901 5 4 1 s) :=
  congrArg Host.Outcome.next (if_pos ⟨h.lock, hn⟩)

/-- The far transmitter's proposal is accepted where no handshake stands. -/
theorem Hears.swap_proposed (hs : (u.port p).rxShake = none) : exec (.swap p w l k 0) s = .next (u.modPort p fun q => { q with
    rxShake := some { drop := false, lane := l, spare := k, phase := 1, proposer := false, why := 0 }
    cwNext := q.cwNext ++ [(6, [l, k, 1])] }) := by
  refine h.onWord.trans (congrArg Host.Outcome.next ?_)
  show acceptShake p (shakeOf false l k 0 0 false) u = _
  rw [acceptShake, hs]
  exact modPort_modPort

/-- The proposed swap is accepted: the transmitter commits it. -/
theorem Hears.swap_accepted {x : Shake} (hs : (u.port p).shake = some x) (hd : x.drop = false) (hp : x.phase = 0) (hl : x.lane = l) :
    exec (.swap p w l k 1) s = .next (u.modPort p fun q => { q with
      shake := some { x with phase := 2 }, toSwitch := 64, cwNext := q.cwNext ++ [(6, [l, x.spare, 2])] }) := by
  have hat : x.isAt false l 0 = true := by simp [Shake.isAt, hd, hp, hl]
  refine h.onWord.trans (congrArg Host.Outcome.next ?_)
  simp only [hs, hat, if_true, commit_eq, hd, hl]
  rfl

theorem Hears.swap_committed {x : Shake} (hs : (u.port p).rxShake = some x) (hd : x.drop = false) (hp : x.phase = 1) (hl : x.lane = l) :
    exec (.swap p w l k 2) s = .next (u.modPort p fun q => { q with rxShake := some { x with phase := 2 } }) := by
  have hat : x.isAt false l 1 = true := by simp [Shake.isAt, hd, hp, hl]
  refine h.onWord.trans (congrArg Host.Outcome.next ?_)
  cases (u.port p).shake <;> simp only [hs, hat, if_true] <;> rfl

theorem Hears.drop_accepted {x : Shake} (hs : (u.port p).shake = some x) (hd : x.drop = true) (hp : x.phase = 0) (hl : x.lane = l) :
    exec (.dropWord p w l 1) s = .next (u.modPort p fun q => { q with
      shake := some { x with phase := 2 }, toSwitch := 64, cwNext := q.cwNext ++ [(7, [l, 2])] }) := by
  have hat : x.isAt true l 0 = true := by simp [Shake.isAt, hd, hp, hl]
  refine h.onWord.trans (congrArg Host.Outcome.next ?_)
  simp only [hs, hat, if_true, commit_eq, hd, hl]

/-- A neighbour that stands is heard again on a port that it is known by. -/
theorem Hears.heartbeat {b kind label e dev : Nat} {c v : Bool} (hpeer : portPeer (u.port p) = some dev) (hst : (neighbour u dev).st = 1)
    (hport : (neighbour u dev).ports.contains p = true) : exec (.heartbeat p w b kind label c v e) s = .next (setNeighbour
      { neighbour u dev with misses := 0, heard := true, st := 1, compute := c, leaving := v, epoch := e,
                             labels := aset kind label (neighbour u dev).labels } u) := by
  refine h.onWord.trans (congrArg Host.Outcome.next ?_)
  simp only [hpeer, hst, hport, if_true]

/-- CAL without corrected symbols: the far reading and the report are kept, and the losses are judged. -/
theorem Hears.cal {x : Int} : exec (.cal p w l 0 x []) s = .next (judgeLoss p (u.modPort p fun q => { q with
    far := aset (32 * 5 + l) x q.far, lastCorr := aset l 0 q.lastCorr })) := by
  refine congrArg (fun t => Host.Outcome.next (judgeLoss p t)) (h.wordTaken.trans ?_)
  rw [trimLane, if_pos (.inl rfl)]
  exact modPort_modPort

theorem Hears.txmon {st : Nat} {x : Int} : exec (.txmon p w l st x []) s =
    .next (judgeLoss p (u.modPort p fun q => { q with far := aset (32 * st + l) x q.far })) :=
  congrArg (fun t => Host.Outcome.next (judgeLoss p t)) h.wordTaken

end

/-- Settles O52. Fields in disjoint places are read back (`decodeCtl_encodeCtl`), the service of a port leaves its peers' states
(`drainPort_peersStand`), and a word that is heard is its meaning on the state after its common part (`Hears.onWord`). -/
theorem controlWords : Obligations.ControlWords := by
  refine ⟨fun w ht hs hc hl hb => decodeCtl_encodeCtl ⟨ht, hs, hc, hl, hb⟩, fun s p w q h => ?sent,
    fun s u p w hlock hdec hapart hu hp => ?heard⟩
  case sent =>
    rw [sendFrame_cwOut]
    rcases h with h | ⟨h, h9⟩
    · rw [chooseWord_phase h]
    · rw [chooseWord_heartbeat h h9]
  case heard =>
    have h : Hears p w s u := ⟨hlock, hdec, hapart, hu⟩
    refine ⟨?peer, fun _ hf hw => ?forgets, h.nullWord, fun c l n hc h1 h5 hw => ⟨_, h.credit hc h1 h5 hw, ?credit⟩, fun d k a => h.onWord,
      fun d k sh n hi => h.ident1 hi, fun time ta now hb => h.echo_reply hb, fun time ta now => h.onWord, fun n hn => h.badControlWord hn,
      fun l x => ⟨_, h.cal, ?cal⟩, fun l st x => ⟨_, h.txmon, ?txmon⟩, fun l k hs => h.swap_proposed hs,
      fun l k x hs hd hph hl => h.swap_accepted hs hd hph hl, fun l k x hs hd hph hl => h.swap_committed hs hd hph hl,
      fun l x hs hd hph hl => h.drop_accepted hs hd hph hl, fun b k l c v e dev hpeer hst hport => h.heartbeat hpeer hst hport⟩
    case peer =>
      subst hu
      exact cwCommon_peerFwd hp
    case forgets =>
      subst hu
      exact cwCommon_forgets hp (takeFrame_peerFwd.trans hf) hw
    case credit =>
      rw [port_modPort_same hp]
      exact ⟨aget_aset_same, aget_aset_same⟩
    case cal =>
      obtain ⟨v, hv⟩ := judgeLoss_modPort_port hp
      rw [hv, judgeLoss_mem]
      exact ⟨aget_aset_same, aget_aset_same, rfl⟩
    case txmon =>
      obtain ⟨v, hv⟩ := judgeLoss_modPort_port hp
      rw [hv, judgeLoss_mem]
      exact ⟨aget_aset_same, rfl⟩

end Sys2Proof.Machine

/-! SUPPORT. Fences that end (R312, R313, R317): the release of a FENCE or a HALT, and the limit that gives up the slots of an epoch. -/

namespace Sys2Proof.Machine

/-! ## The release -/

section
variable {s : State} {c d e outcome : Nat} {f : FenceWait} {k : Core}

theorem exec_fenceComplete (hm : (s.core c).mode = .fencing) (hf : (s.core c).fence = some f) (hk : f.kind ≠ 2)
    (hmet : fenceMet (s.core c) f = true) : exec (.fenceComplete c) s = .next (s.modCore c (fenceRelease f)) := by
  show execFenceComplete c s = _
  rw [execFenceComplete, hf]
  exact congrArg Host.Outcome.next (if_pos ⟨hm, hk, hmet⟩)

/-- A wait without a REMOTE part is over once its queues have completed (R63). -/
theorem fenceMet_local (hi : maskIdle f.mask k = true) (hr : f.remote = false) : fenceMet k f = true := by
  simp [fenceMet, hi, hr]

theorem fenceRelease_local (hk : f.kind = 0) (hc : f.closed = none) :
    fenceRelease f k = { k with mode := .running, pc := k.pc + 1, fence := none } := by
  simp [fenceRelease, hk, hc]

/-- A core at the end of a wait for an epoch: bit 3 of `SQ_STAT` and the report tell of its errors (R312, R317). -/
def epochEnded (e : Nat) (k : Core) : Core := closeBooks e 0 (if epochErr k e then k.setStat 3 else k)

theorem closeBooks_pc : (closeBooks e outcome k).pc = k.pc := by
  unfold closeBooks
  extract_lets bad closed
  split <;> rfl

theorem closeBooks_slots : (closeBooks e outcome k).slots = k.slots := by
  unfold closeBooks
  extract_lets bad closed
  split <;> rfl

theorem epochEnded_pc : (epochEnded e k).pc = k.pc := by
  rw [epochEnded, closeBooks_pc]
  split <;> rfl

theorem fenceRelease_fence (hk : f.kind = 0) (hc : f.closed = some e) :
    fenceRelease f k = { epochEnded e k with mode := .running, pc := k.pc + 1, fence := none } := by
  simp only [fenceRelease, hk, hc, Nat.zero_ne_one, if_false]
  rw [← epochEnded, epochEnded_pc]

theorem fenceRelease_halt (hk : f.kind = 1) (hc : f.closed = some e) : fenceRelease f k = haltCore 0 f.exit (epochEnded e k) := by
  simp only [fenceRelease, hk, hc, if_true]
  rfl

theorem haltCore_exit {code exit : Nat} : (haltCore code exit k).exit = exit := rfl

end

/-! ## The limit -/

section
variable {s : State} {c e i : Nat} {f : FenceWait} {k : Core} {x y : Nat × Slot} {l : List (Nat × Slot)}

theorem noteDest_slots {dev ep : Nat} {g : EpochDest → EpochDest} : (noteDest e dev ep g k).slots = k.slots := by
  unfold noteDest
  split <;> rfl

theorem missSlot_slots {x : Slot} : (missSlot e i x k).slots = k.slots.filter fun y => y.1 != i := by
  have h : (releaseSlot i (noteDest e x.dev x.ep (fun d => { d with missing := d.missing + 1 }) k)).slots = k.slots.filter fun y => y.1 != i :=
    congrArg (List.filter _) noteDest_slots
  unfold missSlot
  extract_lets released
  split <;> exact h

/-- Of the slots that are given up, none stays. -/
theorem mem_slots_of_missed (h : y ∈ (l.foldl (fun k x => missSlot e x.1 x.2 k) k).slots) : y ∈ k.slots ∧ ∀ x ∈ l, y.1 ≠ x.1 := by
  induction l generalizing k with
  | nil => exact ⟨h, nofun⟩
  | cons x l ih =>
    obtain ⟨hy, hl⟩ := ih h
    rw [missSlot_slots, List.mem_filter, bne_iff_ne] at hy
    exact ⟨hy.1, List.forall_mem_cons.2 ⟨hy.2, hl⟩⟩

/-- A core that has given up the slots of an epoch, its books closed at a timeout (R313, R317). -/
def epochMissed (e : Nat) (k : Core) : Core := closeBooks e 1 ((epochSlots k e).foldl (fun k x => missSlot e x.1 x.2 k) k)

theorem epochMissed_slots (h : y ∈ (epochMissed e k).slots) : y.2.epoch ≠ e := by
  rw [epochMissed, closeBooks_slots] at h
  obtain ⟨hy, hl⟩ := mem_slots_of_missed h
  intro he
  exact hl y (List.mem_filter.2 ⟨hy, beq_iff_eq.2 he⟩) rfl

theorem exec_fenceTimeout (hm : (s.core c).mode = .fencing) (hf : (s.core c).fence = some f) (hr : f.remote = true) (hc : f.closed = some e)
    (hs : ∃ x ∈ (s.core c).slots, x.2.epoch = e) : exec (.fenceTimeout c) s =
      .next (stopCore c 0x0C ((odInc 0x2470 0x0A 4 1 s).modCore c fun _ => epochMissed e (s.core c))) := by
  have hheld : (epochSlots (s.core c) e).isEmpty = false := by
    obtain ⟨x, hx, he⟩ := hs
    exact List.isEmpty_eq_false_iff_exists_mem.2 ⟨x, List.mem_filter.2 ⟨hx, beq_iff_eq.2 he⟩⟩
  show execFenceTimeout c s = _
  simp only [execFenceTimeout, hf, hm, hr, hc, Option.getD_some, hheld, Bool.not_false, Bool.or_true, and_self, if_true]
  rfl

theorem stopCore_od {code : Nat} : (stopCore c code s).od = s.od := by
  unfold stopCore
  dsimp only
  split <;> rfl

end

/-- Settles O17. A fence whose wait is met is released by `fenceRelease`; at its limit every slot of the epoch has been given up
(`epochMissed_slots`), and the stop leaves the slots and the count. -/
theorem fenceEnds : Obligations.FenceEnds := by
  intro s c f hm hf
  refine ⟨fun hk hr hc hi => ?queues, fun e hk hr hc hi hs => ?fence, fun e hk hr hc hi hs => ?halt, fun e hr hc hs hlen => ?timeout⟩
  case queues =>
    rw [exec_fenceComplete hm hf (by simp [hk]) (fenceMet_local hi hr)]
    exact congrArg Host.Outcome.next (modCore_congr (fenceRelease_local hk hc))
  case fence =>
    rw [exec_fenceComplete hm hf (by simp [hk]) (fenceMet_closed hi hc hs)]
    exact congrArg Host.Outcome.next (modCore_congr (fenceRelease_fence hk hc))
  case halt =>
    rw [exec_fenceComplete hm hf (by simp [hk]) (fenceMet_closed hi hc hs)]
    refine ⟨_, rfl, fun hlen => ?_, fun d hd => core_modCore_other hd.symm, rfl⟩
    rw [core_modCore_same hlen, fenceRelease_halt hk hc]
    obtain ⟨hmode, hcode, -⟩ := haltCore_stopped (code := 0) (exit := f.exit) (k := epochEnded e (s.core c))
    exact ⟨hmode, hcode, haltCore_exit⟩
  case timeout =>
    rw [exec_fenceTimeout hm hf hr hc hs]
    refine ⟨_, rfl, ?_⟩
    rw [stopCore_core, modCore_modCore, core_modCore_same (s := odInc 0x2470 0x0A 4 1 s) hlen]
    obtain ⟨hmode, hcode, -⟩ := haltCore_stopped (code := 0x0C) (exit := 0) (k := epochMissed e (s.core c))
    exact ⟨hmode, hcode, fun _ => epochMissed_slots, stopCore_od⟩

end Sys2Proof.Machine

/-! SUPPORT. The target of remote accesses (R301 to R305, R318): the checks of a window, what the remote engines make of a request, and the
access of an inbound entry. -/

namespace Sys2Proof.Machine

/-! ## The checks of a window (R301) -/

section
variable {w : Window} {p : Packet}

theorem windowCode_wrongTag (ht : p.jobtag ≠ w.tag) : windowCode w p = 1 := if_pos ht

theorem windowCode_beyond (ht : p.jobtag = w.tag) (hl : w.length < fld p.arg 0 28 + reqLines p) : windowCode w p = 2 := by
  rw [windowCode, if_neg (not_not_intro ht), if_pos hl]

theorem windowCode_denied (ht : p.jobtag = w.tag) (hl : fld p.arg 0 28 + reqLines p ≤ w.length)
    (hp : bitAt w.perm (if p.op = 0 then 0 else 1) = false) : windowCode w p = 3 := by
  rw [windowCode, if_neg (not_not_intro ht), if_neg (Nat.not_lt.2 hl), hp, if_pos (by rfl)]

/-- A window whose format tag is 15 takes lines of any format. -/
theorem windowCode_format (ht : p.jobtag = w.tag) (hl : fld p.arg 0 28 + reqLines p ≤ w.length)
    (hp : bitAt w.perm (if p.op = 0 then 0 else 1) = true) (hf : w.ftag < 16) :
    windowCode w p = if w.ftag = 15 ∨ w.ftag = fld p.arg 42 4 then 0 else 4 := by
  rw [windowCode, if_neg (not_not_intro ht), if_neg (Nat.not_lt.2 hl), hp, if_neg (by decide), Nat.mod_eq_of_lt hf]
  simp only [← not_or, ite_not]

end

/-! ## A request at the remote engines (R301, R303, R318) -/

section
variable {s : State} {e : Ejected} {p : Packet} {n code xd op i : Nat}

theorem pkt_of_find (he : (s.inbox.find? fun e => e.pkt == p && e.xd == xd) = some e) : e.pkt = p := by
  have h := List.find?_some he
  simp only [Bool.and_eq_true, beq_iff_eq] at h
  exact h.1

theorem serveRow_found (he : (s.inbox.find? fun e => e.pkt == p && e.xd == xd) = some e) (ho : p.op = op) :
    serveRow op xd p s = serve e { s with inbox := s.inbox.erase e } := by
  simp only [serveRow, he, if_pos ho]

/-- A window has rejected a request, and told of it if it was its first (R318). -/
def windowRejects (e : Ejected) (n code : Nat) (s : State) : State :=
  if (s.window n).rejected then s
  else emcy 0xFF58 [code, e.pkt.sdev % 256, e.pkt.sdev / 256, n % 256, n / 256]
    { s with windows := aset n { s.window n with rejected := true } s.windows }

/-- Besides the report, the window's own mark is all that changes. -/
theorem windowRejects_frame : ∃ ws m o, windowRejects e n code s = { s with windows := ws, mgmt := m, od := o } ∧
    ((aget n ws).getD {}).rejected = true := by
  unfold windowRejects
  split
  case isTrue h => exact ⟨s.windows, s.mgmt, s.od, rfl, h⟩
  case isFalse =>
    obtain ⟨m, o, h⟩ := emcy_reported (code := 0xFF58) (bytes := [code, e.pkt.sdev % 256, e.pkt.sdev / 256, n % 256, n / 256])
      (s := { s with windows := aset n { s.window n with rejected := true } s.windows })
    exact ⟨_, m, o, h, by rw [aget_aset_same]; rfl⟩

theorem reject_posted (ho : e.pkt.op = 1) : reject e n code s = dropPosted (windowRejects e n code s) := by
  simp only [reject, turnAway, ho, if_true]
  rfl

theorem reject_answered (ho : e.pkt.op ≠ 1) : reject e n code s =
    respond e.pkt e.fromE (rspOp e.pkt) code 0 0 [] (countReject code (windowRejects e n code s)) := by
  simp only [reject, turnAway, ho, if_false]
  rfl

theorem countReject_reported : Reported s (countReject code s) := by
  unfold countReject
  extract_lets v lo
  split
  · exact .refl
  · exact ⟨_, _, rfl⟩

theorem rspOp_read (ho : p.op = 0) : rspOp p = 0x08 := if_pos ho

theorem rspOp_written (ho : p.op ≠ 0) : rspOp p = 0x09 := if_neg ho

/-- A rejected posted WRITE moves nothing and sends nothing; the window is marked. -/
theorem reject_posted_frame (ho : e.pkt.op = 1) : ∃ t, reject e n code s = t ∧ t.mem = s.mem ∧ t.inbound = s.inbound ∧
    t.egress = s.egress ∧ t.eOut = s.eOut ∧ (t.window n).rejected = true := by
  obtain ⟨ws, m, o, hw, hr⟩ := windowRejects_frame (e := e) (n := n) (code := code) (s := s)
  refine ⟨_, rfl, ?_⟩
  rw [reject_posted ho, hw]
  exact ⟨rfl, rfl, rfl, rfl, hr⟩

/-- Any other rejected request moves nothing and is answered with the code. -/
theorem reject_answered_frame (ho : e.pkt.op ≠ 1) : ∃ u, reject e n code s = respond e.pkt e.fromE (rspOp e.pkt) code 0 0 [] u ∧
    u.mem = s.mem ∧ u.inbound = s.inbound := by
  obtain ⟨ws, m, o, hw, -⟩ := windowRejects_frame (e := e) (n := n) (code := code) (s := s)
  obtain ⟨m', o', hc⟩ := countReject_reported (code := code) (s := windowRejects e n code s)
  refine ⟨_, reject_answered ho, ?_⟩
  rw [hc, hw]
  exact ⟨rfl, rfl⟩

/-- The window that a request names (R298). -/
def reqWindow (p : Packet) (s : State) : Window := s.window (fld p.arg 30 12)

/-- The address that it names in the window. -/
def reqAddr (p : Packet) (s : State) : Nat := (reqWindow p s).base + 128 * fld p.arg 0 28

/-- The request's endpoint serves remote accesses (R301). -/
def Serves (p : Packet) (s : State) : Prop := endpointUp s p.dep = true ∧ (p.dep < 0xA0 ∨ p.dep = 0xF4)

variable (hs : Serves e.pkt s)
include hs

theorem serve_eq : serve e s =
    if windowCode (reqWindow e.pkt s) e.pkt ≠ 0 then reject e (fld e.pkt.arg 30 12) (windowCode (reqWindow e.pkt s) e.pkt) s
    else if xdReach s e.xd (reqAddr e.pkt s) (128 * reqLines e.pkt) = false then turnAway e 0x06 s
    else if e.pkt.op = 1 then writeLines (reqAddr e.pkt s) e.pkt s
    else match freeInbound e.xd s with
      | none => turnAway e 0x05 (odInc 0x2470 6 8 1 s)
      | some i => { s with inbound := s.inbound ++ [{ xd := e.xd, entry := i, req := e.pkt, addr := reqAddr e.pkt s, fromE := e.fromE }] } := by
  obtain ⟨hup, hdep⟩ := hs
  refine if_neg ?_
  simp only [hup, Bool.true_eq_false, false_or]
  omega

theorem serve_rejects (hc : windowCode (reqWindow e.pkt s) e.pkt ≠ 0) :
    serve e s = reject e (fld e.pkt.arg 30 12) (windowCode (reqWindow e.pkt s) e.pkt) s := by
  rw [serve_eq hs, if_pos hc]

variable (hc : windowCode (reqWindow e.pkt s) e.pkt = 0) (hx : xdReach s e.xd (reqAddr e.pkt s) (128 * reqLines e.pkt) = true)
include hc hx

theorem serve_write (ho : e.pkt.op = 1) : serve e s = writeLines (reqAddr e.pkt s) e.pkt s := by
  rw [serve_eq hs, if_neg (not_not_intro hc), if_neg (by simp [hx]), if_pos ho]

theorem serve_enters (ho : e.pkt.op ≠ 1) (hi : freeInbound e.xd s = some i) : serve e s = { s with
    inbound := s.inbound ++ [{ xd := e.xd, entry := i, req := e.pkt, addr := reqAddr e.pkt s, fromE := e.fromE }] } := by
  rw [serve_eq hs, if_neg (not_not_intro hc), if_neg (by simp [hx]), if_neg ho, hi]

theorem serve_full (ho : e.pkt.op ≠ 1) (hi : freeInbound e.xd s = none) : serve e s =
    respond e.pkt e.fromE (rspOp e.pkt) 0x05 0 0 [] (odInc 0x2470 6 8 1 s) := by
  rw [serve_eq hs, if_neg (not_not_intro hc), if_neg (by simp [hx]), if_neg ho, hi]
  exact if_neg ho

end

/-! ## The access of an entry (R303 to R305) -/

section
variable {s : State} {a n : Nat}

theorem poisoned_unmarked {l : Nat} (hp : s.poison = []) (hf : s.poisonFlips = []) : poisoned s l = false := by
  simp [poisoned, hp, hf, lget]

/-- Bytes that no running descriptor writes are read as they are (R52). -/
theorem readView_unraced (hr : racesOf [{ lo := a, len := n, wr := false }] (liveSpans s) = []) : readView [(a, n)] s = s := by
  simp only [readView, List.map_cons, List.map_nil, hr, viewRaced, List.foldl_nil]

/-- Lines without marks that no running descriptor writes are read as they are, without a trace. -/
theorem readLines_plain (hp : s.poison = []) (hf : s.poisonFlips = []) (he : s.ecc = [])
    (hr : racesOf [{ lo := a, len := 128 * n, wr := false }] (liveSpans s) = []) :
    readLines a n s = ((List.range n).flatMap fun i => readBytes s (a + 128 * i) 128, 0, s) := by
  have hread : ∀ spans, touchRead spans s = (false, s) := fun _ => touchRead_clean he fun _ => poisoned_unmarked hp hf
  unfold readLines
  rw [readView_unraced hr]
  clear hr
  induction n with
  | zero => rfl
  | succ n ih => simp [List.range_succ, ih, hread]

variable {x : Inbound} {xd : Nat} (hx : (s.inbound.find? fun x => x.xd == xd && x.entry == n) = some x)
include hx

theorem exec_targetAccessComplete_read (ho : x.req.op = 0) (hp : s.poison = []) (hf : s.poisonFlips = []) (he : s.ecc = [])
    (hr : racesOf [{ lo := x.addr, len := 128 * reqLines x.req, wr := false }] (liveSpans s) = []) :
    exec (.targetAccessComplete xd n) s = .next (respond x.req x.fromE 0x08 0 (reqLines x.req) 0
      ((List.range (reqLines x.req)).flatMap fun i => readBytes s (x.addr + 128 * i) 128) { s with inbound := s.inbound.erase x }) := by
  have hlines := readLines_plain (s := { s with inbound := s.inbound.erase x }) hp hf he hr
  show execTargetAccessComplete xd n s = _
  simp only [execTargetAccessComplete, hx, if_pos ho, hlines]
  rfl

theorem exec_targetAccessComplete_written (ho : x.req.op ≠ 0) : exec (.targetAccessComplete xd n) s =
    .next (respond x.req x.fromE 0x09 0 0 0 [] (writeLines x.addr x.req { s with inbound := s.inbound.erase x })) := by
  show execTargetAccessComplete xd n s = _
  simp only [execTargetAccessComplete, hx, if_neg ho]

end

/-- Settles O47. The checks are those of `windowCode` in their order; a request that the window admits is served by `serve_write`,
`serve_enters` or `serve_full`, and one that it rejects only marks the window, counts and answers. -/
theorem remoteTarget : Obligations.RemoteTarget := by
  refine ⟨fun w p => ⟨windowCode_wrongTag, windowCode_beyond, windowCode_denied, windowCode_format⟩,
    fun s xd p e w c he hup hdep hw hc => ?request, fun s xd n x hx => ⟨fun ho hp hf hecc hr => ?read, fun ho => ?written⟩⟩
  case request =>
    obtain rfl := pkt_of_find he
    subst hw hc
    have hs : Serves e.pkt { s with inbox := s.inbox.erase e } := ⟨hup, hdep⟩
    have row : ∀ op, e.pkt.op = op → serveRow op xd e.pkt s = serve e { s with inbox := s.inbox.erase e } := fun _ => serveRow_found he
    have notPosted : ∀ {op}, e.pkt.op = op → op ≠ 1 → e.pkt.op ≠ 1 := fun ho hn h => hn (ho.symm.trans h)
    have answered : ∀ {op}, e.pkt.op = op → op ≠ 1 → windowCode (reqWindow e.pkt s) e.pkt ≠ 0 → ∃ u,
        serveRow op xd e.pkt s = respond e.pkt e.fromE (rspOp e.pkt) (windowCode (reqWindow e.pkt s) e.pkt) 0 0 [] u ∧
          u.mem = s.mem ∧ u.inbound = s.inbound := by
      intro op ho hn hc
      obtain ⟨u, hu, hframe⟩ := reject_answered_frame (notPosted ho hn)
      exact ⟨u, ((row op ho).trans (serve_rejects hs hc)).trans hu, hframe⟩
    refine ⟨fun hc ho hx => ?write, fun i hc ho hx hi => ?readEnters, fun i hc ho hx hi => ?ackEnters, fun hc ho hx hi => ?full,
      fun hc ho => ?dropped, fun hc ho => ?readRejected, fun hc ho => ?ackRejected⟩
    case write => exact congrArg Host.Outcome.next ((row 1 ho).trans (serve_write hs hc hx ho))
    case readEnters => exact congrArg Host.Outcome.next ((row 0 ho).trans (serve_enters hs hc hx (notPosted ho nofun) hi))
    case ackEnters => exact congrArg Host.Outcome.next ((row 2 ho).trans (serve_enters hs hc hx (notPosted ho nofun) hi))
    case full =>
      have h := (row 0 ho).trans (serve_full hs hc hx (notPosted ho nofun) hi)
      rw [rspOp_read ho] at h
      exact congrArg Host.Outcome.next h
    case dropped =>
      obtain ⟨t, ht, hframe⟩ := reject_posted_frame ho
      exact ⟨t, congrArg Host.Outcome.next (((row 1 ho).trans (serve_rejects hs hc)).trans ht), hframe⟩
    case readRejected =>
      obtain ⟨u, hu, hframe⟩ := answered ho nofun hc
      rw [rspOp_read ho] at hu
      exact ⟨u, congrArg Host.Outcome.next hu, hframe⟩
    case ackRejected =>
      obtain ⟨u, hu, hframe⟩ := answered ho nofun hc
      rw [rspOp_written (by simp [ho])] at hu
      exact ⟨u, congrArg Host.Outcome.next hu, hframe⟩
  case read => exact exec_targetAccessComplete_read hx ho hp hf hecc hr
  case written => exact exec_targetAccessComplete_written hx ho

end Sys2Proof.Machine

/-! SUPPORT. The requester of remote accesses (R299, R306 to R309, R314): a slot that ends, the responses that match one, its backoff and its
timeout. -/

namespace Sys2Proof.Machine

/-! ## Runs of the data mover -/

section
variable {s : State} {c i id : Nat} {k : Core} {x : Slot} {g h : Run → Run} {f : Core → Core}

/-- A core with a change to one of its running MOVEs. -/
def onRun (id : Nat) (g : Run → Run) (k : Core) : Core :=
  { k with dm := { k.dm with run := k.dm.run.map fun r => if r.id == id then g r else r } }

/-- A run's lines of a slot that has ended are awaited no more. -/
def Run.unawait (x : Slot) (r : Run) : Run := { r with linesLeft := r.linesLeft - x.lines }

/-- A second change of the same run sees the first. -/
theorem onRun_run_twice {j : Core} (hj : j.dm = (onRun id g k).dm) (hid : ∀ r, (g r).id = r.id) :
    (onRun id h j).dm.run = k.dm.run.map fun r => if r.id == id then h (g r) else r := by
  simp only [onRun, hj, List.map_map]
  refine List.map_congr_left fun r _ => ?_
  rw [Function.comp_apply]
  by_cases hr : (r.id == id) = true
  · rw [if_pos hr, if_pos hr, hid, if_pos hr]
  · rw [if_neg hr, if_neg hr, if_neg hr]

/-- No MOVE of the core waits for slots. -/
def AllIssued (k : Core) : Prop := ∀ r ∈ k.dm.run, r.issued = true

theorem onRun_allIssued (hg : ∀ r, (g r).issued = r.issued) (hk : AllIssued k) : AllIssued (onRun id g k) := by
  refine List.forall_mem_map.2 fun r hr => ?_
  split
  · rw [hg, hk r hr]
  · exact hk r hr

/-- Where no MOVE waits for slots, free slots change nothing. -/
theorem pumpAll_issued (hk : AllIssued (s.core c)) : pumpAll c s = s := by
  have hnone : (s.core c).dm.run.find? (fun r => !r.issued) = none := by
    simpa [List.find?_eq_none, AllIssued] using hk
  show pump (1023 + 1) c s = s
  rw [pump, hnone]

/-! ## A slot that ends (R306) -/

/-- A core whose slot has ended: it is released, and a READ's lines are awaited no more. -/
def slotEnded (i : Nat) (x : Slot) (k : Core) : Core :=
  if x.wr then releaseSlot i k else onRun x.run (Run.unawait x) (releaseSlot i k)

theorem endSlot_eq : endSlot c i x s = s.modCore c (slotEnded i x) := by
  unfold endSlot slotEnded
  split
  · rfl
  · exact modCore_modCore

theorem slotEnded_slots : (slotEnded i x k).slots = k.slots.filter fun y => y.1 != i := by
  unfold slotEnded
  split <;> rfl

theorem slotEnded_read (hr : x.wr = false) : slotEnded i x k = onRun x.run (Run.unawait x) (releaseSlot i k) := by
  rw [slotEnded, hr, if_neg Bool.false_ne_true]

theorem slotEnded_write (hr : x.wr = true) : slotEnded i x k = releaseSlot i k := if_pos hr

theorem slotEnded_allIssued (hk : AllIssued k) : AllIssued (slotEnded i x k) := by
  unfold slotEnded
  split
  · exact hk
  · exact onRun_allIssued (fun _ => rfl) hk

/-- A slot ends after a change of its core that leaves no MOVE waiting: nothing else is issued. -/
theorem pumpAll_endSlot_modCore (hc : c < s.cores.length) (hf : AllIssued (f (s.core c))) :
    pumpAll c (endSlot c i x (s.modCore c f)) = s.modCore c fun k => slotEnded i x (f k) := by
  rw [endSlot_eq, modCore_modCore]
  refine pumpAll_issued ?_
  rw [core_modCore_same hc]
  exact slotEnded_allIssued hf

theorem pumpAll_endSlot (hc : c < s.cores.length) (hk : AllIssued (s.core c)) :
    pumpAll c (endSlot c i x s) = s.modCore c (slotEnded i x) := by
  have h := pumpAll_endSlot_modCore (i := i) (x := x) (f := fun k => k) hc hk
  rwa [modCore_id] at h

end

/-! ## Responses (R299, R307 to R309) -/

section
variable {s : State} {c i : Nat} {p : Packet} {x : Slot} {e : Ejected} {port : Option Nat} {wr : Bool}

/-- The state in which an ejected packet has been taken. -/
def ejectedTaken (e : Ejected) (s : State) : State := { s with inbox := s.inbox.erase e }

theorem matchSlot_ejectedTaken : matchSlot wr p (ejectedTaken e s) = matchSlot wr p s := rfl

theorem exec_readRsp (he : (s.inbox.find? fun e => e.pkt == p) = some e) (ho : p.op = 0x08) :
    exec (.readRsp p) s = .next (response false e.port p (ejectedTaken e s)) := by
  show execReadRsp p s = _
  simp [execReadRsp, takeInbox, ho, he, ejectedTaken]

theorem exec_wackRsp (he : (s.inbox.find? fun e => e.pkt == p) = some e) (ho : p.op = 0x09) :
    exec (.wackRsp p) s = .next (response true e.port p (ejectedTaken e s)) := by
  show execWackRsp p s = _
  simp [execWackRsp, takeInbox, ho, he, ejectedTaken]

theorem response_stale (hm : matchSlot wr p s = none) : response wr port p s = stale s := by
  simp only [response, hm]

/-- The lines of a response have arrived for its MOVE, with their poison (R305, R309). -/
def Run.arrive (p : Packet) (x : Slot) (r : Run) : Run :=
  { r with
    arrived := r.arrived ++ rspLines p x.line
    remPoison := r.remPoison || p.poison != 0
    badLines := r.badLines ++ ((List.range p.len).filter (bitAt p.poison)).map (x.line + ·) }

theorem response_read (hm : matchSlot false p s = some (c, i, x)) (hx : x.cancelled = false) (h0 : fld p.arg 0 8 = 0)
    (hl : p.len = x.lines) : response false port p s = pumpAll c (endSlot c i x (s.modCore c (onRun x.run (Run.arrive p x)))) := by
  simp only [response, hm]
  rw [if_neg (by simp [hl]), if_neg (by simp [hx]), if_pos h0]
  rfl

theorem response_ack (hm : matchSlot true p s = some (c, i, x)) (hx : x.cancelled = false) (h0 : fld p.arg 0 8 = 0) :
    response true port p s = pumpAll c (endSlot c i x s) := by
  simp only [response, hm, hx, h0, Bool.not_true, Bool.false_and, Bool.false_eq_true, if_false, if_true]

/-- A slot whose request was refused waits before it is sent again (R308). -/
def Slot.refused (x : Slot) : Slot := { x with refusals := x.refusals + 1, backoff := true, lastRefused := true }

/-- A core with a refusal noted in the slot and in its epoch's books. -/
def refusalNoted (i : Nat) (x : Slot) (k : Core) : Core :=
  noteDest x.epoch x.dev x.ep (fun d => { d with refused := d.refused + 1 })
    { k with slots := k.slots.map fun y => if y.1 == i then (i, x.refused) else y }

theorem refusalNoted_slots {k : Core} : (refusalNoted i x k).slots = k.slots.map fun y => if y.1 == i then (i, x.refused) else y :=
  noteDest_slots

theorem response_refused (hm : matchSlot wr p s = some (c, i, x)) (hx : x.cancelled = false) (h5 : fld p.arg 0 8 = 5) :
    response wr port p s = (odInc 0x2470 5 8 1
      { s with refusedBy := lset 0 p.sdev (min 0xFFFFFFFF (lget 0 s.refusedBy p.sdev + 1)) s.refusedBy }).modCore c (refusalNoted i x) := by
  simp only [response, hm]
  rw [if_neg (by simp [h5]), if_neg (by simp [hx]), if_neg (by simp [h5]), if_pos h5]
  rfl

end

/-! ## Backoff and timeout (R308, R309) -/

section
variable {s : State} {c i : Nat} {x : Slot}

theorem exec_refuseBackoffExpiry_sent {t : State} (hs : slotOf c i s = some x) (hb : x.backoff = true) (hx : x.cancelled = false)
    (ht : sendRequest c { desc := x.desc, vcode := 0 } (moOf x.desc) x.epoch x.line x.lines i x.gen (s.modCore c fun k =>
      { k with slots := k.slots.map fun e => if e.1 == i then (i, { x with backoff := false }) else e }) = (true, t)) :
    exec (.refuseBackoffExpiry c i) s = .next t := by
  show execRefuseBackoffExpiry c i s = _
  rw [execRefuseBackoffExpiry, hs]
  dsimp only
  rw [if_pos ⟨hb, hx⟩, ht]

/-- The code with which a READ that is out of time ends: REFUSED where that was its last answer, else TIMEOUT (R309). -/
def Slot.timeoutCode (x : Slot) : Nat := if x.lastRefused then 0x05 else 0x10

/-- The timeout is counted, unless the request's last answer was REFUSED (R309). -/
def Slot.countTimeout (x : Slot) (s : State) : State := if x.lastRefused then s else odInc 0x2470 4 4 1 s

theorem countTimeout_reported : Reported s (x.countTimeout s) := by
  unfold Slot.countTimeout
  split
  · exact .refl
  · exact odInc_reported

theorem exec_remoteTimeout_read (hs : slotOf c i s = some x) (hr : x.wr = false) (hx : x.cancelled = false) :
    exec (.remoteTimeout c i) s = .next (pumpAll c (failSlot c i x.timeoutCode x (x.countTimeout s))) := by
  show execRemoteTimeout c i s = _
  simp only [execRemoteTimeout, hs, hr, hx, Bool.false_and, Bool.or_false, Bool.false_eq_true, if_false, Slot.timeoutCode, Slot.countTimeout]
  cases x.lastRefused <;> rfl

/-- A core whose request ended other than OK: `DM_RERR`, its epoch's books and its MOVE tell of it (R312, R315). -/
def errorNoted (code : Nat) (x : Slot) (k : Core) : Core :=
  onRun x.run (fun r => { r with remErr := code }) (noteDest x.epoch x.dev x.ep (fun d => { d with errs := d.errs + 1, last := code })
    (k.setReg 0x84 (code + 256 * x.ep + 65536 * x.dev)))

theorem failSlot_eq {code : Nat} (hx : x.cancelled = false) : failSlot c i code x s = endSlot c i x (s.modCore c (errorNoted code x)) := by
  rw [failSlot, hx, if_neg Bool.false_ne_true]
  exact congrArg _ modCore_modCore

theorem noteDest_dm {e dev ep : Nat} {g : EpochDest → EpochDest} {k : Core} : (noteDest e dev ep g k).dm = k.dm := by
  unfold noteDest
  split <;> rfl

theorem errorNoted_dm {code : Nat} {k : Core} : (errorNoted code x k).dm = (onRun x.run (fun r => { r with remErr := code }) k).dm := by
  simp only [errorNoted, onRun, noteDest_dm]
  rfl

theorem errorNoted_slots {code : Nat} {k : Core} : (errorNoted code x k).slots = k.slots := noteDest_slots

theorem errorNoted_allIssued {code : Nat} {k : Core} (hk : AllIssued k) : AllIssued (errorNoted code x k) := by
  rw [AllIssued, errorNoted_dm]
  exact onRun_allIssued (fun _ => rfl) hk

theorem slotEnded_errorNoted_run {code : Nat} {k : Core} (hr : x.wr = false) : (slotEnded i x (errorNoted code x k)).dm.run =
    k.dm.run.map fun r => if r.id == x.run then { r with remErr := code, linesLeft := r.linesLeft - x.lines } else r := by
  rw [slotEnded_read hr]
  exact onRun_run_twice errorNoted_dm fun _ => rfl

end

/-- Settles O48. Where no MOVE waits for slots, the end of a slot changes its core alone (`pumpAll_endSlot_modCore`). -/
theorem remoteRequester : Obligations.RemoteRequester := by
  intro s p e c i x
  refine ⟨fun he hk hc hx => ⟨fun ho hm => ?stale, fun ho hm hr h0 hl => ?read, fun ho hm hw h0 => ?ack, fun ho hm h5 => ?refused⟩,
    fun hs hb hx t => exec_refuseBackoffExpiry_sent hs hb hx, fun hs hr hx hk hc => ?timeout⟩
  case stale => rw [exec_readRsp he ho, response_stale (matchSlot_ejectedTaken.trans hm), stale, ejectedTaken]
  case read =>
    have hf : AllIssued (onRun x.run (Run.arrive p x) ((ejectedTaken e s).core c)) := onRun_allIssued (fun _ => rfl) hk
    rw [exec_readRsp he ho, response_read (matchSlot_ejectedTaken.trans hm) hx h0 hl, pumpAll_endSlot_modCore (s := ejectedTaken e s) hc hf]
    refine ⟨_, rfl, rfl, rfl, ?_⟩
    rw [core_modCore_same (s := ejectedTaken e s) hc]
    refine ⟨slotEnded_slots, ?_⟩
    rw [slotEnded_read hr]
    exact onRun_run_twice rfl fun _ => rfl
  case ack =>
    rw [exec_wackRsp he ho, response_ack (matchSlot_ejectedTaken.trans hm) hx h0, pumpAll_endSlot (s := ejectedTaken e s) hc hk]
    refine ⟨_, rfl, rfl, rfl, ?_⟩
    rw [core_modCore_same (s := ejectedTaken e s) hc, slotEnded_write hw]
    exact ⟨rfl, rfl⟩
  case refused =>
    rw [exec_wackRsp he ho, response_refused (matchSlot_ejectedTaken.trans hm) hx h5]
    refine ⟨_, rfl, rfl, ?_⟩
    exact (congrArg Core.slots (core_modCore_same hc)).trans refusalNoted_slots
  case timeout =>
    have hcores : (x.countTimeout s).cores = s.cores := countTimeout_reported.cores
    have hcore : (x.countTimeout s).core c = s.core c := by rw [State.core, hcores]; rfl
    have hc' : c < (x.countTimeout s).cores.length := by rwa [hcores]
    have hf : AllIssued (errorNoted x.timeoutCode x ((x.countTimeout s).core c)) := errorNoted_allIssued (by rwa [hcore])
    rw [exec_remoteTimeout_read hs hr hx, failSlot_eq hx, pumpAll_endSlot_modCore hc' hf]
    refine ⟨_, rfl, countTimeout_reported.mem, ?_⟩
    rw [core_modCore_same hc', hcore]
    exact ⟨slotEnded_slots.trans (congrArg _ errorNoted_slots), slotEnded_errorNoted_run hr⟩

end Sys2Proof.Machine

/-! SUPPORT. What traffic, reports and reads leave of the collectives' books: the open operations and the group records. -/

namespace Sys2Proof.Machine

/-- From `s` to `t` the open operations and the group records stand; queues, ports, marks and what is told may change. -/
structure BooksStand (s t : State) : Prop where
  ops : t.ops = s.ops
  groups : t.groups = s.groups

namespace BooksStand

variable {s t u : State}

theorem refl : BooksStand s s := ⟨rfl, rfl⟩

theorem trans (h : BooksStand s t) (k : BooksStand t u) : BooksStand s u := ⟨k.ops.trans h.ops, k.groups.trans h.groups⟩

/-- The same, the later step first: from it the state between is known. -/
theorem after (k : BooksStand t u) (h : BooksStand s t) : BooksStand s u := h.trans k

theorem ite {c : Prop} [Decidable c] (h : BooksStand s t) (k : BooksStand s u) : BooksStand s (if c then t else u) := by
  split
  · exact h
  · exact k

theorem foldl {α : Type} {f : State → α → State} {l : List α} (h : ∀ t a, BooksStand t (f t a)) : BooksStand s (l.foldl f s) :=
  List.foldlRecOn l f (motive := BooksStand s) refl fun t ht a _ => ht.trans (h t a)

end BooksStand

section
variable {s t : State} {g p n l c : Nat} {k : Packet} {w : Wait} {f : Flow} {us : List Nat}

theorem Reported.booksStand (h : Reported s t) : BooksStand s t := by
  obtain ⟨m, o, rfl⟩ := h
  exact ⟨rfl, rfl⟩

theorem odInc_booksStand {i u v : Nat} : BooksStand s (odInc i u n v s) := odInc_reported.booksStand

/-! ## Packets on the ring and at the ports (R285 to R291) -/

theorem leaveRx_booksStand : BooksStand s (leaveRx w s) := by
  unfold leaveRx
  split
  · exact .ite ⟨rfl, rfl⟩ .refl
  · exact .refl

theorem crossAll_booksStand {done l : List Wait} : BooksStand s (crossAll done l s).2 := by
  induction l generalizing done s with
  | nil => exact .refl
  | cons w r ih => exact ih.after (.ite leaveRx_booksStand .refl)

theorem settleRing_booksStand : BooksStand s (settleRing s) :=
  (crossAll_booksStand (done := []) (l := s.fab.wait)).trans ⟨rfl, rfl⟩

theorem settleBuffers_booksStand : BooksStand s (settleBuffers s) := settleRing_booksStand.after ⟨rfl, rfl⟩

theorem sendOut_booksStand : BooksStand s (sendOut p n s) := by
  induction n generalizing s with
  | zero => exact .refl
  | succ n ih =>
    unfold sendOut
    split
    · exact .refl
    · split
      · exact .refl
      · exact ih.after (settleBuffers_booksStand.after (leaveRx_booksStand.after ⟨rfl, rfl⟩))

theorem noteStall_booksStand : BooksStand s (noteStall s w) :=
  .ite .refl (.ite ⟨rfl, rfl⟩ (emcy_reported.booksStand.after ⟨rfl, rfl⟩))

theorem drainPort_booksStand : BooksStand s (drainPort p s) :=
  .after (.foldl fun _ _ => noteStall_booksStand) (sendOut_booksStand.after settleBuffers_booksStand)

theorem emit_booksStand {src : Option Nat} {xd : Nat} {way : List Nat} : BooksStand s (emit p k src xd way s) := by
  unfold emit
  dsimp only
  split
  · exact leaveRx_booksStand.after ⟨rfl, rfl⟩
  · exact drainPort_booksStand.after ⟨rfl, rfl⟩

theorem inject_booksStand : BooksStand s (inject p k s) := .ite emit_booksStand odInc_booksStand

/-! ## Packets that eject (R284, R285) -/

theorem releaseHeld_booksStand : BooksStand s (releaseHeld n f s) := by
  induction n generalizing f s with
  | zero => exact ⟨rfl, rfl⟩
  | succ n ih =>
    unfold releaseHeld
    split
    · exact ih.after ⟨rfl, rfl⟩
    · exact ⟨rfl, rfl⟩

theorem reorder_booksStand {xd : Nat} : BooksStand s (reorder xd k s) :=
  .ite (releaseHeld_booksStand.after ⟨rfl, rfl⟩) (.ite odInc_booksStand (.ite odInc_booksStand ⟨rfl, rfl⟩))

theorem eject_booksStand {port : Option Nat} : BooksStand s (eject port k s) := by
  refine .ite odInc_booksStand (.ite ?_ (.ite ⟨rfl, rfl⟩ (.ite odInc_booksStand reorder_booksStand)))
  split
  · exact odInc_booksStand
  · exact .refl

/-! ## Sending (R278 to R280, R321, R333, R344, R345) -/

theorem chooseRoute_booksStand {b : Nat} {permit : Bool} : BooksStand s (chooseRoute s b permit).2 := by
  unfold chooseRoute
  dsimp only
  split <;> exact ⟨rfl, rfl⟩

theorem send_booksStand {permit : Bool} : BooksStand s (send permit k s).2 := by
  unfold send sendRaw
  extract_lets q
  split
  · exact odInc_booksStand
  split
  · exact .ite (eject_booksStand.after ⟨rfl, rfl⟩) ⟨rfl, rfl⟩
  have routed : BooksStand s (chooseRoute s q.ddev permit).2 := chooseRoute_booksStand
  generalize chooseRoute s q.ddev permit = r at routed
  obtain ⟨_ | ⟨r, x⟩, s1⟩ := r
  · exact routed
  · change BooksStand s s1 at routed
    have numbered : BooksStand s (nextSeq q s1) := routed.trans ⟨rfl, rfl⟩
    dsimp only
    split
    · exact routed
    · split
      · exact inject_booksStand.after numbered
      · exact routed

theorem frameSent_booksStand {out : State → State} (h : ∀ t, BooksStand t (out t)) : BooksStand s (frameSent n out s) :=
  .ite ⟨rfl, rfl⟩ ((h _).after ⟨rfl, rfl⟩)

theorem frameE_booksStand {x : EFrame} : BooksStand s (frameE n x s) := frameSent_booksStand fun _ => ⟨rfl, rfl⟩

theorem datagramE_booksStand {x : Datagram} : BooksStand s (datagramE n x s) := frameSent_booksStand fun _ => ⟨rfl, rfl⟩

theorem sendE_booksStand {bulk : Bool} {addr : List Byte} {udp : Nat} : BooksStand s (sendE n bulk addr udp k s) :=
  .ite datagramE_booksStand (.ite ⟨rfl, rfl⟩ (frameE_booksStand.after ⟨rfl, rfl⟩))

theorem memberSend_booksStand {rank bucket use : Nat} {permit : Bool} : BooksStand s (memberSend p g rank bucket use permit k s) :=
  .ite send_booksStand (sendE_booksStand.after ⟨rfl, rfl⟩)

theorem sendForm_booksStand {rank : Nat} : BooksStand s (sendForm g rank s) := .ite send_booksStand sendE_booksStand

theorem sendAbort_booksStand {bucket use code rank : Nat} : BooksStand s (sendAbort g bucket use code rank s) := by
  unfold sendAbort
  split
  · exact .refl
  · exact .foldl fun _ _ => memberSend_booksStand

/-! ## Reads of memory for their marks, and what a write settles (R196, R245, R246, R458) -/

theorem noteCorrected_booksStand {key b0 b1 : Nat} : BooksStand s (noteCorrected key b0 b1 s) :=
  .ite ⟨rfl, rfl⟩ (.ite ⟨rfl, rfl⟩ (emcy_reported.booksStand.after ⟨rfl, rfl⟩))

theorem recordRow_booksStand : BooksStand s (recordRow c n s) :=
  .ite .refl (.ite (emcy_reported.booksStand.after ⟨rfl, rfl⟩) (emcy_reported.booksStand.after ⟨rfl, rfl⟩))

theorem noteNear_booksStand : BooksStand s (noteNear l c n s) := .ite (recordRow_booksStand.after ⟨rfl, rfl⟩) ⟨rfl, rfl⟩

theorem countCorrected_booksStand : BooksStand s (countCorrected l n s) := by
  unfold countCorrected
  refine .ite .refl ?_
  split
  case h_1 => exact .after (.foldl fun _ _ => noteCorrected_booksStand) ⟨rfl, rfl⟩
  case h_2 => exact noteNear_booksStand.after (noteCorrected_booksStand.after ⟨rfl, rfl⟩)
  case h_3 => exact .after (.foldl fun _ _ => noteCorrected_booksStand) ⟨rfl, rfl⟩
  case h_4 => exact .refl

theorem countUncorrected_booksStand : BooksStand s (countUncorrected l us s) := by
  unfold countUncorrected
  extract_lets counted
  split
  case h_1 => exact emcy_reported.booksStand.after ⟨rfl, rfl⟩
  case h_2 => exact recordRow_booksStand.after (emcy_reported.booksStand.after ⟨rfl, rfl⟩)
  case h_3 => exact emcy_reported.booksStand.after ⟨rfl, rfl⟩
  case h_4 => exact ⟨rfl, rfl⟩

theorem readUnits_booksStand : BooksStand s (readUnits l us s).2 := by
  unfold readUnits
  extract_lets bad corrected uncorrected
  have hcorrected : BooksStand s corrected := countCorrected_booksStand
  have huncorrected : BooksStand s uncorrected := hcorrected.trans countUncorrected_booksStand
  split
  · exact hcorrected
  · exact huncorrected.trans ⟨rfl, rfl⟩

theorem touchRead_booksStand {spans : List (Nat × Nat)} : BooksStand s (touchRead spans s).2 :=
  List.foldlRecOn _ _ (motive := fun a : Bool × State => BooksStand s a.2) .refl fun _ h _ _ => h.trans readUnits_booksStand

theorem settleLine_booksStand {ps : List (Nat × Nat)} {bad : Bool} : BooksStand s (settleLine ps bad l s) := by
  unfold settleLine
  extract_lets cleared part full r _ read
  have hread : BooksStand s read := readUnits_booksStand.trans ⟨rfl, rfl⟩
  exact .ite (.ite ⟨rfl, rfl⟩ ⟨rfl, rfl⟩) (.ite (hread.trans ⟨rfl, rfl⟩) hread)

end

end Sys2Proof.Machine

/-! SUPPORT. The standing of collective operations and of groups: what sending, combining and writing data leave of it, and how an
operation that ends, and a group that faults, change it (R321, R331, R344). -/

namespace Sys2Proof.Machine

/-! ## One group, one operation changed in place -/

section
variable {s : State} {g h : Nat} {f : Group → Group}

theorem group_modGroup_same (hg : g < s.groups.length) : (s.modGroup g f).group g = f (s.group g) := getD_modify_same hg

theorem group_modGroup_other (hh : g ≠ h) : (s.modGroup g f).group h = s.group h := getD_modify_other hh

/-- A change that leaves the record as it is leaves the state as it is. -/
theorem modGroup_fixed (hf : f (s.group g) = s.group g) : s.modGroup g f = s := by
  have hid : s.groups.modify g f = s.groups.modify g id := modify_congr (d := ({} : Group)) hf
  rw [State.modGroup, hid, List.modify_id]

/-- What a change leaves of the record, it leaves of every record. -/
theorem group_modGroup_of_kept {α : Type} {v : Group → α} (hv : v (f (s.group g)) = v (s.group g)) :
    v ((s.modGroup g f).group h) = v (s.group h) := by
  by_cases hh : g = h
  · subst hh
    by_cases hg : g < s.groups.length
    · rw [group_modGroup_same hg, hv]
    · rw [State.modGroup, List.modify_eq_self (Nat.le_of_not_lt hg)]
  · rw [group_modGroup_other hh]

end

/-- What tells an operation from the others, with what it has received and how it has ended. -/
def CollOp.standing (o : CollOp) : (Nat × Nat × Nat) × Option Nat × List (Nat × Nat) × List (Nat × Nat × Nat × Nat) :=
  ((o.g, o.bucket, o.use), o.fin, o.tokens, o.got)

/-- The state of a group record with the fault it reports. -/
def Group.standing (x : Group) : Nat × Nat × Nat := (x.state, x.reason, x.faultRank)

section
variable {s t : State} {o q : CollOp} {f : CollOp → CollOp} {g b u : Nat}

/-- The open operation with an identity is the one that was asked for. -/
theorem findOp_names (h : findOp s g b u = some o) : o.g = g ∧ o.bucket = b ∧ o.use = u := by
  have := List.find?_some h
  simpa [and_assoc] using this

theorem nowOp_of_find (h : findOp s o.g o.bucket o.use = some q) : nowOp o s = q := by rw [nowOp, h, Option.getD_some]

/-- A change that keeps an operation's identity shows when it is looked up. -/
theorem findOp_modOp (hf : ∀ x, ((f x).g, (f x).bucket, (f x).use) = (x.g, x.bucket, x.use)) :
    findOp (modOp o f s) o.g o.bucket o.use = (findOp s o.g o.bucket o.use).map f := by
  simp only [Prod.mk.injEq] at hf
  have same : ∀ x, ((fun x : CollOp => x.g == o.g && x.bucket == o.bucket && x.use == o.use) ∘
      fun x => if x.g == o.g && x.bucket == o.bucket && x.use == o.use then f x else x) x =
      (x.g == o.g && x.bucket == o.bucket && x.use == o.use) := fun x => by
    obtain ⟨hg, hb, hu⟩ := hf x
    simp only [Function.comp_apply]
    split
    · rw [hg, hb, hu]
    · rfl
  rw [findOp, modOp, List.find?_map, funext same]
  cases hx : findOp s o.g o.bucket o.use with
  | none => simp only [findOp] at hx; rw [hx]; rfl
  | some x =>
    have hp := List.find?_some hx
    simp only [findOp] at hx
    rw [hx, Option.map_some, Option.map_some, if_pos hp]

/-- Where the standings agree, so does that of each operation looked up. -/
theorem findOp_standing (h : t.ops.map CollOp.standing = s.ops.map CollOp.standing) :
    (findOp t g b u).map CollOp.standing = (findOp s g b u).map CollOp.standing := by
  have byKey : ∀ r : State, (findOp r g b u).map CollOp.standing = (r.ops.map CollOp.standing).find? fun e => e.1.1 == g && e.1.2.1 == b && e.1.2.2 == u := by
    intro r
    rw [List.find?_map]
    rfl
  rw [byKey, byKey, h]

theorem group_standing (h : t.groups.map Group.standing = s.groups.map Group.standing) : (t.group g).standing = (s.group g).standing := by
  have byIndex : ∀ r : State, (r.group g).standing = (r.groups.map Group.standing).getD g (Group.standing {}) := fun r => by
    rw [State.group, List.getD_map]
  rw [byIndex, byIndex, h]

end

/-! ## What leaves every standing as it is -/

/-- From `s` to `t` no operation begins, ends or receives anything, and no group changes its state. -/
structure Unmoved (s t : State) : Prop where
  ops : t.ops.map CollOp.standing = s.ops.map CollOp.standing
  groups : t.groups.map Group.standing = s.groups.map Group.standing

namespace Unmoved

variable {s t u : State}

theorem refl : Unmoved s s := ⟨rfl, rfl⟩

theorem trans (h : Unmoved s t) (k : Unmoved t u) : Unmoved s u := ⟨k.ops.trans h.ops, k.groups.trans h.groups⟩

/-- The same, the later step first: from it the state between is known. -/
theorem after (k : Unmoved t u) (h : Unmoved s t) : Unmoved s u := h.trans k

theorem ite {c : Prop} [Decidable c] (h : Unmoved s t) (k : Unmoved s u) : Unmoved s (if c then t else u) := by
  split
  · exact h
  · exact k

theorem foldl {α : Type} {f : State → α → State} {l : List α} (h : ∀ t a, Unmoved t (f t a)) : Unmoved s (l.foldl f s) :=
  List.foldlRecOn l f (motive := Unmoved s) refl fun t ht a _ => ht.trans (h t a)

theorem modOp {o : CollOp} {f : CollOp → CollOp} (hf : ∀ x, (f x).standing = x.standing) : Unmoved s (modOp o f s) := by
  refine ⟨?_, rfl⟩
  rw [Machine.modOp, List.map_map]
  refine List.map_congr_left fun x _ => ?_
  rw [Function.comp_apply, apply_ite CollOp.standing, hf, ite_self]

theorem modGroup {g : Nat} {f : Group → Group} (hf : ∀ x, (f x).standing = x.standing) : Unmoved s (s.modGroup g f) := by
  refine ⟨rfl, List.ext_getElem? fun i => ?_⟩
  rw [State.modGroup_groups, List.getElem?_map, List.getElem?_map, List.getElem?_modify]
  cases s.groups[i]? with
  | none => rfl
  | some x => exact congrArg some ((apply_ite Group.standing ..).trans (by rw [hf]; exact ite_self _))

end Unmoved

/-- An operation looked up afterwards stands as before. -/
theorem Unmoved.standing {s t : State} {o q : CollOp} {g b u : Nat} (h : Unmoved s t) (hs : findOp s g b u = some o)
    (ht : findOp t g b u = some q) : q.standing = o.standing := by
  have same := findOp_standing (g := g) (b := b) (u := u) h.ops
  rw [hs, ht] at same
  exact Option.some.inj same

theorem BooksStand.unmoved {s t : State} (h : BooksStand s t) : Unmoved s t := ⟨by rw [h.ops], by rw [h.groups]⟩

section
variable {s : State} {o : CollOp} {v : SegVal} {a : GrantRec} {g n r start pois : Nat} {xs sc : List Nat} {f : Co}

theorem keepVal_unmoved : Unmoved s (keepVal o v s) := .modOp fun _ => rfl

theorem notePois_unmoved : Unmoved s (notePois o pois s) := .ite .refl (.modOp fun _ => rfl)

theorem flagOp_unmoved {sat inexact : Bool} : Unmoved s (flagOp o sat inexact n s) :=
  .ite (.modOp fun _ => rfl) (odInc_booksStand.unmoved.after (.modOp fun _ => rfl))

theorem touchSrc_unmoved : Unmoved s (touchSrc f r start n s) := touchRead_booksStand.unmoved

theorem touchRegion_unmoved {d : Nat} : Unmoved s (touchRegion o d s) := .ite touchSrc_unmoved (.foldl fun _ _ => touchSrc_unmoved)

/-! ## Writing a region of an all-to-all (R338) -/

theorem putOut_unmoved : Unmoved s (putOut o start xs sc pois s) := by
  unfold putOut
  extract_lets f total a b sb rs s1 s2 badLine ls s3 t
  have hs2 : BooksStand s s2 := .ite ⟨rfl, rfl⟩ ⟨rfl, rfl⟩
  have hs3 : BooksStand s2 s3 := .foldl fun _ _ => settleLine_booksStand
  exact (hs2.trans hs3).unmoved.trans (.modOp fun _ => rfl)

theorem putRegion_unmoved {src : Nat} : Unmoved s (putRegion o src xs sc pois s) := putOut_unmoved.after flagOp_unmoved

theorem tryRegion_unmoved {src : Nat} : Unmoved s (tryRegion o src s) := .ite .refl (putRegion_unmoved.after (.modOp fun _ => rfl))

/-! ## Sending what has been granted (R331) -/

theorem ownInput_unmoved : Unmoved s (ownInput o n s).2 := notePois_unmoved.after (flagOp_unmoved.after touchSrc_unmoved)

theorem ownVal_unmoved {l : Nat} : Unmoved s (ownVal o l n s).2 := by
  unfold ownVal
  split
  · exact .refl
  · split
    · exact keepVal_unmoved.after ownInput_unmoved
    · exact .refl

theorem answer_unmoved : Unmoved s (answer o a s).2 := by
  unfold answer
  extract_lets
  split
  · exact notePois_unmoved.after touchRegion_unmoved
  split
  · exact ownVal_unmoved
  split
  · split <;> exact .refl
  split
  · exact notePois_unmoved.after touchSrc_unmoved
  · split <;> exact .refl

theorem freeSent_unmoved : Unmoved s (freeSent o a s) := .ite .refl (.modOp fun _ => rfl)

theorem answerOne_unmoved {peer ep : Nat} : Unmoved s (answerOne g peer ep s).2 := by
  unfold answerOne
  split
  · split
    · exact .refl
    · rename_i a cls _ _ _ o _
      split
      · exact .refl
      · have answered : Unmoved s (answer o a s).2 := answer_unmoved
        split <;> rename_i heq <;> rw [heq] at answered
        · exact answered
        · refine freeSent_unmoved.after (.after (.modOp fun _ => rfl) (.after (.modGroup fun _ => rfl) ?_))
          exact answered.trans (.foldl fun _ _ => memberSend_booksStand.unmoved)
  · exact .refl

theorem answerAll_unmoved {peer xd : Nat} : Unmoved s (answerAll g peer xd n s) := by
  induction n generalizing s with
  | zero => exact .refl
  | succ n ih => exact .ite (ih.after answerOne_unmoved) answerOne_unmoved

theorem pumpGroup_unmoved : Unmoved s (pumpGroup g s) := .foldl fun _ _ => .foldl fun _ _ => answerAll_unmoved

/-- A group of which nothing is asked has nothing to send. -/
theorem pumpGroup_idle (h : (s.group g).asked = []) : pumpGroup g s = s := by
  rw [pumpGroup, h]
  rfl

/-! ## Tokens (R340) -/

theorem pumpTokens_unmoved : Unmoved s (pumpTokens o s) := by
  refine .foldl fun t l => ?_
  extract_lets
  split
  · exact .ite (.after (.foldl fun _ _ => memberSend_booksStand.unmoved) (.modOp fun _ => rfl)) .refl
  · exact .refl

end

/-! ## Operations that end and groups that fault (R344) -/

section
variable {s t : State} {o q : CollOp} {g code reason rank : Nat} {tell : Option Nat}

/-- What an end reports and counts leaves every group's state. -/
theorem endOp_groups : (endOp o code s).groups.map Group.standing = s.groups.map Group.standing := by
  unfold endOp
  split
  · extract_lets s1 s2
    have filtered : Unmoved (modOp o (fun x => { x with fin := some code }) s) s1 := .modGroup fun _ => rfl
    have counted : Unmoved s1 s2 := odInc_booksStand.unmoved
    have told : Unmoved s2 (s2.modGroup o.g fun x => { x with abortReported := true }) := .modGroup fun _ => rfl
    split
    · exact (filtered.trans counted).groups
    · exact ((filtered.trans counted).trans (told.trans emcy_reported.booksStand.unmoved)).groups
  · rfl

/-- An operation that has ended with a code. -/
def CollOp.ended (code : Nat) (o : CollOp) : CollOp := { o with fin := some code }

/-- An open operation that ends shows as ended. -/
theorem findOp_endOp (hf : findOp s o.g o.bucket o.use = some o) (hl : o.live = true) :
    findOp (endOp o code s) o.g o.bucket o.use = some (o.ended code) := by
  have hops : (endOp o code s).ops = (modOp o (CollOp.ended code) s).ops := by
    rw [endOp, nowOp_of_find hf, if_pos hl]
    split
    · rfl
    · exact emcy_reported.booksStand.ops
  have ended : findOp (modOp o (CollOp.ended code) s) o.g o.bucket o.use = some (o.ended code) := by
    rw [findOp_modOp (f := CollOp.ended code) fun _ => rfl, hf]
    rfl
  rw [findOp] at ended ⊢
  rw [hops, ended]

theorem failOpAs_groups : (failOpAs rank o code s).groups.map Group.standing = s.groups.map Group.standing := by
  unfold failOpAs
  split
  · rw [sendAbort_booksStand.groups, endOp_groups]
  · rfl

/-- An open operation that fails here has the code, and its peers are told. -/
theorem failOp_live (hf : findOp s o.g o.bucket o.use = some o) (hl : o.live = true) :
    failOp o code s = sendAbort o.g o.bucket o.use code (myRank s o.g) (endOp o code s) := by
  rw [failOp, failOpAs, nowOp_of_find hf, if_pos hl]

/-- An open operation that fails here shows as ended, also after its peers have been told. -/
theorem findOp_failOp (hf : findOp s o.g o.bucket o.use = some o) (hl : o.live = true) :
    findOp (failOp o code s) o.g o.bucket o.use = some (o.ended code) := by
  have ended := findOp_endOp (code := code) hf hl
  rw [findOp] at ended ⊢
  rw [failOp_live hf hl, sendAbort_booksStand.ops, ended]

/-- The fault that a group takes: its state, the reason and the rank it names. -/
theorem faultGroup_standing (hg : g < s.groups.length) : ((faultGroup g reason rank tell s).group g).standing = (3, reason, rank) := by
  unfold faultGroup
  extract_lets s1
  have taken : (s1.group g).standing = (3, reason, rank) := by
    have told : s1.groups = (s.modGroup g fun x => { x with state := 3, reason := reason, faultRank := rank }).groups :=
      emcy_reported.booksStand.groups
    rw [State.group, told]
    exact congrArg Group.standing (group_modGroup_same hg)
  refine (group_standing ?_).trans taken
  refine List.foldlRecOn (motive := fun t : State => t.groups.map Group.standing = s1.groups.map Group.standing) _ _ rfl fun t ht o _ => ?_
  refine Eq.trans ?_ ht
  split
  · exact failOpAs_groups
  · exact endOp_groups

end

end Sys2Proof.Machine

/-! SUPPORT. The messages of collectives (R324, R330 to R333, R340, R342, R344): what a message in the inbox is handed to, and what each does
to the operation or the group that it names. -/

namespace Sys2Proof.Machine

section
variable {s u : State} {p : Packet} {g r : Nat} {o : CollOp}

/-! ## Which meaning a message has -/

theorem exec_grant_open (hf : takeFlow 0x11 p s = some (g, u)) (hr : senderRank u g p = some r)
    (ho : findOp u g (fld p.arg 0 16) (fld p.arg 16 2) = some o) : exec (.grant p) s = .next (takeGrant o r p u) := by
  show execGrant p s = _
  simp only [execGrant, hf, hr, ho]

theorem exec_grant_unknown (hf : takeFlow 0x11 p s = some (g, u)) (hr : senderRank u g p = some r)
    (hn : findOp u g (fld p.arg 0 16) (fld p.arg 16 2) = none) :
    exec (.grant p) s = .next (if laterUse u g (fld p.arg 0 16) (fld p.arg 16 2) then noteAsked g r p (keepEarly g p u) else u) := by
  show execGrant p s = _
  simp only [execGrant, hf, hr, hn]

theorem exec_token_open (hf : takeFlow 0x13 p s = some (g, u)) (hr : senderRank u g p = some r)
    (ho : findOp u g (fld p.arg 0 16) (fld p.arg 16 2) = some o) : exec (.token p) s = .next (takeToken o r p u) := by
  show execToken p s = _
  simp only [execToken, hf, hr, ho]

theorem exec_token_unknown (hf : takeFlow 0x13 p s = some (g, u)) (hr : senderRank u g p = some r)
    (hn : findOp u g (fld p.arg 0 16) (fld p.arg 16 2) = none) :
    exec (.token p) s = .next (if laterUse u g (fld p.arg 0 16) (fld p.arg 16 2) then keepEarly g p u else u) := by
  show execToken p s = _
  simp only [execToken, hf, hr, hn]

theorem exec_abort (hf : takeFlow 0x12 p s = some (g, u)) (hr : senderRank u g p = some r) :
    exec (.abort p) s = .next (takeAbort g r p u) := by
  show execAbort p s = _
  simp only [execAbort, hf, hr]

theorem exec_data (hf : takeFlow 0x10 p s = some (g, u)) (hr : senderRank u g p = some r) :
    exec (.data p) s = .next (pumpGroup g (takeData g r p u)) := by
  show execData p s = _
  simp only [execData, hf, hr]

end

/-! ## Grants (R324, R330, R331) -/

section
variable {s t : State} {p : Packet} {g b r peer level phase first n cls seg : Nat} {o : CollOp} {f : Group → Group}

/-- The segments that a GRANT names, to be received and not granted before, are granted where there is room, and wait otherwise. -/
theorem exec_grantIssue (ho : (s.ops.find? fun o => o.g == g && o.bucket == b) = some o) (hc : classOf s g = some cls) (hl : o.live = true)
    (h1 : 1 ≤ n) (h64 : n ≤ 64) (hfirst : first < 2 ^ 24)
    (hneeds : ∀ i < n, ((segments o.co (ranksOf s g)).flatMap (needsOf s o)).contains (level, phase, first + i, peer) = true ∧
      o.got.contains (level, phase, first + i, peer) = false ∧
      ∀ r ∈ opGiven s o, ¬(r.peer = peer ∧ r.level = level ∧ r.phase = phase ∧ r.seg = first + i))
    (ht : t = s.modGroup g fun x => { x with given := x.given ++ grantRecs o.bucket o.use peer level phase first n (first % 4) }) :
    exec (.grantIssue g b peer level phase first n) s = .next (
      if grantRoom t o then memberSend (first % 4) g peer o.bucket o.use o.co.det
        (blank cls 0x11 0 (segEngine first) (segEngine first) 0 (grantArg s o level phase first n) 0 []) t
      else odInc 0x2500 7 8 1 s) := by
  have fresh : ((grantRecs o.bucket o.use peer level phase first n (first % 4)).all fun x =>
      ((segments o.co (ranksOf s g)).flatMap (needsOf s o)).contains (level, phase, x.seg, peer) && !o.got.contains (level, phase, x.seg, peer) &&
      !((opGiven s o).any fun r => r.peer == peer && r.level == level && r.phase == phase && r.seg == x.seg)) = true := by
    rw [List.all_eq_true]
    intro x hx
    obtain ⟨i, hi, rfl⟩ := List.mem_map.1 hx
    obtain ⟨needed, missing, ungranted⟩ := hneeds i (List.mem_range.1 hi)
    have none : ((opGiven s o).any fun r => r.peer == peer && r.level == level && r.phase == phase && r.seg == first + i) = false := by
      rw [List.any_eq_false]
      intro r hr heq
      simp only [Bool.and_eq_true, beq_iff_eq, and_assoc] at heq
      exact ungranted r hr heq
    simp only [needed, missing, none]
    rfl
  show execGrantIssue g b peer level phase first n s = _
  subst ht
  simp only [execGrantIssue, ho, hc]
  rw [if_pos ⟨hl, h1, h64, hfirst, fresh⟩, apply_ite Host.Outcome.next]

/-- What a member owes turns on the ranks of the group, not on its messages. -/
theorem owesOf_modGroup (hr : ∀ x, (f x).rank = x.rank) (hn : ∀ x, (f x).ranks = x.ranks) : owesOf (s.modGroup g f) o seg = owesOf s o seg := by
  have rank : ∀ h, ((s.modGroup g f).group h).rank = (s.group h).rank := fun h => group_modGroup_of_kept (hr _)
  have ranks : ∀ h, ((s.modGroup g f).group h).ranks = (s.group h).ranks := fun h => group_modGroup_of_kept (hn _)
  simp only [owesOf, ranksOf, sameBelow, myIndex, idxOf, peerAt, peersAt, levelPeersAt, distTo, distFrom, highestDiff, lowestDiff, myRank, rank, ranks]
  rfl

theorem takeGrant_mismatch (hl : o.live = true) (hc : fld p.arg 52 12 ≠ grantCheck s o) : takeGrant o r p s = failOp o 0x0E s := by
  simp only [takeGrant, hl, Bool.not_true, Bool.false_eq_true, if_false, ne_eq, hc, not_false_eq_true, if_true]

/-- A member that owes nothing and of which nothing is asked drops what a GRANT of its operation asks. -/
theorem takeGrant_nothing_owed (hn : findOp s g (fld p.arg 0 16) (fld p.arg 16 2) = some o) (hl : o.live = true)
    (hc : fld p.arg 52 12 = grantCheck s o) (howes : (segments o.co (ranksOf s o.g)).flatMap (owesOf s o) = []) (ha : (s.group o.g).asked = [])
    (hg : o.g < s.groups.length) :
    takeGrant o r p s = settleAsked o (noteAsked o.g r p s) ∧ ((settleAsked o (noteAsked o.g r p s)).group o.g).asked = [] := by
  obtain ⟨-, hb, hu⟩ := findOp_names hn
  have hg' : o.g < (noteAsked o.g r p s).groups.length := by
    rw [noteAsked, State.modGroup_groups, List.length_modify]
    exact hg
  have noted : ((noteAsked o.g r p s).group o.g).asked = askedBy r p := by
    rw [noteAsked, group_modGroup_same hg, ha]
    rfl
  have owed : (segments o.co (ranksOf (noteAsked o.g r p s) o.g)).flatMap (owesOf (noteAsked o.g r p s) o) = [] := by
    have ranks : ranksOf (noteAsked o.g r p s) o.g = ranksOf s o.g := group_modGroup_of_kept (v := Group.ranks) rfl
    have owes : owesOf (noteAsked o.g r p s) o = owesOf s o := funext fun _ => owesOf_modGroup (fun _ => rfl) fun _ => rfl
    rw [ranks, owes, howes]
  have dropped : ((settleAsked o (noteAsked o.g r p s)).group o.g).asked = [] := by
    rw [settleAsked, group_modGroup_same hg']
    refine List.filter_eq_nil_iff.2 fun x hx => ?_
    rw [noted] at hx
    obtain ⟨i, -, rfl⟩ := List.mem_map.1 hx
    simp [owed, hb, hu]
  refine ⟨?_, dropped⟩
  rw [takeGrant, hl, if_neg (by decide), if_neg (not_not.2 hc), pumpGroup_idle dropped]

end

/-! ## Tokens and ABORTs (R340, R344) -/

/-- An operation that has noted a token. -/
def CollOp.noteToken (level peer : Nat) (o : CollOp) : CollOp := { o with tokens := (level, peer) :: o.tokens }

section
variable {s : State} {p : Packet} {g r : Nat} {o q : CollOp}

theorem pumpTokens_undisturbed : Undisturbed s (pumpTokens o s) := by
  refine .foldl fun t l => ?_
  extract_lets
  split
  · exact .ite (fun _ => .after (.foldl fun _ _ => memberSend_undisturbed) ⟨rfl, rfl, rfl, rfl⟩) fun _ => .refl
  · exact .refl

theorem takeToken_live (hl : o.live = true) : takeToken o r p s = pumpTokens o (modOp o (CollOp.noteToken (fld p.arg 18 3) r) s) := if_pos hl

theorem takeToken_tokens (ho : findOp s o.g o.bucket o.use = some o) (hl : o.live = true)
    (hq : findOp (takeToken o r p s) o.g o.bucket o.use = some q) : q.tokens = (fld p.arg 18 3, r) :: o.tokens := by
  have noted : findOp (modOp o (CollOp.noteToken (fld p.arg 18 3) r) s) o.g o.bucket o.use = some (o.noteToken (fld p.arg 18 3) r) := by
    rw [findOp_modOp (f := CollOp.noteToken (fld p.arg 18 3) r) fun _ => rfl, ho]
    rfl
  rw [takeToken_live hl] at hq
  exact congrArg (fun e => e.2.2.1) (pumpTokens_unmoved.standing noted hq)

/-- An ABORT with another code than GROUP_STATE ends the open operation PEER_ABORT, and is relayed. -/
theorem takeAbort_operation (ho : findOp s g (fld p.arg 0 16) (fld p.arg 16 2) = some o) (hl : o.live = true) (hc : fld p.arg 18 8 ≠ 0x0B) :
    ∃ f, takeAbort g r p s = sendAbort g (fld p.arg 0 16) (fld p.arg 16 2) (fld p.arg 18 8) (fld p.arg 26 18) (endOp o 0x0D (s.modGroup g f)) := by
  have found : ∀ f, findOp (s.modGroup g f) g (fld p.arg 0 16) (fld p.arg 16 2) = some o := fun _ => ho
  simp only [takeAbort, hc, if_false, found, hl, if_true]
  exact ⟨_, rfl⟩

/-- GROUP_STATE in an ABORT faults a READY group. -/
theorem takeAbort_group (hg : (s.group g).state = 2) (hc : fld p.arg 18 8 = 0x0B) :
    ∃ f, takeAbort g r p s = faultGroup g 2 (fld p.arg 26 18) (some (fld p.arg 26 18)) (s.modGroup g f) := by
  rw [takeAbort, if_pos hc]
  exact ⟨_, if_pos ((group_modGroup_of_kept (v := Group.state) rfl).trans hg)⟩

end

/-! ## Data (R331, R332, R338) -/

/-- An operation that has received a segment. -/
def CollOp.receive (x : Nat × Nat × Nat × Nat) (o : CollOp) : CollOp := { o with got := x :: o.got }

section
variable {s : State} {p : Packet} {g r : Nat} {o q : CollOp} {a : GrantRec} {v : SegVal}

/-- DATA that nothing granted is waiting for is counted. -/
theorem takeData_stray (h : ∀ a ∈ (s.group g).given, a.peer ≠ r) : takeData g r p s = odInc 0x2500 6 4 1 s := by
  have none : ((s.group g).given.find? fun a => a.peer == r && 0xF0 + a.ep == p.sep) = none := by
    rw [List.find?_eq_none]
    intro a ha heq
    simp only [Bool.and_eq_true, beq_iff_eq] at heq
    exact h a ha heq.1
  rw [takeData, none]

theorem takeData_broken (ha : ((s.group g).given.find? fun a => a.peer == r && 0xF0 + a.ep == p.sep) = some a)
    (ho : findOp s g a.bucket a.use = some o) (hl : o.live = true) (ht : regionTally 0 p.bytes ≠ p.arg) :
    ∃ f, takeData g r p s = failOp o 0x0F (s.modGroup g f) := by
  rw [takeData, ha]
  simp only [ho, hl, Bool.not_true, Bool.false_eq_true, if_false, ne_eq, ht, not_false_eq_true, if_true]
  exact ⟨_, rfl⟩

theorem takeData_region (ha : ((s.group g).given.find? fun a => a.peer == r && 0xF0 + a.ep == p.sep) = some a)
    (ho : findOp s g a.bucket a.use = some o) (hl : o.live = true) (ht : regionTally 0 p.bytes = p.arg) (h7 : a.level = 7) :
    ∃ v f, takeData g r p s = gotSegment o a v (s.modGroup g f) := by
  rw [takeData, ha]
  simp only [ho, hl, Bool.not_true, Bool.false_eq_true, if_false, ne_eq, ht, not_true_eq_false, h7, if_true]
  exact ⟨_, _, rfl⟩

theorem gotSegment_region (h7 : a.level = 7) : Unmoved (modOp o (CollOp.receive (a.level, a.phase, a.seg, a.peer)) s) (gotSegment o a v s) := by
  unfold gotSegment
  extract_lets f s1
  rw [if_pos h7]
  exact tryRegion_unmoved.after (keepVal_unmoved.after notePois_unmoved)

theorem findOp_receive {x : Nat × Nat × Nat × Nat} (ho : findOp s o.g o.bucket o.use = some o) :
    findOp (modOp o (CollOp.receive x) s) o.g o.bucket o.use = some (o.receive x) := by
  rw [findOp_modOp (f := CollOp.receive x) fun _ => rfl, ho]
  rfl

end

/-! ## A silent peer (R344) -/

section
variable {s : State} {g rank : Nat} {o : CollOp} {a : GrantRec}

theorem exec_latecomerTimeout_granted (hs : (s.group g).state = 2) (ho : o ∈ s.ops) (hg : o.g = g) (hl : o.live = true)
    (ha : a ∈ (s.group g).given) (hp : a.peer = rank) (hb : a.bucket = o.bucket) (hu : a.use = o.use) :
    exec (.latecomerTimeout g rank) s = .next (pumpGroup g (faultGroup g 2 rank (some (myRank s g)) s)) := by
  have granted : ((s.group g).given.any fun r => r.peer == rank && r.bucket == o.bucket && r.use == o.use) = true :=
    List.any_eq_true.2 ⟨a, ha, by simp [hp, hb, hu]⟩
  have waits : ∀ w : CollOp → Bool, (s.ops.any fun o => o.g == g && o.live &&
      (((s.group g).given.any fun r => r.peer == rank && r.bucket == o.bucket && r.use == o.use) || w o)) = true := fun w =>
    List.any_eq_true.2 ⟨o, ho, by simp [hg, hl, granted]⟩
  show execLatecomerTimeout g rank s = _
  unfold execLatecomerTimeout
  simp only [Bool.or_assoc]
  rw [if_pos ⟨hs, waits _⟩]

end

/-- Settles O49. A message is handed to its operation or its group; what follows it (`pumpGroup`, `pumpTokens`, the relay of an ABORT) moves
no operation's standing and no group's state (`Unmoved`). -/
theorem collectiveMessages : Obligations.CollectiveMessages := by
  refine ⟨fun s t g b peer level phase first n cls o ho hc hl h1 h64 hf hneeds ht => ?issue, fun s u p g r hflow hr hlen => ?arrive,
    fun s g rank o a hlen hs ho hg hl ha hp hb hu => ?late⟩
  case issue =>
    rw [exec_grantIssue ho hc hl h1 h64 hf hneeds ht]
    exact ⟨fun room => by rw [if_pos room], fun full => by rw [if_neg (by simp [full])]⟩
  case late =>
    refine ⟨_, exec_latecomerTimeout_granted hs ho hg hl ha hp hb hu, ?_⟩
    have faulted := faultGroup_standing (reason := 2) (rank := rank) (tell := some (myRank s g)) hlen
    have sent := group_standing (g := g) (pumpGroup_unmoved (s := faultGroup g 2 rank (some (myRank s g)) s) (g := g)).groups
    simpa [Group.standing] using sent.trans faulted
  case arrive =>
    refine ⟨fun hn hlater => ⟨fun hop => ?_, fun hop => ?_⟩, fun hn hnever => ⟨fun hop => ?_, fun hop => ?_⟩, fun o ho hl => ?opened,
      fun hop hc hs => ?faults, fun hop hgiven hasked => ?stray, fun a o hop ha ho hl => ?data⟩
    · rw [exec_grant_unknown (hop ▸ hflow) hr hn, if_pos hlater]
      rfl
    · rw [exec_token_unknown (hop ▸ hflow) hr hn, if_pos hlater]
      rfl
    · rw [exec_grant_unknown (hop ▸ hflow) hr hn, if_neg (by simp [hnever])]
    · rw [exec_token_unknown (hop ▸ hflow) hr hn, if_neg (by simp [hnever])]
    case opened =>
      have names := findOp_names ho
      have found : findOp u o.g o.bucket o.use = some o := by
        obtain ⟨hg, hb, hu⟩ := names
        rw [hg, hb, hu, ho]
      obtain ⟨rfl, hb, hu⟩ := names
      refine ⟨fun hop hm => ?mismatch, fun hop hm howes ha hg => ?owed, fun hop => ?token, fun hop hc => ?aborted⟩
      case mismatch => rw [exec_grant_open (hop ▸ hflow) hr ho, takeGrant_mismatch hl hm]
      case owed =>
        obtain ⟨taken, dropped⟩ := takeGrant_nothing_owed (r := r) ho hl hm howes ha hg
        rw [exec_grant_open (hop ▸ hflow) hr ho, taken]
        exact ⟨_, rfl, rfl, dropped, rfl⟩
      case token =>
        refine ⟨_, exec_token_open (hop ▸ hflow) hr ho, ?_, fun q hq => ?_⟩
        · rw [takeToken_live hl, pumpTokens_undisturbed.mem]
          rfl
        · rw [← hb, ← hu] at hq
          exact takeToken_tokens found hl hq
      case aborted =>
        obtain ⟨f, taken⟩ := takeAbort_operation (r := r) ho hl hc
        rw [exec_abort (hop ▸ hflow) hr, taken]
        refine ⟨_, rfl, ?_, fun q hq => ?_⟩
        · rw [sendAbort_undisturbed.mem, endOp_undisturbed.mem]
          rfl
        · rw [← hb, ← hu] at hq
          exact congrArg (fun e => e.2.1) (sendAbort_booksStand.unmoved.standing (findOp_endOp (s := u.modGroup o.g f) found hl) hq)
    case faults =>
      obtain ⟨f, taken⟩ := takeAbort_group (r := r) hs hc
      have hlen' : g < (u.modGroup g f).groups.length := by
        rw [State.modGroup_groups, List.length_modify]
        exact hlen
      rw [exec_abort (hop ▸ hflow) hr, taken]
      refine ⟨_, rfl, ?_⟩
      simpa [Group.standing] using faultGroup_standing (reason := 2) (rank := fld p.arg 26 18) (tell := some (fld p.arg 26 18)) hlen'
    case stray =>
      rw [exec_data (hop ▸ hflow) hr, takeData_stray hgiven]
      exact congrArg _ (pumpGroup_idle hasked)
    case data =>
      have names := findOp_names ho
      have found : ∀ f, findOp (u.modGroup g f) o.g o.bucket o.use = some o := by
        obtain ⟨hg, hb, hu⟩ := names
        rw [hg, hb, hu]
        exact fun _ => ho
      obtain ⟨rfl, hb, hu⟩ := names
      refine ⟨fun ht => ?broken, fun ht h7 => ?region⟩
      case broken =>
        obtain ⟨f, taken⟩ := takeData_broken ha ho hl ht
        rw [exec_data (hop ▸ hflow) hr, taken]
        refine ⟨_, rfl, fun q hq => ?_⟩
        rw [← hb, ← hu] at hq
        exact congrArg (fun e => e.2.1) (pumpGroup_unmoved.standing (findOp_failOp (found f) hl) hq)
      case region =>
        obtain ⟨v, f, taken⟩ := takeData_region ha ho hl ht h7
        rw [exec_data (hop ▸ hflow) hr, taken]
        refine ⟨_, rfl, fun q hq => ?_⟩
        rw [← hb, ← hu] at hq
        have got := ((gotSegment_region h7).trans pumpGroup_unmoved).standing (findOp_receive (found f)) hq
        have hgot : q.got = (a.level, a.phase, a.seg, a.peer) :: o.got := congrArg (fun e => e.2.2.2) got
        simp [hgot, h7]

end Sys2Proof.Machine

/-! SUPPORT. Datagrams between domains (R345): what is kept of a flow, what a datagram for a known neighbour leaves, and what a retransmission
reads again after it has been counted. -/

namespace Sys2Proof.Machine

section
variable {α : Type} [DecidableEq α] {d e v : α} {k j : Nat} {l : List (Nat × α)}

/-- Setting a key to another value than its default leaves every other key, whatever the table and the other key's default. -/
theorem lget_lset_other (hv : v ≠ d) (hk : k ≠ j) : lget e (lset d j v l) k = lget e l k := by
  induction l with
  | nil => simp [lset, lget, hv, hk]
  | cons x r ih =>
    obtain ⟨k', x⟩ := x
    unfold lset
    rw [if_neg hv, if_neg hv]
    split
    · rw [lget, if_neg hk]
      split
      · rw [lget, if_pos (Nat.lt_trans ‹k < j› ‹j < k'›)]
      · rfl
    · split
      · subst j
        rw [lget, lget, if_neg hk, if_neg hk]
      · simp only [lget, ih]

end

/-! ## The flow kept of a peer -/

section
variable {s : State} {g peer seq port : Nat} {x : XFlow} {p : Packet} {o : CollOp} {u : Unacked}

theorem xflowOf_names : (xflowOf s g peer).g = g ∧ (xflowOf s g peer).peer = peer := by
  unfold xflowOf
  cases h : s.xflows.find? fun x => x.g == g && x.peer == peer with
  | none => exact ⟨rfl, rfl⟩
  | some x => simpa using List.find?_some h

theorem xflowOf_setXflow (hg : x.g = g) (hp : x.peer = peer) : xflowOf (setXflow x s) g peer = x := by
  simp [xflowOf, setXflow, hg, hp]

/-! ## A datagram for a known neighbour on a port that is not dark (R380 to R382) -/

theorem sendE_known {bulk : Bool} {addr : List Byte} {udp : Nat} (hn : (s.eport port).neighbours.contains addr = true)
    (hd : (s.eport port).darkUntil ≤ s.now) : sendE port bulk addr udp p s =
      { s.modEport port (fun e => { e with tx := e.tx + 1 }) with eOut := (port, encapsulate s bulk addr udp p) :: s.eOut } := by
  rw [sendE, if_pos hn, datagramE, frameSent, if_neg (Nat.not_lt.2 hd)]
  rfl

/-! ## The timer and XACK -/

theorem exec_xackTimer_known {cls : Nat} (hc : classOf s g = some cls) (ha : (xflowOf s g peer).sinceAck ≠ 0)
    (hd : (s.eport 0).darkUntil ≤ s.now) (hn : (s.eport 0).neighbours.contains (xpeer s (memberDom s g peer)).1 = true)
    (hp : p = { blank cls 0x18 0 0xF0 0xF0 (memberDev s g peer) (xackArg (xflowOf s g peer)) 0 [] with
      domain := ownDomain s, sdev := own s, jobtag := odGet s 0x2300 2 }) :
    exec (.xackTimer g peer) s = .next { (setXflow { xflowOf s g peer with sinceAck := 0 } s).modEport 0 (fun e => { e with tx := e.tx + 1 }) with
      eOut := (0, encapsulate s false (xpeer s (memberDom s g peer)).1 (xpeer s (memberDom s g peer)).2.1 p) :: s.eOut } := by
  subst hp
  show Host.Outcome.next _ = _
  rw [if_neg ha, sendXack, hc]
  exact congrArg _ (sendE_known (s := setXflow { xflowOf s g peer with sinceAck := 0 } s) hn hd)

/-- An XACK whose map is empty drops what lies before its number, and sends nothing again. -/
theorem exec_xack_below {e : Ejected} (he : (s.inbox.find? fun e => e.pkt == p && e.fromE.isSome) = some e) (hop : p.op = 0x18)
    (hb : boundGroup s p.cls = some g) (hr : senderRank s g p = some peer) (hm : fld p.arg 24 40 = 0) :
    exec (.xack p) s = .next (setXflow { xflowOf s g peer with
      unacked := (xflowOf s g peer).unacked.filter fun u => decide ((u.seq + 2 ^ 24 - fld p.arg 0 24) % 2 ^ 24 < 2 ^ 23) }
      { s with inbox := s.inbox.erase e }) := by
  have hr' : senderRank { s with inbox := s.inbox.erase e } g p = some peer := hr
  have empty : ∀ i, bitAt 0 i = false := fun i => by simp [bitAt]
  have kept : ∀ q, (!(decide (2 ^ 23 ≤ q) || decide (1 ≤ q) && decide (q ≤ 40) && bitAt 0 (q - 1))) = decide (q < 2 ^ 23) := fun q => by
    rw [empty, Bool.and_false, Bool.or_false, ← decide_not]
    exact decide_eq_decide.2 Nat.not_le
  have top : (List.range 40).foldl (fun m i => if bitAt 0 i then i + 1 else m) 0 = 0 := by simp [empty]
  show execXack p s = _
  simp only [execXack, he, hb, hop, hr', hm, top, kept, ne_eq, not_true_eq_false, if_false, Nat.not_lt_zero, decide_false,
    List.filter_false, List.foldl_nil]
  rfl

/-! ## A datagram that is overdue -/

/-- A flow one of whose datagrams has been sent once more. -/
def XFlow.resent (seq : Nat) (x : XFlow) : XFlow :=
  { x with unacked := x.unacked.map fun v => if v.seq == seq then { v with tries := v.tries + 1 } else v }

/-- A flow that has given a datagram up. -/
def XFlow.givenUp (seq : Nat) (x : XFlow) : XFlow := { x with unacked := x.unacked.filter fun v => v.seq != seq }

theorem retransmit_again (hu : ((xflowOf s g peer).unacked.find? fun u => u.seq == seq) = some u) (ht : u.tries < odGet s 0x2520 2) :
    retransmit g peer seq s = xdomPut u.port g peer u.pkt (odInc 0x2520 3 8 1 (setXflow ((xflowOf s g peer).resent seq) s)) := by
  rw [retransmit, hu]
  exact if_neg (Nat.not_le.2 ht)

theorem retransmit_givenUp (hu : ((xflowOf s g peer).unacked.find? fun u => u.seq == seq) = some u) (ht : odGet s 0x2520 2 ≤ u.tries)
    (ho : findOp s g u.bucket u.use = some o) :
    retransmit g peer seq s = failOp o 0x0C (setXflow ((xflowOf s g peer).givenUp seq) s) := by
  have ho' : findOp (setXflow ((xflowOf s g peer).givenUp seq) s) g u.bucket u.use = some o := ho
  simp only [retransmit, hu, ht, if_true]
  rw [XFlow.givenUp] at ho' ⊢
  rw [ho']

/-- The count of retransmissions is one entry: every other entry of the dictionary reads as before. -/
theorem odGet_retransmitted {i v : Nat} (h : odKey i v ≠ odKey 0x2520 3) : odGet (odInc 0x2520 3 8 1 s) i v = odGet s i v := by
  have hdef : odDefault 0x2520 3 = 0 := by decide +kernel
  have counted : min (256 ^ 8 - 1) (odGet s 0x2520 3 + 1) ≠ 0 := by omega
  rw [odGet, odInc, odSet, hdef]
  exact lget_lset_other counted h

theorem xpeer_retransmitted {k : Nat} : xpeer (odInc 0x2520 3 8 1 s) k = xpeer s k := by
  rw [xpeer, odGet_retransmitted (by unfold odKey; omega)]
  rfl

/-- Of a group record: the first sixteen lie apart from that count, which is what a seventeenth would have for its number of domains. -/
theorem memberDom_retransmitted (hg : g ≠ 16) : memberDom (odInc 0x2520 3 8 1 s) g peer = memberDom s g peer := by
  have record : ∀ v < 256, odGet (odInc 0x2520 3 8 1 s) (grpObj g) v = odGet s (grpObj g) v := fun v hv =>
    odGet_retransmitted (by unfold odKey grpObj; omega)
  have ext : gExt (odInc 0x2520 3 8 1 s) g = gExt s g := funext fun k => by
    simp only [gExt, gMask, record 2 (by decide), record 3 (by decide)]
  simp only [memberDom, digit, gStride, ext]

/-- What is said of an overdue datagram, for every group but the one that is not there. -/
theorem exec_xdomRtoExpiry_again (hu : ((xflowOf s g peer).unacked.find? fun u => u.seq == seq) = some u) (ht : u.tries < odGet s 0x2520 2)
    (hd : (s.eport u.port).darkUntil ≤ s.now) (hn : (s.eport u.port).neighbours.contains (xpeer s (memberDom s g peer)).1 = true)
    (hg : g ≠ 16) : ∃ t, exec (.xdomRtoExpiry g peer seq) s = .next t ∧ t.mem = s.mem ∧ t.ops = s.ops ∧
      t.eOut = (u.port, encapsulate s false (xpeer s (memberDom s g peer)).1 (xpeer s (memberDom s g peer)).2.1 u.pkt) :: s.eOut ∧
      t.od = (odInc 0x2520 3 8 1 s).od := by
  have flow : ∀ x k, xpeer (odInc 0x2520 3 8 1 (setXflow x s)) k = xpeer s k := fun x _ => xpeer_retransmitted (s := setXflow x s)
  have dom : ∀ x, memberDom (odInc 0x2520 3 8 1 (setXflow x s)) g peer = memberDom s g peer :=
    fun x => memberDom_retransmitted (s := setXflow x s) hg
  have packed : ∀ x b n, encapsulate (odInc 0x2520 3 8 1 (setXflow x s)) false b n u.pkt = encapsulate s false b n u.pkt := fun x b n => by
    unfold encapsulate
    rw [odGet_retransmitted (s := setXflow x s) (by decide), if_neg (by decide), odGet_retransmitted (s := setXflow x s) (by decide)]
    rfl
  have sent : exec (.xdomRtoExpiry g peer seq) s = .next
      { (odInc 0x2520 3 8 1 (setXflow ((xflowOf s g peer).resent seq) s)).modEport u.port (fun e => { e with tx := e.tx + 1 }) with
        eOut := (u.port, encapsulate s false (xpeer s (memberDom s g peer)).1 (xpeer s (memberDom s g peer)).2.1 u.pkt) :: s.eOut } := by
    refine congrArg Host.Outcome.next ((retransmit_again hu ht).trans ?_)
    rw [xdomPut, dom, flow, sendE_known (s := odInc 0x2520 3 8 1 (setXflow ((xflowOf s g peer).resent seq) s)) hn hd, packed]
    rfl
  exact ⟨_, sent, rfl, rfl, rfl, rfl⟩

theorem exec_xdomRtoExpiry_givenUp (hu : ((xflowOf s g peer).unacked.find? fun u => u.seq == seq) = some u) (ht : odGet s 0x2520 2 ≤ u.tries)
    (ho : findOp s g u.bucket u.use = some o) (hl : o.live = true) : ∃ t, exec (.xdomRtoExpiry g peer seq) s = .next t ∧
      findOp t g u.bucket u.use = some (o.ended 0x0C) := by
  obtain ⟨rfl, hb, hu'⟩ := findOp_names ho
  have found : findOp (setXflow ((xflowOf s o.g peer).givenUp seq) s) o.g o.bucket o.use = some o := by
    rw [hb, hu']
    exact ho
  refine ⟨_, congrArg Host.Outcome.next (retransmit_givenUp hu ht ho), ?_⟩
  rw [← hb, ← hu']
  exact findOp_failOp found hl

end

/-! ## Why the statement fails -/

/-- A datagram kept for rank 1 of a seventeenth group, whose record the dictionary does not have: at its place stand the retries and the
number of retransmissions. One has been counted, so that every rank is of domain 0, whose address is the one known at E port 0. -/
def seventeenthGroup : State :=
  { State.reset with
    od := [(odKey 0x2520 2, 0x01010101), (odKey 0x2520 3, 1), (odKey 0x2530 2, 1)]
    xflows := [{ g := 16, peer := 1, unacked := [
      { seq := 0, pkt := blank 2 0x13 0 0xF0 0xF0 0 0 0 [], bucket := 0, use := 0, port := 0 }] }]
    eports := [{ neighbours := [List.replicate 16 0] }] }

/-- Two retransmissions are counted, and rank 1 is of domain 1 now, whose address is not known: the datagram waits. -/
theorem seventeenthGroup_waits {t : State} (h : exec (.xdomRtoExpiry 16 1 0) seventeenthGroup = .next t) : t.eOut = [] := by
  cases h
  decide +kernel

/-- Refutes O50: the statement ranges over every group number. Of a group 16 the record would begin at 0x2520, where `xdom-retries` and the
count of retransmissions stand, so that counting the retransmission changes the domain the datagram is for. For every other group what the
statement says is `exec_xackTimer_known`, `exec_xack_below`, `exec_xdomRtoExpiry_again` and `exec_xdomRtoExpiry_givenUp`. -/
theorem not_crossDomain : ¬ Obligations.CrossDomain := by
  intro h
  obtain ⟨-, -, overdue⟩ := h
  obtain ⟨again, -⟩ := overdue seventeenthGroup 16 1 0 _ rfl
  obtain ⟨t, he, -, -, hout, -⟩ := again (by decide +kernel) (Nat.le_refl 0) (by decide +kernel)
  rw [seventeenthGroup_waits he] at hout
  cases hout

end Sys2Proof.Machine

/-! SUPPORT. The commands of a group and FORM (R319, R321, R323): what an accepted command makes of its record and of the free slots, what a FORM
from a level peer does to the group, and which FORM the timer sends. -/

namespace Sys2Proof.Machine

/-! ## The write of a command (R321, R402) -/

theorem groupRecord_rows : ∀ g < 16, ∀ o ∈ objs, o.i0 ≤ grpObj g → grpObj g ≤ o.i1 → o.acc ≠ .srw ∧ o.acc ≠ .sro := by
  decide +kernel

section
variable {m : Master} {s : State} {b : List Byte} {g h : Nat}

/-- An accepted command of a group answers with a success and takes effect. -/
theorem dictWrite_groupCommand (hr : reaches m s = true) (hg : g < 16) (hc : odCheck m (grpObj g) 9 b s = 0) :
    dictWrite m (grpObj g) 9 b s = groupCommand g (ofLE b) (setResp m 0 [] s) := by
  obtain ⟨o, ho⟩ := findObj_of_accepted hc
  obtain ⟨hmem, h0, h1, -, -⟩ := findObj_some ho
  obtain ⟨hsrw, hsro⟩ := groupRecord_rows g hg o hmem h0 h1
  have hcr : creates (grpObj g) 9 = false := by
    have : grpObj g ≠ 0x2100 := by unfold grpObj; omega
    simp [creates, this]
  have himmediate : ¬(0x2201 ≤ grpObj g ∧ grpObj g ≤ 0x2240) := by unfold grpObj; omega
  have hrecord : 0x2510 ≤ grpObj g ∧ grpObj g ≤ 0x251F ∧ 9 = 9 := by unfold grpObj; omega
  rw [dictWrite_accepted hr ho (by simp [hidden, hsrw, hsro]) hc, writeAnswer, hcr, if_neg Bool.false_ne_true]
  unfold odApply
  rw [hcr, if_neg Bool.false_ne_true, if_neg himmediate, if_pos hrecord, grpObj, Nat.add_sub_cancel_left]

theorem exec_groupCreate (hr : reaches m s = true) (hg : g < 16) (hc : odCheck m (grpObj g) 9 [1] s = 0) :
    exec (.groupCreate m g) s = .next (groupCreate g (setResp m 0 [] s)) := congrArg _ (dictWrite_groupCommand hr hg hc)

theorem exec_groupDelete (hr : reaches m s = true) (hg : g < 16) (hc : odCheck m (grpObj g) 9 [2] s = 0) :
    exec (.groupDelete m g) s = .next { (setResp m 0 [] s).modGroup g (fun _ => {}) with
      slotsFree := s.slotsFree.map (· + (s.group g).slots), xflows := s.xflows.filter fun x => x.g != g } :=
  congrArg _ (dictWrite_groupCommand hr hg hc)

theorem exec_groupClearFault (hr : reaches m s = true) (hg : g < 16) (hc : odCheck m (grpObj g) 9 [3] s = 0) :
    exec (.groupClearFault m g) s = .next (groupReform g (setResp m 0 [] s)) := congrArg _ (dictWrite_groupCommand hr hg hc)

/-! ## A group that forms (R321) -/

/-- A group record with another state. -/
def Group.inState (n : Nat) (x : Group) : Group := { x with state := n }

/-- A forming group stays as it is, or becomes READY where every level peer has matched. -/
theorem settleForming_cases : settleForming g s = s ∧ ¬((s.group g).state = 1 ∧ ∀ r ∈ levelPeers s g, (s.group g).formed.contains r = true) ∨
    settleForming g s = s.modGroup g (Group.inState 2) ∧ (s.group g).state = 1 ∧
      ∀ r ∈ levelPeers s g, (s.group g).formed.contains r = true := by
  rw [← List.all_eq_true (p := fun r => (s.group g).formed.contains r), settleForming]
  split
  · exact .inr ⟨rfl, ‹_›⟩
  · exact .inl ⟨rfl, ‹_›⟩

/-- Settling a group changes no record but its own, and of that only the state. -/
theorem settleForming_group (hg : g < s.groups.length) : ∃ n, (settleForming g s).group g = (s.group g).inState n ∧
    (n = (s.group g).state ∨ n = 2) := by
  obtain ⟨stays, -⟩ | ⟨ready, -, -⟩ := settleForming_cases (s := s) (g := g)
  · exact ⟨_, by rw [stays]; rfl, .inl rfl⟩
  · exact ⟨2, by rw [ready, group_modGroup_same hg], .inr rfl⟩

theorem settleForming_other (hh : h ≠ g) : (settleForming g s).group h = s.group h := by
  obtain ⟨stays, -⟩ | ⟨ready, -, -⟩ := settleForming_cases (s := s) (g := g)
  · rw [stays]
  · rw [ready, group_modGroup_other (Ne.symm hh)]

theorem settleForming_tables : (settleForming g s).inbox = s.inbox ∧ (settleForming g s).slotsFree = s.slotsFree := by
  obtain ⟨stays, -⟩ | ⟨ready, -, -⟩ := settleForming_cases (s := s) (g := g)
  · rw [stays]
    exact ⟨rfl, rfl⟩
  · rw [ready]
    exact ⟨rfl, rfl⟩

/-! ## Creation (R319, R321, R323) -/

/-- The mode that admission gives a group: without slots, with the slots it asks for, refused them. -/
def admittedMode (s : State) (g : Nat) : Nat :=
  if odGet s (grpObj g) 7 = 0 then 1 else if s.slotsFree.all fun n => decide (odGet s (grpObj g) 7 ≤ n) then 0 else 2

/-- The record of a group that has been admitted. -/
def admittedGroup (s : State) (g : Nat) : Group :=
  { state := 1, mode := admittedMode s g, rank := (rankOf s g (own s) (ownDom s g)).getD 0,
    ranks := ((List.range 5).map (gExt s g)).foldl (· * ·) 1, digest := groupDigest s g,
    slots := if admittedMode s g = 0 then odGet s (grpObj g) 7 else 0 }

/-- Creation records the group, takes its slots and settles it. -/
theorem groupCreate_settles (hg : g < s.groups.length) : ∃ u, groupCreate g s = settleForming g u ∧ g < u.groups.length ∧
    u.group g = admittedGroup s g ∧
    u.slotsFree = if admittedMode s g = 0 then s.slotsFree.map (· - odGet s (grpObj g) 7) else s.slotsFree := by
  unfold groupCreate
  extract_lets want fits mode x xd s1 s2 s3 f
  have told : Reported s2 s3 := by
    unfold s3
    split
    · exact emcy_reported
    · exact .refl
  obtain ⟨m, o, hs3⟩ := told
  refine ⟨_, rfl, ?_⟩
  rw [hs3]
  refine ⟨?_, group_modGroup_same hg, rfl⟩
  show g < (s.groups.modify g _).length
  rwa [List.length_modify]

theorem groupCreate_admits (hg : g < s.groups.length) :
    ∃ n, (groupCreate g s).group g = (admittedGroup s g).inState n ∧ (n = 1 ∨ n = 2) ∧
      (groupCreate g s).slotsFree = if admittedMode s g = 0 then s.slotsFree.map (· - odGet s (grpObj g) 7) else s.slotsFree := by
  obtain ⟨u, hu, hlen, hrec, hslots⟩ := groupCreate_settles hg
  obtain ⟨n, settled, hn⟩ := settleForming_group hlen
  obtain ⟨-, free⟩ := settleForming_tables (s := u) (g := g)
  rw [hrec] at settled hn
  exact ⟨n, by rw [hu, settled], hn, by rw [hu, free, hslots]⟩

/-! ## Clearing a fault (R321) -/

theorem levelPeers_modGroup {f : Group → Group} (hf : ∀ x, (f x).rank = x.rank) : levelPeers (s.modGroup h f) g = levelPeers s g := by
  have rank : ((s.modGroup h f).group g).rank = (s.group g).rank := group_modGroup_of_kept (hf _)
  have peersAt : levelPeersAt (s.modGroup h f) g = levelPeersAt s g := funext fun k => by
    rw [levelPeersAt, rank]
    rfl
  rw [levelPeers, peersAt]
  rfl

theorem groupReform_forms (hg : g < s.groups.length) : ((groupReform g s).group g).reason = 0 ∧ ((groupReform g s).group g).formed = [] ∧
    ((groupReform g s).group g).state = if levelPeers s g = [] then 2 else 1 := by
  unfold groupReform
  generalize hu : s.modGroup g (fun x => { x with
    state := 1, reason := 0, faultRank := 0, formed := [], given := [], asked := [], early := [], aborts := [] }) = u
  have peers : levelPeers u g = levelPeers s g := hu ▸ levelPeers_modGroup fun _ => rfl
  have len : g < u.groups.length := by
    rw [← hu, State.modGroup_groups, List.length_modify]
    exact hg
  have anew : (u.group g).state = 1 ∧ (u.group g).reason = 0 ∧ (u.group g).formed = [] := by
    rw [← hu, group_modGroup_same hg]
    exact ⟨rfl, rfl, rfl⟩
  obtain ⟨state, reason, formed⟩ := anew
  have matched : (∀ r ∈ levelPeers u g, (u.group g).formed.contains r = true) ↔ levelPeers s g = [] := by
    rw [peers, formed, List.eq_nil_iff_forall_not_mem]
    exact forall₂_congr fun _ _ => iff_of_false (by simp) (by simp)
  obtain ⟨stays, not⟩ | ⟨ready, -, all⟩ := settleForming_cases (s := u) (g := g)
  · rw [stays, if_neg fun h => not ⟨state, matched.2 h⟩]
    exact ⟨reason, formed, state⟩
  · rw [ready, group_modGroup_same len, if_pos (matched.1 all)]
    exact ⟨reason, formed, rfl⟩

end

/-! ## FORM (R321, log 56) -/

section
variable {p : Packet} {o : Bool} {e : Ejected} {s : State} {g r : Nat}

/-- The group that a FORM names: FORMING or READY, with its id. -/
def formGroup (s : State) (p : Packet) : Option Nat :=
  (List.range 16).find? fun g => ((s.group g).state == 1 || (s.group g).state == 2) && odGet s (grpObj g) 1 == fld p.arg 0 16

/-- A group record that has noted a peer's digest as its own. -/
def Group.noteFormed (r : Nat) (x : Group) : Group := { x with formed := if x.formed.contains r then x.formed else r :: x.formed }

theorem noteFormed_contains {x : Group} : (x.noteFormed r).formed.contains r = true := by
  rw [Group.noteFormed]
  dsimp only
  split
  · assumption
  · simp

theorem formGroup_state (h : formGroup s p = some g) : g < 16 ∧ ((s.group g).state = 1 ∨ (s.group g).state = 2) := by
  have hp := List.find?_some h
  simp only [Bool.and_eq_true, Bool.or_eq_true, beq_iff_eq] at hp
  exact ⟨List.mem_range.1 (List.mem_of_find?_eq_some h), hp.1⟩

theorem formArrived_passed (hg : formGroup s p = some g) (hr : senderRank s g p = some r) (ht : p.jobtag = odGet s 0x2300 2)
    (hl : (levelPeers s g).contains r = true) : formArrived p s =
      if fld p.arg 16 32 ≠ (s.group g).digest then faultGroup g 1 r (some (myRank s g)) s
      else settleForming g (s.modGroup g (Group.noteFormed r)) := by
  have passed : ¬(p.jobtag ≠ odGet s 0x2300 2 ∨ (levelPeers s g).contains r = false) :=
    not_or.2 ⟨not_not.2 ht, by rw [hl]; exact Bool.true_eq_false.mp⟩
  rw [formGroup] at hg
  simp only [formArrived, hg, hr]
  rw [if_neg passed]
  rfl

/-- A FORM in the inbox is taken out of it and compared. -/
theorem exec_form (he : (s.inbox.find? fun e => e.pkt == p && e.fromE.isSome == o) = some e) (hop : p.op = 0x1F) :
    exec (.form o p) s = .next (formArrived p { s with inbox := s.inbox.erase e }) := by
  show execForm o p s = _
  rw [execForm, he]
  exact congrArg _ (if_pos hop)

/-- Another digest faults the group. -/
theorem formArrived_mismatch (hlen : g < s.groups.length) (hg : formGroup s p = some g) (hr : senderRank s g p = some r)
    (ht : p.jobtag = odGet s 0x2300 2) (hl : (levelPeers s g).contains r = true) (hd : fld p.arg 16 32 ≠ (s.group g).digest) :
    ((formArrived p s).group g).standing = (3, 1, r) := by
  rw [formArrived_passed hg hr ht hl, if_pos hd]
  exact faultGroup_standing hlen

/-- Where none of the group's operations is open, nobody is told. -/
theorem formArrived_mismatch_untold (hg : formGroup s p = some g) (hr : senderRank s g p = some r) (ht : p.jobtag = odGet s 0x2300 2)
    (hl : (levelPeers s g).contains r = true) (hd : fld p.arg 16 32 ≠ (s.group g).digest) (hops : ∀ q ∈ s.ops, q.g ≠ g) :
    (formArrived p s).inbox = s.inbox := by
  have none : s.ops.filter (fun q => q.g == g) = [] := by simpa [List.filter_eq_nil_iff] using hops
  have told : Reported (s.modGroup g fun x => { x with state := 3, reason := 1, faultRank := r }) (formArrived p s) := by
    rw [formArrived_passed hg hr ht hl, if_pos hd, faultGroup, none]
    exact emcy_reported
  obtain ⟨m, o, h⟩ := told
  rw [h]
  rfl

/-- The same digest is noted of the peer. -/
theorem formArrived_match (hlen : g < s.groups.length) (hg : formGroup s p = some g) (hr : senderRank s g p = some r)
    (ht : p.jobtag = odGet s 0x2300 2) (hl : (levelPeers s g).contains r = true) (hd : fld p.arg 16 32 = (s.group g).digest) :
    (formArrived p s).inbox = s.inbox ∧ ((formArrived p s).group g).formed.contains r = true ∧
      (((formArrived p s).group g).state = 1 ∨ ((formArrived p s).group g).state = 2) ∧ ∀ h, h ≠ g → (formArrived p s).group h = s.group h := by
  obtain ⟨-, state⟩ := formGroup_state hg
  have len : g < (s.modGroup g (Group.noteFormed r)).groups.length := by
    rw [State.modGroup_groups, List.length_modify]
    exact hlen
  obtain ⟨n, settled, hn⟩ := settleForming_group len
  rw [group_modGroup_same hlen] at settled hn
  rw [formArrived_passed hg hr ht hl, if_neg (not_not.2 hd), settled]
  refine ⟨settleForming_tables.1, noteFormed_contains, ?_, fun h hh => ?_⟩
  · rcases hn with rfl | rfl
    · exact state
    · exact .inr rfl
  · rw [settleForming_other hh, group_modGroup_other (Ne.symm hh)]

/-- Of all groups one is FORMING or READY: the timer sends FORM to its level peers. -/
theorem exec_formTimer_single (hg : g < 16) (hs : (s.group g).state = 1 ∨ (s.group g).state = 2)
    (others : ∀ h < 16, h ≠ g → (s.group h).state ≠ 1 ∧ (s.group h).state ≠ 2) :
    exec .formTimer s = .next ((levelPeers s g).foldl (fun u r => sendForm g r u) s) := by
  obtain ⟨before, after, split⟩ := List.append_of_mem (List.mem_range.2 hg)
  have apart : g ∉ before ∧ g ∉ after := by
    have := split ▸ List.nodup_range (n := 16)
    rw [List.nodup_append, List.nodup_cons] at this
    obtain ⟨-, ⟨hafter, -⟩, disjoint⟩ := this
    exact ⟨fun h => disjoint g h g (List.mem_cons_self ..) rfl, hafter⟩
  have silent : ∀ (l : List Nat) (t : State), t.groups = s.groups → (∀ h ∈ l, h < 16 ∧ h ≠ g) → l.foldl (fun t g =>
      if (t.group g).state = 1 ∨ (t.group g).state = 2 then (levelPeers t g).foldl (fun u r => sendForm g r u) t else t) t = t := by
    intro l t hgroups hl
    induction l with
    | nil => rfl
    | cons h l ih =>
      obtain ⟨hh, hne⟩ := hl h (List.mem_cons_self ..)
      obtain ⟨h1, h2⟩ := others h hh hne
      have same : t.group h = s.group h := by rw [State.group, hgroups]; rfl
      rw [List.foldl_cons, same, if_neg (not_or.2 ⟨h1, h2⟩)]
      exact ih fun x hx => hl x (List.mem_cons_of_mem _ hx)
  have below : ∀ h ∈ before ++ g :: after, h < 16 := fun h hh => List.mem_range.1 (split ▸ hh)
  show execFormTimer s = _
  rw [execFormTimer, split, List.foldl_append, List.foldl_cons,
    silent before s rfl fun h hh => ⟨below h (List.mem_append_left _ hh), fun he => apart.1 (he ▸ hh)⟩, if_pos hs,
    silent after _ (BooksStand.foldl (f := fun u r => sendForm g r u) fun _ _ => sendForm_booksStand).groups fun h hh =>
      ⟨below h (List.mem_append_right _ (List.mem_cons_of_mem _ hh)), fun he => apart.2 (he ▸ hh)⟩]

end

/-! ## Why the statement fails -/

/-- A FORM of the group with id 0, of another digest, from the device 1. -/
def formOfAnother : Packet := { blank 10 0x1F 0 0xF0 0xF0 0 (2 ^ 16) 0 [] with sdev := 1 }

/-- That FORM in the inbox. -/
def formWaiting : Ejected := { xd := 0, fromE := none, pkt := formOfAnother }

/-- An operation of group 0 that is open. -/
def openOp : CollOp := { core := 0, g := 0, bucket := 0, use := 0, desc := { pc := 0, words := [], idx := [], eo := 0, vl := 0, rst := false } }

/-- A READY group of the devices 0, 1 and 2 on device 0, whose record gives it the rank of device 2, while an operation is open. -/
def rankedAsAnother : State :=
  { State.reset with
    od := [(odKey 0x2510 2, 0x01010107)]
    groups := { state := 2, rank := 2, ranks := 3 } :: List.replicate 15 {}
    ops := [openOp]
    chans := [(0, 0)]
    inbox := [formWaiting]
    startup := { State.reset.startup with steps := [] }
    fab := { State.reset.fab with fwd := 1 } }

/-- Rank 0 counts as a level peer, and its ABORT comes back to the inbox. -/
theorem rankedAsAnother_told {t : State} (h : exec (.form false formOfAnother) rankedAsAnother = .next t) : t.inbox.length = 1 := by
  have arrived := exec_form (e := formWaiting) (o := false) (p := formOfAnother) (s := rankedAsAnother) (by decide +kernel) rfl
  rw [Host.Outcome.next.inj (h.symm.trans arrived)]
  decide +kernel

/-- Refutes O39: the statement leaves a group's own rank open. Where the record's is not the rank of the device, the device is a level
peer of its own, and a FORM of another digest, which ends the group's open operation, sends the ABORT to its own inbox. What the statement says is
otherwise `exec_groupCreate` with `groupCreate_admits`, `exec_groupDelete`, `exec_groupClearFault` with `groupReform_forms`,
`exec_form` with `formArrived_mismatch`, `formArrived_mismatch_untold` and `formArrived_match`, and `exec_formTimer_single`. -/
theorem not_groupCommands : ¬ Obligations.GroupCommands := by
  intro h
  obtain ⟨-, forms, -⟩ := h
  obtain ⟨mismatch, -⟩ := forms formOfAnother false formWaiting rankedAsAnother 0 1 (by decide +kernel) (by decide +kernel) rfl
    (by decide +kernel) (by decide +kernel) (by decide +kernel) (by decide +kernel)
  obtain ⟨t, he, inbox, -⟩ := mismatch (by decide +kernel)
  have told := rankedAsAnother_told he
  rw [inbox] at told
  revert told
  decide +kernel

end Sys2Proof.Machine

/-! SUPPORT. Collective reductions (R325, R341, R343, R346): what a start changes of the queues and of the memory, what an operation does at
once, and what a completion reports. -/

namespace Sys2Proof.Machine

/-! ## Ranges that become unspecified (R325, R341) -/

theorem wildAll_fields {l : List (Nat × Nat)} {s : State} : ∃ m w f, wildAll l s = { s with mem := m, wild := w, free := f } := by
  induction l generalizing s with
  | nil => exact ⟨_, _, _, rfl⟩
  | cons x l ih =>
    obtain ⟨m, w, f, h⟩ := ih (s := makeWild x.1 (x.1 + x.2) s)
    exact ⟨m, w, f, h⟩

theorem wildAll_booksStand {l : List (Nat × Nat)} {s : State} : BooksStand s (wildAll l s) := by
  obtain ⟨m, w, f, h⟩ := wildAll_fields (l := l) (s := s)
  rw [h]
  exact ⟨rfl, rfl⟩

/-- The same ranges become unspecified in states that agree on the memory's bytes. -/
theorem readByte_wildAll_of_same {l : List (Nat × Nat)} {s t : State} {a : Nat} (hm : t.mem = s.mem) (hw : t.wild = s.wild)
    (h : Memory.wf s = true) (ha : ∀ x ∈ l, a < x.1 ∨ x.1 + x.2 ≤ a) : readByte (wildAll l t) a = readByte s a := by
  have wf : Memory.wf t = true := by
    rw [Memory.wf, hm, hw]
    exact h
  rw [readByte_wildAll_out wf ha, readByte, hm, hw]
  rfl

/-! ## What a start leaves of the engines' load (R50, R52) -/

/-- Every engine has the queue it had, and as many running descriptors. -/
structure SameLoad (k j : Core) : Prop where
  queues : ∀ e, (j.eng e).queue = (k.eng e).queue
  lengths : ∀ e, (j.eng e).run.length = (k.eng e).run.length

/-- A core whose running descriptors have noted the races with a starting one. -/
def racesNoted (spans : List Span) (k : Core) : Core :=
  allEngs.foldl (fun k e =>
    let g := k.eng e
    if g.run.isEmpty then k else k.setEng e { g with run := g.run.map fun r => { r with raced := r.raced ++ racesOf r.spans spans } }) k

section
variable {k j l old : Core} {e : Eng} {s : State} {c : Nat} {d : Desc} {spans : List Span}

theorem eng_setEng_same {g : Engine} : (k.setEng e g).eng e = g := by cases e <;> rfl

theorem eng_setEng_other {g : Engine} {x : Eng} (h : x ≠ e) : (k.setEng e g).eng x = k.eng x := by
  cases e <;> cases x <;> simp [Core.setEng, Core.eng] at h ⊢

namespace SameLoad

theorem refl : SameLoad k k := ⟨fun _ => rfl, fun _ => rfl⟩

theorem trans (h : SameLoad k j) (g : SameLoad j l) : SameLoad k l :=
  ⟨fun e => (g.queues e).trans (h.queues e), fun e => (g.lengths e).trans (h.lengths e)⟩

/-- An engine whose queue and number of running descriptors stay. -/
theorem setEng {g : Engine} (hq : g.queue = (k.eng e).queue) (hr : g.run.length = (k.eng e).run.length) : SameLoad k (k.setEng e g) := by
  refine ⟨fun x => ?_, fun x => ?_⟩ <;> by_cases hx : x = e
  · rw [hx, eng_setEng_same, hq]
  · rw [eng_setEng_other hx]
  · rw [hx, eng_setEng_same, hr]
  · rw [eng_setEng_other hx]

end SameLoad

theorem setEvent_sameLoad {x : Nat} {v : Bool} : SameLoad k (k.setEvent x v) := ⟨fun _ => rfl, fun _ => rfl⟩

theorem testHead_sameLoad : SameLoad k (testHead old k e) := by
  have going : SameLoad k (k.setEng e { k.eng e with go := true }) := .setEng rfl rfl
  rcases testHead_cases old k e with h | h | ⟨x, h⟩ <;> rw [h]
  · exact .refl
  · exact going
  · exact going.trans setEvent_sameLoad

theorem settleWaits_sameLoad : SameLoad k k.settleWaits := by
  have waits : SameLoad k k.settleSq := by
    unfold Core.settleSq
    split
    · split
      · split <;> exact ⟨fun _ => rfl, fun _ => rfl⟩
      · exact .refl
    · exact .refl
  rw [settleWaits_eq]
  exact testHeads_induction (p := SameLoad k) (fun _ _ h => h.trans testHead_sameLoad) waits

theorem racesNoted_sameLoad : SameLoad k (racesNoted spans k) := by
  refine List.foldlRecOn (motive := SameLoad k) _ _ .refl fun j hj e _ => ?_
  dsimp only
  split
  · exact hj
  · exact hj.trans (.setEng rfl (by rw [List.length_map]))

theorem noteRaces_core (hc : c < s.cores.length) : SameLoad (s.core c) ((noteRaces spans s).core c) := by
  unfold noteRaces
  split
  · exact .refl
  · have noted : (State.core { s with cores := s.cores.map (racesNoted spans) } c) = racesNoted spans (s.core c) := by
      simp [State.core, hc]
    exact noted ▸ racesNoted_sameLoad

theorem noteRaces_length : (noteRaces spans s).cores.length = s.cores.length := by
  unfold noteRaces
  split
  · rfl
  · exact List.length_map ..

/-- A started head has left its queue and runs; the engine's other descriptors stay. -/
theorem started_load {ts : List (Nat × Bool)} (hc : c < s.cores.length) :
    (((started e c d ts spans s).core c).eng e).queue = ((s.core c).eng e).queue.tail ∧
      (((started e c d ts spans s).core c).eng e).run.length = ((s.core c).eng e).run.length + 1 := by
  have hc' : c < (s.modCore c (takeHead e)).cores.length := by
    rw [State.modCore_cores, List.length_modify]
    exact hc
  have taken : SameLoad ((s.core c).setEng e { (s.core c).eng e with queue := ((s.core c).eng e).queue.tail, go := false })
      ((noteRaces spans (s.modCore c (takeHead e))).core c) := by
    have noted := noteRaces_core (spans := spans) hc'
    rw [core_modCore_same hc] at noted
    exact settleWaits_sameLoad.trans noted
  have queue := taken.queues e
  have length := taken.lengths e
  rw [eng_setEng_same] at queue length
  rw [started, core_modCore_same (by rw [noteRaces_length]; exact hc'), eng_setEng_same]
  exact ⟨queue, by rw [List.length_append, length]; rfl⟩

/-- A start changes the cores alone. -/
theorem started_fields {ts : List (Nat × Bool)} : ∃ ks, started e c d ts spans s = { s with cores := ks } := by
  unfold started noteRaces
  split
  · exact ⟨_, rfl⟩
  · exact ⟨_, rfl⟩

end

/-! ## A reduction over levels begins (R341, R343, R346) -/

section
variable {s : State} {c g : Nat} {f : Co} {d : Desc} {o : CollOp}

/-- An empty range is no read. -/
theorem touchRead_empty {a : Nat} : touchRead [(a, 0)] s = (false, s) := rfl

/-- A reduction over levels, of which nothing has arrived, sends nothing at its start. -/
theorem beginOp_reduction (hr : o.co.opc ≤ 1) (hl : levelCount s o.g ≠ 0) (he : (s.group o.g).early = []) (ha : (s.group o.g).asked = []) :
    beginOp o s = s := by
  have own : ownOutputs o s = s := by
    have spreads : ¬(o.co.opc = 2 ∨ (o.co.opc = 3 ∧ o.co.root = myRank s o.g)) := by omega
    have direct : o.co.direct = false := by
      simp only [Co.direct, Bool.and_eq_false_iff, decide_eq_false_iff_not]
      omega
    have alone : (o.co.reduces && levelCount s o.g == 0) = false := by simp [hl]
    simp only [ownOutputs, spreads, direct, alone, if_false, Bool.false_eq_true]
  have kept : ∀ p : Packet → Bool, s.modGroup o.g (fun x => { x with early := x.early.filter p }) = s := fun p =>
    modGroup_fixed (by simp only [he, List.filter_nil]; rw [← he])
  have settled : settleAsked o s = s := modGroup_fixed (by simp only [ha, List.filter_nil]; rw [← ha])
  have barrier : o.co.opc ≠ 7 := by omega
  unfold beginOp
  simp only [own, he, List.filter_nil, kept, settled, List.foldl_nil, barrier, if_false]
  exact pumpGroup_idle ha

/-- The operation that a COLL of core `c` opens. -/
def openedOp (s : State) (c g : Nat) (d : Desc) : CollOp :=
  { core := c, g := g, bucket := (coOf d).bucket, use := (aget (coOf d).bucket (s.group g).uses).getD 0, desc := d }

/-- A group record whose bucket's use has advanced, and whose ABORTs of the use before are gone. -/
def Group.advance (bucket use : Nat) (x : Group) : Group :=
  { x with uses := aset bucket ((use + 1) % 4) x.uses, aborts := x.aborts.filter fun a => !(a.1 == bucket && a.2.1 == use) }

/-- The state in which the COLL has started and its operation is open. -/
def openedState (s : State) (c g : Nat) (d : Desc) (spans : List Span) : State :=
  { (started .coll c d [] spans s).modGroup g (Group.advance (openedOp s c g d).bucket (openedOp s c g d).use) with
    ops := (started .coll c d [] spans s).ops ++ [openedOp s c g d] }

/-- A start that lets the scratch go free changes the cores, the memory and the books of its group. -/
theorem openedState_fields {spans : List Span} {l : List (Nat × Nat)} : ∃ ks m w n, wildAll l (openedState s c g d spans) =
    { s.modGroup g (Group.advance (openedOp s c g d).bucket (openedOp s c g d).use) with
      cores := ks, ops := s.ops ++ [openedOp s c g d], mem := m, wild := w, free := n } := by
  obtain ⟨ks, started⟩ := started_fields (e := .coll) (c := c) (d := d) (ts := []) (spans := spans) (s := s)
  obtain ⟨m, w, n, wild⟩ := wildAll_fields (l := l) (s := openedState s c g d spans)
  refine ⟨ks, m, w, n, ?_⟩
  rw [wild, openedState, started]
  rfl

theorem openedState_core {spans : List Span} {l : List (Nat × Nat)} :
    (wildAll l (openedState s c g d spans)).core c = (started .coll c d [] spans s).core c := by
  obtain ⟨m, w, n, wild⟩ := wildAll_fields (l := l) (s := openedState s c g d spans)
  rw [wild]
  rfl

theorem openedState_readByte {spans : List Span} {l : List (Nat × Nat)} {a : Nat} (h : Memory.wf s = true)
    (ha : ∀ x ∈ l, a < x.1 ∨ x.1 + x.2 ≤ a) : readByte (wildAll l (openedState s c g d spans)) a = readByte s a := by
  obtain ⟨ks, started⟩ := started_fields (e := .coll) (c := c) (d := d) (ts := []) (spans := spans) (s := s)
  exact readByte_wildAll_of_same (by rw [openedState, started]; rfl) (by rw [openedState, started]; rfl) h ha

theorem exec_collStart_reduction (hd : ready .coll c s = some d) (hf : coOf d = f) (hg : coGroup s f = some g) (hc : coCode s c d f = 0)
    (hr : f.opc ≤ 1) (hn : s.ops.length < 64) (hm : (s.ops.filter fun o => o.g == g).length < 16) (ha : (s.group g).aborts = []) :
    ∃ spans, exec (.collStart c) s = .next (beginOp (openedOp s c g d) (wildAll (scratchOf s g f) (openedState s c g d spans))) := by
  subst hf
  have rows : (coOf d).rows = false := by
    simp only [Co.rows, Bool.or_eq_false_iff, beq_eq_false_iff_ne]
    omega
  have flat : ∀ o v, o.desc = d → withRows o false v = o := fun o v ho => if_neg (by rw [CollOp.co, ho, rows]; decide)
  have list : ∀ r, listRange c (coOf d) r = (storeAddr c (coOf d).iofs, 0) := fun r => by
    rw [listRange, if_neg (by omega), if_neg (by omega)]
  have room : ¬(64 ≤ s.ops.length ∨ 16 ≤ (s.ops.filter fun o => o.g == g).length) := by omega
  refine ⟨spansOf s false [srcRange (coOf d) (ranksOf s g)] ++ spansOf s true (dstRange (coOf d) (ranksOf s g) ::
    reportRange c (coOf d) (ranksOf s g) :: scratchOf s g (coOf d)), ?_⟩
  show execCollStart c s = _
  simp only [execCollStart, hd, hg, rows, list, touchRead_empty, flat, Bool.false_eq_true, if_false, hc, room, ha, List.find?_nil,
    ne_eq, not_true_eq_false]
  rw [startRun_started tileHazard_nil]
  rfl

end

/-! ## A completion (R341, R346, R347) -/

section
variable {s : State} {k j : Core} {c code : Nat} {r : Run} {o : CollOp} {pass inexact : Bool}

theorem collStatus_sameWork {q : Option CollOp} : SameWork k (collStatus code q pass k) := by
  unfold collStatus
  extract_lets seq sat inx rai drp k1 k2
  have written : SameWork k k1 := setReg_sameWork
  have counted : SameWork k k2 := by
    unfold k2
    split
    · exact written.trans bump_sameWork
    split
    · exact written.trans bump_sameWork
    · exact .opt written bump_sameWork
  exact counted.opt setStat_sameWork

theorem bump_regs_congr {ofs lo w : Nat} (h : j.regs = k.regs) : (j.bump ofs lo w).regs = (k.bump ofs lo w).regs := by
  have before : j.reg ofs = k.reg ofs := by rw [Core.reg, Core.reg, h]
  simp only [Core.bump, apply_ite Core.regs, Core.setReg, before, h]

/-- The registers that a completion leaves turn on the registers alone. -/
theorem collStatus_regs_congr {q : Option CollOp} (h : j.regs = k.regs) :
    (collStatus code q pass j).regs = (collStatus code q pass k).regs := by
  have written : ∀ v, (j.setReg 0x90 v).regs = (k.setReg 0x90 v).regs := fun v => by rw [Core.setReg, Core.setReg, h]
  have counted : ∀ v lo w, ((j.setReg 0x90 v).bump 0x94 lo w).regs = ((k.setReg 0x90 v).bump 0x94 lo w).regs := fun v _ _ =>
    bump_regs_congr (written v)
  have before : j.reg 0x90 = k.reg 0x90 := by rw [Core.reg, Core.reg, h]
  simp only [collStatus, apply_ite Core.regs, setStat_regs, written, counted, before]

/-- A core whose first running COLL ends: the descriptor completes and the status is written. -/
def collEnd (r : Run) (code : Nat) (inexact : Bool) (o : CollOp) (pass : Bool) (k : Core) : Core :=
  collStatus code (some o) pass (completedCore .coll r code inexact k)

theorem collEnd_run : (collEnd r code inexact o pass k).coll.run = k.coll.run.tail := by
  have work : SameWork (popRun .coll k) (collEnd r code inexact o pass k) := completedCore_sameWork.trans collStatus_sameWork
  exact (work.runs .coll).trans popRun_runs

theorem collEnd_regs : (collEnd r code inexact o pass k).regs = (collStatus code (some o) pass k).regs :=
  collStatus_regs_congr completedCore_regs

/-- The end of a COLL changes its own core and raises its chip event; the management state and the counters report it. -/
theorem collDone_eq : ∃ m od pass, collDone c r code (some o) s =
    raiseCev (coOf r.desc) ({ s with mgmt := m, od := od }.modCore c (collEnd r code o.inexact o pass)) := by
  obtain ⟨m, od, h⟩ := complete_reported (s := s) (e := .coll) (r := r) (c := c) (code := code) (inexact := o.inexact)
  unfold collDone
  extract_lets pass
  refine ⟨m, od, pass, ?_⟩
  rw [Option.map_some, Option.getD_some, h]
  exact congrArg (raiseCev (coOf r.desc)) (modCore_modCore (s := { s with mgmt := m, od := od }))

theorem collDone_ops : (collDone c r code (some o) s).ops = s.ops := by
  obtain ⟨m, od, pass, done⟩ := collDone_eq (s := s) (c := c) (r := r) (code := code) (o := o)
  rw [done, raiseCev]
  split <;> rfl

theorem collDone_readByte {a : Nat} : readByte (collDone c r code (some o) s) a = readByte s a := by
  obtain ⟨m, od, pass, done⟩ := collDone_eq (s := s) (c := c) (r := r) (code := code) (o := o)
  rw [done, raiseCev]
  split <;> rfl

theorem collDone_eventIn (h : (coOf r.desc).ceven = true) :
    (collDone c r code (some o) s).eventIn = s.eventIn ++ [((coOf r.desc).cev, 1)] := by
  obtain ⟨m, od, pass, done⟩ := collDone_eq (s := s) (c := c) (r := r) (code := code) (o := o)
  rw [done, raiseCev, if_pos h]
  rfl

theorem collDone_core (hc : c < s.cores.length) : ∃ pass,
    (collDone c r code (some o) s).core c = collEnd r code o.inexact o pass (s.core c) := by
  obtain ⟨m, od, pass, done⟩ := collDone_eq (s := s) (c := c) (r := r) (code := code) (o := o)
  refine ⟨pass, ?_⟩
  rw [done, ← core_modCore_same (f := collEnd r code o.inexact o pass) hc, raiseCev]
  split <;> rfl

/-- The operation's end in its group's books: it is open no longer, and nothing is asked of it. -/
def closeOp (g bucket use : Nat) (s : State) : State :=
  { s.modGroup g fun x => { x with asked := x.asked.filter fun a => !(a.bucket == bucket && a.use == use) } with
    ops := s.ops.filter fun x => !(x.g == g && x.bucket == bucket && x.use == use) }

/-- The state in which an operation without a report is done: what its end leaves open is unspecified, its dropped rows are counted. -/
def doneState (l : List (Nat × Nat)) (g bucket : Nat) (o : CollOp) (s : State) : State :=
  closeOp g bucket o.use (odInc (grpObj g) 0x11 8 o.dropped.length (wildAll l s))

/-- It differs in memory, in the count and in the books. -/
theorem doneState_fields {l : List (Nat × Nat)} {g bucket : Nat} : ∃ m w n od gs, doneState l g bucket o s =
    { s with mem := m, wild := w, free := n, od := od, groups := gs,
             ops := s.ops.filter fun x => !(x.g == g && x.bucket == bucket && x.use == o.use) } := by
  obtain ⟨m, w, n, wild⟩ := wildAll_fields (l := l) (s := s)
  refine ⟨m, w, n, (doneState l g bucket o s).od, (doneState l g bucket o s).groups, ?_⟩
  rw [doneState, wild]
  rfl

theorem doneState_readByte {l : List (Nat × Nat)} {g bucket a : Nat} : readByte (doneState l g bucket o s) a = readByte (wildAll l s) a := rfl

theorem putReport_none (h : reportBytes o.co (ranksOf s o.g) = 0) : putReport o s = s := if_pos h

/-- An operation that is done and reports nothing completes with the COLL of its bucket. -/
theorem exec_collComplete_done {g : Nat} (hh : headRun .coll c s = some r) (hv : r.vcode = 0) (hg : aget (coOf r.desc).ch s.chans = some g)
    (ho : (s.ops.find? fun o => o.core == c && o.g == g && o.bucket == (coOf r.desc).bucket) = some o) (hf : o.fin = none)
    (hd : opDone s o = true) (hr : reportBytes o.co (ranksOf s o.g) = 0) : exec (.collComplete c g (coOf r.desc).bucket) s =
      .next (collDone c r (if o.poison then 2 else 0) (some o) (doneState (lostBytes s g (coOf r.desc)) g (coOf r.desc).bucket o s)) := by
  have unreported : putReport o (wildAll (lostBytes s g (coOf r.desc)) s) = wildAll (lostBytes s g (coOf r.desc)) s := by
    obtain ⟨m, w, n, wild⟩ := wildAll_fields (l := lostBytes s g (coOf r.desc)) (s := s)
    refine putReport_none ?_
    rw [wild]
    exact hr
  show execCollComplete c g _ s = _
  simp only [execCollComplete, hh, hg, hv, ne_eq, not_true_eq_false, and_false, or_false, if_false, ho, hf, hd, if_true, unreported]
  rfl

end

/-- Settles O29. A start changes the queue, the books and the scratch, and a reduction over levels does nothing more (`beginOp_reduction`); a
completion makes the lost bytes unspecified, closes the operation and ends the descriptor (`collDone_eq`). -/
theorem collectiveStartsAndCompletes : Obligations.CollectiveStartsAndCompletes := by
  intro s c g f
  refine ⟨fun d hd hf hg hc hr hl hn hm ha he hq => ?start, fun r o hh hf hv hdesc hg ho hfin hdone hrep hdrop hcev => ?complete⟩
  case start =>
    obtain ⟨spans, started⟩ := exec_collStart_reduction hd hf hg hc hr hn hm ha
    have core := openedState_core (s := s) (c := c) (g := g) (d := d) (spans := spans) (l := scratchOf s g f)
    have reads := fun a => openedState_readByte (s := s) (c := c) (g := g) (d := d) (spans := spans) (l := scratchOf s g f) (a := a)
    obtain ⟨ks, m, w, n, fields⟩ := openedState_fields (s := s) (c := c) (g := g) (d := d) (spans := spans) (l := scratchOf s g f)
    have kept : ∀ {α : Type} {v : Group → α}, (∀ x b u, v (x.advance b u) = v x) →
        v ((wildAll (scratchOf s g f) (openedState s c g d spans)).group g) = v (s.group g) := fun hv => by
      rw [fields]
      exact group_modGroup_of_kept (hv _ _ _)
    have levels : levelCount (wildAll (scratchOf s g f) (openedState s c g d spans)) g = levelCount s g := by
      rw [fields]
      rfl
    have opcode : (openedOp s c g d).co.opc ≤ 1 := by
      rw [CollOp.co, openedOp, hf]
      exact hr
    rw [beginOp_reduction opcode (levels.trans_ne hl) ((kept (v := Group.early) fun _ _ _ => rfl).trans he)
      ((kept (v := Group.asked) fun _ _ _ => rfl).trans hq)] at started
    refine ⟨_, started, ?_, fun hlen => ?_, fun hc => ?_, fun wf a ha => reads a wf ha⟩
    · rw [fields, ← hf]
      rfl
    · rw [fields, ← hf]
      exact congrArg Group.uses (group_modGroup_same hlen)
    · rw [core]
      exact started_load (e := .coll) hc
  case complete =>
    subst hf
    have unreported : reportBytes o.co (ranksOf s o.g) = 0 := by
      rw [CollOp.co, hdesc]
      exact hrep
    obtain ⟨m, w, n, od, gs, fields⟩ := doneState_fields (l := lostBytes s g (coOf r.desc)) (g := g) (bucket := (coOf r.desc).bucket)
      (o := o) (s := s)
    refine ⟨_, exec_collComplete_done hh hv hg ho hfin hdone unreported, ?_, ?_, fun hc => ?_, fun wf a ha => ?_⟩
    · rw [collDone_eventIn hcev, fields]
    · rw [collDone_ops, fields]
    · obtain ⟨pass, ended⟩ := collDone_core (r := r) (code := if o.poison then 2 else 0) (o := o)
        (s := doneState (lostBytes s g (coOf r.desc)) g (coOf r.desc).bucket o s) (c := c) (by rw [fields]; exact hc)
      have before : (doneState (lostBytes s g (coOf r.desc)) g (coOf r.desc).bucket o s).core c = s.core c := by
        rw [fields]
        rfl
      rw [ended, before]
      exact ⟨collEnd_run, pass, collEnd_regs⟩
    · rw [collDone_readByte, doneState_readByte]
      exact readByte_wildAll_out wf ha

end Sys2Proof.Machine

/-! SUPPORT. What every command keeps (R440, R480, R500), from what each meaning keeps: the commands that test mode, a trip or the fused
counter do not outlast are the few that `lasting` names. With it the statements about the block as a whole. -/

namespace Sys2Proof.Machine

/-! ## Every command -/

/-- All that may be asked to last. -/
def everything : Asks := { test := true, trip := true, fuse := true }

/-- What lasts through a command: test mode but at power-on and RESET_N (R500), a trip but through a dictionary write or VSTBY (R440),
the fused counter but in the commit of an update (R480). -/
def lasting : Instr → Asks
  | .railLost _ | .powerOn => { everything with test := false, trip := false }
  | .resetNAssert | .resetNRelease => { everything with test := false }
  | .tripRelease .. | .sdoRequest .. | .sessionWrite _ => { everything with trip := false }
  | .fwUpdateVerified => { everything with fuse := false }
  | _ => everything

/-- Every command answers a next state that keeps what lasts through it. -/
theorem exec_keeps (i : Instr) (s : State) : OutKeeps (lasting i) s (exec i s) :=
  match i with
  | .loop .. => execLoop_keeps
  | .endloop .. => execEndloop_keeps
  | .setvl .. => execSetvl_keeps
  | .wait .. => execWait_keeps
  | .waitRelease .. => execWaitRelease_keeps
  | .waitTimeout .. => execWaitTimeout_keeps
  | .signal .. => execSignal_keeps
  | .brst .. => execBrst_keeps
  | .yieldOp .. => execYieldOp_keeps
  | .fence .. => execFence_keeps
  | .fenceComplete .. => execFenceComplete_keeps
  | .fenceTimeout .. => execFenceTimeout_keeps
  | .tallyClear .. => execTallyClear_keeps
  | .tallyStore .. => execTallyStore_keeps
  | .tallyCompare .. => execTallyCompare_keeps
  | .tallyLoad .. => execTallyLoad_keeps
  | .halt .. => execHalt_keeps
  | .illegalOp .. => execIllegalOp_keeps
  | .launchPeerStop => execLaunchPeerStop_keeps
  | .matrix .. => execMatrix_keeps
  | .matrixStart .. => execMatrixStart_keeps
  | .matrixComplete .. => execMatrixComplete_keeps
  | .inPlaceRetry .. => execInPlaceRetry_keeps
  | .proxyRetry .. => execProxyRetry_keeps
  | .proxyRetryComplete .. => execProxyRetryComplete_keeps
  | .gemv .. => execGemv_keeps
  | .loadx .. => execLoadx_keeps
  | .mvecStart .. => execMvecStart_keeps
  | .gemvComplete .. => execGemvComplete_keeps
  | .loadxComplete .. => execLoadxComplete_keeps
  | .add .. => execAdd_keeps
  | .sub .. => execSub_keeps
  | .mul .. => execMul_keeps
  | .fma .. => execFma_keeps
  | .min .. => execMin_keeps
  | .max .. => execMax_keeps
  | .abs .. => execAbs_keeps
  | .neg .. => execNeg_keeps
  | .cmp .. => execCmp_keeps
  | .sel .. => execSel_keeps
  | .andOp .. => execAndOp_keeps
  | .orOp .. => execOrOp_keeps
  | .xorOp .. => execXorOp_keeps
  | .notOp .. => execNotOp_keeps
  | .shl .. => execShl_keeps
  | .shr .. => execShr_keeps
  | .sra .. => execSra_keeps
  | .popc .. => execPopc_keeps
  | .cvt .. => execCvt_keeps
  | .pack .. => execPack_keeps
  | .unpkl .. => execUnpkl_keeps
  | .unpkh .. => execUnpkh_keeps
  | .mov .. => execMov_keeps
  | .exp .. => execExp_keeps
  | .log .. => execLog_keeps
  | .rsqrt .. => execRsqrt_keeps
  | .tanh .. => execTanh_keeps
  | .sigm .. => execSigm_keeps
  | .erf .. => execErf_keeps
  | .rcp .. => execRcp_keeps
  | .sqrt .. => execSqrt_keeps
  | .rsum .. => execRsum_keeps
  | .rmax .. => execRmax_keeps
  | .rmin .. => execRmin_keeps
  | .rfin .. => execRfin_keeps
  | .cmpr .. => execCmpr_keeps
  | .cmpri .. => execCmpri_keeps
  | .expd .. => execExpd_keeps
  | .scani .. => execScani_keeps
  | .scanx .. => execScanx_keeps
  | .smaxi .. => execSmaxi_keeps
  | .smini .. => execSmini_keeps
  | .lrec .. => execLrec_keeps
  | .vecStart .. => execVecStart_keeps
  | .vecComplete .. => execVecComplete_keeps
  | .rand .. => execRand_keeps
  | .sample .. => execSample_keeps
  | .sguStart .. => execSguStart_keeps
  | .randComplete .. => execRandComplete_keeps
  | .sampleComplete .. => execSampleComplete_keeps
  | .copy .. => execCopy_keeps
  | .gather .. => execGather_keeps
  | .scatter .. => execScatter_keeps
  | .panel .. => execPanel_keeps
  | .rread .. => execRread_keeps
  | .rwrite .. => execRwrite_keeps
  | .rwriteAck .. => execRwriteAck_keeps
  | .moveStart .. => execMoveStart_keeps
  | .moveComplete .. => execMoveComplete_keeps
  | .allreduce .. => execAllreduce_keeps
  | .reduceScatter .. => execReduceScatter_keeps
  | .allgather .. => execAllgather_keeps
  | .broadcast .. => execBroadcast_keeps
  | .a2a .. => execA2a_keeps
  | .a2av .. => execA2av_keeps
  | .dispatch .. => execDispatch_keeps
  | .barrier .. => execBarrier_keeps
  | .collStart .. => execCollStart_keeps
  | .collComplete .. => execCollComplete_keeps
  | .chipEventAdd => execChipEventAdd_keeps
  | .chipEventVisible => execChipEventVisible_keeps
  | .launch .. => execLaunch_keeps
  | .launchDequeue => execLaunchDequeue_keeps
  | .startBroadcast => execStartBroadcast_keeps
  | .streamFetchStart => execStreamFetchStart_keeps
  | .streamFetchComplete .. => execStreamFetchComplete_keeps
  | .launchEnd => execLaunchEnd_keeps
  | .resumeFrom .. => execResumeFrom_keeps
  | .suspend .. => execSuspend_keeps
  | .corePark .. => execCorePark_keeps
  | .suspendRecordsWritten => execSuspendRecordsWritten_keeps
  | .resume .. => execResume_keeps
  | .cancel .. => execCancel_keeps
  | .release .. => execRelease_keeps
  | .handleLingerExpiry .. => execHandleLingerExpiry_keeps
  | .fwUpdate .. => execFwUpdate_keeps
  | .fwUpdateVerified => execFwUpdateVerified_keeps (ask := everything)
  | .fwUpdateCommitted => execFwUpdateCommitted_keeps
  | .quote .. => execQuote_keeps
  | .quoteComplete .. => execQuoteComplete_keeps
  | .aliasCertReady .. => execAliasCertReady_keeps
  | .scrub .. => execScrub_keeps
  | .scrubComplete .. => execScrubComplete_keeps
  | .marginHbmTiming .. => execMarginHbmTiming_keeps
  | .marginHbmVddq .. => execMarginHbmVddq_keeps
  | .marginNearBond .. => execMarginNearBond_keeps
  | .marginD2dEye .. => execMarginD2dEye_keeps
  | .marginComplete .. => execMarginComplete_keeps
  | .selfTest .. => execSelfTest_keeps
  | .selfTestSiteDone .. => execSelfTestSiteDone_keeps
  | .calibrate .. => execCalibrate_keeps
  | .calibrationComplete .. => execCalibrationComplete_keeps
  | .shadow .. => execShadow_keeps
  | .shadowStep .. => execShadowStep_keeps
  | .shadowTableReceive .. => execShadowTableReceive_keeps
  | .shadowResendTimer .. => execShadowResendTimer_keeps
  | .shadowStepLimit .. => execShadowStepLimit_keeps
  | .tripRelease .. => execTripRelease_keeps (ask := everything)
  | .cautiousAck .. => execCautiousAck_keeps
  | .chipWarmReset .. => execChipWarmReset_keeps
  | .chipWarmResetFwdKept .. => execChipWarmResetFwdKept_keeps
  | .computePlaneReset .. => execComputePlaneReset_keeps
  | .forwardingPlaneReset .. => execForwardingPlaneReset_keeps
  | .coreReset .. => execCoreReset_keeps
  | .managementReset .. => execManagementReset_keeps
  | .mdWatchdogExpiry => execMdWatchdogExpiry_keeps
  | .powerOn => execPowerOn_keeps (ask := everything)
  | .resetNAssert => execResetNAssert_keeps (ask := everything)
  | .resetNRelease => execResetNRelease_keeps (ask := everything)
  | .alRequestInit .. => execAlRequestInit_keeps
  | .alRequestPreop .. => execAlRequestPreop_keeps
  | .alRequestSafeop .. => execAlRequestSafeop_keeps
  | .alRequestOp .. => execAlRequestOp_keeps
  | .alRequestBootstrap .. => execAlRequestBootstrap_keeps
  | .txpdoSample => execTxpdoSample_keeps
  | .sdoRequest .. => execSdoRequest_keeps (ask := everything)
  | .counterClear .. => execCounterClear_keeps
  | .storedSettingWriteThrough => execStoredSettingWriteThrough_keeps
  | .emcyCoalescedReport => execEmcyCoalescedReport_keeps
  | .foeWrite .. => execFoeWrite_keeps
  | .recoveryVerifyDone => execRecoveryVerifyDone_keeps
  | .openSlice .. => execOpenSlice_keeps
  | .openReassemblyTimeout .. => execOpenReassemblyTimeout_keeps
  | .sessionRead .. => execSessionRead_keeps
  | .sessionWrite .. => execSessionWrite_keeps (ask := everything)
  | .keepalive .. => execKeepalive_keeps
  | .closeSession .. => execCloseSession_keeps
  | .sessionIdleExpiry .. => execSessionIdleExpiry_keeps
  | .windowEntryWrite .. => execWindowEntryWrite_keeps
  | .windowRevoke .. => execWindowRevoke_keeps
  | .groupCreate .. => execGroupCreate_keeps
  | .groupDelete .. => execGroupDelete_keeps
  | .groupClearFault .. => execGroupClearFault_keeps
  | .formTimer => execFormTimer_keeps
  | .form .. => execForm_keeps
  | .membershipWrite .. => execMembershipWrite_keeps
  | .jobTagWrite .. => execJobTagWrite_keeps
  | .keySlotWrite .. => execKeySlotWrite_keeps
  | .hbmRegionsWrite .. => execHbmRegionsWrite_keeps
  | .checkPolicyWrite .. => execCheckPolicyWrite_keeps
  | .controllerKeyWrite .. => execControllerKeyWrite_keeps
  | .refusedByClear .. => execRefusedByClear_keeps
  | .enterBrumate .. => execEnterBrumate_keeps
  | .leaveBrumate .. => execLeaveBrumate_keeps
  | .wakeComplete => execWakeComplete_keeps
  | .baskEntry => execBaskEntry_keeps
  | .testModeEnter .. => execTestModeEnter_keeps
  | .loopbackPortsWrite .. => execLoopbackPortsWrite_keeps
  | .eLoopbackWrite .. => execELoopbackWrite_keeps
  | .w1cWrite .. => execW1cWrite_keeps
  | .registerWrite .. => execRegisterWrite_keeps
  | .packetReceive .. => execPacketReceive_keeps
  | .reorderTimeout .. => execReorderTimeout_keeps
  | .linkStateNotice .. => execLinkStateNotice_keeps
  | .nullWord .. => execNullWord_keeps
  | .credit .. => execCredit_keeps
  | .ident0 .. => execIdent0_keeps
  | .ident1 .. => execIdent1_keeps
  | .cal .. => execCal_keeps
  | .txmon .. => execTxmon_keeps
  | .swap .. => execSwap_keeps
  | .dropWord .. => execDropWord_keeps
  | .echo .. => execEcho_keeps
  | .heartbeat _ _ beat .. => execHeartbeat_keeps (_beat := beat)
  | .heartbeatSend => execHeartbeatSend_keeps
  | .croakInterval => execCroakInterval_keeps
  | .aggregationWindowEnd .. => execAggregationWindowEnd_keeps
  | .disagreeLimit .. => execDisagreeLimit_keeps
  | .read .. => execRead_keeps
  | .write .. => execWrite_keeps
  | .writeAck .. => execWriteAck_keeps
  | .targetAccessComplete .. => execTargetAccessComplete_keeps
  | .readRsp .. => execReadRsp_keeps
  | .wackRsp .. => execWackRsp_keeps
  | .refuseBackoffExpiry .. => execRefuseBackoffExpiry_keeps
  | .remoteTimeout .. => execRemoteTimeout_keeps
  | .grantIssue .. => execGrantIssue_keeps
  | .grant .. => execGrant_keeps
  | .data .. => execData_keeps
  | .abort .. => execAbort_keeps
  | .token .. => execToken_keeps
  | .xack .. => execXack_keeps
  | .xackTimer .. => execXackTimer_keeps
  | .xdomRtoExpiry .. => execXdomRtoExpiry_keeps
  | .latecomerTimeout .. => execLatecomerTimeout_keeps
  | .eDatagramReceive .. => execEDatagramReceive_keeps
  | .ptpMessage .. => execPtpMessage_keeps
  | .calendarSet .. => execCalendarSet_keeps
  | .linkBringupStepDone .. => execLinkBringupStepDone_keeps
  | .fecLinkDown .. => execFecLinkDown_keeps
  | .losDeclared .. => execLosDeclared_keeps
  | .probeTimer .. => execProbeTimer_keeps
  | .lightDetected .. => execLightDetected_keeps
  | .ringLockLost .. => execRingLockLost_keeps
  | .ringRelockTimeout .. => execRingRelockTimeout_keeps
  | .fadeWarn .. => execFadeWarn_keeps
  | .fadeAct .. => execFadeAct_keeps
  | .fadeRecover .. => execFadeRecover_keeps
  | .spareLocked .. => execSpareLocked_keeps
  | .spareLockTimeout .. => execSpareLockTimeout_keeps
  | .swapProposeRetry .. => execSwapProposeRetry_keeps
  | .swapSwitchover .. => execSwapSwitchover_keeps
  | .eLaserReplace .. => execELaserReplace_keeps
  | .railGood .. => execRailGood_keeps
  | .railLost .. => execRailLost_keeps (ask := everything)
  | .railAbsentTimeout .. => execRailAbsentTimeout_keeps
  | .refclockLost => execRefclockLost_keeps
  | .pllLockLost .. => execPllLockLost_keeps
  | .d2dCrcReplay .. => execD2dCrcReplay_keeps
  | .powerSample .. => execPowerSample_keeps
  | .capLoopEval => execCapLoopEval_keeps
  | .slewInterval .. => execSlewInterval_keeps
  | .limiterCheck .. => execLimiterCheck_keeps
  | .pwrcapNAssert => execPwrcapNAssert_keeps
  | .pinCeilingLapse => execPinCeilingLapse_keeps
  | .pwrcapNRelease => execPwrcapNRelease_keeps
  | .sensorSample .. => execSensorSample_keeps
  | .clampEnd => execClampEnd_keeps
  | .warnClear .. => execWarnClear_keeps
  | .sampleRateLower .. => execSampleRateLower_keeps
  | .tripPowerDown => execTripPowerDown_keeps
  | .refreshBlock .. => execRefreshBlock_keeps
  | .patrolScrubRead .. => execPatrolScrubRead_keeps
  | .samplerTrackStep .. => execSamplerTrackStep_keeps
  | .lifetimeWriteThrough => execLifetimeWriteThrough_keeps
  | .extest .. => execExtest_keeps
  | .samplePreload .. => execSamplePreload_keeps
  | .idcode => execIdcode_keeps
  | .clampInstruction => execClampInstruction_keeps
  | .highz => execHighz_keeps
  | .dieSelect .. => execDieSelect_keeps
  | .ijtag => execIjtag_keeps
  | .bypass .. => execBypass_keeps
  | .tapReset => execTapReset_keeps
  | .startUpStepDone .. => execStartUpStepDone_keeps
  | .referenceClockReturn => execReferenceClockReturn_keeps
  | .badControlWord .. => execBadControlWord_keeps
  | .ePortDown .. => execEPortDown_keeps
  | .ePortUp .. => execEPortUp_keeps
  | .eFrameReceive .. => execEFrameReceive_keeps
  | .biasTrendSample => execBiasTrendSample_keeps
  | .operationSuspendObeyed .. => execOperationSuspendObeyed_keeps
  | .operationCancelObeyed .. => execOperationCancelObeyed_keeps

section
variable {i : Instr} {s t : State}

/-- The next state that a command answers keeps what lasts through it. -/
theorem keeps_of_exec (h : exec i s = .next t) : Keeps (lasting i) s t := by
  obtain ⟨u, hu, hk⟩ := exec_keeps i s
  cases h.symm.trans hu
  exact hk

theorem lasting_test (hl : ∀ r, i ≠ .railLost r) (hp : i ≠ .powerOn) (ha : i ≠ .resetNAssert) (hr : i ≠ .resetNRelease) :
    (lasting i).test = true := by
  unfold lasting
  split
  case h_1 => exact absurd rfl (hl _)
  case h_2 => exact absurd rfl hp
  case h_3 => exact absurd rfl ha
  case h_4 => exact absurd rfl hr
  all_goals rfl

theorem lasting_trip (hl : ∀ r, i ≠ .railLost r) (hp : i ≠ .powerOn) (hr : ∀ m d, i ≠ .tripRelease m d)
    (hd : ∀ m w k x u d, i ≠ .sdoRequest m w k x u d) (hw : ∀ m, i ≠ .sessionWrite m) : (lasting i).trip = true := by
  unfold lasting
  split
  case h_1 => exact absurd rfl (hl _)
  case h_2 => exact absurd rfl hp
  case h_5 => exact absurd rfl (hr _ _)
  case h_6 => exact absurd rfl (hd _ _ _ _ _ _)
  case h_7 => exact absurd rfl (hw _)
  all_goals rfl

theorem lasting_fuse (h : i ≠ .fwUpdateVerified) : (lasting i).fuse = true := by
  unfold lasting
  split
  case h_8 => exact absurd rfl h
  all_goals rfl

/-- The commit of an update leaves the fused counter, or raises it to the staged image's svn, within the 64 fuses (R480). -/
theorem fused_fwUpdateVerified (h : exec .fwUpdateVerified s = .next t) :
    t.sec.fused = s.sec.fused ∨
      ∃ img, s.mgmt.staged = some img ∧ t.sec.fused = max s.sec.fused (min 64 (numAt img 0x0C 4)) := by
  have failed : ∀ {k c : Nat}, (setHandle k 8 c s).sec.fused = s.sec.fused := fun {_ _} =>
    (setHandle_keeps (ask := everything) Keeps.refl).fuse rfl
  change execFwUpdateVerified s = .next t at h
  unfold execFwUpdateVerified at h
  obtain rfl := (Host.Outcome.next.inj h).symm
  cases updating s with
  | none => exact .inl rfl
  | some k =>
    dsimp only
    split
    · exact .inl rfl
    · cases hs : s.mgmt.staged with
      | none => exact .inl failed
      | some img =>
        dsimp only
        split
        · exact .inr ⟨img, rfl, rfl⟩
        · exact .inl failed

/-! ## A step -/

/-- What a tick moves first: the time, and the engines' credits. -/
def nsLater (s : State) : State := { s with now := s.now + 1, cores := s.cores.map (coreTick (theta s)) }

/-- A port that sends no superframe is due none. -/
theorem frameDue_of_dark {p : Nat} (h : sending s p = false) : frameDue s p = false := by
  unfold frameDue
  rw [h, Bool.false_and]

theorem sendFrames_dark (h : ∀ p < 32, sending s p = false) : sendFrames s = s := by
  have none : (List.range 32).filter (frameDue s) = [] :=
    List.filter_eq_nil_iff.2 fun p hp => by rw [frameDue_of_dark (h p (List.mem_range.1 hp))]; exact Bool.false_ne_true
  rw [sendFrames, none, List.foldl_nil]

theorem noteCapDelays_idle (h : s.fab.wait = []) : noteCapDelays s = s := by
  rw [noteCapDelays, h, List.isEmpty_nil, if_pos rfl]

end

/-! ## The statements -/

/-- Settles O3. -/
theorem everyCommandAnswers : Obligations.EveryCommandAnswers := fun i s =>
  (exec_keeps i s).imp fun _ ⟨ht, hk⟩ => ⟨ht, hk.pending⟩

/-- Settles O7. -/
theorem testModeLasts : Obligations.TestModeLasts := fun _ _ _ hl hp ha hr h =>
  (keeps_of_exec h).test (lasting_test hl hp ha hr)

/-- Settles O8. -/
theorem tripLasts : Obligations.TripLasts := fun _ _ _ hl hp hr hd hw h =>
  (keeps_of_exec h).trip (lasting_trip hl hp hr hd hw)

/-- Settles O6. No command lets the counter fall (`exec_keeps`), and the one that may raise it is the commit of an update. -/
theorem rollbackCounterRises : Obligations.RollbackCounterRises := by
  intro i s t h
  have kept : Keeps (lasting i) s t := keeps_of_exec h
  by_cases hi : i = .fwUpdateVerified
  · subst hi
    obtain same | ⟨img, staged, raised⟩ := fused_fwUpdateVerified h
    · exact ⟨kept.rise, fun _ => by omega, fun hne => absurd same hne⟩
    · exact ⟨kept.rise, fun _ => by omega, fun _ => ⟨rfl, img, staged, fun _ => by omega⟩⟩
  · have same : t.sec.fused = s.sec.fused := kept.fuse (lasting_fuse hi)
    exact ⟨kept.rise, fun _ => by omega, fun hne => absurd same hne⟩

/-- Settles O1. -/
theorem stepRunsFront : Obligations.StepRunsFront := fun _ _ _ h => step_cons h

/-- Settles O2. What moves first decides nothing about light, packets or held messages. -/
theorem idleStepIsATick : Obligations.IdleStepIsATick := by
  intro s queue held waiting dark
  have idle : noteCapDelays (nsLater s) = nsLater s := noteCapDelays_idle waiting
  have silent : sendFrames (nsLater s) = nsLater s := sendFrames_dark dark
  have drained : emcyDrain 16 (nsLater s) = nsLater s := emcyDrain_none_held (n := 15) held
  rw [step_nil queue]
  change Host.Outcome.next (emcyDrain 16 (sendFrames (noteCapDelays (nsLater s)))) = .next (nsLater s)
  rw [idle, silent, drained]

end Sys2Proof.Machine

/-! SUPPORT. Ordinary-network ports and the clock (R380 to R384, R465): what a port that is up does with a frame, a datagram and a message of
the clock, and what the loss of a laser leaves of it. -/

namespace Sys2Proof.Machine

/-! ## One E port changed in place -/

section
variable {s : State} {n : Nat}

theorem eport_modEport_same {f : EPort → EPort} (h : n < s.eports.length) : (s.modEport n f).eport n = f (s.eport n) :=
  getD_modify_same h

/-- Two changes of one E port are one. -/
theorem modEport_modEport {f g : EPort → EPort} : (s.modEport n f).modEport n g = s.modEport n fun e => g (f e) := by
  simp only [State.modEport, List.modify_modify_eq, Function.comp_def]

/-- A repair found is recorded in the fleet's state, and reported. -/
theorem recordRepair_fields {kind unit index repl source state : Nat} :
    ∃ m o f, recordRepair kind unit index repl source state s = { s with mgmt := m, od := o, fleet := f } := by
  have reported : ∀ {f : Fleet} {t : State}, Reported { s with fleet := f } t → ∃ m o g, t = { s with mgmt := m, od := o, fleet := g } :=
    fun {f _} ⟨m, o, h⟩ => ⟨m, o, f, h⟩
  unfold recordRepair
  split
  · exact ⟨s.mgmt, s.od, s.fleet, rfl⟩
  · split
    · exact reported emcy_reported
    · exact reported emcy_reported

/-! ## Frames (R380) -/

/-- What leaves while no lane is dark is sent and counted. -/
theorem frameSent_lit {out : State → State} (hd : (s.eport n).darkUntil ≤ s.now) :
    frameSent n out s = out (s.modEport n fun e => { e with tx := e.tx + 1 }) := if_neg (Nat.not_lt.2 hd)

/-- The port as it has taken a frame or a datagram in. -/
def counted (n : Nat) (s : State) : State := s.modEport n fun e => { e with rx := e.rx + 1 }

theorem counted_eport (h : n < s.eports.length) : (counted n s).eport n = { s.eport n with rx := (s.eport n).rx + 1 } := eport_modEport_same h

theorem counted_dark (h : n < s.eports.length) (hd : (s.eport n).darkUntil ≤ s.now) :
    ((counted n s).eport n).darkUntil ≤ (counted n s).now := by
  rw [counted_eport h]
  exact hd

theorem counted_dropped : (counted n s).modEport n (fun e => { e with dropped := e.dropped + 1 }) =
    s.modEport n fun e => { e with rx := e.rx + 1, dropped := e.dropped + 1 } := modEport_modEport

/-- A port that is up takes a frame by what spoils it. -/
theorem exec_eFrameReceive {l : Nat} {f : EFrame} (hu : (s.eport n).up = true) (hd : (s.eport n).darkUntil ≤ s.now) :
    exec (.eFrameReceive n ⟨l, f⟩) s = .next (if f = .uncorrectable then s.modEport n fun e => { e with unc := e.unc + 1 }
      else if f = .fcsError then s.modEport n fun e => { e with fcs := e.fcs + 1 }
      else if 9216 < l then (counted n s).modEport n fun e => { e with dropped := e.dropped + 1 }
      else takeEFrame n f (counted n s)) := by
  show execEFrameReceive n _ s = _
  rw [execEFrameReceive, hu, if_neg (Nat.not_lt.2 hd)]
  rfl

theorem exec_eFrameReceive_dark {x : EFrameIn} (hu : (s.eport n).up = true) (hd : s.now < (s.eport n).darkUntil) :
    exec (.eFrameReceive n x) s = .next (s.modEport n fun e => { e with dropped := e.dropped + 1 }) := by
  show execEFrameReceive n x s = _
  rw [execEFrameReceive, hu, if_pos hd]
  rfl

theorem takeEFrame_unsupported {f : EFrame} (hf : f ∈ [EFrame.fragment, .extensionHeader, .ipv4, .tcp]) :
    takeEFrame n f s = s.modEport n fun e => { e with dropped := e.dropped + 1 } := by
  simp only [List.mem_cons, List.not_mem_nil, or_false] at hf
  obtain rfl | rfl | rfl | rfl := hf <;> rfl

/-- A solicitation of the port's own address is answered, and an echo to it. -/
theorem takeEFrame_answered {f g : EFrame} (h : (f, g) ∈ [(EFrame.neighbourSolicit (eAddress s n), EFrame.neighbourAdvert (eAddress s n))] ∨
    ∃ b, f = .icmpEcho (eAddress s n) b ∧ g = f) : takeEFrame n f s = frameE n g s := by
  obtain h | ⟨b, rfl, rfl⟩ := h
  · obtain ⟨rfl, rfl⟩ := Prod.mk.inj (List.mem_singleton.1 h)
    exact if_pos rfl
  · exact if_pos rfl

/-- The only datagram that waited for a neighbour leaves once the neighbour is known. -/
theorem neighbourFound_only {d : Datagram} (h : (s.eport n).unresolved = [d]) : neighbourFound n d.addr s =
    datagramE n d (s.modEport n fun e => { e with
      neighbours := if e.neighbours.contains d.addr then e.neighbours else e.neighbours ++ [d.addr]
      unresolved := e.unresolved.filter fun x => x.addr != d.addr }) := by
  simp only [neighbourFound, h, List.filter_cons, List.filter_nil, beq_self_eq_true, if_true, List.foldl_cons, List.foldl_nil]

/-! ## Datagrams (R382, R383) -/

theorem exec_eDatagramReceive_dark {d : Datagram} (hu : (s.eport n).up = true) (hd : s.now < (s.eport n).darkUntil) :
    exec (.eDatagramReceive n d) s = .next (s.modEport n fun e => { e with dropped := e.dropped + 1 }) := by
  show execEDatagramReceive n d s = _
  rw [execEDatagramReceive, hu, if_pos hd]
  rfl

theorem exec_eDatagramReceive_request {d : Datagram} (hu : (s.eport n).up = true) (hd : (s.eport n).darkUntil ≤ s.now)
    (hc : d.checksumOk = true) (hp : d.ownPort = odGet s 0x2921 1) (he : d.pkt.sep = 0xFE) :
    exec (.eDatagramReceive n d) s = .next (if bulkPeer s d.addr && hostOk s d.pkt
      then { counted n s with inbox := s.inbox ++ [{ xd := n, fromE := some (n, d.addr, d.port), pkt := d.pkt }] }
      else s.modEport n fun e => { e with rx := e.rx + 1, dropped := e.dropped + 1 }) := by
  show execEDatagramReceive n d s = _
  have hf : (!d.checksumOk || d.ownPort != odGet s 0x2921 1) = false := by simp [hc, hp]
  rw [execEDatagramReceive, hu, if_neg (Nat.not_lt.2 hd), hf, if_pos he, ← counted_dropped]
  rfl

theorem exec_eDatagramReceive_refused {d : Datagram} (hu : (s.eport n).up = true) (hd : (s.eport n).darkUntil ≤ s.now)
    (hf : d.checksumOk = false ∨ d.ownPort ≠ odGet s 0x2921 1) :
    exec (.eDatagramReceive n d) s = .next (s.modEport n fun e => { e with rx := e.rx + 1, dropped := e.dropped + 1 }) := by
  show execEDatagramReceive n d s = _
  have hf : (!d.checksumOk || d.ownPort != odGet s 0x2921 1) = true := by simpa [or_comm] using hf
  rw [execEDatagramReceive, hu, if_neg (Nat.not_lt.2 hd), if_pos hf, ← counted_dropped]
  rfl

/-! ## Links (R381) -/

theorem eDown_up {l : Nat} (hu : (s.eport n).up = true) :
    eDown n l s = emcy 0xFF88 [0x40 + n, l, 0, l, 0] (s.modEport n fun e => { e with up := false }) := if_pos hu

theorem exec_eLaserReplace_used {a l : Nat} (h : (s.eport n).spareLane = some a) : exec (.eLaserReplace n l) s = .next (eDown n l s) := by
  show execELaserReplace n l s = _
  simp only [execELaserReplace, h]

/-- The spare takes the lane, and the lane is dark for the time drawn; what else changes is told and recorded. -/
theorem exec_eLaserReplace_spare {l : Nat} (h : (s.eport n).spareLane = none) :
    ∃ t, exec (.eLaserReplace n l) s = .next t ∧ t.mem = s.mem ∧ t.eports = (s.modEport n fun e =>
      { e with spareLane := some l, darkUntil := s.now + (Config.freeWord s.free).toNat % 1000001 }).eports := by
  let u : State := { s with free := s.free + 1 }.modEport n fun e =>
    { e with spareLane := some l, darkUntil := s.now + (Config.freeWord s.free).toNat % 1000001 }
  obtain ⟨m, o, told⟩ := emcy_reported (s := u) (code := 0xFF88) (bytes := [0x40 + n, l, 2, l, 0])
  obtain ⟨m', o', f, recorded⟩ := recordRepair_fields (s := emcy 0xFF88 [0x40 + n, l, 2, l, 0] u) (kind := 8) (unit := 4 + n)
    (index := 32 * n + l) (repl := 32 * n + 4) (source := 5) (state := 1)
  refine ⟨recordRepair 8 (4 + n) (32 * n + l) (32 * n + 4) 5 1 (emcy 0xFF88 [0x40 + n, l, 2, l, 0] u), ?_, ?_, ?_⟩
  · show execELaserReplace n l s = _
    simp only [execELaserReplace, h]
    rfl
  · rw [recorded, told]
    rfl
  · rw [recorded, told]
    rfl

/-! ## The clock (R384, R465) -/

theorem exec_ptpMessage_announce {d : List Nat} (hu : (s.eport n).up = true) :
    exec (.ptpMessage n (.announce (odGet s 0x2930 1) d)) s = .next (ptpAnnounce n d s) := by
  show execPtpMessage n _ s = _
  simp [execPtpMessage, hu, ptpDomain]

theorem ptpAnnounce_better {d : List Nat} (h : s.ptp.state = 0 ∨ (s.ptp.state = 1 ∧ s.ptp.port ≠ n ∧ d < s.ptp.master)) :
    ptpAnnounce n d s = { s with ptp := { s.ptp with state := 1, port := n, master := d, t1 := none, t3 := none } } := by
  have other : ¬(s.ptp.state ≠ 0 ∧ s.ptp.port = n) := by
    rintro ⟨h0, hn⟩
    obtain h | ⟨-, hp, -⟩ := h
    exacts [h0 h, hp hn]
  have better : s.ptp.state = 0 ∨ d < s.ptp.master := h.imp id fun h => h.2.2
  have unlocked : s.ptp.state ≠ 2 := by omega
  rw [ptpAnnounce, if_neg other, if_pos better, if_neg unlocked]

/-- A message of the master in use, which announces no data set. -/
theorem exec_ptpMessage_master {msg : PtpMsg} (hu : (s.eport n).up = true) (h0 : s.ptp.state ≠ 0) (hp : s.ptp.port = n)
    (hd : ptpDomain msg = some (odGet s 0x2930 1)) (ha : ∀ d x, msg ≠ .announce d x) :
    exec (.ptpMessage n msg) s = .next (ptpFromMaster n msg s) := by
  show execPtpMessage n msg s = _
  have master : s.ptp.state ≠ 0 ∧ s.ptp.port = n := ⟨h0, hp⟩
  have domain : (!(s.eport n).up || (ptpDomain msg).any fun d => d != odGet s 0x2930 1) = false := by simp [hu, hd]
  unfold execPtpMessage
  rw [domain]
  cases msg with
  | announce d x => exact absurd rfl (ha d x)
  | _ => exact congrArg Host.Outcome.next (if_pos master)

/-- The stamp of a Delay_Req lies within 8 ns of the calendar. -/
theorem delayReq_stamp {w : Nat} : (calendar s : Int) - 8 ≤ calendar s + ((w % 17 : Nat) : Int) - 8 ∧
    (calendar s : Int) + ((w % 17 : Nat) : Int) - 8 ≤ calendar s + 8 := by omega

/-- The calendar set while the clock is locked is the calendar from then on. -/
theorem exec_calendarSet_locked {time : Nat} (h : s.ptp.state = 2) : exec (.calendarSet time) s =
    .next { s with fleet := { s.fleet with calBase := (time : Int) - s.now, calSource := 1 } } := congrArg Host.Outcome.next (if_pos h)

end

/-! ## The statement -/

/-- Settles O51. A port that is up and not dark takes a frame or a datagram by what is wrong with it; the clock's messages turn on the port of
the master in use alone. -/
theorem ethernetPorts : Obligations.EthernetPorts := by
  intro s n hn
  refine ⟨fun hu hd => ⟨fun d hc hp he hb ho => ?request, fun d h => ?refused, fun l => exec_eFrameReceive hu hd,
      fun l => exec_eFrameReceive hu hd, fun l f h1 h2 h => ?dropped, fun l hl => ⟨?pause, fun f g h => ?answered, fun d h => ?found⟩,
      fun l => congrArg Host.Outcome.next (eDown_up hu), fun a k h => ?spent, fun d h => ?announce,
      fun h0 hp => ⟨fun k a => ?sync, fun k o hk h1 => ?followUp, fun k arr t1 t3 h1 h3 hk => ?delayResp⟩⟩,
    fun hu hd => ⟨fun d => exec_eDatagramReceive_dark hu hd, fun l f => exec_eFrameReceive_dark hu hd⟩, fun hu ho => ?up,
    fun l h => ?spare, fun time h => ?calendar⟩
  case request => rw [exec_eDatagramReceive_request hu hd hc hp he, hb, ho]; rfl
  case refused =>
    by_cases hr : d.checksumOk = false ∨ d.ownPort ≠ odGet s 0x2921 1
    · exact exec_eDatagramReceive_refused hu hd hr
    · simp only [not_or, Bool.not_eq_false, ne_eq, not_not] at hr
      obtain hc | hp | ⟨he, hf⟩ := h
      · exact absurd hr.1 (by simp [hc])
      · exact absurd hr.2 hp
      · have unfit : (bulkPeer s d.addr && hostOk s d.pkt) = false := Bool.and_eq_false_iff.2 hf
        rw [exec_eDatagramReceive_request hu hd hr.1 hr.2 he, unfit]
        rfl
  case dropped =>
    rw [exec_eFrameReceive hu hd, if_neg h2, if_neg h1]
    split
    · rw [counted_dropped]
    · rw [takeEFrame_unsupported (h.resolve_left ‹_›), counted_dropped]
  case pause =>
    rw [exec_eFrameReceive hu hd, if_neg (by simp), if_neg (by simp), if_neg (Nat.not_lt.2 hl)]
    exact congrArg Host.Outcome.next modEport_modEport
  case answered =>
    have whole : f ≠ .uncorrectable ∧ f ≠ .fcsError := by
      obtain h | ⟨b, rfl, -⟩ := h
      · obtain ⟨rfl, -⟩ := Prod.mk.inj (List.mem_singleton.1 h)
        exact ⟨nofun, nofun⟩
      · exact ⟨nofun, nofun⟩
    rw [exec_eFrameReceive hu hd, if_neg whole.1, if_neg whole.2, if_neg (Nat.not_lt.2 hl), takeEFrame_answered (s := counted n s) h, frameE,
      frameSent_lit (counted_dark hn hd), counted, modEport_modEport]
    refine ⟨_, rfl, rfl, ?_, ?_, rfl⟩
    · exact congrArg EPort.rx (eport_modEport_same hn)
    · exact congrArg EPort.tx (eport_modEport_same hn)
  case found =>
    have waits : ((counted n s).eport n).unresolved = [d] := by rw [counted_eport hn]; exact h
    have lit := counted_dark hn hd
    rw [exec_eFrameReceive hu hd, if_neg nofun, if_neg nofun, if_neg (Nat.not_lt.2 hl), takeEFrame, neighbourFound_only waits, datagramE,
      frameSent_lit (by rw [counted, modEport_modEport, eport_modEport_same hn]; exact hd), counted, modEport_modEport, modEport_modEport]
    have port := eport_modEport_same (f := fun e : EPort => { e with
      rx := e.rx + 1
      neighbours := if e.neighbours.contains d.addr then e.neighbours else e.neighbours ++ [d.addr]
      unresolved := e.unresolved.filter fun x => x.addr != d.addr
      tx := e.tx + 1 }) hn
    refine ⟨_, rfl, rfl, ?_, ?_, rfl⟩
    · refine (congrArg EPort.unresolved port).trans ?_
      simp [h]
    · refine (congrArg (fun e => e.neighbours.contains d.addr) port).trans ?_
      dsimp only
      split
      · assumption
      · simp
  case spent => rw [exec_eLaserReplace_used h, eDown_up hu]
  case announce => rw [exec_ptpMessage_announce hu, ptpAnnounce_better h]
  case sync => exact exec_ptpMessage_master hu h0 hp rfl (fun _ _ => nofun)
  case followUp =>
    rw [exec_ptpMessage_master (msg := .followUp _ k o) hu h0 hp rfl (fun _ _ => nofun), ptpFromMaster, if_pos ⟨hk, h1⟩]
    exact ⟨_, _, rfl, rfl, rfl, delayReq_stamp.1, delayReq_stamp.2, rfl, rfl, rfl⟩
  case delayResp =>
    rw [exec_ptpMessage_master (msg := .delayResp _ k arr) hu h0 hp rfl (fun _ _ => nofun)]
    simp only [ptpFromMaster, h1, h3, hk, if_true]
  case up =>
    have off : ¬((s.eport n).up = true ∨ eOn s n = false) := by simp [hu, ho]
    exact congrArg Host.Outcome.next (if_neg off)
  case spare =>
    obtain ⟨t, taken, mem, eports⟩ := exec_eLaserReplace_spare (l := l) h
    have port : t.eport n = { s.eport n with spareLane := some l, darkUntil := s.now + (Config.freeWord s.free).toNat % 1000001 } :=
      (congrArg (fun l => l.getD n {}) eports).trans (eport_modEport_same hn)
    refine ⟨t, taken, ?_⟩
    rw [port]
    exact ⟨rfl, rfl, Nat.le_add_right .., Nat.add_le_add_left (Nat.le_of_lt_succ (Nat.mod_lt _ (by decide))) _, mem⟩
  case calendar =>
    refine ⟨_, exec_calendarSet_locked h, ?_, rfl, rfl⟩
    simp only [calendar]
    omega

end Sys2Proof.Machine

/-! SUPPORT. The test-access port (R496, R497, R499): an instruction that is allowed, one that is not, and the selection of a die that is no
XD. -/

namespace Sys2Proof.Machine

section
variable {s : State} {op v : Nat} {f : State → State}

theorem tapLoad_allowed (h : testOnly op = false ∨ s.test.mode = true) : tapLoad op f s = f (tapTake op s) := by
  have allowed : ¬(testOnly op && !s.test.mode) = true := by
    obtain h | h := h
    · rw [h, Bool.false_and]; exact Bool.false_ne_true
    · rw [h, Bool.not_true, Bool.and_false]; exact Bool.false_ne_true
  exact if_neg allowed

theorem tapLoad_denied (ho : testOnly op = true) (hm : s.test.mode = false) : tapLoad op f s = tapDenied s :=
  if_pos (by rw [ho, hm]; rfl)

/-- Bits 4 to 7 of a selection name the XDs. -/
theorem no_xd_below (h : v < 16) : ((List.range 4).any fun k => bitAt v (4 + k)) = false := by
  have low : ∀ k, (v >>> (4 + k)) = 0 := fun k => by
    rw [Nat.shiftRight_eq_div_pow]
    exact Nat.div_eq_of_lt (h.trans_le (Nat.pow_le_pow_right (n := 2) (by decide) (Nat.le_add_right 4 k)))
  simp [bitAt, low]

/-- Where no XD was selected and none is, the selection does nothing else. -/
theorem selectDie_no_xd (hx : xdSelected s = false) (hv : v < 16) :
    selectDie v s = { s with test := { s.test with dieSel := v, ijtagOpen := false } } := by
  have none : xdSelected { s with test := { s.test with dieSel := v, ijtagOpen := false } } = false := by
    rw [xdSelected, no_xd_below hv, Bool.and_false]
  simp only [selectDie, hx, none, Bool.false_and, Bool.false_eq_true, if_false]

theorem xdSelected_tapTake : xdSelected (tapTake op s) = xdSelected s := rfl

end

/-- Settles O59. -/
theorem testAccess : Obligations.TestAccess := by
  intro s v
  refine ⟨congrArg Host.Outcome.next (tapLoad_allowed (.inl rfl)), congrArg Host.Outcome.next (tapLoad_allowed (.inl rfl)), rfl,
    fun hm => ⟨?extest, ?clamp, ?highz, ?ijtag, fun hx hv => ?select⟩, fun hm i hi => ?denied, fun hx => ?reset⟩
  case extest => exact congrArg Host.Outcome.next (tapLoad_allowed (.inr hm))
  case clamp => exact congrArg Host.Outcome.next (tapLoad_allowed (.inr hm))
  case highz => exact congrArg Host.Outcome.next (tapLoad_allowed (.inr hm))
  case ijtag => exact congrArg Host.Outcome.next (tapLoad_allowed (.inr hm))
  case select =>
    have taken : selectDie v (tapTake 0x10 s) = _ := selectDie_no_xd (xdSelected_tapTake.trans hx) hv
    exact congrArg Host.Outcome.next ((tapLoad_allowed (.inr hm)).trans taken)
  case denied =>
    simp only [List.mem_cons, List.not_mem_nil, or_false] at hi
    obtain rfl | rfl | rfl | rfl | rfl := hi <;> exact congrArg Host.Outcome.next (tapLoad_denied rfl hm)
  case reset =>
    have deselected : selectDie 0 s = _ := selectDie_no_xd hx (by decide)
    exact congrArg (fun t => Host.Outcome.next (tapTake 0x02 t)) deselected

end Sys2Proof.Machine

/-! SUPPORT. Controls of long operations (R409 to R414): an accepted control write, and what an operation does of itself. -/

namespace Sys2Proof.Machine

/-! ## An accepted write of an object that every master sees -/

section
variable {s : State} {m : Master} {b : List Byte} {h i u v : Nat}

/-- No row of the index is secure-only. -/
def OpenIndex (i : Nat) : Prop := ∀ o ∈ objs, o.i0 ≤ i → i ≤ o.i1 → o.acc ≠ .srw ∧ o.acc ≠ .sro

/-- An accepted write answers with a success and takes effect. -/
theorem dictWrite_open (hi : OpenIndex i) (hn : creates i u = false) (hr : reaches m s = true) (hc : odCheck m i u b s = 0) :
    dictWrite m i u b s = odApply m i u b (setResp m 0 [] s) := by
  obtain ⟨o, hf⟩ := findObj_of_accepted hc
  obtain ⟨hm, h0, h1, -, -⟩ := findObj_some hf
  obtain ⟨hsrw, hsro⟩ := hi o hm h0 h1
  have hh : hidden m o = false := by simp [hidden, hsrw, hsro]
  have hw : writeAnswer i u s = [] := by simp [writeAnswer, hn]
  rw [dictWrite_accepted hr hf hh hc, hw]

/-! ## Control writes (R411 to R414) -/

theorem handle_rows : ∀ o ∈ objs, o.i0 ≤ 0x2240 → 0x2201 ≤ o.i1 → o.acc ≠ .srw ∧ o.acc ≠ .sro := by
  decide +kernel

theorem openIndex_handle (h1 : 1 ≤ h) (h64 : h ≤ 64) : OpenIndex (0x2200 + h) := fun o ho hlo hhi =>
  handle_rows o ho (by omega) (by omega)

/-- An accepted control write controls its handle. -/
theorem controlWrite_accepted (h1 : 1 ≤ h) (h64 : h ≤ 64) (hr : reaches m s = true) (hc : odCheck m (0x2200 + h) 3 (leBytes 1 v) s = 0) :
    controlWrite m h v s = (control h (ofLE (leBytes 1 v)) (setResp m 0 [] s)).2 := by
  have hn : creates (0x2200 + h) 3 = false := by
    have : 0x2200 + h ≠ 0x2100 := by omega
    simp [creates, this]
  have own : 0x2201 ≤ 0x2200 + h ∧ 0x2200 + h ≤ 0x2240 := by omega
  rw [controlWrite, dictWrite_open (openIndex_handle h1 h64) hn hr hc]
  unfold odApply
  rw [if_neg (by rw [hn]; exact Bool.false_ne_true), if_pos own, if_pos rfl, Nat.add_sub_cancel_left]

theorem control_suspends (hs : (s.handle h).state = 2) (hk : (s.handle h).kind = 4) :
    (control h 1 s).2 = s.modHandle h fun x => { x with state := 3, result := 0xFFFF } := by
  simp [control, hs, controlSuspend, hk, suspendKind, setHandle]

theorem control_resumes (hs : (s.handle h).state = 4) (hk : (s.handle h).kind ≠ 1) :
    (control h 2 s).2 = s.modHandle h fun x => { x with state := 2, result := 0xFFFF } := by
  simp [control, hs, controlResume, hk, setHandle]

theorem control_cancels_waiting (hs : (s.handle h).state = 1 ∨ (s.handle h).state = 4) : (control h 3 s).2 = setHandle h 9 0 s := by
  obtain hs | hs := hs <;> simp [control, hs, controlCancel]

theorem control_cancels_running (hs : (s.handle h).state = 2) (hk : (s.handle h).kind = 4) :
    (control h 3 s).2 = s.modHandle h fun x => { x with state := 6, result := 0xFFFF } := by
  simp [control, hs, controlCancel, hk, setHandle]

theorem control_releases (hs : [4, 7, 8, 9].contains (s.handle h).state = true) : (control h 4 s).2 = s.modHandle h fun _ => {} := by
  simp only [control, hs, if_true]
  rfl

/-! ## What an operation does of itself (R411, R414) -/

/-- What a change leaves of each handle, it leaves of every one. -/
theorem handle_modHandle_of_kept {α : Type} {f : Handle → Handle} {g : Handle → α} (hk : g (f (s.handle h)) = g (s.handle h)) :
    g ((s.modHandle h f).handle i) = g (s.handle i) := by
  by_cases hi : h - 1 = i - 1
  · have same : s.handle i = s.handle h := by rw [State.handle, State.handle, hi]
    have same' : (s.modHandle h f).handle i = (s.modHandle h f).handle h := by rw [State.handle, State.handle, hi]
    by_cases hin : h - 1 < s.handles.length
    · rw [same', same, handle_modHandle_same hin, hk]
    · rw [State.modHandle, List.modify_eq_self (Nat.not_lt.1 hin)]
  · rw [handle_modHandle_other hi]

/-- A handle's state tells nothing of the operations' kinds. -/
theorem setHandle_kind {st res : Nat} : ((setHandle h st res s).handle i).kind = (s.handle i).kind := by
  have kept : ((s.modHandle h (Handle.into st res (calendar s))).handle i).kind = (s.handle i).kind :=
    handle_modHandle_of_kept (g := Handle.kind) rfl
  rw [State.handle, setHandle_reported.handles]
  exact kept

theorem noQuote_of_kinds (h : ∀ i, (s.handle i).kind ≠ 3) : NoQuote s := fun i hk => absurd hk (h (i + 1))

theorem exec_operationCancelObeyed (hk : (s.handle h).kind ≠ 1) (hs : (s.handle h).state = 6) (hq : ∀ i, (s.handle i).kind ≠ 3) :
    exec (.operationCancelObeyed h) s = .next (setHandle h 9 0 (s.modHandle h fun x => { x with quote := [] })) := by
  have none : NoQuote (setHandle h 9 0 (s.modHandle h fun x => { x with quote := [] })) := noQuote_of_kinds fun i => by
    rw [setHandle_kind, handle_modHandle_of_kept (g := Handle.kind) rfl]
    exact hq i
  show execOperationCancelObeyed h s = _
  rw [execOperationCancelObeyed, if_pos ⟨hk, hs⟩, startQuotes_of_noQuote none]

end

/-- Settles O35. -/
theorem controls : Obligations.Controls := by
  intro m s h h1 h64
  have accepted : ∀ {v t}, reaches m s = true → odCheck m (0x2200 + h) 3 (leBytes 1 v) s = 0 →
      (control h (ofLE (leBytes 1 v)) (setResp m 0 [] s)).2 = t → (Host.Outcome.next (controlWrite m h v s) : Out) = .next t :=
    fun hr hc ht => congrArg Host.Outcome.next ((controlWrite_accepted h1 h64 hr hc).trans ht)
  exact ⟨fun hr => ⟨fun hc hs hk => accepted hr hc (control_suspends hs hk), fun hc hs hk => accepted hr hc (control_resumes hs hk),
      fun hc hs => accepted hr hc (control_cancels_waiting hs), fun hc hs hk => accepted hr hc (control_cancels_running hs hk),
      fun hc hs => accepted hr hc (control_releases hs)⟩,
    fun hs => congrArg Host.Outcome.next (if_pos hs), fun hk hs => congrArg Host.Outcome.next (if_pos ⟨hk, hs⟩),
    fun hk hs hq => exec_operationCancelObeyed hk hs hq⟩

end Sys2Proof.Machine

/-! SUPPORT. EtherCAT state requests (R389, R390) and process data (R393, R394). -/

namespace Sys2Proof.Machine

section
variable {s : State} {want c n : Nat} {inputs ack : Bool}

/-! ## A request that is heard -/

/-- Firmware runs, or the device is in Bootstrap: a request is heard. -/
def HearsAl (s : State) : Prop := s.mgmt.al = 3 ∨ firmwareUp s = true

theorem HearsAl.judged (h : HearsAl s) : alRequest want inputs ack s =
    if alRefusal want inputs s = 0 then alEnter want (alAck ack s)
    else { s with mgmt := { s.mgmt with alErr := true, alCode := alRefusal want inputs s } } := by
  have heard : ¬(s.mgmt.al != 3 && !firmwareUp s) = true := by
    obtain h | h := h <;> simp [h]
  exact if_neg heard

theorem HearsAl.refused (h : HearsAl s) (hc : alRefusal want inputs s = c) (h0 : c ≠ 0) :
    alRequest want inputs ack s = { s with mgmt := { s.mgmt with alErr := true, alCode := c } } := by
  subst hc
  exact h.judged.trans (if_neg h0)

theorem HearsAl.accepted (h : HearsAl s) (hc : alRefusal want inputs s = 0) : alRequest want inputs ack s = alEnter want (alAck ack s) :=
  h.judged.trans (if_pos hc)

/-- What SafeOp lacks of process data refuses it before all else (R389). -/
theorem alRefusal_safeop_inputs (hal : s.mgmt.al = 2) : alRefusal 4 false s = 0x001E := by
  simp [alRefusal, hal]

/-! ## States that are entered -/

/-- Held messages that go out change the management state alone, and not the AL state. -/
theorem emcyDrain_fields : ∃ m, emcyDrain n s = { s with mgmt := m } ∧ m.al = s.mgmt.al := by
  induction n generalizing s with
  | zero => exact ⟨s.mgmt, rfl, rfl⟩
  | succ n ih =>
    unfold emcyDrain
    split
    · exact ⟨s.mgmt, rfl, rfl⟩
    · split
      · exact ⟨s.mgmt, rfl, rfl⟩
      · obtain ⟨m, drained, al⟩ := ih (s := emcyPut _ _ _)
        exact ⟨m, drained, al⟩

/-- A higher state is entered; from Init the mailbox opens and sends what is held. -/
theorem alEnter_up (hne : want ≠ s.mgmt.al) (h1 : want ≠ 1) (h3 : want ≠ 3) : alEnter want s =
    if mailboxOff s then emcyDrain 8 { s with mgmt := { s.mgmt with al := want } } else { s with mgmt := { s.mgmt with al := want } } :=
  (if_neg hne).trans (if_neg (by simp [h1, h3]))

theorem alEnter_mailbox_on (hne : want ≠ s.mgmt.al) (h1 : want ≠ 1) (h3 : want ≠ 3) (hm : mailboxOff s = false) :
    alEnter want s = { s with mgmt := { s.mgmt with al := want } } :=
  (alEnter_up hne h1 h3).trans (if_neg (by rw [hm]; exact Bool.false_ne_true))

theorem cancelAll_idle (hi : ∀ i, (s.handle (i + 1)).state = 0) : cancelAll s = s :=
  foldl_eq_self fun i _ => if_neg (by simp [Handle.busy, hi i])

/-- Init and Bootstrap are entered at once where no handle is taken: there is nothing to cancel. -/
theorem alEnter_down (hw : want = 1 ∨ want = 3) (hne : want ≠ s.mgmt.al) (hi : ∀ i, (s.handle (i + 1)).state = 0)
    (hall : ∀ x ∈ s.handles, x.state = 0 ∧ x.kind = 0) :
    alEnter want s = { s with mgmt := { s.mgmt with al := want, alPending := none } } := by
  have idle : cancelAll { s with mgmt := { s.mgmt with alPending := some want } } = { s with mgmt := { s.mgmt with alPending := some want } } :=
    cancelAll_idle hi
  have ended : s.handles.any (fun x => [1, 2, 3, 4, 5, 6].contains x.state) = false := List.any_eq_false.2 fun x hx => by
    simp [(hall x hx).1]
  rw [alEnter, if_neg hne, if_pos hw, idle]
  unfold settleAl
  exact if_neg (by rw [ended]; exact Bool.false_ne_true)

/-! ## Process data -/

theorem exec_txpdoSample (h : s.mgmt.al = 4 ∨ s.mgmt.al = 8) :
    exec .txpdoSample s = .next { s with mgmt := { s.mgmt with sm3 := pdoSample s } } := congrArg Host.Outcome.next (if_pos h)

/-- Bytes of an object, by its row in the dictionary. -/
def objSize (i u : Nat) : Nat := match findObj i u with | some o => o.ty.size | none => 0

theorem findObj_alState : findObj 0x2050 1 = some (.fixed 0x2050 1 3 (.u 1)) := by decide +kernel

theorem findObj_lastWatts : findObj 0x2050 4 = some (.fixed 0x2050 4 4 (.u 2)) := by decide +kernel

theorem computed_alState : computed .ethercat s 0x2050 1 = some (leBytes (objSize 0x2050 1) s.mgmt.al) := rfl

theorem computed_lastWatts : computed .ethercat s 0x2050 4 = some (leBytes (objSize 0x2050 4) s.power.lastWatts) := rfl

theorem pdoSample_two (h : pdoMap s = [0x20500108, 0x20500410]) :
    pdoSample s = leBytes 1 s.mgmt.al ++ leBytes 2 s.power.lastWatts := by
  have al : objBytes .ethercat s (.fixed 0x2050 1 3 (.u 1)) 0x2050 1 = leBytes 1 s.mgmt.al := by
    rw [objBytes_readable rfl (by decide), computed_alState, Option.getD_some, objSize, findObj_alState]
    rfl
  have watts : objBytes .ethercat s (.fixed 0x2050 4 4 (.u 2)) 0x2050 4 = leBytes 2 s.power.lastWatts := by
    rw [objBytes_readable rfl (by decide), computed_lastWatts, Option.getD_some, objSize, findObj_lastWatts]
    rfl
  have fields : (fld 0x20500108 16 16, fld 0x20500108 8 8, fld 0x20500410 16 16, fld 0x20500410 8 8) = (0x2050, 1, 0x2050, 4) := by decide
  simp only [Prod.mk.injEq] at fields
  obtain ⟨i1, u1, i2, u2⟩ := fields
  simp only [pdoSample, h, List.flatMap_cons, List.flatMap_nil, i1, u1, i2, u2, findObj_alState, findObj_lastWatts, al, watts,
    List.append_nil]

end

/-- Settles O43. A request that is heard is judged (`alRefusal`); one that is accepted takes the state at once where the mailbox is open or no
handle is taken. -/
theorem alTransitions : Obligations.AlTransitions := by
  refine ⟨fun s ack sm3 sync0 heard => ⟨fun want inputs c i hi hc h0 => ?refused, fun hal h => ?inputs, fun hc hal => ?preop, fun hc hal => ?safeop,
    fun hc hal => ?op, fun hal hi hall => ?init, fun hal hi hall => ?bootstrap⟩, fun s hal => ?sample⟩
  case refused =>
    simp only [List.mem_cons, List.not_mem_nil, or_false, Prod.mk.injEq] at hi
    obtain ⟨rfl, rfl, rfl⟩ | ⟨rfl, rfl, rfl⟩ | ⟨rfl, rfl, rfl⟩ | ⟨rfl, rfl, rfl⟩ := hi <;>
      exact congrArg Host.Outcome.next (HearsAl.refused heard hc h0)
  case inputs =>
    have lacking : inputsOk sm3 sync0 s = false := by
      obtain h | ⟨h2, hs⟩ := h <;> simp [inputsOk, *]
    have code : alRefusal 4 (inputsOk sm3 sync0 s) s = 0x001E := by rw [lacking, alRefusal_safeop_inputs hal]
    exact congrArg Host.Outcome.next (HearsAl.refused heard code (by decide))
  case preop =>
    have keeps : (alAck ack s).mgmt.al = 1 ∧ (alAck ack s).mem = s.mem ∧ (alAck ack s).handles = s.handles := by
      cases ack <;> exact ⟨hal, rfl, rfl⟩
    obtain ⟨al, mem, handles⟩ := keeps
    obtain ⟨m, drained, entered⟩ := emcyDrain_fields (n := 8) (s := { alAck ack s with mgmt := { (alAck ack s).mgmt with al := 2 } })
    have off : mailboxOff (alAck ack s) = true := by simp [mailboxOff, al]
    have request : alRequest 2 true ack s = { alAck ack s with mgmt := m } := by
      rw [HearsAl.accepted heard hc, alEnter_up (by rw [al]; decide) (by decide) (by decide), if_pos off, drained]
    exact ⟨_, congrArg Host.Outcome.next request, entered, mem, handles⟩
  case safeop =>
    have on : mailboxOff s = false := by simp [mailboxOff, hal]
    exact congrArg Host.Outcome.next ((HearsAl.accepted (ack := false) heard hc).trans
      (alEnter_mailbox_on (s := s) (by rw [hal]; decide) (by decide) (by decide) on))
  case op =>
    have on : mailboxOff s = false := by simp [mailboxOff, hal]
    exact congrArg Host.Outcome.next ((HearsAl.accepted (ack := false) heard hc).trans
      (alEnter_mailbox_on (s := s) (by rw [hal]; decide) (by decide) (by decide) on))
  case init =>
    have free : alRefusal 1 true s = 0 := if_pos (.inr rfl)
    exact congrArg Host.Outcome.next ((HearsAl.accepted (ack := false) heard free).trans (alEnter_down (s := s) (.inl rfl) hal.symm hi hall))
  case bootstrap =>
    have free : alRefusal 3 true s = 0 := by simp [alRefusal, hal]
    exact congrArg Host.Outcome.next ((HearsAl.accepted (ack := false) heard free).trans
      (alEnter_down (s := s) (.inr rfl) (by rw [hal]; decide) hi hall))
  case sample =>
    exact ⟨_, exec_txpdoSample hal, rfl, pdoSample_two⟩

end Sys2Proof.Machine

/-! SUPPORT. Sessions: opening, answering, closing (R400 to R403, R484, R487 to R489). -/

namespace Sys2Proof.Machine

section
variable {s t u : State} {msg : SdoMsg} {b : List Byte} {f : State → State} {n k check code i v : Nat} {bytes : List Nat}

/-! ## What an event message does to the sessions -/

/-- One EVENT more is numbered in an open session (R403). -/
def Session.noteEvent (x : Session) : Session := if x.isOpen then { x with eventSeq := x.eventSeq + 1 } else x

theorem noteEvent_fields {x : Session} : x.noteEvent.isOpen = x.isOpen ∧ x.noteEvent.slot = x.slot ∧ x.noteEvent.key = x.key := by
  unfold Session.noteEvent
  split <;> exact ⟨rfl, rfl, rfl⟩

/-- A fold that appends one image of each element maps the list. -/
theorem foldl_fst_append_map {α β γ : Type} {g : α → β} {step : List β × γ → α → List β × γ}
    (h : ∀ acc x, (step acc x).1 = acc.1 ++ [g x]) (l : List α) (acc : List β × γ) : (l.foldl step acc).1 = acc.1 ++ l.map g := by
  induction l generalizing acc with
  | nil => simp
  | cons x l ih => rw [List.foldl_cons, ih, h, List.append_assoc, List.map_cons, List.singleton_append]

theorem sendEvents_sessions {e : Emcy} : (sendEvents e s).mgmt.sessions = s.mgmt.sessions.map Session.noteEvent :=
  (foldl_fst_append_map (fun acc x => by dsimp only; unfold Session.noteEvent; split <;> rfl) _ _).trans (List.nil_append _)

/-- From `s` to `t` the security state, the requests being put together and which sessions are open, for which slot and under which key stand. -/
structure SessionsStand (s t : State) : Prop where
  sec : t.sec = s.sec
  reasm : t.mgmt.reasm = s.mgmt.reasm
  sessions : ∀ n, (t.session n).isOpen = (s.session n).isOpen ∧ (t.session n).slot = (s.session n).slot ∧ (t.session n).key = (s.session n).key

theorem SessionsStand.trans (h : SessionsStand s t) (j : SessionsStand t u) : SessionsStand s u where
  sec := j.sec.trans h.sec
  reasm := j.reasm.trans h.reasm
  sessions n := by
    obtain ⟨isOpen, slot, key⟩ := h.sessions n
    obtain ⟨isOpen', slot', key'⟩ := j.sessions n
    exact ⟨isOpen'.trans isOpen, slot'.trans slot, key'.trans key⟩

theorem odInc_sessionsStand {p : Nat} : SessionsStand s (odInc i p n v s) := ⟨rfl, rfl, fun _ => ⟨rfl, rfl, rfl⟩⟩

theorem odSet_sessionsStand : SessionsStand s (odSet i n v s) := ⟨rfl, rfl, fun _ => ⟨rfl, rfl, rfl⟩⟩

theorem sendEvents_sessionsStand {e : Emcy} : SessionsStand s (sendEvents e s) where
  sec := rfl
  reasm := rfl
  sessions n := by
    have numbered : (sendEvents e s).session n = (s.session n).noteEvent := by
      rw [State.session, sendEvents_sessions]
      exact List.getD_map _ {} Session.noteEvent
    rw [numbered]
    exact noteEvent_fields

theorem emcyPut_sessionsStand : SessionsStand s (emcyPut code bytes s) := by
  obtain ⟨sec, reasm, sessions⟩ := sendEvents_sessionsStand (s := { s with mgmt := { s.mgmt with lastEmcy := some s.now, emcyTimes := s.now :: recentEmcy s } })
  exact ⟨sec, reasm, sessions⟩

theorem emcy_sessionsStand : SessionsStand s (emcy code bytes s) := by
  unfold emcy emcySend
  split
  · split <;> exact ⟨rfl, rfl, fun _ => ⟨rfl, rfl, rfl⟩⟩
  · split
    · exact emcyPut_sessionsStand
    · exact ⟨rfl, rfl, fun _ => ⟨rfl, rfl, rfl⟩⟩

/-! ## An OPEN -/

theorem refuseOpen_sessionsStand : SessionsStand s (refuseOpen check s) :=
  (odSet_sessionsStand.trans odInc_sessionsStand).trans emcy_sessionsStand

theorem openRequest_refused {addr : List Byte} {port seq : Nat} (h : openCheck b s ≠ 0) :
    openRequest addr port seq b s = refuseOpen (openCheck b s) s := if_pos h

/-- The lowest number that fits is found. -/
theorem firstFrom_least {p : Nat → Bool} (hk : p k = true) (hi : i ≤ k) (hn : k < i + n) (hl : ∀ j, i ≤ j → j < k → p j = false) :
    firstFrom p n i = some k := by
  induction n generalizing i with
  | zero => omega
  | succ n ih =>
    rw [firstFrom]
    obtain rfl | lt := Nat.eq_or_lt_of_le hi
    · rw [if_pos hk]
    · rw [if_neg (by simp [hl i (Nat.le_refl i) lt])]
      exact ih (by omega) (by omega) fun j hj => hl j (by omega)

/-- A request whose checks pass opens the lowest free session (R489). -/
theorem openRequest_accepted {addr : List Byte} {port seq : Nat} (hc : openCheck b s = 0) (h1 : 1 ≤ n) (h4 : n ≤ 4)
    (hfree : (s.session n).isOpen = false) (hbelow : ∀ k, 1 ≤ k → k < n → (s.session k).isOpen = true) (hlen : s.mgmt.sessions.length = 4) :
    ((openRequest addr port seq b s).session n).isOpen = true ∧ ((openRequest addr port seq b s).session n).slot = numAt b 4 1 ∧
    ((openRequest addr port seq b s).session n).key = sessionKey s b n ∧
    (openRequest addr port seq b s).sec.counters = s.sec.counters.set (numAt b 4 1) (numAt b 8 8) := by
  have found : firstFrom (fun i => !(s.session i).isOpen) 4 1 = some n :=
    firstFrom_least (by simp [hfree]) h1 (by omega) fun j h1j hjn => by simp [hbelow j h1j hjn]
  simp only [openRequest, hc, ne_eq, not_true_eq_false, if_false, found, Option.getD_some, sessionEvent]
  obtain ⟨sec, -, sessions⟩ := emcy_sessionsStand (code := 0xFF13) (bytes := [n, 0, 0, 0, 0]) (s := answerWith n 2 seq 0 0 0 0
    (leBytes 4 n ++ leBytes 4 (odGet s 0x2191 2)) (({ s with sec := { s.sec with counters := s.sec.counters.set (numAt b 4 1) (numAt b 8 8) } } : State).modSession n
      fun _ => { isOpen := true, slot := numAt b 4 1, key := sessionKey s b n, addr := addr, port := port }))
  obtain ⟨isOpen, slot, key⟩ := sessions n
  have opened : (s.mgmt.sessions.modify (n - 1) fun _ => { isOpen := true, slot := numAt b 4 1, key := sessionKey s b n, addr := addr, port := port }).getD (n - 1) {} =
      { isOpen := true, slot := numAt b 4 1, key := sessionKey s b n, addr := addr, port := port } := getD_modify_same (by omega)
  exact ⟨isOpen.trans (congrArg Session.isOpen opened), slot.trans (congrArg Session.slot opened), key.trans (congrArg Session.key opened),
    congrArg Security.counters sec⟩

/-- A slice of an OPEN that carries what R401 and R402 ask. -/
structure SliceOk (msg : SdoMsg) : Prop where
  fields : sdoFieldsOk msg = true
  session : msg.session = 0
  tag : zeros msg.tag = true
  len : msg.len = msg.data.length
  fits : msg.offset + msg.data.length ≤ 32768

theorem exec_openSlice (h1 : msg.type = 1) (hl : udpListens s = true) : exec (.openSlice msg) s = .next (openSlice msg s) :=
  congrArg Host.Outcome.next (if_pos ⟨h1, hl⟩)

/-- The first slice of a client is kept. -/
theorem openSlice_first (h : SliceOk msg) (hr : s.mgmt.reasm = []) (ht : s.mgmt.reasmTimes = []) (ha : assembled [(msg.offset, msg.data)] = none) :
    openSlice msg s = { s with mgmt := { s.mgmt with
      reasmTimes := [s.now], reasm := [{ addr := msg.addr, port := msg.port, slices := [(msg.offset, msg.data)] }] } } := by
  obtain ⟨fields, session, tag, len, fits⟩ := h
  simp [openSlice, fields, session, tag, len, Nat.not_lt.2 fits, hr, ht, ha]

/-- The last slice of the one request being put together makes it whole. -/
theorem openSlice_last {r : Reassembly} (h : SliceOk msg) (hr : s.mgmt.reasm = [r]) (ha : r.addr = msg.addr) (hp : r.port = msg.port)
    (hb : assembled (r.slices ++ [(msg.offset, msg.data)]) = some b) : ∃ times, openSlice msg s = openRequest msg.addr msg.port msg.seq (b.take openSize)
      { s with mgmt := { s.mgmt with reasmTimes := times, reasm := [] } } := by
  obtain ⟨fields, session, tag, len, fits⟩ := h
  refine ⟨s.mgmt.reasmTimes.filter fun t => decide (s.now < t + 1000000000), ?_⟩
  simp [openSlice, fields, session, tag, len, Nat.not_lt.2 fits, hr, ha, hp, hb]

/-! ## A message within a session -/

/-- A message that is new in its session is served. -/
theorem inSession_served (hl : udpListens s = true) (ho : sessionOk msg s = true) (hv : seqVerdict (s.session msg.session) msg.seq = 0) :
    inSession msg f s = f s := by
  simp [inSession, hl, ho, hv]

theorem serveRead_present (hf : msg.flags = 0) (ho : msg.offset = 0) (hl : msg.len ≤ 1024)
    (hr : odRead (.session msg.session) msg.index msg.sub s = (0, b)) :
    serveRead msg s = replyTo msg 5 (b.take msg.len) (s.modSession msg.session fun y => { y with
      snap := some (256 * msg.index + msg.sub, 0, b.length, b), snapTime := s.now }) := by
  cases hs : (s.session msg.session).snap <;> simp [serveRead, hf, ho, hr, Nat.min_eq_left hl, hs]

theorem serveWrite_whole (hf : msg.flags = 0) (ho : msg.offset = 0) (he : msg.len = msg.data.length) (hl : msg.len ≤ 1024) : serveWrite msg s =
    if odCheck (.session msg.session) msg.index msg.sub msg.data s = 0 then
      odWrite (.session msg.session) msg.index msg.sub msg.data (replyTo msg 5 (writeAnswer msg.index msg.sub s) s)
    else replyTo msg 6 (leBytes 4 (odCheck (.session msg.session) msg.index msg.sub msg.data s)) s := by
  simp [serveWrite, Nat.not_lt.2 (he ▸ hl), ho, he, hf]

end

/-- Settles O45. A whole request is judged by `openCheck`; a new message of a session is served. -/
theorem sessions : Obligations.Sessions := by
  refine ⟨fun s msg b h1 hl fields session tag len fits => ?opening, fun s addr port => rfl, fun s msg hl ho hv => ?served, fun s n ho => ?idle,
    fun s ha hk hf => ?certificate⟩
  case opening =>
    have slice : SliceOk msg := ⟨fields, session, tag, len, fits⟩
    refine ⟨fun hr ht ha => (exec_openSlice h1 hl).trans (congrArg Host.Outcome.next (openSlice_first slice hr ht ha)), fun r hr ha hp hb => ?_⟩
    obtain ⟨times, whole⟩ := openSlice_last slice hr ha hp hb
    refine ⟨fun c hc hc1 => ?_, fun hc n h1n h4n hfree hbelow hlen => ?_⟩
    · have refused := openRequest_refused (addr := msg.addr) (port := msg.port) (seq := msg.seq)
        (s := { s with mgmt := { s.mgmt with reasmTimes := times, reasm := [] } }) (b := b.take openSize) (Nat.ne_of_gt (hc.symm ▸ hc1))
      obtain ⟨sec, reasm, sessions⟩ := refuseOpen_sessionsStand (check := openCheck (b.take openSize) s)
        (s := { s with mgmt := { s.mgmt with reasmTimes := times, reasm := [] } })
      exact ⟨_, (exec_openSlice h1 hl).trans (congrArg Host.Outcome.next (whole.trans refused)), reasm, sec, fun n => (sessions n).1⟩
    · exact ⟨_, (exec_openSlice h1 hl).trans (congrArg Host.Outcome.next whole), openRequest_accepted
        (s := { s with mgmt := { s.mgmt with reasmTimes := times, reasm := [] } }) hc h1n h4n hfree hbelow hlen⟩
  case served =>
    refine ⟨fun ht => ?_, fun ht => ?_, fun v ht h0 hoff hlen hr => ?_, fun ht h0 hoff he hlen hc => ?_, fun c ht h0 hoff he hlen hc hne => ?_⟩
    · exact congrArg Host.Outcome.next ((if_pos ht).trans (inSession_served hl ho hv))
    · exact congrArg Host.Outcome.next ((if_pos ht).trans (inSession_served hl ho hv))
    · exact congrArg Host.Outcome.next ((if_pos ht).trans ((inSession_served hl ho hv).trans (serveRead_present h0 hoff hlen hr)))
    · exact congrArg Host.Outcome.next ((if_pos ht).trans ((inSession_served hl ho hv).trans ((serveWrite_whole h0 hoff he hlen).trans (if_pos hc))))
    · subst hc
      exact congrArg Host.Outcome.next ((if_pos ht).trans ((inSession_served hl ho hv).trans ((serveWrite_whole h0 hoff he hlen).trans (if_neg hne))))
  case idle => exact congrArg Host.Outcome.next (if_pos ho)
  case certificate =>
    have produces : ¬(s.sec.aliasReady || s.sec.kemSeed.isEmpty || !firmwareUp s) = true := by simp [ha, hk, hf]
    exact ⟨_, congrArg Host.Outcome.next (if_neg produces), rfl, rfl, rfl⟩

end Sys2Proof.Machine

/-! SUPPORT. What sending and link changes leave as it is (R281 to R291, R296): all but the packets, the management state, the dictionary's
counters and the credits and words of the ports. -/

namespace Sys2Proof.Machine

/-- A port without what sending packets changes in it: credits, tokens, turns and words to send. -/
def Port.link (q : Port) : Port :=
  { q with sharedUsed := [], credUsed := [], ctlRoom := 0, bucket := 0, rr := 0, deficit := [], txWords := [], rxFreed := [],
           rxFreedShared := 0, stallReported := false }

/-- A state without what sending packets changes in it. -/
def State.standing (s : State) : State :=
  { s with mgmt := {}, od := [], egress := [], inbox := [], ports := s.ports.map Port.link,
           fab := { fwd := s.fab.fwd, shape := s.fab.shape, coord := s.fab.coord, hopsDown := s.fab.hopsDown } }

/-- From `s` to `t` packets have been sent or dropped, and events reported; nothing else has changed. -/
def Stands (s t : State) : Prop := t.standing = s.standing

namespace Stands

variable {s t u : State}

theorem refl : Stands s s := rfl

theorem trans (h : Stands s t) (k : Stands t u) : Stands s u := Eq.trans k h

/-- The same, the later step first: from it the state between is known. -/
theorem after (k : Stands t u) (h : Stands s t) : Stands s u := h.trans k

theorem ite {c : Prop} [Decidable c] (h : Stands s t) (k : Stands s u) : Stands s (if c then t else u) := by
  split
  · exact h
  · exact k

theorem foldl {α : Type} {f : State → α → State} {l : List α} (h : ∀ t a, Stands t (f t a)) : Stands s (l.foldl f s) :=
  List.foldlRecOn l f (motive := Stands s) refl fun t ht a _ => ht.trans (h t a)

theorem mem (h : Stands s t) : t.mem = s.mem := show t.standing.mem = s.standing.mem from congrArg State.mem h
theorem cores (h : Stands s t) : t.cores = s.cores := show t.standing.cores = s.standing.cores from congrArg State.cores h
theorem handles (h : Stands s t) : t.handles = s.handles := show t.standing.handles = s.standing.handles from congrArg State.handles h
theorem power (h : Stands s t) : t.power = s.power := show t.standing.power = s.standing.power from congrArg State.power h
theorem fleet (h : Stands s t) : t.fleet = s.fleet := show t.standing.fleet = s.standing.fleet from congrArg State.fleet h
theorem startup (h : Stands s t) : t.startup = s.startup := show t.standing.startup = s.standing.startup from congrArg State.startup h
theorem fwd (h : Stands s t) : t.fab.fwd = s.fab.fwd := congrArg (fun x => x.fab.fwd) h

theorem link (h : Stands s t) (p : Nat) : (t.port p).link = (s.port p).link := by
  have ports : t.ports.map Port.link = s.ports.map Port.link := congrArg State.ports h
  rw [State.port, State.port, ← List.getD_map _ _ Port.link, ← List.getD_map _ _ Port.link, ports]

theorem length (h : Stands s t) : t.ports.length = s.ports.length := by
  simpa [State.standing] using congrArg (fun x : State => x.ports.length) h

end Stands

/-- A change that a map carries over is carried over from one list to another with the same image. -/
theorem map_modify_comm {α : Type} {l : List α} {g f : α → α} {i : Nat} (h : ∀ a, g (f a) = f (g a)) :
    (l.modify i f).map g = (l.map g).modify i f := by
  refine List.ext_getElem? fun j => ?_
  rw [List.getElem?_map, List.getElem?_modify, List.getElem?_modify, List.getElem?_map]
  simp only [Option.map_eq_map, Option.map_map]
  congr 1
  funext a
  by_cases hij : i = j <;> simp [hij, h]

theorem Stands.modPort {s t : State} {p : Nat} {f : Port → Port} (h : Stands s t) (hf : ∀ q, (f q).link = f q.link) :
    Stands (s.modPort p f) (t.modPort p f) := by
  have ports : t.ports.map Port.link = s.ports.map Port.link := congrArg State.ports h
  have changed : (t.ports.modify p f).map Port.link = (s.ports.modify p f).map Port.link := by
    rw [map_modify_comm hf, map_modify_comm hf, ports]
  exact (congrArg (fun l : List Port => { t.standing with ports := l }) changed).trans
    (congrArg (fun x : State => { x with ports := (s.ports.modify p f).map Port.link }) h)

/-- An element changed where a map does not see it leaves the map's image. -/
theorem map_modify_of_eq {α β : Type} {l : List α} {g : α → β} {f : α → α} {i : Nat} {d : α} (h : g (f (l.getD i d)) = g (l.getD i d)) :
    (l.modify i f).map g = l.map g := by
  refine List.ext_getElem? fun j => ?_
  rw [List.getElem?_map, List.getElem?_map, List.getElem?_modify]
  by_cases hij : i = j
  · subst hij
    cases hx : l[i]? with
    | none => simp
    | some x =>
      rw [List.getD_eq_getElem?_getD, hx] at h
      simpa using h
  · simp [hij]

section
variable {s t : State} {p n : Nat} {w : Wait} {q q' : Port} {k : Packet} {tr : Trailer} {f : Port → Port}

theorem stands_modPort (h : (f (s.port p)).link = (s.port p).link) : Stands s (s.modPort p f) := by
  have ports : (s.ports.modify p f).map Port.link = s.ports.map Port.link := map_modify_of_eq h
  exact congrArg (fun l : List Port => { s.standing with ports := l }) ports

theorem Reported.stands (h : Reported s t) : Stands s t := by
  obtain ⟨m, o, rfl⟩ := h
  rfl

theorem odInc_stands {i u v : Nat} : Stands s (odInc i u n v s) := odInc_reported.stands

/-! ## Packets on the ring and at the ports (R285 to R291) -/

theorem leaveRx_stands : Stands s (leaveRx w s) := by
  unfold leaveRx
  split
  · refine .ite (stands_modPort ?_) .refl
    dsimp only
    split <;> rfl
  · exact .refl

theorem crossAll_stands {done l : List Wait} : Stands s (crossAll done l s).2 := by
  induction l generalizing done s with
  | nil => exact .refl
  | cons w r ih => exact ih.after (.ite leaveRx_stands .refl)

theorem settleRing_stands : Stands s (settleRing s) := crossAll_stands (done := []) (l := s.fab.wait) (s := s)

theorem settleBuffers_stands : Stands s (settleBuffers s) := settleRing_stands.after rfl

theorem takeCells_link (h : takeCells q k = some q') : q'.link = q.link := by
  unfold takeCells at h
  extract_lets n key used at h
  split at h
  · cases h; rfl
  · split at h
    · cases h; rfl
    · cases h

theorem chargePort_link (h : chargePort q k tr = some q') : q'.link = q.link := by
  obtain ⟨r, hr, rfl⟩ := Option.map_eq_some_iff.1 h
  exact takeCells_link (q' := r) hr

theorem roundRobin_link {mine : List Wait} (h : roundRobin s mine n q = some (w, q')) : q'.link = q.link := by
  induction n generalizing q with
  | zero => cases h
  | succ n ih =>
    have turned : (nextQueue s mine q).link = q.link := rfl
    unfold roundRobin at h
    split at h
    · split at h
      · cases h; rfl
      · exact (ih h).trans turned
    · exact (ih h).trans turned

theorem nextOut_link (h : nextOut s p = some (w, q)) : q.link = (s.port p).link := by
  unfold nextOut at h
  extract_lets _ mine at h
  split at h
  · cases h
  · split at h
    · rw [← (Prod.mk.inj (Option.some.inj h)).2]
    · exact roundRobin_link h

theorem leavePort_stands (h : q.link = (s.port p).link) : Stands s (leavePort p q k tr s) :=
  (stands_modPort (f := fun _ => q) h).trans rfl

theorem sendOut_stands : Stands s (sendOut p n s) := by
  induction n generalizing s with
  | zero => exact .refl
  | succ n ih =>
    unfold sendOut
    split
    · exact .refl
    · rename_i w q hout
      split
      · exact .refl
      · rename_i q' hcharge
        have same : q'.link = (s.port p).link := (chargePort_link hcharge).trans (nextOut_link hout)
        have left : Stands s (leavePort p q' w.pkt .endMark { s with fab := { s.fab with wait := s.fab.wait.erase w } }) :=
          (leavePort_stands (s := { s with fab := { s.fab with wait := s.fab.wait.erase w } })
            same).after rfl
        exact ((left.trans leaveRx_stands).trans settleBuffers_stands).trans ih

theorem noteStall_stands : Stands s (noteStall s w) := by
  unfold noteStall
  extract_lets q mark _ s1
  have marked : Stands s ({ s with fab := { s.fab with wait := s.fab.wait.map mark } }.modPort w.port fun q =>
      { q with stallReported := true }) := .after (stands_modPort rfl) rfl
  have counted : Stands s s1 := odInc_stands.after marked
  exact .ite .refl (.ite counted (emcy_reported.stands.after counted))

theorem drainPort_stands : Stands s (drainPort p s) :=
  (settleBuffers_stands.trans sendOut_stands).trans (.foldl fun _ _ => noteStall_stands)

theorem emit_stands {src : Option Nat} {xd : Nat} {way : List Nat} : Stands s (emit p k src xd way s) := by
  unfold emit
  dsimp only
  split
  · rename_i q' ready
    rw [Option.ite_none_right_eq_some] at ready
    exact leaveRx_stands.after (leavePort_stands (chargePort_link ready.2))
  · exact drainPort_stands.after rfl

theorem inject_stands : Stands s (inject p k s) := .ite emit_stands odInc_stands

/-! ## Packets that eject (R284, R285) -/

theorem releaseHeld_stands {f : Flow} : Stands s (releaseHeld n f s) := by
  induction n generalizing f s with
  | zero => rfl
  | succ n ih =>
    unfold releaseHeld
    split
    · exact ih.after rfl
    · rfl

theorem reorder_stands {xd : Nat} : Stands s (reorder xd k s) :=
  .ite (releaseHeld_stands.after rfl) (.ite odInc_stands (.ite odInc_stands rfl))

theorem eject_stands {port : Option Nat} : Stands s (eject port k s) := by
  refine .ite odInc_stands (.ite ?_ (.ite rfl (.ite odInc_stands reorder_stands)))
  split
  · exact odInc_stands
  · exact .refl

/-! ## Sending and link-state notices (R278 to R281) -/

theorem chooseRoute_stands {b : Nat} {permit : Bool} : Stands s (chooseRoute s b permit).2 := by
  unfold chooseRoute
  dsimp only
  split <;> rfl

theorem sendRaw_stands {permit : Bool} : Stands s (sendRaw permit k s).2 := by
  unfold sendRaw
  extract_lets q
  split
  · exact odInc_stands
  split
  · exact .ite (eject_stands.after rfl) rfl
  have routed : Stands s (chooseRoute s q.ddev permit).2 := chooseRoute_stands
  generalize chooseRoute s q.ddev permit = r at routed
  obtain ⟨_ | ⟨r, x⟩, s1⟩ := r
  · exact routed
  · change Stands s s1 at routed
    have numbered : Stands s (nextSeq q s1) := routed.trans rfl
    dsimp only
    split
    · exact routed
    · split
      · exact inject_stands.after numbered
      · exact routed

theorem relayNotice_stands {bits origin dims : Nat} : Stands s (relayNotice bits origin dims s) :=
  .foldl fun _ _ => .foldl fun _ _ => sendRaw_stands

theorem issueNotice_stands : Stands s (issueNotice s) := .ite .refl (relayNotice_stands.after odInc_stands)

theorem flushPort_stands : Stands s (flushPort p s) :=
  odInc_stands.after (.after (stands_modPort rfl) (.after (.foldl fun _ _ => leaveRx_stands) rfl))

theorem markLink_stands {l : Nat} {down : Bool} : Stands s (markLink l down s) := rfl

/-! ## A link goes down or comes up (R296) -/

theorem linkDownAs_down {reason st : Nat} (h : (s.port p).carries = false) :
    linkDownAs p reason st s = s.modPort p fun x => { x with pstate := st } := if_neg (by simp [h])

/-- A port that carried packets takes the state and the reason. -/
theorem linkDownAs_carried {reason st : Nat} (h : (s.port p).carries = true) :
    Stands (s.modPort p fun x => { x with pstate := st, downReason := reason }) (linkDownAs p reason st s) := by
  have flushed : Stands (s.modPort p fun x => { x with pstate := st, downReason := reason })
      ((flushPort p s).modPort p fun x => { x with pstate := st, downReason := reason }) := flushPort_stands.modPort fun _ => rfl
  have down : linkDownAs p reason st s = issueNotice (markLink (portLink s (s.port p)) true (emcy 0xFF52 (linkBytes p (s.port p) reason)
      ((flushPort p s).modPort p fun x => { x with pstate := st, downReason := reason }))) := if_pos h
  rw [down]
  exact issueNotice_stands.after (markLink_stands.after (emcy_reported.stands.after flushed))

theorem linkDownAs_stands {reason st : Nat} :
    ∃ r, Stands (s.modPort p fun x => { x with pstate := st, downReason := r }) (linkDownAs p reason st s) := by
  cases h : (s.port p).carries with
  | true => exact ⟨reason, linkDownAs_carried h⟩
  | false =>
    refine ⟨(s.port p).downReason, ?_⟩
    rw [linkDownAs_down h]
    exact congrArg State.standing (modPort_congr rfl)

end

end Sys2Proof.Machine

/-! SUPPORT. Bring-up, loss and probing of a link (R366, R367, R374 to R376). -/

namespace Sys2Proof.Machine

/-! ## Lasers are die registers (R376, R385) -/

/-- From `s` to `t` register words of the dies alone have changed. -/
def Lasered (s t : State) : Prop := ∃ r, t = { s with dieRegs := r }

section
variable {s t u s0 : State} {p n mode cause : Nat} {own : List (Nat × Int)} {ok : Bool} {f : Port → Port}

theorem Lasered.trans (h : Lasered s t) (k : Lasered t u) : Lasered s u := by
  obtain ⟨r, rfl⟩ := h
  obtain ⟨r', rfl⟩ := k
  exact ⟨r', rfl⟩

theorem laserMode_lasered {j : Nat} : Lasered s (laserMode mode p j s) := ⟨_, rfl⟩

theorem laserModes_lasered {l : List Nat} : Lasered s (l.foldl (fun t j => laserMode mode p j t) s) :=
  List.foldlRecOn l _ (motive := Lasered s) ⟨s.dieRegs, rfl⟩ fun _ ht _ _ => ht.trans laserMode_lasered

theorem lightsOff_lasered : Lasered s (lightsOff mode p s) := laserModes_lasered.trans laserModes_lasered

/-- Lasers and then a port have changed: the port is as the change leaves it, memory and cores stand. -/
theorem Lasered.modPort_port (h : Lasered s t) (hp : p < s.ports.length) : (t.modPort p f).port p = f (s.port p) := by
  obtain ⟨r, rfl⟩ := h
  exact port_modPort_same hp

theorem Lasered.port (h : Lasered s t) : t.port p = s.port p := by obtain ⟨r, rfl⟩ := h; rfl
theorem Lasered.mem (h : Lasered s t) : t.mem = s.mem := by obtain ⟨r, rfl⟩ := h; rfl
theorem Lasered.cores (h : Lasered s t) : t.cores = s.cores := by obtain ⟨r, rfl⟩ := h; rfl

/-! ## A transmitter that is shut down, and a link that returns to step 3 (R367, R374, R376) -/

theorem shutdown_reported : Reported ((lightsOff 1 p s).modPort p fun q =>
    { calmLanes (forgetPeer q) with safety := if cause = 3 then 4 else 1, bring := 0 }) (shutdown p cause s) := by
  unfold shutdown
  extract_lets s1 s2
  have counted : Reported s1 s2 := by
    unfold s2
    split
    · exact odInc_reported
    · exact .refl
  exact counted.trans emcy_reported

theorem shutdown_port (hp : p < s.ports.length) : (shutdown p cause s).port p =
    { calmLanes (forgetPeer (s.port p)) with safety := if cause = 3 then 4 else 1, bring := 0 } :=
  shutdown_reported.port.trans (lightsOff_lasered.modPort_port hp)

theorem shutdown_mem : (shutdown p cause s).mem = s.mem := shutdown_reported.mem.trans lightsOff_lasered.mem

theorem shutdown_cores : (shutdown p cause s).cores = s.cores := shutdown_reported.cores.trans lightsOff_lasered.cores

/-- What a port that goes down as `linkDownAs` says has kept. -/
theorem linkDownAs_port {reason st : Nat} (hp : p < s.ports.length) : ((linkDownAs p reason st s).port p).pstate = st ∧
    p < (linkDownAs p reason st s).ports.length ∧ (linkDownAs p reason st s).mem = s.mem ∧ (linkDownAs p reason st s).cores = s.cores := by
  obtain ⟨r, down⟩ := linkDownAs_stands (p := p) (s := s) (reason := reason) (st := st)
  have link := down.link p
  rw [port_modPort_same hp] at link
  exact ⟨congrArg Port.pstate link, (down.length.trans modPort_length).symm ▸ hp, down.mem, down.cores⟩

theorem calmed_carries {q : Port} {m k : Nat} (h : q.pstate = 0) :
    ({ calmLanes (forgetPeer q) with safety := m, bring := k } : Port).carries = false := by simp [Port.carries, calmLanes, forgetPeer, h]

theorem fecDown_port (hp : p < s.ports.length) : (fecDown p s).port p =
    { calmLanes (forgetPeer ((linkDownAs p 2 0 s).port p)) with safety := 3, bring := 3 } :=
  laserModes_lasered.modPort_port (linkDownAs_port hp).2.1

theorem fecDown_stands (hp : p < s.ports.length) : (fecDown p s).mem = s.mem ∧ (fecDown p s).cores = s.cores := by
  obtain ⟨-, -, mem, cores⟩ := linkDownAs_port (reason := 2) (st := 0) hp
  have lasers : Lasered (linkDownAs p 2 0 s) _ := laserModes_lasered (mode := 0) (p := p) (l := warmSpares ((linkDownAs p 2 0 s).port p))
  exact ⟨lasers.mem.trans mem, lasers.cores.trans cores⟩

/-! ## The end of bring-up (R275, R366) -/

/-- Memory, the cores, and a port's delay, step of bring-up and light stand from `s` to `t`. -/
structure LitPort (p : Nat) (s t : State) : Prop where
  mem : t.mem = s.mem
  cores : t.cores = s.cores
  length : t.ports.length = s.ports.length
  delay : (t.port p).delay = (s.port p).delay
  bring : (t.port p).bring = (s.port p).bring
  safety : (t.port p).safety = (s.port p).safety

namespace LitPort

theorem refl : LitPort p s s := ⟨rfl, rfl, rfl, rfl, rfl, rfl⟩

theorem trans (h : LitPort p s t) (k : LitPort p t u) : LitPort p s u :=
  ⟨k.mem.trans h.mem, k.cores.trans h.cores, k.length.trans h.length, k.delay.trans h.delay, k.bring.trans h.bring, k.safety.trans h.safety⟩

theorem after (k : LitPort p t u) (h : LitPort p s t) : LitPort p s u := h.trans k

theorem ite {c : Prop} [Decidable c] (h : LitPort p s t) (k : LitPort p s u) : LitPort p s (if c then t else u) := by
  split
  · exact h
  · exact k

theorem of_stands (h : Stands s t) : LitPort p s t :=
  ⟨h.mem, h.cores, h.length, show (t.port p).link.delay = (s.port p).link.delay by rw [h.link p],
    show (t.port p).link.bring = (s.port p).link.bring by rw [h.link p], show (t.port p).link.safety = (s.port p).link.safety by rw [h.link p]⟩

/-- A change of the port that leaves its delay, its bring-up and its light. -/
theorem modPort (hf : ∀ q, (f q).delay = q.delay ∧ (f q).bring = q.bring ∧ (f q).safety = q.safety) : LitPort p s (s.modPort p f) := by
  by_cases hp : p < s.ports.length
  · obtain ⟨delay, bring, safety⟩ := hf (s.port p)
    refine ⟨rfl, rfl, modPort_length, ?_, ?_, ?_⟩ <;> rw [port_modPort_same hp] <;> assumption
  · have same : s.modPort p f = s := by rw [State.modPort, List.modify_eq_self (Nat.le_of_not_lt hp)]
    rw [same]
    exact .refl

end LitPort

theorem linkDownAs_litPort {reason st : Nat} : LitPort p s (linkDownAs p reason st s) := by
  obtain ⟨r, down⟩ := linkDownAs_stands (p := p) (s := s) (reason := reason) (st := st)
  exact (LitPort.of_stands down).after (.modPort fun _ => ⟨rfl, rfl, rfl⟩)

theorem linkUp_litPort : LitPort p s (linkUp p s) := by
  unfold linkUp
  extract_lets q st s1
  have up : LitPort p s s1 := .modPort fun _ => ⟨rfl, rfl, rfl⟩
  exact .ite ((LitPort.of_stands (issueNotice_stands.after (markLink_stands.after emcy_reported.stands))).after up) .refl

theorem setRole_litPort {role d v copy : Nat} : LitPort p s (setRole p role d v copy s) := .modPort fun _ => ⟨rfl, rfl, rfl⟩

theorem roleEvent_litPort : LitPort p s (roleEvent p s) := .of_stands emcy_reported.stands

theorem roleLate_litPort : LitPort p s (roleLate p s) := by
  unfold roleLate
  split
  · exact .refl
  · refine .ite .refl ?_
    split
    · exact roleEvent_litPort.after setRole_litPort
    · exact .ite setRole_litPort setRole_litPort

theorem becomeMismatch_litPort : LitPort p s (becomeMismatch p s) := roleEvent_litPort.after setRole_litPort

theorem settlePeer_litPort : LitPort p s (settlePeer p s) := by
  unfold settlePeer
  dsimp only
  refine .ite .refl ?_
  split
  · exact .refl
  · exact .ite (.ite .refl (.ite linkUp_litPort (.ite (.modPort fun _ => ⟨rfl, rfl, rfl⟩) .refl)))
      (becomeMismatch_litPort.after (.ite linkDownAs_litPort (.modPort fun _ => ⟨rfl, rfl, rfl⟩)))

/-- A port that is reported to Chameleon stands lit, its bring-up at its end. -/
theorem reportPort_litPort : LitPort p (s.modPort p fun q => { q with bring := 0, safety := 0, failedThisStart := false, failedStarts := 0 })
    (reportPort p s) := by
  unfold reportPort
  extract_lets s1 s2 s3
  have role : LitPort p s1 s2 := .ite roleLate_litPort .refl
  have state : LitPort p s2 s3 := .ite (.modPort fun _ => ⟨rfl, rfl, rfl⟩) .refl
  have delay : LitPort p s3 (reportDelay p s3) := .ite (.of_stands emcy_reported.stands) .refl
  exact settlePeer_litPort.after ((role.trans state).trans delay)

/-! ## The commands -/

theorem exec_linkBringupStepDone (hm : measure p own s0 = s) (h0 : (s.port p).bring ≠ 0) (hl : loopedBack s p = false) :
    exec (.linkBringupStepDone ⟨p, own⟩ ok) s0 = .next (
      if !ok then (lightsOff 1 p s).modPort p fun q => { calmLanes (forgetPeer q) with bring := 0, safety := 1, failedThisStart := true }
      else if (s.port p).bring ≤ 3 then s.modPort p fun q => { q with bring := (s.port p).bring + 1 }
      else if (s.port p).bring = 4 then (s.modPort p fun q => { q with bring := 5 }).modPort p fun q => { q with fecLock := true }
      else if (s.port p).bring = 5 then (if (s.port p).ident.isSome && (s.port p).acked then s.modPort p fun q => { q with bring := 6 } else s)
      else if 16 ≤ (s.port p).echoes.length then
        reportPort p (s.modPort p fun q => { q with delay := delayOf q.echoes, echoes := [] })
      else s) := by
  subst hm
  exact congrArg Host.Outcome.next ((if_neg h0).trans (if_neg (by rw [hl]; exact Bool.false_ne_true)))

theorem exec_losDeclared (hm : measure p own s0 = s) (hs : (s.port p).safety = 0 ∨ (s.port p).safety = 3) (hl : loopedBack s p = false) :
    exec (.losDeclared ⟨p, own⟩) s0 = .next (shutdown p 1 (linkDownAs p 1 0 s)) := by
  subst hm
  exact congrArg Host.Outcome.next (if_pos ⟨hs, hl⟩)

theorem exec_probeTimer (hm : measure p own s0 = s) (hs : (s.port p).safety = 1 ∨ (s.port p).safety = 2) (hl : loopedBack s p = false)
    (hpr : mayProbe s p = true) : exec (.probeTimer ⟨p, own⟩) s0 = .next (startProbe p s) := by
  subst hm
  exact congrArg Host.Outcome.next (if_pos ⟨hs, hpr, hl⟩)

theorem exec_lightDetected (hm : measure p own s0 = s) (hl : loopedBack s p = false) (hpr : mayProbe s p = true) :
    exec (.lightDetected ⟨p, own⟩) s0 = .next (
      if probing s p then emcy 0xFF85 [p, 0xFF, 0, 0, 0] (startBringup 1 p s)
      else if (s.port p).safety = 1 ∨ (s.port p).safety = 2 then startProbe p s
      else s) := by
  subst hm
  exact congrArg Host.Outcome.next (if_neg (by simp [hl, hpr]))

/-- The last step: the port has its delay, and is lit. -/
theorem reportPort_delay (hp : p < s.ports.length) :
    ((reportPort p (s.modPort p fun q => { q with delay := delayOf q.echoes, echoes := [] })).port p).delay = delayOf (s.port p).echoes ∧
    ((reportPort p (s.modPort p fun q => { q with delay := delayOf q.echoes, echoes := [] })).port p).bring = 0 ∧
    ((reportPort p (s.modPort p fun q => { q with delay := delayOf q.echoes, echoes := [] })).port p).safety = 0 ∧
    (reportPort p (s.modPort p fun q => { q with delay := delayOf q.echoes, echoes := [] })).mem = s.mem ∧
    (reportPort p (s.modPort p fun q => { q with delay := delayOf q.echoes, echoes := [] })).cores = s.cores := by
  obtain ⟨mem, cores, -, delay, bring, safety⟩ := reportPort_litPort (p := p) (s := s.modPort p fun q => { q with delay := delayOf q.echoes, echoes := [] })
  rw [modPort_modPort, port_modPort_same hp] at delay bring safety
  exact ⟨delay, bring, safety, mem, cores⟩

end

/-- Settles O53. Each command of a port judges the state that the port's own readings leave. -/
theorem linkBringUp : Obligations.LinkBringUp := by
  refine ⟨fun s0 s p own hm hp hl => ⟨fun n hn h1 h3 => ?next, fun h4 => ?locked, fun h5 hi ha => ?identified, fun h6 he => ?done, fun h0 => ?failed,
    fun hs => ?los, fun hs hpr => ?probe, fun hs hno hpr => ?dark, fun hpb hpr => ?light⟩, fun s p hp hf => ?fec⟩
  case next =>
    rw [exec_linkBringupStepDone hm (by omega) hl, hn]
    exact congrArg Host.Outcome.next (if_pos h3)
  case locked =>
    have step : exec (.linkBringupStepDone ⟨p, own⟩ true) s0 = .next (s.modPort p fun q => { q with bring := 5, fecLock := true }) := by
      rw [exec_linkBringupStepDone hm (by omega) hl, h4, modPort_modPort]
      rfl
    refine ⟨_, step, ?_, ?_, ?_, rfl⟩ <;> rw [port_modPort_same hp]
  case identified =>
    rw [exec_linkBringupStepDone hm (by omega) hl, h5, hi, ha]
    rfl
  case done =>
    have step : exec (.linkBringupStepDone ⟨p, own⟩ true) s0 =
        .next (reportPort p (s.modPort p fun q => { q with delay := delayOf q.echoes, echoes := [] })) := by
      rw [exec_linkBringupStepDone hm (by omega) hl, h6]
      exact congrArg Host.Outcome.next (if_pos he)
    exact ⟨_, step, reportPort_delay hp⟩
  case failed =>
    have port := (lightsOff_lasered (mode := 1) (p := p)).modPort_port hp (f := fun q =>
      { calmLanes (forgetPeer q) with bring := 0, safety := 1, failedThisStart := true })
    exact ⟨_, exec_linkBringupStepDone hm h0 hl, congrArg Port.safety port, congrArg Port.bring port, congrArg Port.fecLock port,
      congrArg Port.ident port⟩
  case los =>
    obtain ⟨down, there, mem, cores⟩ := linkDownAs_port (reason := 1) (st := 0) hp
    have port := shutdown_port (cause := 1) there
    refine ⟨_, exec_losDeclared hm hs hl, ?_, ?_, ?_, shutdown_mem.trans mem, shutdown_cores.trans cores⟩ <;> rw [port]
    · rfl
    · exact calmed_carries down
  case probe => exact exec_probeTimer hm hs hl hpr
  case dark =>
    rw [exec_lightDetected hm hl hpr, hno]
    exact congrArg Host.Outcome.next (if_pos hs)
  case light =>
    have step : exec (.lightDetected ⟨p, own⟩) s0 = .next (emcy 0xFF85 [p, 0xFF, 0, 0, 0] (startBringup 1 p s)) := by
      rw [exec_lightDetected hm hl hpr, hpb]
      rfl
    have lasers : Lasered _ (startBringup 1 p s) := laserModes_lasered
    have port : (emcy 0xFF85 [p, 0xFF, 0, 0, 0] (startBringup 1 p s)).port p = { forgetPeer (s.port p) with safety := 3, bring := 1, probeAt := none } := by
      rw [emcy_reported.port, lasers.port, port_modPort_same hp]
    refine ⟨_, step, ?_, ?_, ?_, emcy_reported.mem.trans lasers.mem⟩ <;> rw [port]
    rfl
  case fec =>
    obtain ⟨mem, cores⟩ := fecDown_stands hp
    have port := fecDown_port hp
    refine ⟨_, congrArg Host.Outcome.next (if_pos hf), ?_, ?_, ?_, ?_, mem, cores⟩ <;> rw [port]
    · rfl
    · exact calmed_carries (linkDownAs_port hp).1

end Sys2Proof.Machine

/-! SUPPORT. Fading lasers, their spares, swaps and drops of a lane (R370, R377 to R379). -/

namespace Sys2Proof.Machine

section
variable {s t : State} {p l k n : Nat} {x : Shake} {f : Port → Port}

/-! ## Words and handshakes -/

/-- The control word that carries a phase of a handshake. -/
def Shake.word (x : Shake) (phase : Nat) : Nat × List Nat :=
  (if x.drop then 7 else 6, if x.drop then [x.lane, phase] else [x.lane, x.spare, phase])

theorem phaseWord_eq : phaseWord p x n s = s.modPort p fun q => { q with cwNext := q.cwNext ++ [x.word n] } := rfl

/-- A proposal of the transmitter: the handshake stands, and its word waits. -/
theorem propose_eq : phaseWord p x n (setShake p (some x) s) =
    s.modPort p fun q => { q with shake := some x, cwNext := q.cwNext ++ [x.word n] } := modPort_modPort

/-- Where no drop waits, the next handshake changes the transmit handshake and the words to send alone. -/
theorem nextShake_fields (hd : (s.port p).dropNext = []) :
    ∃ sh cw, nextShake p s = s.modPort p fun q => { q with shake := sh, cwNext := cw } := by
  have same : s = s.modPort p fun q => { q with shake := (s.port p).shake, cwNext := (s.port p).cwNext } :=
    (modPort_congr (f := fun q => { q with shake := (s.port p).shake, cwNext := (s.port p).cwNext }) (g := id) rfl).trans
      (by simp [State.modPort]) |>.symm
  have waiting : (s.port p).dropNext.find? (fun d => if d.1 then (s.port p).shake.isNone else (s.port p).rxShake.isNone) = none := by
    rw [hd, List.find?_nil]
  simp only [nextShake, waiting]
  split
  · exact ⟨_, _, same⟩
  · split
    · exact ⟨_, _, same⟩
    · split
      · split
        · exact ⟨_, _, propose_eq.trans (modPort_congr rfl)⟩
        · exact ⟨_, _, same⟩
      · exact ⟨_, _, same⟩

/-- A lane whose spare has locked is proposed, where it alone waits. -/
theorem nextShake_swap (hd : (s.port p).dropNext = []) (hs : (s.port p).shake = none) (h0 : (s.port p).safety = 0)
    (hsp : (s.port p).spareLane = [(k, l)]) (hl : l < 20) (h3 : (s.port p).fade.getD l 0 = 3)
    (ho : ∀ i < 20, i ≠ l → (s.port p).fade.getD i 0 ≠ 3) :
    nextShake p s = s.modPort p fun q => { q with shake := some (shakeOf false l k 0 0 true), cwNext := q.cwNext ++ [(6, [l, k, 0])] } := by
  have found : lanes20.find? (fun i => (s.port p).fade.getD i 0 == 3) = some l := by
    cases hf : lanes20.find? (fun i => (s.port p).fade.getD i 0 == 3) with
    | none => exact absurd h3 (by simpa using List.find?_eq_none.1 hf l (List.mem_range.2 hl))
    | some j =>
      have three : (s.port p).fade.getD j 0 = 3 := by simpa using List.find?_some hf
      by_contra hne
      exact ho j (List.mem_range.1 (List.mem_of_find?_eq_some hf)) (fun e => hne (congrArg some e)) three
  simp only [nextShake, hd, hs, h0, found, hsp, ne_eq, not_true_eq_false, if_false, List.find?_nil, Option.isSome_none, Bool.false_eq_true,
    List.find?_cons_of_pos, BEq.rfl]
  exact propose_eq

/-! ## A laser that has failed (R377) -/

theorem laserOutput_lasered : Lasered s (laserOutput p l n s) := ⟨_, rfl⟩

/-- The spare of lane `l` is idle, and `spare-enable` allows its use. -/
structure SpareIdle (p l : Nat) (s : State) : Prop where
  unused : bitAt (s.port p).sparesUsed.toNat (l / 5) = false
  sound : bitAt (s.port p).sparesFailed.toNat (l / 5) = false
  free : aget (l / 5) (s.port p).spareLane = none
  enabled : odGet s 0x2900 3 = 1

theorem Lasered.spareIdle (h : Lasered s t) (hi : SpareIdle p l s) : SpareIdle p l t := by
  obtain ⟨r, rfl⟩ := h
  exact ⟨hi.unused, hi.sound, hi.free, hi.enabled⟩

/-- An idle spare warms for its lane. -/
theorem warmSpare_idle (hp : p < s.ports.length) (hi : SpareIdle p l s) : ((warmSpare p l n s).port p).fade = (s.port p).fade.set l 2 ∧
    aget (l / 5) ((warmSpare p l n s).port p).spareLane = some l ∧ (warmSpare p l n s).mem = s.mem := by
  obtain ⟨unused, sound, free, enabled⟩ := hi
  have warm : warmSpare p l n s = laserMode 2 p (20 + l / 5)
      (setFade p l 2 (s.modPort p fun q => { q with spareLane := aset (l / 5) l q.spareLane })) := if_pos (by simp [unused, sound, free, enabled])
  have port : (warmSpare p l n s).port p = { s.port p with spareLane := aset (l / 5) l (s.port p).spareLane, fade := (s.port p).fade.set l 2 } := by
    rw [warm, laserMode_lasered.port, setFade, modPort_modPort, port_modPort_same hp]
  refine ⟨by rw [port], ?_, ?_⟩
  · rw [port]
    exact aget_aset_same
  · rw [warm]
    rfl

/-- A lane may be dropped, and no handshake stands: the drop is proposed. -/
theorem dropLane_proposed (hs : (s.port p).shake = none) (hl : l < 20) (hd : (s.port p).dropTx = 0x1F) (he : odGet s 0x2900 4 = 1) :
    dropLane p l n true s = s.modPort p fun q =>
      { q with fade := q.fade.set l 5, shake := some (shakeOf true l 0 0 n true), cwNext := q.cwNext ++ [(7, [l, 0])] } := by
  have hne : ¬0x1F = l := by omega
  simp only [dropLane, if_true, hd, hne, he, hs, if_false, ne_eq, not_true_eq_false, false_or, Nat.one_ne_zero]
  exact propose_eq.trans modPort_modPort

/-- A spare that has not locked has failed. -/
def Port.spareFails (k : Nat) (q : Port) : Port :=
  { q with sparesFailed := q.sparesFailed ||| BitVec.ofNat 4 (2 ^ k), spareLane := adel k q.spareLane }

theorem spare_of_one (h : (s.port p).spareLane = [(k, l)]) : aget k (s.port p).spareLane = some l := by rw [h]; simp [aget]

theorem exec_spareLocked (h : aget k (s.port p).spareLane = some l) (h2 : (s.port p).fade.getD l 0 = 2) :
    exec (.spareLocked p k) s = .next (nextShake p (setFade p l 3 s)) := by
  show execSpareLocked p k s = _
  simp only [execSpareLocked, h]
  exact congrArg Host.Outcome.next (if_pos h2)

theorem exec_spareLockTimeout (h : aget k (s.port p).spareLane = some l) (h2 : (s.port p).fade.getD l 0 = 2) :
    exec (.spareLockTimeout p k) s = .next (dropLane p l 2 true (laserMode 0 p (20 + k) (s.modPort p (Port.spareFails k)))) := by
  show execSpareLockTimeout p k s = _
  simp only [execSpareLockTimeout, h]
  exact congrArg Host.Outcome.next (if_pos h2)

/-! ## The switchover (R378, R379) -/

theorem dropEvent_reported {why : Nat} : Reported s (dropEvent p l why s) := odInc_reported.trans emcy_reported

/-- Management state, dictionary and fleet alone change where a repair is recorded. -/
theorem recordRepair_ports {kind unit index repl source state : Nat} :
    (recordRepair kind unit index repl source state s).ports = s.ports ∧ (recordRepair kind unit index repl source state s).mem = s.mem := by
  obtain ⟨m, o, f, recorded⟩ := recordRepair_fields (s := s) (kind := kind) (unit := unit) (index := index) (repl := repl) (source := source)
    (state := state)
  rw [recorded]
  exact ⟨rfl, rfl⟩

/-- The spare of a handshake takes its lane. -/
def Port.takeSpare (x : Shake) (q : Port) : Port :=
  { q with shake := none, toSwitch := 0, idleFrames := 2, sparesUsed := q.sparesUsed ||| BitVec.ofNat 4 (2 ^ x.spare), fade := q.fade.set x.lane 4 }

/-- A receive lane is left out. -/
def Port.leaveOut (x : Shake) (q : Port) : Port :=
  { q with rxShake := none, rxIgnore := 2, rxLanes := q.rxLanes &&& ~~~(BitVec.ofNat 20 (2 ^ x.lane)), dropRx := x.lane, rxPhase := 0,
           pstate := if q.pstate = 1 then 2 else q.pstate }

theorem switchTx_swap (hx : x.drop = false) : switchTx p x s = recordRepair 7 (xdOf p) (32 * p + x.lane) (32 * p + 20 + x.spare) 5 1
    (emcy 0xFF82 [p, x.lane, x.spare, 0, 0] (odInc 0x2901 1 4 1 (laserMode 0 p x.lane (s.modPort p (Port.takeSpare x))))) := by
  simp only [switchTx, hx, Bool.false_eq_true, if_false, setFade, setShake, modPort_modPort]
  rfl

theorem switchRx_drop (hx : x.drop = true) : switchRx p x s = dropEvent p x.lane x.why (s.modPort p (Port.leaveOut x)) := by
  simp only [switchRx, hx, if_true, degradePort, setRxShake, modPort_modPort]
  rfl

theorem switchTx_swap_ports (hx : x.drop = false) :
    (switchTx p x s).ports = s.ports.modify p (Port.takeSpare x) ∧ (switchTx p x s).mem = s.mem := by
  rw [switchTx_swap hx]
  obtain ⟨ports, mem⟩ := recordRepair_ports (kind := 7) (unit := xdOf p) (index := 32 * p + x.lane) (repl := 32 * p + 20 + x.spare) (source := 5)
    (state := 1) (s := emcy 0xFF82 [p, x.lane, x.spare, 0, 0] (odInc 0x2901 1 4 1 (laserMode 0 p x.lane (s.modPort p (Port.takeSpare x)))))
  exact ⟨ports.trans (emcy_reported.ports.trans rfl), mem.trans (emcy_reported.mem.trans rfl)⟩

theorem switchRx_drop_ports (hx : x.drop = true) :
    (switchRx p x s).ports = s.ports.modify p (Port.leaveOut x) ∧ (switchRx p x s).mem = s.mem := by
  rw [switchRx_drop hx]
  exact ⟨dropEvent_reported.ports, dropEvent_reported.mem⟩

/-- A port that has been changed, and what is proposed on it next. -/
theorem nextShake_ports (hp : p < s.ports.length) (ht : t.ports = s.ports.modify p f) (hd : (f (s.port p)).dropNext = []) :
    ∃ sh cw, (nextShake p t).port p = { f (s.port p) with shake := sh, cwNext := cw } ∧ (nextShake p t).mem = t.mem := by
  have port : t.port p = f (s.port p) := by
    rw [State.port, ht]
    exact getD_modify_same hp
  obtain ⟨sh, cw, next⟩ := nextShake_fields (s := t) (p := p) (by rw [port]; exact hd)
  refine ⟨sh, cw, ?_, ?_⟩
  · rw [next, port_modPort_same (by rw [ht, List.length_modify]; exact hp), port]
  · rw [next]
    rfl

/-- The lane changes, and the next handshake begins. -/
theorem exec_swapSwitchover {receive : Bool} (hx : (if receive then (s.port p).rxShake else (s.port p).shake) = some x) (h2 : x.phase = 2) :
    exec (.swapSwitchover ⟨p, receive⟩) s = .next (nextShake p (if receive then switchRx p x s else switchTx p x s)) := by
  show execSwapSwitchover ⟨p, receive⟩ s = _
  simp only [execSwapSwitchover, hx, h2, ne_eq, not_true_eq_false, if_false]

end

/-- Settles O54. A spare warms (`warmSpare`), its swap is proposed (`nextShake`) and takes the lane (`switchTx`), or the lane is dropped (`dropLane`). -/
theorem fadesAndSpares : Obligations.FadesAndSpares := by
  intro s p l k n hp hl hk
  refine ⟨fun hn h0 => ?warn, fun hn h1 hkl unused sound free enabled => ?act, fun h1 => ?recover,
    fun hsp h2 hs h0 hlen ho hd => ⟨?locked, fun htx he => ?timeout⟩,
    fun x hx h0 hdr hpr hrx => ?retry, fun x hx h2 hdr hd => ?swap, fun x hx h2 hdr hd => ?drop, fun h0 => ?lost⟩
  case warn =>
    have serves : (decide (l < 20) || bitAt (s.port p).sparesUsed.toNat (l - 20)) = true := by simp [hl]
    have main : b2n (decide (20 ≤ l)) = 0 := by simp [b2n, Nat.not_le.2 hl]
    have warned : exec (.fadeWarn p l n) s = .next (emcy 0xFF81 [p, l, b2n (decide (20 ≤ l)), n % 256, n / 256] (laserOutput p l n (setFade p l 1 s))) :=
      congrArg Host.Outcome.next (if_pos ⟨serves, hn, h0⟩)
    rw [warned, main]
    rfl
  case act =>
    subst hkl
    have idle : SpareIdle p l s := ⟨unused, sound, free, enabled⟩
    constructor
    · obtain ⟨fade, spare, mem⟩ := warmSpare_idle (n := 1) (s := laserOutput p l n s) hp (laserOutput_lasered.spareIdle idle)
      exact ⟨_, congrArg Host.Outcome.next ((if_pos (.inr hn)).trans ((if_pos hl).trans (if_pos h1))), fade, spare, mem⟩
    · intro h0
      have judged : exec (.ringRelockTimeout p false l) s = .next (warmSpare p l 4 s) :=
        congrArg Host.Outcome.next ((if_neg (by simp [h0])).trans ((if_neg Bool.false_ne_true).trans (if_pos h1)))
      exact ⟨_, judged, warmSpare_idle hp idle⟩
  case recover => exact congrArg Host.Outcome.next (if_pos h1)
  case locked =>
    have port : (setFade p l 3 s).port p = { s.port p with fade := (s.port p).fade.set l 3 } := port_modPort_same hp
    have next := nextShake_swap (s := setFade p l 3 s) (p := p) (l := l) (k := k) (by rw [port]; exact hd) (by rw [port]; exact hs)
      (by rw [port]; exact h0) (by rw [port]; exact hsp) hl
      (by rw [port, List.getD_eq_getElem?_getD, List.getElem?_set_self (by omega)]; rfl) fun i hi hne => by
        rw [port, List.getD_eq_getElem?_getD, List.getElem?_set_ne hne.symm, ← List.getD_eq_getElem?_getD]
        exact ho i hi hne
    have there : p < (setFade p l 3 s).ports.length := modPort_length.symm ▸ hp
    refine ⟨_, (exec_spareLocked (spare_of_one hsp) h2).trans (congrArg Host.Outcome.next next), ?_, ?_, rfl⟩ <;> rw [port_modPort_same there, port]
    rfl
  case timeout =>
    have failed : Lasered _ (laserMode 0 p (20 + k) (s.modPort p (Port.spareFails k))) := laserMode_lasered
    have port : (laserMode 0 p (20 + k) (s.modPort p (Port.spareFails k))).port p = Port.spareFails k (s.port p) :=
      failed.port.trans (port_modPort_same hp)
    have drop := dropLane_proposed (n := 2) (p := p) (s := laserMode 0 p (20 + k) (s.modPort p (Port.spareFails k)))
      (by rw [port]; exact hs) hl (by rw [port]; exact htx) he
    refine ⟨_, (exec_spareLockTimeout (spare_of_one hsp) h2).trans (congrArg Host.Outcome.next drop), ?_, ?_, ?_, failed.mem⟩ <;>
      rw [failed.modPort_port (Nat.lt_of_lt_of_eq hp modPort_length.symm), port_modPort_same hp] <;> rfl
  case retry =>
    show execSwapProposeRetry p s = _
    simp only [execSwapProposeRetry, hx, hrx, Option.isSome_some, repeatShake, h0, hpr, and_self, if_true, phaseWord_eq, Shake.word, hdr,
      Bool.false_eq_true, if_false]
  case swap =>
    obtain ⟨ports, mem⟩ := switchTx_swap_ports (p := p) (s := s) hdr
    obtain ⟨sh, cw, port, kept⟩ := nextShake_ports hp ports hd
    refine ⟨_, exec_swapSwitchover (receive := false) hx h2, ?_⟩
    rw [if_neg Bool.false_ne_true, port]
    exact ⟨rfl, rfl, rfl, kept.trans mem⟩
  case drop =>
    obtain ⟨ports, mem⟩ := switchRx_drop_ports (p := p) (s := s) hdr
    obtain ⟨sh, cw, port, kept⟩ := nextShake_ports hp ports hd
    refine ⟨_, exec_swapSwitchover (receive := true) hx h2, ?_⟩
    rw [if_pos rfl, port]
    exact ⟨rfl, rfl, rfl, kept.trans mem⟩
  case lost =>
    exact congrArg Host.Outcome.next (if_neg (by simp [h0]))

end Sys2Proof.Machine

/-! SUPPORT. What stops beside the work of the device (R292, R344, R376, R431, R466): sending, reporting, dark ports and a forwarding plane that
stops leave memory, the cores, the handles, the fleet's and the security state, power and start-up as they are. -/

namespace Sys2Proof.Machine

/-- Memory, cores, handles, fleet, security, the forwarding state, power, start-up and test mode. -/
def State.work (s : State) : List Host.Cell × List Core × List Handle × Fleet × Security × Nat × Power × Startup × Test :=
  (s.mem, s.cores, s.handles, s.fleet, s.sec, s.fab.fwd, s.power, s.startup, s.test)

/-- From `s` to `t` those stand. -/
def WorkStands (s t : State) : Prop := t.work = s.work

namespace WorkStands

variable {s t u : State}

theorem refl : WorkStands s s := rfl

theorem trans (h : WorkStands s t) (k : WorkStands t u) : WorkStands s u := Eq.trans k h

/-- The same, the later step first: from it the state between is known. -/
theorem after (k : WorkStands t u) (h : WorkStands s t) : WorkStands s u := h.trans k

theorem ite {c : Prop} [Decidable c] (h : WorkStands s t) (k : WorkStands s u) : WorkStands s (if c then t else u) := by
  split
  · exact h
  · exact k

theorem foldl {α : Type} {f : State → α → State} {l : List α} (h : ∀ t a, WorkStands t (f t a)) : WorkStands s (l.foldl f s) :=
  List.foldlRecOn l f (motive := WorkStands s) refl fun t ht a _ => ht.trans (h t a)

theorem mem (h : WorkStands s t) : t.mem = s.mem := show t.work.1 = s.work.1 by rw [h]
theorem cores (h : WorkStands s t) : t.cores = s.cores := show t.work.2.1 = s.work.2.1 by rw [h]
theorem handles (h : WorkStands s t) : t.handles = s.handles := show t.work.2.2.1 = s.work.2.2.1 by rw [h]
theorem fleet (h : WorkStands s t) : t.fleet = s.fleet := show t.work.2.2.2.1 = s.work.2.2.2.1 by rw [h]
theorem sec (h : WorkStands s t) : t.sec = s.sec := show t.work.2.2.2.2.1 = s.work.2.2.2.2.1 by rw [h]
theorem fwd (h : WorkStands s t) : t.fab.fwd = s.fab.fwd := show t.work.2.2.2.2.2.1 = s.work.2.2.2.2.2.1 by rw [h]
theorem power (h : WorkStands s t) : t.power = s.power := show t.work.2.2.2.2.2.2.1 = s.work.2.2.2.2.2.2.1 by rw [h]
theorem startup (h : WorkStands s t) : t.startup = s.startup := show t.work.2.2.2.2.2.2.2.1 = s.work.2.2.2.2.2.2.2.1 by rw [h]

end WorkStands

section
variable {s t : State} {g p n st : Nat} {k : Packet} {o : CollOp}

theorem Stands.workStands (h : Stands s t) : WorkStands s t := show t.standing.work = s.standing.work from congrArg State.work h

theorem Reported.workStands (h : Reported s t) : WorkStands s t := h.stands.workStands

theorem Lasered.workStands (h : Lasered s t) : WorkStands s t := by obtain ⟨r, rfl⟩ := h; rfl

/-! ## Groups and operations that end (R344) -/

theorem endOp_workStands : WorkStands s (endOp o n s) := by
  unfold endOp
  extract_lets s1 s2
  have counted : WorkStands s s2 := odInc_reported.workStands
  exact .ite (.ite counted (emcy_reported.workStands.after (counted.trans rfl))) .refl

theorem settleForming_workStands : WorkStands s (settleForming g s) := .ite rfl .refl

theorem groupReform_workStands : WorkStands s (groupReform g s) := settleForming_workStands.after rfl

theorem reformGroups_workStands : WorkStands s (reformGroups s) :=
  .foldl fun _ _ => .ite .refl (groupReform_workStands.after (.foldl fun _ _ => endOp_workStands))

theorem frameE_workStands {x : EFrame} : WorkStands s (frameE n x s) := .ite rfl rfl

theorem sendE_workStands {bulk : Bool} {addr : List Byte} {udp : Nat} : WorkStands s (sendE n bulk addr udp k s) :=
  .ite (.ite rfl rfl) (.ite rfl (frameE_workStands.after rfl))

theorem memberSend_workStands {rank bucket use : Nat} {permit : Bool} : WorkStands s (memberSend p g rank bucket use permit k s) :=
  .ite sendRaw_stands.workStands (sendE_workStands.after rfl)

theorem sendAbort_workStands {bucket use code rank : Nat} : WorkStands s (sendAbort g bucket use code rank s) := by
  unfold sendAbort
  split
  · exact .refl
  · exact .foldl fun _ _ => memberSend_workStands

theorem failOp_workStands : WorkStands s (failOp o n s) := .ite (sendAbort_workStands.after endOp_workStands) .refl

theorem poisonRest_workStands : WorkStands s (poisonRest o s) := .foldl fun _ _ => rfl

theorem endWork_workStands {hit : Core → Bool} : WorkStands s (endWork hit s) := by
  have ended : ∀ t o, WorkStands t (poisonRest (nowOp o (failOp o 0x0D t)) (failOp o 0x0D t)) := fun _ _ =>
    poisonRest_workStands.after failOp_workStands
  unfold endWork
  extract_lets s1
  have all : WorkStands s s1 := .foldl fun t o => (ended t o).trans rfl
  exact all.trans rfl

/-! ## Light that goes (R376) -/

theorem shutdown_workStands {cause : Nat} : WorkStands s (shutdown p cause s) :=
  shutdown_reported.workStands.after (lightsOff_lasered.workStands.trans rfl)

theorem quietPort_workStands {mode : Nat} : WorkStands s (quietPort mode p s) := lightsOff_lasered.workStands.trans rfl

theorem darkEports_workStands {l : List Nat} : WorkStands s (darkEports l s) :=
  .foldl fun _ _ => .ite (emcy_reported.workStands.after rfl) .refl

/-! ## The forwarding plane stops (R292) -/

theorem dropFabric_workStands : WorkStands s (dropFabric s) := rfl

theorem stopForwarding_quiet_workStands : WorkStands { s with fab := { s.fab with fwd := st } } (stopForwarding st false s) :=
  reformGroups_workStands.after (dropFabric_workStands.after (.foldl fun _ _ => rfl))

/-! ## The device says that it leaves (R466) -/

theorem sendFrame_workStands : WorkStands s (sendFrame p s) := drainPort_stands.workStands.after rfl

theorem sendBeatNow_workStands : WorkStands s (sendBeatNow p n s) := by
  induction n generalizing s with
  | zero => exact .refl
  | succ n ih => exact .ite (ih.after sendFrame_workStands) .refl

/-- A heartbeat leaves on every lit port; the beat has been counted and LEAVING set. -/
theorem leave_workStands : WorkStands { s with fleet := { s.fleet with leaving := true, beat := (s.fleet.beat + 1) % 256 } } (leave s) := by
  have beats : WorkStands { s with fleet := { s.fleet with leaving := true, beat := (s.fleet.beat + 1) % 256 } }
      (sendBeats { s with fleet := { s.fleet with leaving := true } }) := by
    let u : State := { s with fleet := { s.fleet with leaving := true } }
    have sent : WorkStands u (((List.range 32).filter (sending u)).foldl (fun t p => cwSend p 9 (beatBody t) t) u) := .foldl fun _ _ => rfl
    exact congrArg (fun w : List Host.Cell × List Core × List Handle × Fleet × Security × Nat × Power × Startup × Test =>
      (w.1, w.2.1, w.2.2.1, { w.2.2.2.1 with beat := (w.2.2.2.1.beat + 1) % 256 }, w.2.2.2.2)) sent
  exact .after (.foldl fun _ _ => sendBeatNow_workStands) beats

/-- A change of the power state is reported. -/
theorem setPState_reported : Reported { s with power := { s.power with pstate := n } } (setPState n s) := by
  unfold setPState
  split
  · rename_i same
    subst same
    exact .refl
  · exact emcy_reported

end

end Sys2Proof.Machine

/-! SUPPORT. The writes that change the device's mode (R431 to R433, R440, R441, R500, R503, R508). -/

namespace Sys2Proof.Machine

section
variable {s t u : State} {m : Master} {b : List Byte} {o : Obj} {i n p q v c x : Nat} {on : Bool}

/-! ## What an accepted write has passed (R397) -/

/-- A check that answers a code is passed where the verdict is 0. -/
theorem ite_code_eq_zero {a : Prop} [Decidable a] (hc : c ≠ 0) : (if a then c else x) = 0 ↔ ¬a ∧ x = 0 := by
  by_cases h : a <;> simp [h, hc]

theorem rules_of_accepted (hf : findObj i n = some o) (hh : hidden m o = false) (hc : odCheck m i n b s = 0) :
    stateOk o i n b s = true ∧ valueOk o i n b s = true ∧ ownerRule m i n b s = true := by
  simp (disch := decide) only [odCheck, hf, hh, ite_code_eq_zero, Bool.false_eq_true, if_false, Bool.not_eq_true', Bool.not_eq_false] at hc
  obtain ⟨-, -, -, state, -, value, owner, -⟩ := hc
  exact ⟨state, value, owner⟩

theorem openIndex_mode : ∀ i ∈ [0x2100, 0x2A20, 0x2D00, 0x2D10], OpenIndex i := by
  unfold OpenIndex
  decide +kernel

theorem hidden_of_open (hi : OpenIndex i) (hf : findObj i n = some o) : hidden m o = false := by
  obtain ⟨hm, h0, h1, -, -⟩ := findObj_some hf
  obtain ⟨hsrw, hsro⟩ := hi o hm h0 h1
  simp [hidden, hsrw, hsro]

theorem dictWrite_brumate (hr : reaches m s = true) (hc : odCheck m 0x2A20 1 b s = 0) : dictWrite m 0x2A20 1 b s =
    if ofLE b = 2 then odSet 0x2A20 1 (ofLE b) (enterBrumate (setResp m 0 [] s)).2 else odSet 0x2A20 1 (ofLE b) (leaveBrumate (setResp m 0 [] s)).2 :=
  dictWrite_open (openIndex_mode _ (by decide)) rfl hr hc

theorem dictWrite_testMode (hr : reaches m s = true) (hc : odCheck m 0x2D00 1 b s = 0) :
    dictWrite m 0x2D00 1 b s = enterTestMode (setResp m 0 [] s) :=
  dictWrite_open (openIndex_mode _ (by decide)) rfl hr hc

theorem dictWrite_loopbacks (hr : reaches m s = true) (hc : odCheck m 0x2D10 1 b s = 0) :
    dictWrite m 0x2D10 1 b s = writeLoopbacks (ofLE b) (setResp m 0 [] s) :=
  dictWrite_open (openIndex_mode _ (by decide)) rfl hr hc

theorem dictWrite_eLoopback (hr : reaches m s = true) (hc : odCheck m 0x2D10 2 b s = 0) :
    dictWrite m 0x2D10 2 b s = odSet 0x2D10 2 (ofLE b) (setResp m 0 [] s) :=
  dictWrite_open (openIndex_mode _ (by decide)) rfl hr hc

theorem dictWrite_tripRelease (hr : reaches m s = true) (hc : odCheck m 0x2100 0xA b s = 0) :
    dictWrite m 0x2100 0xA b s = (tripRelease (ofLE b) (setResp m 0 [] s)).2 :=
  dictWrite_open (openIndex_mode _ (by decide)) rfl hr hc

theorem dictWrite_cautiousAck (hr : reaches m s = true) (hc : odCheck m 0x2100 0xB b s = 0) :
    dictWrite m 0x2100 0xB b s = (cautiousAck (ofLE b) (setResp m 0 [] s)).2 :=
  dictWrite_open (openIndex_mode _ (by decide)) rfl hr hc

/-! ## Brumate (R431 to R433) -/

theorem brumate_row : findObj 0x2A20 1 =
    some { i0 := 0x2A20, i1 := 0x2A20, s0 := 1, s1 := 1, acc := .rw, ty := .u 1, lo := 0, hi := 2, wh := .special } := by decide +kernel

theorem enterBrumate_allowed (h : (enterBrumate s).1 ≠ 0x08000022) (hp : s.power.pstate ≠ 2) : (enterBrumate s).2 = toBrumate s := by
  unfold enterBrumate at h ⊢
  split at h
  · exact absurd rfl h
  · rename_i allowed
    rw [if_neg allowed, if_neg hp]

theorem enterBrumate_accepted (hc : odCheck m 0x2A20 1 [2] s = 0) : (enterBrumate (setResp m 0 [] s)).1 ≠ 0x08000022 := by
  obtain ⟨o, hf⟩ := findObj_of_accepted hc
  obtain ⟨state, -, -⟩ := rules_of_accepted hf (hidden_of_open (openIndex_mode _ (by decide)) hf) hc
  rw [brumate_row] at hf
  obtain rfl := Option.some.inj hf
  rw [enterBrumate_code_setResp]
  simpa [stateOk, specialState, ofLE] using state

theorem toBrumate_fields : (toBrumate s).power.pstate = 2 ∧ (toBrumate s).fab.fwd = 0 ∧ (toBrumate s).fleet.leaving = true ∧
    (toBrumate s).mem = s.mem ∧ (toBrumate s).cores = s.cores ∧ (toBrumate s).handles = s.handles := by
  unfold toBrumate
  extract_lets s1 s2
  have stopped : WorkStands { leave s with fab := { (leave s).fab with fwd := 0 } } s1 := stopForwarding_quiet_workStands
  have shut : WorkStands s1 s2 := .foldl fun _ _ => .ite .refl shutdown_workStands
  have dark : WorkStands s2 (darkEports [0, 1, 2, 3] s2) := darkEports_workStands
  have off : WorkStands { leave s with fab := { (leave s).fab with fwd := 0 } } (darkEports [0, 1, 2, 3] s2) := (stopped.trans shut).trans dark
  have left := leave_workStands (s := s)
  generalize darkEports [0, 1, 2, 3] s2 = v at off
  obtain ⟨md, od, asleep⟩ := setPState_reported (s := v) (n := 2)
  rw [asleep]
  exact ⟨rfl, off.fwd, (congrArg Fleet.leaving off.fleet).trans (congrArg Fleet.leaving left.fleet), off.mem.trans left.mem,
    off.cores.trans left.cores, off.handles.trans left.handles⟩

theorem startProbes_workStands : WorkStands s (startProbes s) := .foldl fun _ _ => .ite rfl .refl

/-- The stacks leave self-refresh, and the device no longer says that it leaves. -/
def rouse (s : State) : State :=
  { s with power := { s.power with refresh := List.replicate 4 8, refreshNext := List.replicate 4 8, refreshSampled := List.replicate 4 false }
           fleet := { s.fleet with leaving := false } }

theorem leaveBrumate_asleep (hp : s.power.pstate = 2) : (leaveBrumate s).2 = startProbes (setPState 3 (rouse s)) := by
  unfold leaveBrumate
  rw [if_neg (not_not_intro hp)]
  rfl

theorem leaveBrumate_fields (hp : s.power.pstate = 2) : (leaveBrumate s).2.power.pstate = 3 ∧ (leaveBrumate s).2.fleet.leaving = false ∧
    (leaveBrumate s).2.power.refresh = List.replicate 4 8 ∧ (leaveBrumate s).2.mem = s.mem ∧ (leaveBrumate s).2.cores = s.cores ∧
    (leaveBrumate s).2.handles = s.handles := by
  have probed := startProbes_workStands.after (setPState_reported (n := 3) (s := rouse s)).workStands
  rw [leaveBrumate_asleep hp, probed.power, probed.fleet, probed.mem, probed.cores, probed.handles]
  exact ⟨rfl, rfl, rfl, rfl, rfl, rfl⟩

/-! ## Test mode (R500) -/

theorem forceSafeOp_reported : Reported s (forceSafeOp n s) := by
  unfold forceSafeOp
  split
  · exact .trans ⟨_, _, rfl⟩ emcy_reported
  · exact .refl

theorem stopCompute_sec : (stopCompute s).sec = s.sec := by
  have cut : ∀ u : State, (cutCompute u).sec = u.sec := fun _ => rfl
  unfold stopCompute
  dsimp only
  rw [cut, failLaunches_undisturbed.sec, endCores_undisturbed.sec]

theorem stopCompute_stopped : (stopCompute s).cores = List.replicate 160 {} ∧ (stopCompute s).startup.computeUp = false := ⟨rfl, rfl⟩

theorem enterTestMode_fields : (enterTestMode s).test.mode = true ∧ (enterTestMode s).cores = List.replicate 160 {} ∧
    (enterTestMode s).startup.computeUp = false ∧ (enterTestMode s).mgmt.sessions = List.replicate 4 {} ∧
    (enterTestMode s).sec.aliasReady = false ∧ (enterTestMode s).sec.aliasSeeds = [] ∧ (enterTestMode s).sec.kemSeed = [] ∧
    (enterTestMode s).sec.keys = s.sec.keys ∧ (enterTestMode s).sec.fused = s.sec.fused := by
  obtain ⟨cores, computeUp⟩ := stopCompute_stopped (s := s)
  have sec := stopCompute_sec (s := s)
  unfold enterTestMode
  generalize stopCompute s = v at cores computeUp sec
  have forced := (forceSafeOp_reported (n := 0x8004) (s := dropNearWindows v)).workStands
  extract_lets s1
  change WorkStands _ s1 at forced
  clear_value s1
  rw [← sec]
  exact ⟨rfl, forced.cores.trans cores, (congrArg Startup.computeUp forced.startup).trans computeUp, rfl, rfl, rfl, rfl,
    show s1.sec.keys = _ from congrArg Security.keys forced.sec, show s1.sec.fused = _ from congrArg Security.fused forced.sec⟩

/-! ## Loopback (R376, R503, R508) -/

/-- A port that loops: bring-up from step 1 on its own bus. -/
def Port.loops (q : Port) : Port :=
  { forgetPeer (calmLanes q) with safety := 3, bring := 1, probeAt := none, loopState := 1, loopFail := 0, loopUncorr := 0, loopLanes := 0 }

/-- A port that has left loopback. -/
def Port.unloops (light : Nat) (q : Port) : Port :=
  { calmLanes (forgetPeer q) with safety := light, bring := 0, loopState := 0, loopFail := 0, loopUncorr := 0, loopLanes := 0 }

theorem Lasered.modPort {f : Port → Port} (h : Lasered s t) : Lasered (s.modPort p f) (t.modPort p f) := by
  obtain ⟨r, rfl⟩ := h
  exact ⟨r, rfl⟩

theorem setLoopback_same (h : loopedBack s p = on) : setLoopback p on s = s := if_pos h

theorem loopOn_lasered : Lasered (s.modPort p Port.loops) ((startBringup 1 p (((warmSpares (s.port p)).foldl (fun t j => laserMode 0 p j t)
    (setLoopBit p true s)).modPort p calmLanes)).modPort p fun q => { q with loopState := 1, loopFail := 0, loopUncorr := 0, loopLanes := 0 }) := by
  have bit : Lasered s (setLoopBit p true s) := ⟨_, rfl⟩
  have calm : Lasered (s.modPort p calmLanes) _ := (bit.trans (laserModes_lasered (mode := 0) (p := p) (l := warmSpares (s.port p)))).modPort
  have lit := (calm.modPort (p := p) (f := fun q => { forgetPeer q with safety := 3, bring := 1, probeAt := none })).trans
    (laserModes_lasered (mode := 2) (p := p) (l := liveLasers (((((warmSpares (s.port p)).foldl (fun t j => laserMode 0 p j t)
      (setLoopBit p true s)).modPort p calmLanes)).port p)))
  have looped := lit.modPort (p := p) (f := fun q => { q with loopState := 1, loopFail := 0, loopUncorr := 0, loopLanes := 0 })
  rw [modPort_modPort, modPort_modPort] at looped
  exact looped

theorem setLoopback_on (h : loopedBack s p = false) :
    Lasered ((if (s.port p).carries then linkDownAs p 1 0 s else s).modPort p Port.loops) (setLoopback p true s) := by
  have turned : setLoopback p true s = _ := (if_neg (by rw [h]; decide)).trans (if_pos rfl)
  rw [turned]
  exact loopOn_lasered

theorem setLoopback_off (h : loopedBack s p = true) :
    Lasered (s.modPort p (Port.unloops (if txEnabled s p then 2 else 4))) (setLoopback p false s) := by
  have turned : setLoopback p false s = _ := (if_neg (by rw [h]; decide)).trans (if_neg Bool.false_ne_true)
  have bit : Lasered s (setLoopBit p false s) := ⟨_, rfl⟩
  rw [turned]
  exact (bit.trans lightsOff_lasered).modPort

theorem Lasered.od (h : Lasered s t) : t.od = s.od := by obtain ⟨r, rfl⟩ := h; rfl

theorem carries_of_pstate {k : Port} (h : k.pstate = 0) : k.carries = false := by simp [Port.carries, h]

theorem setLoopback_on_idle (hp : p < s.ports.length) (h : loopedBack s p = false) (hc : (s.port p).carries = false) :
    (setLoopback p true s).port p = Port.loops (s.port p) ∧ ∀ q, q ≠ p → (setLoopback p true s).port q = s.port q := by
  have on := setLoopback_on h
  rw [hc] at on
  exact ⟨on.port.trans (port_modPort_same hp), fun q hq => on.port.trans (port_modPort_other (Ne.symm hq))⟩

theorem setLoopback_on_carrying (hp : p < s.ports.length) (h : loopedBack s p = false) (hc : (s.port p).carries = true) :
    ((setLoopback p true s).port p).pstate = 0 ∧ ((setLoopback p true s).port p).downReason = 1 ∧ ((setLoopback p true s).port p).loopState = 1 := by
  have on := setLoopback_on h
  rw [hc] at on
  have down := linkDownAs_carried (reason := 1) (st := 0) hc
  have link := down.link p
  rw [port_modPort_same hp] at link
  rw [on.port, if_pos rfl, port_modPort_same ((down.length.trans modPort_length).symm ▸ hp)]
  exact ⟨congrArg Port.pstate link, congrArg Port.downReason link, rfl⟩

theorem setLoopback_off_port (hp : p < s.ports.length) (h : loopedBack s p = true) :
    (setLoopback p false s).port p = Port.unloops (if txEnabled s p then 2 else 4) (s.port p) ∧
    ∀ q, q ≠ p → (setLoopback p false s).port q = s.port q := by
  have off := setLoopback_off h
  exact ⟨off.port.trans (port_modPort_same hp), fun q hq => off.port.trans (port_modPort_other (Ne.symm hq))⟩

/-- From `s` to `t` the dictionary, memory, the cores and the roles of the ports stand. -/
structure RolesStand (s t : State) : Prop where
  od : t.od = s.od
  mem : t.mem = s.mem
  cores : t.cores = s.cores
  role : ∀ q, (t.port q).role = (s.port q).role

theorem RolesStand.trans (h : RolesStand s t) (k : RolesStand t u) : RolesStand s u :=
  ⟨k.od.trans h.od, k.mem.trans h.mem, k.cores.trans h.cores, fun q => (k.role q).trans (h.role q)⟩

theorem Lasered.rolesStand (h : Lasered s t) : RolesStand s t := ⟨h.od, h.mem, h.cores, fun _ => congrArg Port.role h.port⟩

theorem rolesStand_modPort {f : Port → Port} (hf : ∀ k, (f k).role = k.role) : RolesStand s (s.modPort p f) := by
  refine ⟨rfl, rfl, rfl, fun q => ?_⟩
  by_cases hq : p = q
  · subst hq
    by_cases hp : p < s.ports.length
    · rw [port_modPort_same hp, hf]
    · rw [State.port, State.port, State.modPort_ports, List.modify_eq_self (Nat.le_of_not_lt hp)]
  · rw [port_modPort_other hq]

/-- Loopback of a port that is no LINK touches the port alone, and its lasers. -/
theorem setLoopback_rolesStand (h : on = true → (s.port p).role ≠ 1) : RolesStand s (setLoopback p on s) := by
  by_cases same : loopedBack s p = on
  · rw [setLoopback_same same]
    exact ⟨rfl, rfl, rfl, fun _ => rfl⟩
  · cases on with
    | true =>
      have idle : (s.port p).carries = false := by simp [Port.carries, Port.isLink, h rfl]
      have lasers := setLoopback_on (by simpa using same)
      rw [idle] at lasers
      exact (rolesStand_modPort (f := Port.loops) fun _ => rfl).trans lasers.rolesStand
    | false => exact (rolesStand_modPort (f := Port.unloops _) fun _ => rfl).trans (setLoopback_off (by simpa using same)).rolesStand

/-- Ports named by an accepted write of `loopback-ports` are no LINK. -/
theorem role_of_accepted (hc : odCheck m 0x2D10 1 b s = 0) (hp : p < 32) (hb : bitAt (ofLE b) p = true) : (s.port p).role ≠ 1 := by
  obtain ⟨o, hf⟩ := findObj_of_accepted hc
  obtain ⟨-, -, owner⟩ := rules_of_accepted hf (hidden_of_open (openIndex_mode _ (by decide)) hf) hc
  have free : ((List.range 32).any fun p => bitAt (ofLE b) p && ((s.port p).role == 1 || (s.port p).role == 2)) = false := by
    simpa [ownerRule] using owner
  have none := List.any_eq_false.1 free p (List.mem_range.2 hp)
  simp only [hb, Bool.true_and, Bool.or_eq_true, beq_iff_eq, not_or] at none
  exact none.1

theorem writeLoopbacks_rolesStand (h : ∀ p < 32, bitAt v p = true → (s.port p).role ≠ 1) :
    RolesStand (odSet 0x2D10 1 v s) (writeLoopbacks v s) :=
  List.foldlRecOn (List.range 32) _ (motive := RolesStand (odSet 0x2D10 1 v s)) ⟨rfl, rfl, rfl, fun _ => rfl⟩ fun _ ht p hp =>
    ht.trans (setLoopback_rolesStand fun hb => (ht.role p).trans_ne (h p (List.mem_range.1 hp) hb))

/-- Ports that are as the write asks stay so. -/
theorem writeLoopbacks_same (h : ∀ p < 32, loopedBack s p = bitAt v p) : writeLoopbacks v s = odSet 0x2D10 1 v s :=
  foldl_eq_self fun p hp => setLoopback_same (h p (List.mem_range.1 hp))

/-! ## Trip release and the end of caution (R440, R441) -/

theorem cmd_rows : ∀ n ∈ [0xA, 0xB], findObj 0x2100 n = some (.cmd 0x2100 n (.u 1)) := by decide +kernel

theorem tripRelease_accepted (hc : odCheck m 0x2100 0xA b s = 0) : ofLE b = 1 ∧ s.power.tripped = true ∧ 60 ≤ releaseTimer s := by
  have row := cmd_rows 0xA (by decide)
  obtain ⟨state, value, -⟩ := rules_of_accepted row (hidden_of_open (openIndex_mode _ (by decide)) row) hc
  have one : ofLE b = 1 := by simpa [valueOk, Obj.cmd] using value
  have allowed : (tripRelease 1 s).1 ≠ 0x08000022 := by simpa [stateOk, Obj.cmd, specialState, one] using state
  by_cases h : s.power.tripped = true ∧ 60 ≤ releaseTimer s
  · exact ⟨one, h⟩
  · exact absurd (by simp [tripRelease, h]) allowed

theorem cautiousAck_accepted (hc : odCheck m 0x2100 0xB b s = 0) :
    ofLE b = 1 ∧ ¬(s.power.tripped = true ∨ ¬[2, 4, 8].contains s.mgmt.al = true) := by
  have row := cmd_rows 0xB (by decide)
  obtain ⟨state, value, -⟩ := rules_of_accepted row (hidden_of_open (openIndex_mode _ (by decide)) row) hc
  have one : ofLE b = 1 := by simpa [valueOk, Obj.cmd] using value
  have allowed : (cautiousAck 1 s).1 ≠ 0x08000022 := by simpa [stateOk, Obj.cmd, specialState, one] using state
  refine ⟨one, fun h => allowed ?_⟩
  simp only [cautiousAck, ne_eq, not_true_eq_false, if_false, h, if_true]

theorem cautiousAck_allowed (h : ¬(s.power.tripped = true ∨ ¬[2, 4, 8].contains s.mgmt.al = true)) :
    (cautiousAck 1 s).2 = { s with power := { s.power with cautious := false } } := by
  unfold cautiousAck
  rw [if_neg (not_not_intro rfl), if_neg h]

/-- What a release clears before the device starts again. -/
def releaseTrip (s : State) : State :=
  { s with power := { s.power with tripped := false, thermtripN := false, releaseSince := none, pin := false, pinCeil := 16 } }

theorem tripRelease_released (ht : s.power.tripped = true) (h60 : 60 ≤ releaseTimer s) :
    (tripRelease 1 s).2 = setPState 1 (beginStart 8 (releaseTrip s)) := by
  simp only [tripRelease, ne_eq, not_true_eq_false, if_false, ht, h60, and_self, if_true]
  rfl

/-- The start that follows a trip's release: what is loaded and starts afresh before its steps begin. -/
def tripLoaded (s : State) : State := loadStored (freshPlls (restartXds true (clearJob (restartMd (saveLife s)))))

theorem beginStart_trip : beginStart 8 s = setSteps 8 { tripLoaded s with sec := { (saveLife s).sec with fused := (tripLoaded s).sec.fused } } := rfl

theorem tripLoaded_power : (tripLoaded s).power = s.power := by
  have md : ∀ u, (restartMd u).power = u.power := fun _ => rfl
  have job : ∀ u, (clearJob u).power = u.power := fun _ => rfl
  have xds : ∀ u, (restartXds true u).power = u.power := fun _ => rfl
  have plls : ∀ u, (freshPlls u).power = u.power := fun _ => rfl
  have stored : ∀ u, (loadStored u).power = u.power := fun _ => rfl
  rw [tripLoaded, stored, plls, xds, job, md]
  rfl

theorem beginStart_trip_fields : (beginStart 8 s).power = s.power ∧ (beginStart 8 s).startup.steps = [4, 5, 6, 7, 8, 9, 10, 11] := by
  have power : ∀ u, (setSteps 8 u).power = u.power := fun _ => rfl
  have steps : ∀ u, (setSteps 8 u).startup.steps = [4, 5, 6, 7, 8, 9, 10, 11] := fun _ => rfl
  rw [beginStart_trip, power]
  exact ⟨tripLoaded_power, steps _⟩

theorem tripRelease_fields (ht : s.power.tripped = true) (h60 : 60 ≤ releaseTimer s) : (tripRelease 1 s).2.power.tripped = false ∧
    (tripRelease 1 s).2.power.thermtripN = false ∧ (tripRelease 1 s).2.power.pin = false ∧ (tripRelease 1 s).2.power.pstate = 1 ∧
    (tripRelease 1 s).2.startup.steps = [4, 5, 6, 7, 8, 9, 10, 11] := by
  obtain ⟨power, steps⟩ := beginStart_trip_fields (s := releaseTrip s)
  rw [tripRelease_released ht h60]
  generalize beginStart 8 (releaseTrip s) = v at power steps
  have told := (setPState_reported (n := 1) (s := v)).workStands
  rw [told.power, told.startup]
  exact ⟨congrArg Power.tripped power, congrArg Power.thermtripN power, congrArg Power.pin power, rfl, steps⟩

end

/-- Settles O40. An accepted write (`rules_of_accepted`) takes the effect that its object names. -/
theorem modeWrites : Obligations.ModeWrites := by
  intro m b s hr
  refine ⟨fun hc hp => ?enter, fun hc hp => ?wake, fun hc => ?test, fun hc => ?loopbacks,
    fun p u hp => ⟨fun h hn => ?on, fun h hy => ?carrying, fun h => ?off⟩,
    fun hc => ?eLoopback, fun hc => ?release, fun hc => ?caution⟩
  case enter =>
    have entered : exec (.enterBrumate m) s = .next (odSet 0x2A20 1 2 (enterBrumate (setResp m 0 [] s)).2) :=
      congrArg Host.Outcome.next (dictWrite_brumate hr hc)
    rw [enterBrumate_allowed (enterBrumate_accepted hc) hp] at entered
    have fields := toBrumate_fields (s := setResp m 0 [] s)
    generalize toBrumate (setResp m 0 [] s) = v at entered fields
    exact ⟨_, entered, fields⟩
  case wake =>
    have woken : exec (.leaveBrumate m) s = .next (odSet 0x2A20 1 0 (leaveBrumate (setResp m 0 [] s)).2) :=
      congrArg Host.Outcome.next (dictWrite_brumate hr hc)
    have fields := leaveBrumate_fields (s := setResp m 0 [] s) hp
    generalize leaveBrumate (setResp m 0 [] s) = v at woken fields
    exact ⟨_, woken, fields⟩
  case test =>
    have fields := enterTestMode_fields (s := setResp m 0 [] s)
    have entered : exec (.testModeEnter m b) s = .next (enterTestMode (setResp m 0 [] s)) := congrArg Host.Outcome.next (dictWrite_testMode hr hc)
    generalize enterTestMode (setResp m 0 [] s) = v at entered fields
    exact ⟨_, entered, fields⟩
  case loopbacks =>
    have free : ∀ p < 32, bitAt (ofLE b) p = true → (s.port p).role ≠ 1 := fun p hp hb => role_of_accepted hc hp hb
    have written : exec (.loopbackPortsWrite m b) s = .next (writeLoopbacks (ofLE b) (setResp m 0 [] s)) :=
      congrArg Host.Outcome.next (dictWrite_loopbacks hr hc)
    obtain ⟨od, mem, cores, -⟩ := writeLoopbacks_rolesStand (v := ofLE b) (s := setResp m 0 [] s) free
    have same := writeLoopbacks_same (v := ofLE b) (s := setResp m 0 [] s)
    generalize writeLoopbacks (ofLE b) (setResp m 0 [] s) = v at written od mem cores same
    exact ⟨_, written, od, mem, cores, same⟩
  case on =>
    obtain ⟨port, others⟩ := setLoopback_on_idle hp h hn
    rw [port]
    exact ⟨rfl, rfl, rfl, others⟩
  case carrying =>
    obtain ⟨down, reason, looping⟩ := setLoopback_on_carrying hp h hy
    exact ⟨carries_of_pstate down, reason, looping⟩
  case off =>
    obtain ⟨port, others⟩ := setLoopback_off_port hp h
    rw [port]
    exact ⟨rfl, rfl, rfl, others⟩
  case eLoopback => exact congrArg Host.Outcome.next (dictWrite_eLoopback hr hc)
  case release =>
    obtain ⟨one, tripped, waited⟩ := tripRelease_accepted hc
    have written := dictWrite_tripRelease hr hc
    rw [one] at written
    have released : exec (.tripRelease m b) s = .next (tripRelease 1 (setResp m 0 [] s)).2 := congrArg Host.Outcome.next written
    have fields := tripRelease_fields (s := setResp m 0 [] s) tripped waited
    generalize tripRelease 1 (setResp m 0 [] s) = v at released fields
    exact ⟨_, released, fields⟩
  case caution =>
    obtain ⟨one, allowed⟩ := cautiousAck_accepted hc
    have written := dictWrite_cautiousAck hr hc
    rw [one] at written
    exact congrArg Host.Outcome.next (written.trans (cautiousAck_allowed (s := setResp m 0 [] s) allowed))

end Sys2Proof.Machine

/-! SUPPORT. Power, sensors, clamps and trips (R423 to R442). -/

namespace Sys2Proof.Machine

section
variable {s t : State} {i j k n : Nat} {x : Int} {f : Sensor → Sensor} {code : Nat} {bytes : List Nat} {c : Bool}

theorem emcySend_reported : Reported s (emcySend c code bytes s) := by
  unfold emcySend
  split
  · split <;> exact ⟨_, _, rfl⟩
  · split <;> exact ⟨_, _, rfl⟩

theorem Reported.power (h : Reported s t) : t.power = s.power := by obtain ⟨m, o, rfl⟩ := h; rfl

/-! ## The pin and the ceilings (R426 to R429) -/

theorem pinCheck_obeyed (hl : s.power.pinLow = true) (hp : s.power.pin = false) (ho : pinObeyed s = true) :
    Reported { s with power := { s.power with pin := true, pinCeil := 4 } } (pinCheck s) := by
  unfold pinCheck
  rw [if_pos (by simp [hl, hp, ho])]
  exact emcy_reported

/-- The check of the pin leaves the measurements and memory. -/
theorem pinCheck_kept : (pinCheck s).power.lastWatts = s.power.lastWatts ∧ (pinCheck s).power.samples = s.power.samples ∧
    (pinCheck s).mem = s.mem := by
  unfold pinCheck
  split
  · dsimp only
    rw [emcy_reported.power, emcy_reported.mem]
    exact ⟨rfl, rfl, rfl⟩
  · exact ⟨rfl, rfl, rfl⟩

theorem nextFreeWord_kept : (nextFreeWord s).2.power = s.power ∧ (nextFreeWord s).2.mem = s.mem := ⟨rfl, rfl⟩

theorem limiterCheck_fault (h : 2 * odGet s 0x2A00 2 + 50 < n) : ∃ t, exec (.limiterCheck n false) s = .next t ∧ t.power.limiterFault = true ∧
    t.power.clamp = true ∧ t.mem = s.mem := by
  refine ⟨_, congrArg Host.Outcome.next (if_pos ⟨h, rfl⟩), ?_⟩
  dsimp only
  split
  · rw [emcy_reported.power, emcy_reported.mem]
    exact ⟨rfl, rfl, rfl⟩
  · rw [emcy_reported.power, emcy_reported.mem, nextFreeWord_kept.1, nextFreeWord_kept.2, emcy_reported.power, emcy_reported.mem]
    exact ⟨rfl, rfl, rfl⟩

/-! ## Sensors (R434 to R436) -/

theorem sensor_modSensor_same (h : i < s.power.sensors.length) : (s.modSensor i f).sensor i = f (s.sensor i) := getD_modify_same h

/-- From `s` to `t` sensors have sampled and their readings been followed: what sensor `i` judges by, and what a trip and a clamp need, stand. -/
structure Sampled (i : Nat) (s t : State) : Prop where
  mem : t.mem = s.mem
  od : t.od = s.od
  mgmt : t.mgmt = s.mgmt
  length : t.power.sensors.length = s.power.sensors.length
  temp : (t.sensor i).temp = (s.sensor i).temp
  rate : (t.sensor i).rate = (s.sensor i).rate
  prev : (t.sensor i).prev = (s.sensor i).prev
  crossed : (t.sensor i).crossed = (s.sensor i).crossed
  tripped : t.power.tripped = s.power.tripped
  tripping : t.power.tripping = s.power.tripping
  clamp : t.power.clamp = s.power.clamp

namespace Sampled

variable {u : State}

theorem refl : Sampled i s s := ⟨rfl, rfl, rfl, rfl, rfl, rfl, rfl, rfl, rfl, rfl, rfl⟩

theorem trans (h : Sampled i s t) (g : Sampled i t u) : Sampled i s u :=
  ⟨g.mem.trans h.mem, g.od.trans h.od, g.mgmt.trans h.mgmt, g.length.trans h.length, g.temp.trans h.temp, g.rate.trans h.rate,
    g.prev.trans h.prev, g.crossed.trans h.crossed, g.tripped.trans h.tripped, g.tripping.trans h.tripping, g.clamp.trans h.clamp⟩

theorem foldl {α : Type} {g : State → α → State} {l : List α} (h : ∀ t a, Sampled i t (g t a)) : Sampled i s (l.foldl g s) :=
  List.foldlRecOn l g (motive := Sampled i s) refl fun t ht a _ => ht.trans (h t a)

end Sampled

/-- A change of a sensor that leaves its reading and its thresholds. -/
theorem modSensor_sampled (hf : ∀ y, (f y).temp = y.temp ∧ (f y).rate = y.rate ∧ (f y).prev = y.prev ∧ (f y).crossed = y.crossed) :
    Sampled i s (s.modSensor j f) := by
  by_cases hj : j = i
  · subst hj
    by_cases hl : j < s.power.sensors.length
    · obtain ⟨temp, rate, prev, crossed⟩ := hf (s.sensor j)
      refine ⟨rfl, rfl, rfl, List.length_modify .., ?_, ?_, ?_, ?_, rfl, rfl, rfl⟩ <;> rw [sensor_modSensor_same hl] <;> assumption
    · have same : s.modSensor j f = s := by rw [State.modSensor, List.modify_eq_self (Nat.le_of_not_lt hl)]
      rw [same]
      exact .refl
  · have same : (s.modSensor j f).sensor i = s.sensor i := getD_modify_other hj
    exact ⟨rfl, rfl, rfl, List.length_modify .., by rw [same], by rw [same], by rw [same], by rw [same], rfl, rfl, rfl⟩

theorem followLayers_sampled : Sampled i s (followLayers j s) := ⟨rfl, rfl, rfl, rfl, rfl, rfl, rfl, rfl, rfl, rfl, rfl⟩

theorem followPeak_sampled : Sampled i s (followPeak s) := by
  unfold followPeak
  dsimp only
  split <;> split <;> exact ⟨rfl, rfl, rfl, rfl, rfl, rfl, rfl, rfl, rfl, rfl, rfl⟩

theorem followRelease_sampled : Sampled i s (followRelease s) := by
  unfold followRelease
  split
  · exact ⟨rfl, rfl, rfl, rfl, rfl, rfl, rfl, rfl, rfl, rfl, rfl⟩
  · exact .refl

/-- A sample is taken, its rate called for, and what follows it followed; then it is judged. -/
theorem exec_sensorSample : ∃ u, Sampled i (s.modSensor i (takeSample x n)) u ∧ exec (.sensorSample i x n) s = .next (judgeSample i u) := by
  refine ⟨_, ?_, rfl⟩
  have raised : ∀ (u : State) (want : Nat), Sampled i u ((rateGroup i).foldl (fun t j => t.modSensor j fun y => { y with srate := max y.srate want }) u) :=
    fun u want => .foldl fun t j => modSensor_sampled fun _ => ⟨rfl, rfl, rfl, rfl⟩
  refine ((raised (s.modSensor i (takeSample x n)) (rateCalled (s.modSensor i (takeSample x n)) i)).trans ?_).trans followRelease_sampled
  split
  · exact followLayers_sampled
  · split
    · exact followPeak_sampled
    · exact .refl

/-! ## Crossings (R436, R438) -/

/-- A crossing reports, clamps, or declares a trip: memory, the sensors and a trip that stands are left. -/
structure Alarmed (s t : State) : Prop where
  mem : t.mem = s.mem
  sensors : t.power.sensors = s.power.sensors
  tripped : t.power.tripped = s.power.tripped
  trip : (t.power.tripping = s.power.tripping ∧ t.power.cautious = s.power.cautious) ∨ (t.power.tripping = true ∧ t.power.cautious = true)

theorem Alarmed.refl : Alarmed s s := ⟨rfl, rfl, rfl, .inl ⟨rfl, rfl⟩⟩

theorem Alarmed.trans {u : State} (h : Alarmed s t) (g : Alarmed t u) : Alarmed s u where
  mem := g.mem.trans h.mem
  sensors := g.sensors.trans h.sensors
  tripped := g.tripped.trans h.tripped
  trip := by
    obtain ⟨tripping, cautious⟩ | declared := g.trip
    · rw [tripping, cautious]
      exact h.trip
    · exact .inr declared

theorem alarmed_foldl {g : State → Nat → State} {l : List Nat} (h : ∀ t a, Alarmed t (g t a)) : Alarmed s (l.foldl g s) :=
  List.foldlRecOn l g (motive := Alarmed s) .refl fun t ht a _ => ht.trans (h t a)

theorem Reported.alarmed (h : Reported s t) : Alarmed s t := by
  obtain ⟨m, o, rfl⟩ := h
  exact ⟨rfl, rfl, rfl, .inl ⟨rfl, rfl⟩⟩

theorem clampFor_alarmed : Alarmed s (clampFor i k s) :=
  .trans (t := { s with power := { s.power with clamp := true } }) ⟨rfl, rfl, rfl, .inl ⟨rfl, rfl⟩⟩ emcy_reported.alarmed

/-- What a declared trip sets. -/
def declareTrip (cause : Nat × Nat × Int) (s : State) : State :=
  { s with power := { s.power with tripping := true, tripBy := cause, cautious := true }
           fleet := { s.fleet with trips := s.fleet.trips + 1 } }

theorem tripCrossed_eq : tripCrossed i k s = if s.power.tripped || s.power.tripping then logTrip (tripRecord s i k (s.sensor i).temp (s.sensor i).rate) s
    else leave (declareTrip (i, k, (s.sensor i).temp) (logTrip (tripRecord s i k (s.sensor i).temp (s.sensor i).rate) s)) := rfl

theorem logTrip_alarmed {r : TripRec} : Alarmed s (logTrip r s) := ⟨rfl, rfl, rfl, .inl ⟨rfl, rfl⟩⟩

theorem leave_alarmed : Alarmed s (leave s) :=
  have left := leave_workStands (s := s)
  ⟨left.mem, congrArg Power.sensors left.power, congrArg Power.tripped left.power,
    .inl ⟨congrArg Power.tripping left.power, congrArg Power.cautious left.power⟩⟩

theorem declareTrip_alarmed {cause : Nat × Nat × Int} : Alarmed s (declareTrip cause s) := ⟨rfl, rfl, rfl, .inr ⟨rfl, rfl⟩⟩

theorem tripCrossed_alarmed : Alarmed s (tripCrossed i k s) := by
  rw [tripCrossed_eq]
  split
  · exact logTrip_alarmed
  · exact (logTrip_alarmed.trans declareTrip_alarmed).trans leave_alarmed

/-- A trip threshold that is crossed declares a trip, where none runs or stands. -/
theorem tripCrossed_declares (h : s.power.tripped = false) (hr : s.power.tripping = false) :
    (tripCrossed i k s).power.tripping = true ∧ (tripCrossed i k s).power.cautious = true := by
  rw [tripCrossed_eq, if_neg (by simp [h, hr]), leave_workStands.power]
  exact ⟨rfl, rfl⟩

theorem onCrossing_alarmed : Alarmed s (onCrossing i k s) := by
  unfold onCrossing
  split
  · exact emcy_reported.alarmed
  · exact emcy_reported.alarmed
  · exact clampFor_alarmed
  · exact clampFor_alarmed
  · exact tripCrossed_alarmed
  · exact tripCrossed_alarmed

/-- Crossings that hold the trip level among them leave a trip declared. -/
theorem crossings_trip {l : List Nat} (hl : 2 ∈ l) (h : s.power.tripped = false) (hr : s.power.tripping = false) :
    (l.foldl (fun t k => onCrossing i k t) s).power.tripping = true ∧ (l.foldl (fun t k => onCrossing i k t) s).power.cautious = true := by
  obtain ⟨l₁, l₂, rfl⟩ := List.append_of_mem hl
  rw [List.foldl_append, List.foldl_cons]
  have before : Alarmed s (l₁.foldl (fun t k => onCrossing i k t) s) := alarmed_foldl fun _ _ => onCrossing_alarmed
  generalize l₁.foldl (fun t k => onCrossing i k t) s = u at before
  have declared : (onCrossing i 2 u).power.tripping = true ∧ (onCrossing i 2 u).power.cautious = true := by
    obtain ⟨tripping, -⟩ | declared := before.trip
    · exact tripCrossed_declares (before.tripped.trans h) (tripping.trans hr)
    · obtain ⟨tripping, cautious⟩ | again := (onCrossing_alarmed (s := u) (i := i) (k := 2)).trip
      · rwa [tripping, cautious]
      · exact again
  generalize onCrossing i 2 u = v at declared
  obtain ⟨tripping, cautious⟩ | again := (alarmed_foldl (s := v) (l := l₂) fun _ _ => onCrossing_alarmed (i := i)).trip
  · rwa [tripping, cautious]
  · exact again

/-! ## A sample judged -/

/-- Thresholds that the sample in hand crosses, in the order in which they act. -/
def crossings (i : Nat) (s : State) : List Nat :=
  [0, 3, 1, 4, 2, 5].filter fun k => ((standing s i).getD k false && (s.sensor i).prev.getD k false) && !(s.sensor i).crossed.getD k false

/-- What a sensor keeps of its judgement. -/
def noteStanding (i : Nat) (s : State) (y : Sensor) : Sensor :=
  { y with prev := standing s i, crossed := (List.range 6).map fun k =>
      ((standing s i).getD k false && (s.sensor i).prev.getD k false) || (k != 2 && k != 5 && (s.sensor i).crossed.getD k false) }

theorem judgeSample_eq : judgeSample i s =
    setAlert ((crossings i s).foldl (fun t k => onCrossing i k t) (s.modSensor i (noteStanding i s))) := rfl

theorem setAlert_alarmed : Alarmed s (setAlert s) := ⟨rfl, rfl, rfl, .inl ⟨rfl, rfl⟩⟩

theorem judgeSample_alarmed : Alarmed (s.modSensor i (noteStanding i s)) (judgeSample i s) := by
  rw [judgeSample_eq]
  exact (alarmed_foldl fun _ _ => onCrossing_alarmed).trans setAlert_alarmed

theorem judgeSample_temp (hi : i < s.power.sensors.length) : ((judgeSample i s).sensor i).temp = (s.sensor i).temp := by
  have judged : (judgeSample i s).sensor i = (s.modSensor i (noteStanding i s)).sensor i := by
    rw [State.sensor, judgeSample_alarmed.sensors]
    rfl
  rw [judged, sensor_modSensor_same hi]
  rfl

/-- The trip level at the second sample running declares a trip. -/
theorem judgeSample_trips (hx : level s i 6 ≤ (s.sensor i).temp) (hp : (s.sensor i).prev.getD 2 false = true)
    (hc : (s.sensor i).crossed.getD 2 false = false) (h : s.power.tripped = false) (hr : s.power.tripping = false) :
    (judgeSample i s).power.tripping = true ∧ (judgeSample i s).power.cautious = true := by
  have stands : (standing s i).getD 2 false = true := decide_eq_true hx
  have crossed : 2 ∈ crossings i s := List.mem_filter.2 ⟨by decide, by rw [stands, hp, hc]; rfl⟩
  exact crossings_trip (s := s.modSensor i (noteStanding i s)) crossed h hr

/-- A sample below every threshold reports nothing. -/
theorem judgeSample_quiet (h6 : (s.sensor i).temp < level s i 6) (h5 : (s.sensor i).temp < level s i 5) (h4 : (s.sensor i).temp < level s i 4)
    (r1 : (s.sensor i).rate < rateAt s i 1) (r2 : (s.sensor i).rate < rateAt s i 2) (r3 : (s.sensor i).rate < rateAt s i 3) :
    judgeSample i s = setAlert (s.modSensor i (noteStanding i s)) := by
  have below : standing s i = [false, false, false, false, false, false] := by
    simp only [standing, List.cons.injEq, decide_eq_false_iff_not, Int.not_le, and_true]
    exact ⟨h4, h5, h6, r1, r2, r3⟩
  have none : crossings i s = [] := by simp [crossings, below]
  rw [judgeSample_eq, none]
  rfl

theorem level_congr {m : Nat} (h : t.od = s.od) : level t i m = level s i m := by rw [level, level, odGet, odGet, h]

theorem rateAt_congr {m : Nat} (h : t.od = s.od) : rateAt t i m = rateAt s i m := by rw [rateAt, rateAt, odGet, odGet, h]

/-- The first sample of a sensor has no rate. -/
theorem takeSample_first {y : Sensor} (h : y.hist = []) : (takeSample x n y).rate = 0 := by rw [takeSample, h]; rfl

theorem exec_sampleRateLower (h : 208 ≤ i) :
    exec (.sampleRateLower i) s = .next (s.modSensor i fun y => { y with srate := min y.srate (rateCalled s i) }) := by
  have alone : rateGroup i = [i] := if_neg (by omega)
  show execSampleRateLower i s = _
  simp only [execSampleRateLower, alone, List.map_cons, List.map_nil, List.foldl_cons, List.foldl_nil, Nat.zero_max]

/-! ## The end of a clamp (R436) -/

/-- The clamp ends: act conditions stand no longer, and the ceiling stays within half a step. -/
def endClamp (s : State) : State :=
  setAlert { s with power := { s.power with clamp := false, slewCeil := min s.power.slewCeil 9,
                                            sensors := s.power.sensors.map fun y => { y with crossed := (y.crossed.set 1 false).set 4 false } } }

theorem exec_clampEnd (h : s.power.clamp = true)
    (calm : ∀ i < 261, (s.sensor i).temp < level s i 5 - 500 ∧ (s.sensor i).rate ≤ rateAt s i 1) :
    ∃ b, exec .clampEnd s = .next (emcy 0xFF24 b (endClamp s)) := by
  have all : ((List.range 261).all fun i => decide ((s.sensor i).temp < level s i 5 - 500) && decide ((s.sensor i).rate ≤ rateAt s i 1)) = true :=
    List.all_eq_true.2 fun i hi => by
      obtain ⟨temp, rate⟩ := calm i (List.mem_range.1 hi)
      simp [temp, rate]
  exact ⟨_, congrArg Host.Outcome.next (if_pos (by rw [h, all]; rfl))⟩

/-! ## The power-down of a trip (R438) -/

theorem setHandle_power {h st res : Nat} : (setHandle h st res s).power = s.power := setHandle_reported.power

theorem endLaunch_power {h st res : Nat} : (endLaunch h st res s).power = s.power := by
  unfold endLaunch
  dsimp only
  rw [setHandle_power]
  split <;> rfl

theorem failLaunches_power : (failLaunches s).power = s.power :=
  List.foldlRecOn (List.range 64) _ (motive := fun t : State => t.power = s.power) rfl fun t ht i _ => by
    dsimp only
    split
    · exact ht
    · split
      · exact endLaunch_power.trans ht
      · split
        · exact endLaunch_power.trans ht
        · exact ht

theorem stopCompute_power : (stopCompute s).power = s.power := by
  have ended : (endCores 0x10 s).power = s.power := (endWork_workStands (hit := fun k => k.mode != .off)).power
  have cut : ∀ u : State, (cutCompute u).power = u.power := fun _ => rfl
  unfold stopCompute
  dsimp only
  rw [cut, failLaunches_power, ended]

/-- Light goes, the trip is told, and the data planes stop. -/
def tripDark (s : State) : State :=
  emcySend true 0xFF23 ([s.power.tripBy.1 % 256, s.power.tripBy.1 / 256, s.power.tripBy.2.1] ++ word2 s.power.tripBy.2.2)
    (darkEports [0, 1, 2, 3] ((List.range 32).foldl (fun t p => quietPort 0 p t) { s with power := { s.power with thermtripN := true } }))

def tripStopped (s : State) : State :=
  unreadStraps [0, 1, 2, 3, 4, 5, 6, 7] (stopForwarding 0 false (cutHbm (forceSafeOp 0x8003 (stopCompute s))))

theorem exec_tripPowerDown (h : s.power.tripping = true) : exec .tripPowerDown s = .next (setPState 4 (followRelease { tripStopped (tripDark s) with
    power := { (tripStopped (tripDark s)).power with tripping := false, tripped := true }, startup := tripStart (tripStopped (tripDark s)).startup })) := by
  show execTripPowerDown s = _
  simp only [execTripPowerDown, h, Bool.true_eq_false, if_false, tripDark, tripStopped]

theorem tripDark_power : (tripDark s).power = { s.power with thermtripN := true } := by
  have dark : WorkStands { s with power := { s.power with thermtripN := true } } (darkEports [0, 1, 2, 3]
      ((List.range 32).foldl (fun t p => quietPort 0 p t) { s with power := { s.power with thermtripN := true } })) :=
    darkEports_workStands.after (.foldl fun _ _ => quietPort_workStands)
  rw [tripDark, emcySend_reported.power, dark.power]

theorem tripStopped_fields : (tripStopped s).power = s.power ∧ (tripStopped s).fab.fwd = 0 ∧ (tripStopped s).cores = List.replicate 160 {} ∧
    (tripStopped s).startup.computeUp = false := by
  obtain ⟨cores, computeUp⟩ := stopCompute_stopped (s := s)
  have power := stopCompute_power (s := s)
  unfold tripStopped
  generalize stopCompute s = u at cores computeUp power
  have forced := (forceSafeOp_reported (n := 0x8003) (s := u)).workStands
  generalize forceSafeOp 0x8003 u = v at forced
  have stopped := stopForwarding_quiet_workStands (st := 0) (s := cutHbm v)
  generalize stopForwarding 0 false (cutHbm v) = w at stopped
  exact ⟨stopped.power.trans (forced.power.trans power), stopped.fwd, stopped.cores.trans (forced.cores.trans cores),
    (congrArg Startup.computeUp stopped.startup).trans ((congrArg Startup.computeUp forced.startup).trans computeUp)⟩

theorem followRelease_fields : (followRelease s).power.tripping = s.power.tripping ∧ (followRelease s).power.tripped = s.power.tripped ∧
    (followRelease s).power.thermtripN = s.power.thermtripN ∧ (followRelease s).fab = s.fab ∧ (followRelease s).cores = s.cores ∧
    (followRelease s).startup = s.startup := by
  unfold followRelease
  split <;> exact ⟨rfl, rfl, rfl, rfl, rfl, rfl⟩

theorem tripPowerDown_fields (h : s.power.tripping = true) : ∃ t, exec .tripPowerDown s = .next t ∧ t.power.tripped = true ∧
    t.power.tripping = false ∧ t.power.thermtripN = true ∧ t.power.pstate = 4 ∧ t.fab.fwd = 0 ∧ t.cores = List.replicate 160 {} ∧
    t.startup.steps = [] ∧ t.startup.computeUp = false := by
  obtain ⟨power, fwd, cores, computeUp⟩ := tripStopped_fields (s := tripDark s)
  rw [tripDark_power] at power
  have step := exec_tripPowerDown h
  generalize tripStopped (tripDark s) = u at power fwd cores computeUp step
  obtain ⟨tripping, tripped, therm, fab, held, startup⟩ := followRelease_fields (s := { u with
    power := { u.power with tripping := false, tripped := true }, startup := tripStart u.startup })
  generalize followRelease { u with power := { u.power with tripping := false, tripped := true }, startup := tripStart u.startup } = v
    at tripping tripped therm fab held startup step
  have asleep := (setPState_reported (n := 4) (s := v)).workStands
  refine ⟨_, step, ?_⟩
  generalize setPState 4 v = t at asleep
  rw [asleep.power, asleep.fwd, asleep.cores, asleep.startup, startup]
  exact ⟨tripped, tripping, therm.trans (congrArg Power.thermtripN power), rfl, (congrArg Fabric.fwd fab).trans fwd, held.trans cores, rfl, computeUp⟩

end

/-- Settles O58. Each command changes the power state as its rule says; what it reports leaves that state (`emcy_reported`). -/
theorem powerAndHeat : Obligations.PowerAndHeat := by
  refine ⟨fun s w => ?sample, fun s => ⟨fun hc hm h1 => ?lower, fun ha h97 ht h16 hm => ?raise⟩, fun s b => rfl,
    fun s r => ⟨limiterCheck_fault, fun h x => ?limit⟩,
    fun s hp => ⟨fun ho => ?obeyed, fun ho => ?ignored⟩, fun s hp => congrArg Host.Outcome.next (if_neg hp),
    fun s hp => ?release, fun s hc calm => ?clampEnds,
    fun s i n x hi => ?sensor, fun s i h208 hi => ?lowered, fun s i hi ht hr => ?warn,
    fun s h => tripPowerDown_fields h, fun s hp hu hb => ?bask, fun s hp => ?wake⟩
  case sample =>
    obtain ⟨watts, samples, mem⟩ := pinCheck_kept (s := { s with power := { s.power with samples := (w :: s.power.samples).take 100, lastWatts := w } })
    exact ⟨_, rfl, watts, samples, mem⟩
  case lower => exact congrArg Host.Outcome.next ((if_pos hc).trans (if_pos (by simp [hm, h1])))
  case raise =>
    exact congrArg Host.Outcome.next ((if_neg (Nat.not_lt.2 ha)).trans ((if_pos ⟨h97, ht⟩).trans (if_pos (by simp [hm, h16]))))
  case limit => exact congrArg Host.Outcome.next (if_neg fun fault => Nat.not_lt.2 h fault.1)
  case obeyed =>
    obtain ⟨m, o, held⟩ := pinCheck_obeyed (s := { s with power := { s.power with pinLow := true } }) rfl hp ho
    exact ⟨_, congrArg Host.Outcome.next held, rfl, rfl, rfl⟩
  case ignored =>
    have idle : ¬(true && !s.power.pin && pinObeyed s) = true := by simp [ho]
    exact congrArg Host.Outcome.next (if_neg idle)
  case release =>
    refine ⟨_, congrArg Host.Outcome.next (if_pos hp), ?_⟩
    dsimp only
    rw [emcy_reported.power]
    exact ⟨rfl, rfl, rfl, rfl⟩
  case clampEnds =>
    obtain ⟨b, step⟩ := exec_clampEnd hc calm
    refine ⟨_, step, ?_⟩
    rw [emcy_reported.power, emcy_reported.mem]
    exact ⟨rfl, rfl, rfl⟩
  case sensor =>
    obtain ⟨u, sampled, step⟩ := exec_sensorSample (s := s) (i := i) (x := x) (n := n)
    have taken : (s.modSensor i (takeSample x n)).sensor i = takeSample x n (s.sensor i) := sensor_modSensor_same hi
    obtain ⟨mem, od, mgmt, length, temp, rate, prev, crossed, tripped, tripping, clamp⟩ := sampled
    rw [taken] at temp rate prev crossed
    change (u.sensor i).temp = x at temp
    change (u.sensor i).prev = (s.sensor i).prev at prev
    change (u.sensor i).crossed = (s.sensor i).crossed at crossed
    have levels : ∀ k, level u i k = level s i k := fun k => level_congr od
    have rates : ∀ k, rateAt u i k = rateAt s i k := fun k => rateAt_congr od
    have there : i < u.power.sensors.length := by rw [length]; exact (List.length_modify ..).symm ▸ hi
    refine ⟨_, step, (judgeSample_temp there).trans temp, judgeSample_alarmed.mem.trans mem, fun h6 hp hc ht hr => ?_,
      fun h6 h5 h4 hh r1 r2 r3 => ?_⟩
    · exact judgeSample_trips (by rw [levels, temp]; exact h6) (by rw [prev]; exact hp) (by rw [crossed]; exact hc) (tripped.trans ht) (tripping.trans hr)
    · rw [takeSample_first hh] at rate
      rw [judgeSample_quiet (by rwa [levels, temp]) (by rwa [levels, temp]) (by rwa [levels, temp]) (by rwa [rates, rate]) (by rwa [rates, rate])
        (by rwa [rates, rate])]
      exact ⟨mgmt, tripping, clamp⟩
  case lowered =>
    refine ⟨_, exec_sampleRateLower h208, ?_, rfl⟩
    rw [sensor_modSensor_same hi]
  case warn =>
    refine ⟨_, congrArg Host.Outcome.next (if_pos ⟨ht, hr⟩), ?_, rfl⟩
    show ((s.modSensor i fun y => { y with crossed := (y.crossed.set 0 false).set 3 false }).sensor i).crossed = _
    rw [sensor_modSensor_same hi]
  case bask =>
    exact congrArg Host.Outcome.next ((if_pos ⟨hp, hu, hb⟩).trans (if_neg (by rw [hp]; decide)))
  case wake =>
    obtain ⟨m, o, woken⟩ := setPState_reported (n := 1) (s := { s with fab := { s.fab with
      fwd := (if forwardOk s then (if inRange s.fab.shape s.fab.coord && odGet s 0x2400 2 != 0 then 1 else 3) else 0) } })
    exact ⟨_, congrArg Host.Outcome.next ((if_neg (not_not_intro hp)).trans woken), rfl, rfl, rfl, rfl⟩

end Sys2Proof.Machine

/-! SUPPORT. Shadow comparisons (R472 to R474, R477). -/

namespace Sys2Proof.Machine

/-! ## Reading memory leaves the handles -/

/-- From `s` to `t` the handles stand. -/
def HandlesStand (s t : State) : Prop := t.handles = s.handles

namespace HandlesStand

variable {s t u : State}

theorem refl : HandlesStand s s := rfl

theorem trans (h : HandlesStand s t) (k : HandlesStand t u) : HandlesStand s u := Eq.trans k h

/-- The same, the later step first: from it the state between is known. -/
theorem after (k : HandlesStand t u) (h : HandlesStand s t) : HandlesStand s u := h.trans k

theorem ite {c : Prop} [Decidable c] (h : HandlesStand s t) (k : HandlesStand s u) : HandlesStand s (if c then t else u) := by
  split
  · exact h
  · exact k

theorem foldl {α : Type} {f : State → α → State} {l : List α} (h : ∀ t a, HandlesStand t (f t a)) : HandlesStand s (l.foldl f s) :=
  List.foldlRecOn l f (motive := HandlesStand s) refl fun t ht a _ => ht.trans (h t a)

end HandlesStand

section
variable {s t u : State} {l n c h : Nat} {us : List Nat} {o : ShadowOp} {own theirs b : List Byte}

theorem noteCorrected_handlesStand {key b0 b1 : Nat} : HandlesStand s (noteCorrected key b0 b1 s) :=
  .ite rfl (.ite rfl (emcy_reported.handles.trans rfl))

theorem recordRow_handlesStand : HandlesStand s (recordRow c n s) :=
  .ite .refl (.ite (emcy_reported.handles.trans rfl) (emcy_reported.handles.trans rfl))

theorem noteNear_handlesStand : HandlesStand s (noteNear l c n s) := .ite (recordRow_handlesStand.after rfl) rfl

theorem countCorrected_handlesStand : HandlesStand s (countCorrected l n s) := by
  unfold countCorrected
  refine .ite .refl ?_
  split
  case h_1 => exact .after (.foldl fun _ _ => noteCorrected_handlesStand) rfl
  case h_2 => exact noteNear_handlesStand.after (noteCorrected_handlesStand.after rfl)
  case h_3 => exact .after (.foldl fun _ _ => noteCorrected_handlesStand) rfl
  case h_4 => exact .refl

theorem countUncorrected_handlesStand : HandlesStand s (countUncorrected l us s) := by
  unfold countUncorrected
  extract_lets counted
  split
  case h_1 => exact emcy_reported.handles.trans rfl
  case h_2 => exact recordRow_handlesStand.after (emcy_reported.handles.trans rfl)
  case h_3 => exact emcy_reported.handles.trans rfl
  case h_4 => rfl

theorem readUnits_handlesStand : HandlesStand s (readUnits l us s).2 := by
  unfold readUnits
  extract_lets bad corrected uncorrected
  have counted : HandlesStand s corrected := countCorrected_handlesStand
  have lost : HandlesStand s uncorrected := counted.trans countUncorrected_handlesStand
  split
  · exact counted
  · exact lost.trans rfl

theorem touchRead_handlesStand {spans : List (Nat × Nat)} : HandlesStand s (touchRead spans s).2 :=
  List.foldlRecOn _ _ (motive := fun a : Bool × State => HandlesStand s a.2) .refl fun _ hs _ _ => hs.trans readUnits_handlesStand

theorem touchRead_dataStands {spans : List (Nat × Nat)} : DataStands s (touchRead spans s).2 :=
  List.foldlRecOn _ _ (motive := fun a : Bool × State => DataStands s a.2) .refl fun _ hs _ _ => hs.trans readUnits_dataStands

/-! ## Sending and comparing the tables of a step -/

theorem sendTable_stands : Stands s (sendTable o n s) := by
  unfold sendTable
  split
  · exact .refl
  · exact sendRaw_stands

theorem handle_of_handles (hs : t.handles = s.handles) : t.handle h = s.handle h := by rw [State.handle, State.handle, hs]

/-- A table that is missing is waited for. -/
theorem compareStep_waits (hh : (s.handle h).shadow = some o) (hm : aget n o.own = none ∨ aget n o.theirs = none) : compareStep h n s = s := by
  unfold compareStep
  rw [hh]
  dsimp only
  obtain hm | hm := hm
  · rw [hm]
  · rw [hm]
    cases aget n o.own <;> rfl

/-- Both tables are there, and the step has not been judged. -/
structure Comparable (h n : Nat) (o : ShadowOp) (own theirs : List Byte) (s : State) : Prop where
  shadow : (s.handle h).shadow = some o
  state : (s.handle h).state = 2
  inRange : h - 1 < s.handles.length
  own : aget n o.own = some own
  theirs : aget n o.theirs = some theirs
  new : o.judged.contains n = false

theorem Comparable.undone (hc : Comparable h n o own theirs s) : ¬((s.handle h).state ≠ 2 ∨ o.judged.contains n = true) := by
  rw [hc.state, hc.new]
  decide

/-- A handle that has ended as it should, whatever is told of it. -/
theorem setHandle_told {st res code : Nat} {bytes : List Nat} (hi : h - 1 < s.handles.length) :
    (emcy code bytes (setHandle h st res s)).handle h = (s.handle h).into st res (calendar s) :=
  (handle_of_handles emcy_reported.handles).trans (setHandle_handle_same hi)

theorem setHandle_told_data {st res code : Nat} {bytes : List Nat} :
    (emcy code bytes (setHandle h st res s)).mem = s.mem ∧ (emcy code bytes (setHandle h st res s)).cores = s.cores :=
  ⟨emcy_reported.mem.trans setHandle_reported.mem, emcy_reported.cores.trans setHandle_reported.cores⟩

/-- A tally that differs fails the comparison, the last step needed ends it done, and any other is counted. -/
theorem compareStep_judges (hc : Comparable h n o own theirs s) :
    (compareStep h n s).mem = s.mem ∧ (compareStep h n s).cores = s.cores ∧ judgedStep h n o own theirs (compareStep h n s) := by
  have inRange : ∀ f : Handle → Handle, h - 1 < (s.modHandle h f).handles.length := fun f => Nat.lt_of_lt_of_eq hc.inRange (List.length_modify ..).symm
  simp only [compareStep, judgedStep, hc.shadow, hc.own, hc.theirs, hc.undone, if_false]
  split
  · obtain ⟨mem, cores⟩ := setHandle_told_data (h := h) (st := 8) (res := 0x0201)
    refine ⟨mem.trans rfl, cores.trans rfl, ?_⟩
    rw [setHandle_told (inRange _)]
    exact ⟨rfl, rfl⟩
  · split
    · obtain ⟨mem, cores⟩ := setHandle_told_data (h := h) (st := 7) (res := 0)
      refine ⟨mem.trans rfl, cores.trans rfl, ?_⟩
      rw [setHandle_told (inRange _)]
      exact ⟨rfl, rfl⟩
    · rw [handle_modHandle_same hc.inRange]
      exact ⟨rfl, rfl, hc.state, _, rfl, rfl, List.mem_cons_self ..⟩

/-- Sending a table first changes nothing that the comparison looks at. -/
theorem Comparable.sent {q : ShadowOp} (hc : Comparable h n o own theirs s) : Comparable h n o own theirs (sendTable q n s) := by
  have handles := (sendTable_stands (s := s) (o := q) (n := n)).handles
  obtain ⟨shadow, state, inRange, own, theirs, new⟩ := hc
  exact ⟨by rw [handle_of_handles handles, shadow], by rw [handle_of_handles handles, state], by rw [handles]; exact inRange, own, theirs, new⟩

theorem sent_judges {q : ShadowOp} (hc : Comparable h n o own theirs s) : (compareStep h n (sendTable q n s)).mem = s.mem ∧
    (compareStep h n (sendTable q n s)).cores = s.cores ∧ judgedStep h n o own theirs (compareStep h n (sendTable q n s)) := by
  obtain ⟨mem, cores, judged⟩ := compareStep_judges (hc.sent (q := q))
  exact ⟨mem.trans sendTable_stands.mem, cores.trans sendTable_stands.cores, judged⟩

/-! ## The commands -/

theorem exec_shadowStep (hh : (s.handle h).shadow = some o) (hr : runs s h 8 = true) (hn : chipEvent s o.ev = n)
    (ho : readBytes s o.table o.size = own) (hu : (touchRead [(o.table, o.size)] s).2 = u) :
    exec (.shadowStep h) s = .next (compareStep h n (sendTable { o with step := n, own := aset n own o.own } n
      (u.modHandle h fun x => { x with shadow := some { o with step := n, own := aset n own o.own } }))) := by
  subst hn ho hu
  show execShadowStep h s = _
  simp only [execShadowStep, hh, hr, Bool.true_eq_false, if_false]

theorem exec_shadowTableReceive {e : Ejected} (hh : (s.handle h).shadow = some o) (he : s.inbox.find? (tableFrom o n b) = some e) :
    exec (.shadowTableReceive h n b) s = .next (compareStep h n (sendTable { o with theirs := aset n b o.theirs } n
      ({ s with inbox := s.inbox.erase e }.modHandle h fun x => { x with shadow := some { o with theirs := aset n b o.theirs } }))) := by
  show execShadowTableReceive h n b s = _
  simp only [execShadowTableReceive, hh, he]

end

/-- Settles O37. A step's tables are compared once both are there (`compareStep_judges`); until then the own one is sent (`compareStep_waits`). -/
theorem shadowComparisons : Obligations.ShadowComparisons := by
  intro s h o hh hk hs hi
  have going : runs s h 8 = true := runs_of hk hs
  refine ⟨fun n bad u own hn hu ho => ⟨fun hno => ?own, fun b hb hj => ?both⟩, fun n b e he => ⟨fun hno => ?theirs, fun own ho hj => ?answered⟩,
    fun hno => ?again, fun hno ho => ?limit⟩
  case own =>
    have read : (touchRead [(o.table, o.size)] s).2 = u := congrArg Prod.snd hu
    have handles : HandlesStand s u := read ▸ touchRead_handlesStand
    have there : h - 1 < u.handles.length := by rw [handles]; exact hi
    rw [exec_shadowStep hh going hn ho read]
    refine congrArg Host.Outcome.next (compareStep_waits (o := { o with step := n, own := aset n own o.own }) ?_ (.inr hno))
    rw [handle_of_handles sendTable_stands.handles, handle_modHandle_same there]
  case both =>
    have read : (touchRead [(o.table, o.size)] s).2 = u := congrArg Prod.snd hu
    have handles : HandlesStand s u := read ▸ touchRead_handlesStand
    have data : DataStands s u := read ▸ touchRead_dataStands
    have there : h - 1 < u.handles.length := by rw [handles]; exact hi
    have ready : Comparable h n { o with step := n, own := aset n own o.own } own b
        (u.modHandle h fun x => { x with shadow := some { o with step := n, own := aset n own o.own } }) := by
      refine ⟨?_, ?_, Nat.lt_of_lt_of_eq there (List.length_modify ..).symm, aget_aset_same, hb, hj⟩ <;> rw [handle_modHandle_same there]
      exact (congrArg Handle.state (handle_of_handles handles)).trans hs
    obtain ⟨mem, cores, judged⟩ := sent_judges (q := { o with step := n, own := aset n own o.own }) ready
    exact ⟨_, exec_shadowStep hh going hn ho read, mem.trans data.mem, cores.trans data.cores, judged⟩
  case theirs =>
    have unsent : ∀ v, sendTable { o with theirs := aset n b o.theirs } n v = v := fun v => by
      unfold sendTable
      rw [show aget n ({ o with theirs := aset n b o.theirs } : ShadowOp).own = none from hno]
    rw [exec_shadowTableReceive hh he, unsent]
    refine congrArg Host.Outcome.next (compareStep_waits (o := { o with theirs := aset n b o.theirs }) ?_ (.inl hno))
    exact congrArg Handle.shadow (handle_modHandle_same (s := { s with inbox := s.inbox.erase e }) hi)
  case answered =>
    have there : h - 1 < ({ s with inbox := s.inbox.erase e } : State).handles.length := hi
    have ready : Comparable h n { o with theirs := aset n b o.theirs } own b
        ({ s with inbox := s.inbox.erase e }.modHandle h fun x => { x with shadow := some { o with theirs := aset n b o.theirs } }) := by
      refine ⟨?_, ?_, Nat.lt_of_lt_of_eq hi (List.length_modify ..).symm, ho, aget_aset_same, hj⟩ <;> rw [handle_modHandle_same there]
      exact hs
    obtain ⟨mem, cores, judged⟩ := sent_judges (q := { o with theirs := aset n b o.theirs }) ready
    exact ⟨_, exec_shadowTableReceive hh he, mem, cores, judged⟩
  case again =>
    show execShadowResendTimer h s = _
    simp [execShadowResendTimer, hh, going, hno]
  case limit =>
    show execShadowStepLimit h s = _
    simp [execShadowStepLimit, partnerLost, hh, going, hno, ho]

end Sys2Proof.Machine

/-! SUPPORT. Fleet records: heartbeats, lost neighbours, windows and the lifetime records (R464, R466 to R468, R471). -/

namespace Sys2Proof.Machine

section
variable {s t u : State} {p k b : Nat} {ls : List Nat} {body : List Nat}

/-! ## Heartbeats (R466) -/

/-- One word of a type for each port of a list without repeats: the ports of the list have it, and the other ports stand. -/
theorem cwSends_port {type : Nat} (hn : ls.Nodup) (hl : ∀ q ∈ ls, q < s.ports.length) :
    (ls.foldl (fun t q => cwSend q type body t) s).port p =
      if p ∈ ls then { s.port p with cwNext := (s.port p).cwNext ++ [(type, body)] } else s.port p := by
  induction ls generalizing s with
  | nil => rfl
  | cons q ls ih =>
    obtain ⟨hq, hn⟩ := List.nodup_cons.1 hn
    rw [List.foldl_cons, ih (s := cwSend q type body s) hn fun r hr => Nat.lt_of_lt_of_eq (hl r (List.mem_cons_of_mem q hr)) modPort_length.symm]
    by_cases h : p = q
    · subst h
      rw [if_neg hq, if_pos (List.mem_cons_self ..)]
      exact port_modPort_same (hl p (List.mem_cons_self ..))
    · have stands : (cwSend q type body s).port p = s.port p := port_modPort_other (Ne.symm h)
      simp only [stands, List.mem_cons, h, false_or]

/-- The body of a heartbeat is the same for every port. -/
theorem cwSends_body : ls.foldl (fun t q => cwSend q 9 (beatBody t) t) s = ls.foldl (fun t q => cwSend q 9 (beatBody s) t) s := by
  have same : ∀ (l : List Nat) (t : State), beatBody t = beatBody s →
      l.foldl (fun t q => cwSend q 9 (beatBody t) t) t = l.foldl (fun t q => cwSend q 9 (beatBody s) t) t := by
    intro l
    induction l with
    | nil => exact fun _ _ => rfl
    | cons q l ih =>
      intro t ht
      rw [List.foldl_cons, List.foldl_cons, ht]
      exact ih _ ht
  exact same ls s rfl

theorem sendBeats_eq : sendBeats s = { ((List.range 32).filter (sending s)).foldl (fun t q => cwSend q 9 (beatBody s) t) s with
    fleet := { s.fleet with beat := (s.fleet.beat + 1) % 256 } } := by
  have sent : WorkStands s (((List.range 32).filter (sending s)).foldl (fun t q => cwSend q 9 (beatBody s) t) s) := .foldl fun _ _ => rfl
  unfold sendBeats
  dsimp only
  rw [cwSends_body, sent.fleet]

theorem sendBeats_port (hl : s.ports.length = 32) (hp : p < 32) : (sendBeats s).port p =
    if sending s p then { s.port p with cwNext := (s.port p).cwNext ++ [(9, beatBody s)] } else s.port p := by
  have sent := cwSends_port (s := s) (p := p) (type := 9) (body := beatBody s) (ls := (List.range 32).filter (sending s))
    (List.nodup_range.filter _) fun q hq => by
      rw [hl]
      exact List.mem_range.1 (List.mem_filter.1 hq).1
  rw [sendBeats_eq]
  refine Eq.trans sent ?_
  simp only [List.mem_filter, List.mem_range, hp, true_and]

/-! ## Neighbours that are not heard (R467, R468) -/

/-- From `s` to `t` the neighbours and memory stand. -/
def NeighboursStand (s t : State) : Prop := t.fleet.neighbours = s.fleet.neighbours ∧ t.mem = s.mem

theorem NeighboursStand.trans (h : NeighboursStand s t) (j : NeighboursStand t u) : NeighboursStand s u := ⟨j.1.trans h.1, j.2.trans h.2⟩

theorem Reported.neighboursStand (h : Reported s t) : NeighboursStand s t := ⟨congrArg Fleet.neighbours h.workStands.fleet, h.mem⟩

theorem neighboursStand_foldl {f : State → Neighbour → State} {l : List Neighbour} (h : ∀ t n, NeighboursStand t (f t n)) :
    NeighboursStand s (l.foldl f s) :=
  List.foldlRecOn l f (motive := NeighboursStand s) ⟨rfl, rfl⟩ fun t ht n _ => ht.trans (h t n)

theorem reportLosses_stands {l : List Neighbour} : NeighboursStand s (reportLosses l s) := by
  unfold reportLosses
  extract_lets old new s1
  have counted : NeighboursStand s s1 := neighboursStand_foldl fun t n => by
    split
    · exact ⟨rfl, rfl⟩
    · exact ⟨rfl, rfl⟩
  split
  · exact counted.trans (.trans (t := { s1 with fleet := _ }) ⟨rfl, rfl⟩ emcy_reported.neighboursStand)
  · exact counted.trans (neighboursStand_foldl fun _ _ => emcy_reported.neighboursStand)

/-- One neighbour at the end of an interval: heard, or missed once more. -/
def Neighbour.endInterval (n : Neighbour) : Neighbour :=
  if n.st = 1 then { n with misses := if n.heard then 0 else n.misses + 1, heard := false } else n

/-- It has been missed eight times. -/
def Neighbour.gone (n : Neighbour) : Bool := n.st == 1 && decide (8 ≤ n.misses)

/-- A neighbour that is gone is lost, or has departed. -/
def Neighbour.declare (n : Neighbour) : Neighbour := if n.gone then { n with st := if n.leaving then 3 else 2 } else n

/-- The neighbours at the end of an interval. -/
def intervalEnd (s : State) : List Neighbour := s.fleet.neighbours.map Neighbour.endInterval

/-- Those that are gone and did not say that they leave. -/
def lostOf (s : State) : List Neighbour := ((intervalEnd s).filter Neighbour.gone).filter fun n => !n.leaving

/-- Misses are counted, and what is gone is declared. -/
def endInterval (s : State) : State :=
  { s with fleet := { s.fleet with neighbours := (intervalEnd s).map Neighbour.declare
                                   suspect := s.fleet.suspect || (lostOf s).any fun n => shadowWith s n.dev } }

theorem exec_croakInterval : exec .croakInterval s = .next (reportLosses (lostOf s) (odInc 0x2B30 3 4 (lostOf s).length
    ((((intervalEnd s).filter Neighbour.gone).filter (·.leaving)).foldl (fun t n => neighbourEvent n 2 t) (endInterval s)))) := rfl

theorem croakInterval_stands : ∃ t, exec .croakInterval s = .next t ∧ NeighboursStand (endInterval s) t :=
  ⟨_, exec_croakInterval, ((neighboursStand_foldl fun _ _ => emcy_reported.neighboursStand).trans odInc_reported.neighboursStand).trans
    reportLosses_stands⟩

/-- Neighbours that have all been heard leave nothing to report. -/
theorem intervalEnd_heard (h : ∀ n ∈ s.fleet.neighbours, n.st = 1 ∧ n.heard = true) :
    intervalEnd s = s.fleet.neighbours.map (fun n => { n with misses := 0, heard := false }) ∧ (intervalEnd s).filter Neighbour.gone = [] ∧
    (intervalEnd s).map Neighbour.declare = intervalEnd s := by
  have heard : intervalEnd s = s.fleet.neighbours.map fun n => { n with misses := 0, heard := false } := List.map_congr_left fun n hn => by
    obtain ⟨up, heard⟩ := h n hn
    simp [Neighbour.endInterval, up, heard]
  have there : ∀ n ∈ intervalEnd s, n.gone = false := by
    rw [heard]
    simp [Neighbour.gone]
  refine ⟨heard, List.filter_eq_nil_iff.2 fun n hn => by simp [there n hn], ?_⟩
  exact (List.map_congr_left fun n hn => by simp [Neighbour.declare, there n hn]).trans (List.map_id _)

/-! ## Laser hours (R464) -/

theorem laserHour_hours : aget k (laserHour k b s).fleet.laserHours = some ((aget k s.fleet.laserHours).getD 0 + 1) := aget_aset_same

/-- The first hour of a laser begins its trend. -/
theorem laserHour_bias (h : aget k s.fleet.laserBias = none) : aget k (laserHour k b s).fleet.laserBias = some [b] := by
  have kept : keep1000 ((aget k s.fleet.laserBias).getD [] ++ [b]) = [b] := by simp [h, keep1000]
  exact aget_aset_same.trans (congrArg some kept)

end

/-- Settles O55. Heartbeats (`sendBeats_port`), the end of an interval (`croakInterval_stands`) and the records, each from the equation of its command. -/
theorem fleetRecords : Obligations.FleetRecords := by
  refine ⟨fun s hl => ?beats, fun s h => ?heard, fun s n hn h1 hh h7 => ?lost, fun s k l w hw => ?window, fun s c d hd hr => ?disagree, fun s => ?life,
    fun s hup => ?bias, fun s k b => ⟨laserHour_hours, laserHour_bias⟩⟩
  case beats =>
    have stands : (sendBeats s).fleet = { s.fleet with beat := (s.fleet.beat + 1) % 256 } ∧ (sendBeats s).mem = s.mem ∧ (sendBeats s).cores = s.cores := by
      have sent : WorkStands s (((List.range 32).filter (sending s)).foldl (fun t q => cwSend q 9 (beatBody s) t) s) := .foldl fun _ _ => rfl
      rw [sendBeats_eq]
      exact ⟨rfl, sent.mem, sent.cores⟩
    obtain ⟨fleet, mem, cores⟩ := stands
    exact ⟨_, rfl, fleet, fun p hp => sendBeats_port hl hp, mem, cores⟩
  case heard =>
    obtain ⟨all, gone, kept⟩ := intervalEnd_heard h
    have none : lostOf s = [] := by rw [lostOf, gone]; rfl
    refine ⟨odInc 0x2B30 3 4 0 (endInterval s), ?_, rfl, kept.trans all⟩
    rw [exec_croakInterval, none, gone]
    rfl
  case lost =>
    obtain ⟨t, step, neighbours, mem⟩ := croakInterval_stands (s := s)
    refine ⟨t, step, neighbours.trans ?_, mem⟩
    show ((s.fleet.neighbours.map Neighbour.endInterval).map Neighbour.declare) = _
    simp [hn, Neighbour.endInterval, Neighbour.declare, Neighbour.gone, h1, hh, h7]
  case window =>
    refine ⟨_, rfl, fun hc => ?_, fun hc => ?_⟩ <;> show execAggregationWindowEnd k l s = _ <;> simp only [execAggregationWindowEnd, hw]
    · exact congrArg Host.Outcome.next (if_neg (Nat.not_lt.2 hc))
    · exact congrArg Host.Outcome.next (if_pos hc)
  case disagree =>
    exact congrArg Host.Outcome.next (if_pos (by rw [hd, hr]; rfl))
  case life =>
    refine ⟨_, rfl, ?_, rfl, rfl, rfl, rfl⟩
    show s.fleet.onSeconds + (if (s.startup.computeUp || s.fab.fwd != 0) = true then 60 else 0) = _
    simp
  case bias =>
    have dark : (List.range 4).flatMap (eLasersOn s) = [] := List.flatMap_eq_nil_iff.2 fun n hn => by
      rw [eLasersOn, hup n (List.mem_range.1 hn)]
      rfl
    show execBiasTrendSample s = _
    simp only [execBiasTrendSample, dark, List.foldl_nil]

end Sys2Proof.Machine

/-! SUPPORT. The invariant of the block (R228, R326, R411): memory canonical, and the part's numbers of cores, ports, handles and groups. -/

namespace Sys2Proof.Machine

section
variable {ask : Asks} {s t : State}

theorem shaped_iff : s.shaped = true ↔
    s.cores.length = 160 ∧ s.ports.length = 32 ∧ s.handles.length = 64 ∧ s.groups.length = 16 := by
  simp [State.shaped, and_assoc]

/-- What a command keeps includes the invariant. -/
theorem Keeps.inv (h : Keeps ask s t) (hs : s.Inv) : t.Inv := by
  obtain ⟨canonical, shape⟩ := hs
  obtain ⟨cores, ports, handles, groups⟩ := shaped_iff.1 shape
  exact ⟨h.mem canonical, shaped_iff.2 ⟨h.cores cores, h.ports ports, h.handles handles, h.groups groups⟩⟩

end

/-- Settles O4. A step is a tick or the command in front, and both keep the invariant (`tick_keeps`, `exec_keeps`). -/
theorem stepKeepsInv : Obligations.StepKeepsInv := by
  intro s t hs h
  cases hp : s.pending with
  | nil =>
    rw [step_nil hp] at h
    obtain rfl := Host.Outcome.next.inj h
    exact (tick_keeps (ask := ⟨false, false, false⟩) Keeps.refl).inv hs
  | cons c r =>
    rw [step_cons hp] at h
    have front : ({ s with pending := r } : State).Inv := hs
    exact (keeps_of_exec h).inv front

/-- Settles O5. Memory starts empty, with every unit of the part in place. -/
theorem resetInv : Obligations.ResetInv :=
  ⟨rfl, shaped_iff.2 ⟨List.length_replicate, List.length_replicate, List.length_replicate, List.length_replicate⟩⟩

end Sys2Proof.Machine

/-! SUPPORT. What reports, reads and stores leave of the management state and of the handles (R203, R206, R245, R398). -/

namespace Sys2Proof.Machine

/-- The management state without its messages and the times and numbers that go with them. -/
def Mgmt.silent (m : Mgmt) : Mgmt :=
  { m with emcy := [], emcyTimes := [], coalesced := 0, heldEmcy := [], lastEmcy := none, udpOut := [], sessions := [] }

/-- From `s` to `t` events may have been reported; the rest of the management state stands. -/
def MgmtStands (s t : State) : Prop := t.mgmt.silent = s.mgmt.silent

namespace MgmtStands

variable {s t u : State}

theorem refl : MgmtStands s s := rfl

theorem trans (h : MgmtStands s t) (k : MgmtStands t u) : MgmtStands s u := Eq.trans k h

/-- The same, the later step first: from it the state between is known. -/
theorem after (k : MgmtStands t u) (h : MgmtStands s t) : MgmtStands s u := h.trans k

theorem ite {c : Prop} [Decidable c] (h : MgmtStands s t) (k : MgmtStands s u) : MgmtStands s (if c then t else u) := by
  split
  · exact h
  · exact k

theorem foldl {α : Type} {f : State → α → State} {l : List α} (h : ∀ t a, MgmtStands t (f t a)) : MgmtStands s (l.foldl f s) :=
  List.foldlRecOn l f (motive := MgmtStands s) refl fun t ht a _ => ht.trans (h t a)

theorem al (h : MgmtStands s t) : t.mgmt.al = s.mgmt.al := show t.mgmt.silent.al = s.mgmt.silent.al from congrArg Mgmt.al h
theorem active (h : MgmtStands s t) : t.mgmt.active = s.mgmt.active := show t.mgmt.silent.active = s.mgmt.silent.active from congrArg Mgmt.active h
theorem saves (h : MgmtStands s t) : t.mgmt.saves = s.mgmt.saves := show t.mgmt.silent.saves = s.mgmt.silent.saves from congrArg Mgmt.saves h

end MgmtStands

section
variable {s : State} {l n c h code st res : Nat} {us : List Nat} {x : Handle}

theorem emcy_mgmtStands {bytes : List Nat} : MgmtStands s (emcy code bytes s) := by
  unfold emcy emcySend
  split
  · split <;> rfl
  · split <;> rfl

/-! ## Reads count and report what they find (R245, R246, R458) -/

theorem noteCorrected_mgmtStands {key b0 b1 : Nat} : MgmtStands s (noteCorrected key b0 b1 s) :=
  .ite rfl (.ite rfl (emcy_mgmtStands.after rfl))

theorem recordRepair_mgmtStands {kind unit index repl source state : Nat} :
    MgmtStands s (recordRepair kind unit index repl source state s) :=
  .ite .refl (.ite (emcy_mgmtStands.after rfl) (emcy_mgmtStands.after rfl))

theorem noteNear_mgmtStands : MgmtStands s (noteNear l c n s) := .ite (recordRepair_mgmtStands.after rfl) rfl

theorem countCorrected_mgmtStands : MgmtStands s (countCorrected l n s) := by
  unfold countCorrected
  refine .ite .refl ?_
  split
  case h_1 => exact .after (.foldl fun _ _ => noteCorrected_mgmtStands) rfl
  case h_2 => exact noteNear_mgmtStands.after (noteCorrected_mgmtStands.after rfl)
  case h_3 => exact .after (.foldl fun _ _ => noteCorrected_mgmtStands) rfl
  case h_4 => exact .refl

theorem countUncorrected_mgmtStands : MgmtStands s (countUncorrected l us s) := by
  unfold countUncorrected
  extract_lets counted
  split
  case h_1 => exact emcy_mgmtStands.after rfl
  case h_2 => exact recordRepair_mgmtStands.after (emcy_mgmtStands.after rfl)
  case h_3 => exact emcy_mgmtStands.after rfl
  case h_4 => rfl

theorem readUnits_mgmtStands : MgmtStands s (readUnits l us s).2 := by
  unfold readUnits
  extract_lets bad corrected uncorrected
  have counted : MgmtStands s corrected := countCorrected_mgmtStands
  have lost : MgmtStands s uncorrected := counted.trans countUncorrected_mgmtStands
  split
  · exact counted
  · exact lost.trans rfl

theorem touchRead_mgmtStands {spans : List (Nat × Nat)} : MgmtStands s (touchRead spans s).2 :=
  List.foldlRecOn _ _ (motive := fun a : Bool × State => MgmtStands s a.2) .refl fun _ hs _ _ => hs.trans readUnits_mgmtStands

/-! ## Stores settle the marks of their lines (R196, R236) -/

theorem settleLine_mgmtStands {ps : List (Nat × Nat)} {bad : Bool} : MgmtStands s (settleLine ps bad l s) := by
  unfold settleLine
  extract_lets cleared part full r _ read
  have settled : MgmtStands s read := readUnits_mgmtStands.trans rfl
  exact .ite (.ite rfl rfl) (.ite (settled.trans rfl) settled)

theorem settleLine_handlesStand {ps : List (Nat × Nat)} {bad : Bool} : HandlesStand s (settleLine ps bad l s) := by
  unfold settleLine
  extract_lets cleared part full r _ read
  have settled : HandlesStand s read := readUnits_handlesStand.trans rfl
  exact .ite (.ite rfl rfl) (.ite (settled.trans rfl) settled)

theorem storePieces_mgmtStands {ps : List (Nat × List Byte)} {bad : Bool} : MgmtStands s (storePieces ps bad s) :=
  .after (.foldl fun _ _ => settleLine_mgmtStands) (.foldl fun _ _ => rfl)

theorem storePieces_handlesStand {ps : List (Nat × List Byte)} {bad : Bool} : HandlesStand s (storePieces ps bad s) :=
  .after (.foldl fun _ _ => settleLine_handlesStand) (.foldl fun _ _ => rfl)

/-! ## A handle that changes state (R390, R411) -/

theorem settleAl_active : (settleAl s).mgmt.active = s.mgmt.active := by
  unfold settleAl
  split
  · split <;> rfl
  · rfl

theorem settleAl_saves : (settleAl s).mgmt.saves = s.mgmt.saves := by
  unfold settleAl
  split
  · split <;> rfl
  · rfl

/-- The active launch and the context areas written are no matter of a handle's state. -/
theorem setHandle_launches : (setHandle h st res s).mgmt.active = s.mgmt.active ∧ (setHandle h st res s).mgmt.saves = s.mgmt.saves := by
  unfold setHandle
  extract_lets term s1 result
  split
  · have told : MgmtStands s (emcy 0xFF11 [h, (s1.handle h).kind, st, result % 256, result / 256] s1) := emcy_mgmtStands
    exact ⟨settleAl_active.trans told.active, settleAl_saves.trans told.saves⟩
  · exact ⟨rfl, rfl⟩

end

end Sys2Proof.Machine

/-! SUPPORT. Launches: the end of the active launch and a suspend (R44, R67, R71 to R74, R411, R412). -/

namespace Sys2Proof.Machine

section
variable {s : State} {h st res c n : Nat} {x : Handle}

/-! ## The active launch leaves the cores -/

/-- What the handle of a launch tells of its end: detail and progress (R411). -/
def Handle.ending (s : State) (x : Handle) : Handle := { x with detail := launchDetail s x, progress := launchProgress s x }

theorem endLaunch_active (ha : s.mgmt.active = some h) : endLaunch h st res s =
    setHandle h st res { s.modHandle h (Handle.ending s) with chans := [], mgmt := { s.mgmt with active := none } } := by
  have mine : decide ((s.modHandle h (Handle.ending s)).mgmt.active = some h) = true := decide_eq_true ha
  change setHandle h st res (if decide ((s.modHandle h (Handle.ending s)).mgmt.active = some h) = true then _ else _) = _
  rw [if_pos mine]
  rfl

/-- The active launch ends: its handle takes the state, nothing is active or bound, and memory and the cores stand. -/
theorem endLaunch_fields (ha : s.mgmt.active = some h) (hh : h - 1 < s.handles.length) :
    (endLaunch h st res s).handle h = ((s.handle h).ending s).into st res (calendar s) ∧ (endLaunch h st res s).mgmt.active = none ∧
    (endLaunch h st res s).mgmt.saves = s.mgmt.saves ∧ (endLaunch h st res s).chans = [] ∧ (endLaunch h st res s).mem = s.mem ∧
    (endLaunch h st res s).cores = s.cores := by
  rw [endLaunch_active ha]
  have left : h - 1 < ({ s.modHandle h (Handle.ending s) with chans := [], mgmt := { s.mgmt with active := none } } : State).handles.length := by
    rw [State.modHandle_handles, List.length_modify]
    exact hh
  obtain ⟨active, saves⟩ := setHandle_launches (h := h) (st := st) (res := res)
    (s := { s.modHandle h (Handle.ending s) with chans := [], mgmt := { s.mgmt with active := none } })
  obtain ⟨m, o, told⟩ := setHandle_reported (h := h) (st := st) (res := res)
    (s := { s.modHandle h (Handle.ending s) with chans := [], mgmt := { s.mgmt with active := none } })
  refine ⟨(setHandle_handle_same left).trans ?_, active, saves, ?_, ?_, ?_⟩
  · exact congrArg (Handle.into st res (calendar s)) (handle_modHandle_same (f := Handle.ending s) hh)
  all_goals rw [told]; rfl

/-! ## LAUNCH_END (R44, R67, R412) -/

/-- Every core of the launch has stopped or has no stream. -/
def Handle.over (s : State) (x : Handle) : Bool := x.parts.all fun c => (s.core c).mode == .stopped || (s.core c).mode == .off

/-- No core of the launch holds a tracking slot. -/
def Handle.answered (s : State) (x : Handle) : Bool := x.parts.all fun c => (s.core c).slots.isEmpty

theorem over_iff : x.over s = true ↔ ∀ c ∈ x.parts, (s.core c).mode = .stopped ∨ (s.core c).mode = .off := by
  simp [Handle.over]

theorem answered_iff : x.answered s = true ↔ ∀ c ∈ x.parts, (s.core c).slots = [] := by
  simp [Handle.answered]

theorem exec_launchEnd (ha : s.mgmt.active = some h) : exec .launchEnd s =
    (let x := s.handle h
    if x.state = 6 then .next (if x.phase ≠ .started ∨ (x.over s = true ∧ x.answered s = true) then endLaunch h 9 0 s else s)
    else if x.phase ≠ .started ∨ x.over s = false then .next s
    else if x.firstStop.isSome then .next (if x.answered s then endLaunch h 8 9 s else s)
    else .next (if x.state = 2 then endLaunch h 7 0 s else s)) := by
  show execLaunchEnd s = _
  unfold execLaunchEnd
  rw [ha]
  rfl

theorem exec_launchEnd_done (ha : s.mgmt.active = some h) (hp : (s.handle h).phase = .started) (ho : (s.handle h).over s = true)
    (h2 : (s.handle h).state = 2) (hf : (s.handle h).firstStop = none) : exec .launchEnd s = .next (endLaunch h 7 0 s) := by
  simp [exec_launchEnd ha, hp, ho, h2, hf]

theorem exec_launchEnd_failed (ha : s.mgmt.active = some h) (hp : (s.handle h).phase = .started) (ho : (s.handle h).over s = true)
    (h2 : (s.handle h).state = 2) (hf : (s.handle h).firstStop.isSome = true) (hc : (s.handle h).answered s = true) :
    exec .launchEnd s = .next (endLaunch h 8 9 s) := by
  simp [exec_launchEnd ha, hp, ho, h2, hf, hc]

theorem exec_launchEnd_cancelled (ha : s.mgmt.active = some h) (ho : (s.handle h).over s = true) (h6 : (s.handle h).state = 6)
    (hc : (s.handle h).answered s = true) : exec .launchEnd s = .next (endLaunch h 9 0 s) := by
  simp [exec_launchEnd ha, ho, h6, hc]

/-! ## SUSPEND_RECORDS_WRITTEN (R71 to R74) -/

theorem saveCore_mgmtStands {a : Nat} {near : Bool} {e : CoreEntry} : MgmtStands s (saveCore a near c e s) := by
  have marks : ∀ {src dst n t}, MgmtStands t (copyMarks src dst n t) := .foldl fun _ _ => rfl
  unfold saveCore
  extract_lets read k at_ rest stored marked
  have written : MgmtStands s stored := touchRead_mgmtStands.trans storePieces_mgmtStands
  exact .ite (marks.after (marks.after written)) (marks.after written)

theorem saveCore_handlesStand {a : Nat} {near : Bool} {e : CoreEntry} : HandlesStand s (saveCore a near c e s) := by
  have marks : ∀ {src dst n t}, HandlesStand t (copyMarks src dst n t) := .foldl fun _ _ => rfl
  unfold saveCore
  extract_lets read k at_ rest stored marked
  have written : HandlesStand s stored := touchRead_handlesStand.trans storePieces_handlesStand
  exact .ite (marks.after (marks.after written)) (marks.after written)

/-- The chip record and the core records of a launch are in its context area. -/
def recordsStored (x : Handle) (s : State) : State :=
  (List.range x.n).foldl (fun t c => saveCore x.ctx x.suspendNear c (x.cores.getD c { addr := 0, len := 0, events := 0 }) t)
    (storePieces [(x.ctx, chipRecord s x x.suspendNear)] false s)

theorem recordsStored_mgmtStands : MgmtStands s (recordsStored x s) := .after (.foldl fun _ _ => saveCore_mgmtStands) storePieces_mgmtStands

theorem recordsStored_handlesStand : HandlesStand s (recordsStored x s) :=
  .after (.foldl fun _ _ => saveCore_handlesStand) storePieces_handlesStand

/-- The area counts as written, no core has a suspend before it, and the handle waits for its resume. -/
def suspended (h : Nat) (x : Handle) (s : State) : State :=
  let t := recordsStored x s
  State.modHandle { t with cores := t.cores.map fun k => { k with suspPend := false },
                           mgmt := { t.mgmt with saves := aset x.ctx s.startup.cpStarts t.mgmt.saves } } h fun x => { x with isResume := true }

theorem suspended_handle (hh : h - 1 < s.handles.length) : (suspended h x s).handle h = { s.handle h with isResume := true } := by
  have handles : (recordsStored x s).handles = s.handles := recordsStored_handlesStand
  have waits := handle_modHandle_same (s := { recordsStored x s with
    cores := (recordsStored x s).cores.map fun k => { k with suspPend := false }
    mgmt := { (recordsStored x s).mgmt with saves := aset x.ctx s.startup.cpStarts (recordsStored x s).mgmt.saves } })
    (h := h) (f := fun x => { x with isResume := true }) (handles.symm ▸ hh)
  refine waits.trans (congrArg (fun y : Handle => { y with isResume := true }) ?_)
  exact handle_of_handles handles

/-- Every core of the launch has parked or halted. -/
theorem parked_iff : (x.parts.all fun c => (s.core c).mode == .parked || haltedNow (s.core c)) = true ↔
    ∀ c ∈ x.parts, (s.core c).mode = .parked ∨ ((s.core c).mode = .stopped ∧ (s.core c).stopCode = 0) := by
  simp [haltedNow]

theorem exec_suspendRecordsWritten (ha : s.mgmt.active = some h) (hp : (s.handle h).phase = .started) (h3 : (s.handle h).state = 3)
    (hf : (s.handle h).firstStop = none)
    (hr : ∀ c ∈ (s.handle h).parts, (s.core c).mode = .parked ∨ ((s.core c).mode = .stopped ∧ (s.core c).stopCode = 0)) :
    exec .suspendRecordsWritten s = .next (endLaunch h 4 0 (suspended h (s.handle h) s)) := by
  show execSuspendRecordsWritten s = _
  unfold execSuspendRecordsWritten
  rw [ha]
  dsimp only
  rw [if_neg]
  · rfl
  · rw [parked_iff.2 hr]
    simp [h3, hp, hf]

end

/-- Settles O34. The active launch leaves the cores by `endLaunch`; a suspended one first stores its records, which leaves the handles. -/
theorem launchEnds : Obligations.LaunchEnds := by
  rintro s h x ha rfl hp hh
  have ends := fun st res => endLaunch_fields (st := st) (res := res) ha hh
  refine ⟨fun stopped => ⟨fun h2 hf => ?done, fun h2 hf hc => ?failed, fun h6 hc => ?cancelled⟩, fun parked h3 hf => ?suspends⟩
  case done =>
    obtain ⟨handle, active, -, chans, mem, cores⟩ := ends 7 0
    exact ⟨_, exec_launchEnd_done ha hp (over_iff.2 stopped) h2 hf, by rw [handle]; rfl, by rw [handle]; rfl, active, chans, mem, cores⟩
  case failed =>
    obtain ⟨handle, active, -, chans, mem, cores⟩ := ends 8 9
    exact ⟨_, exec_launchEnd_failed ha hp (over_iff.2 stopped) h2 hf (answered_iff.2 hc), by rw [handle]; rfl, by rw [handle]; rfl, active,
      chans, mem, cores⟩
  case cancelled =>
    obtain ⟨handle, active, -, chans, mem, cores⟩ := ends 9 0
    exact ⟨_, exec_launchEnd_cancelled ha (over_iff.2 stopped) h6 (answered_iff.2 hc), by rw [handle]; rfl, active, chans, mem, cores⟩
  case suspends =>
    have still : (suspended h (s.handle h) s).mgmt.active = some h := recordsStored_mgmtStands.active.trans ha
    have there : h - 1 < (suspended h (s.handle h) s).handles.length := by
      have handles : (recordsStored (s.handle h) s).handles = s.handles := recordsStored_handlesStand
      rw [suspended, State.modHandle_handles, List.length_modify, handles]
      exact hh
    obtain ⟨handle, active, saves, chans, -, cores⟩ := endLaunch_fields (st := 4) (res := 0) still there
    rw [suspended_handle hh] at handle
    refine ⟨_, exec_suspendRecordsWritten ha hp h3 hf parked, by rw [handle]; rfl, by rw [handle]; rfl, active, chans,
      saves ▸ aget_aset_same, fun k hk => ?_⟩
    rw [cores] at hk
    obtain ⟨j, -, rfl⟩ := List.mem_map.1 (show k ∈ (recordsStored (s.handle h) s).cores.map fun k => { k with suspPend := false } from hk)
    rfl

end Sys2Proof.Machine

/-! SUPPORT. The start of a launch: from the queue to the first word of each stream (R43 to R45, R326). -/

namespace Sys2Proof.Machine

/-- Several cores, each replaced by a function of it. -/
def State.modCores (s : State) (l : List Nat) (f : Nat → Core → Core) : State := l.foldl (fun t c => t.modCore c (f c)) s

section
variable {s t : State} {h c code : Nat} {x : Handle} {l : List Nat} {f : Nat → Core → Core} {bad : Bool}

/-! ## Several cores changed -/

theorem modCores_eq : ∃ k, s.modCores l f = { s with cores := k } :=
  List.foldlRecOn l (fun t c => t.modCore c (f c)) (motive := fun t : State => ∃ k, t = { s with cores := k }) ⟨s.cores, rfl⟩
    fun _ ⟨k, hk⟩ c _ => ⟨k.modify c (f c), by rw [hk]; rfl⟩

theorem core_modCores_other (hc : c ∉ l) : (s.modCores l f).core c = s.core c := by
  induction l generalizing s with
  | nil => rfl
  | cons d l ih =>
    obtain ⟨hd, hl⟩ := not_or.1 (List.mem_cons.not.1 hc)
    exact (ih hl).trans (core_modCore_other (Ne.symm hd))

/-- Each of different cores is changed once. -/
theorem core_modCores_same (hn : l.Nodup) (hc : c ∈ l) (hk : c < s.cores.length) : (s.modCores l f).core c = f c (s.core c) := by
  induction l generalizing s with
  | nil => cases hc
  | cons d l ih =>
    obtain ⟨hd, hl⟩ := List.nodup_cons.1 hn
    show ((s.modCore d (f d)).modCores l f).core c = _
    rcases List.mem_cons.1 hc with rfl | hc
    · rw [core_modCores_other hd, core_modCore_same hk]
    · have hne : d ≠ c := fun e => hd (e ▸ hc)
      rw [ih hl hc (by rw [State.modCore_cores, List.length_modify]; exact hk), core_modCore_other hne]

theorem parts_nodup : x.parts.Nodup := List.nodup_range.filter _

/-! ## LAUNCH_DEQUEUE (R43, R44) -/

/-- One number alone of a range passes a test. -/
theorem filter_range_eq_singleton {p : Nat → Bool} {n k : Nat} (hk : k < n) (hp : ∀ i < n, p i = true ↔ i = k) :
    (List.range n).filter p = [k] := by
  have same : (List.range n).filter p = (List.range n).filter (· == k) := List.filter_congr fun i hi => by
    rw [Bool.eq_iff_iff, hp i (List.mem_range.1 hi), beq_iff_eq]
  rw [same, List.filter_beq, List.count_eq_one_of_mem List.nodup_range (List.mem_range.2 hk)]
  rfl

/-- The one queued launch starts when none is active. -/
theorem exec_launchDequeue_one (h1 : 1 ≤ h) (h64 : h ≤ 64) (ha : s.mgmt.active = none) (hk : (s.handle h).kind = 1)
    (hs : (s.handle h).state = 1) (hr : (s.handle h).isResume = false)
    (ho : ∀ i, 1 ≤ i → i ≤ 64 → i ≠ h → (s.handle i).kind ≠ 1 ∨ (s.handle i).state ≠ 1) :
    exec .launchDequeue s = .next (validate h s) := by
  have queue : ((List.range 64).filter fun i => (s.handle (i + 1)).kind == 1 && (s.handle (i + 1)).state == 1) = [h - 1] := by
    refine filter_range_eq_singleton (by omega) fun i hi => ?_
    rw [Bool.and_eq_true, beq_iff_eq, beq_iff_eq]
    constructor
    · rintro ⟨kind, state⟩
      by_contra hne
      rcases ho (i + 1) (by omega) (by omega) (by omega) with hk | hs
      · exact hk kind
      · exact hs state
    · rintro rfl
      rw [Nat.sub_add_cancel h1]
      exact ⟨hk, hs⟩
  have back : h - 1 + 1 = h := Nat.sub_add_cancel h1
  show execLaunchDequeue s = _
  unfold execLaunchDequeue
  rw [queue, ha]
  simp [back, hr]

/-- What validation makes of the code and the plan that its reads gave (R43). -/
def takePlan (h : Nat) (r : Nat × Handle × State) : State :=
  if r.1 ≠ 0 then endLaunch h 8 r.1 r.2.2
  else if r.2.1.n = 0 then endLaunch h 7 0 r.2.2
  else r.2.2.modHandle h fun y =>
    { y with phase := .validated, n := r.2.1.n, flags := r.2.1.flags, cores := r.2.1.cores, events := r.2.1.events, groups := r.2.1.groups }

theorem validate_eq : validate h s = takePlan h (readPlan ((launching h s).handle h).addr (launching h s)) := rfl

/-- A plan that fails a check fails the launch with its code. -/
theorem validate_fails (hp : readPlan ((launching h s).handle h).addr (launching h s) = (code, x, t)) (hc : code ≠ 0) :
    validate h s = endLaunch h 8 code t := by
  rw [validate_eq, hp]
  exact if_pos hc

/-- A plan in order is kept. -/
theorem validate_accepts (hp : readPlan ((launching h s).handle h).addr (launching h s) = (0, x, t)) (hn : x.n ≠ 0) :
    validate h s = t.modHandle h fun y =>
      { y with phase := .validated, n := x.n, flags := x.flags, cores := x.cores, events := x.events, groups := x.groups } := by
  rw [validate_eq, hp]
  exact (if_neg (not_not_intro rfl)).trans (if_neg hn)

/-! ## START_BROADCAST and STREAM_FETCH_START (R45) -/

/-- The entry of core `c` in a plan's table. -/
def Handle.entry (x : Handle) (c : Nat) : CoreEntry := x.cores.getD c { addr := 0, len := 0, events := 0 }

/-- A core with the events that its entry gives it. -/
def Handle.prime (x : Handle) (c : Nat) (k : Core) : Core := { k with events := BitVec.ofNat 64 (x.entry c).events }

/-- A core that fetches the stream of its entry. -/
def Handle.fetch (x : Handle) (c : Nat) (k : Core) : Core :=
  { k with
    mode := .fetching, streamAddr := (x.entry c).addr, streamLen := (x.entry c).len, pc := 0, loops := [], vl := 0, ta := List.replicate 8 0
    suspPend := false, stopCode := 0, exit := 0, fence := none, sqWait := none, epochDests := [] }

theorem exec_startBroadcast (ha : s.mgmt.active = some h) (hr : (s.handle h).isResume = false) (h2 : (s.handle h).state = 2)
    (hp : (s.handle h).phase = .validated) : exec .startBroadcast s = .next ((bindGroups (s.handle h) (State.modCores
      { s with chipEvents := (s.handle h).events.foldl (fun l e => lset 0 e.1 e.2 l) s.chipEvents } (s.handle h).parts
      (s.handle h).prime)).modHandle h fun x => { x with phase := .broadcast }) := by
  show execStartBroadcast s = _
  unfold execStartBroadcast
  rw [ha]
  dsimp only
  rw [if_neg (by simp [hp, h2]), if_neg (by simp [hr])]
  rfl

theorem exec_streamFetchStart (ha : s.mgmt.active = some h) (hr : (s.handle h).isResume = false) (h2 : (s.handle h).state = 2)
    (hp : (s.handle h).phase = .broadcast) : exec .streamFetchStart s =
      .next ((s.modCores (s.handle h).parts (s.handle h).fetch).modHandle h fun x => { x with phase := .started }) := by
  show execStreamFetchStart s = _
  unfold execStreamFetchStart
  rw [ha]
  dsimp only
  rw [if_neg (by simp [hp, h2])]
  simp only [hr, h2, Bool.false_eq_true, if_false]
  rfl

/-! ## STREAM_FETCH_COMPLETE (R45, R67, R195) -/

theorem exec_streamFetchComplete_clean (hm : (s.core c).mode = .fetching)
    (hr : touchRead [((s.core c).streamAddr, 8 * (s.core c).streamLen)] s = (false, t)) :
    exec (.streamFetchComplete c) s = .next ((storePieces [(storeAddr c 0,
      readBytes s (s.core c).streamAddr (8 * (s.core c).streamLen))] false t).modCore c fun k => { k with mode := .running }) := by
  show execStreamFetchComplete c s = _
  simp [execStreamFetchComplete, hm, hr]

theorem exec_streamFetchComplete_poisoned (hm : (s.core c).mode = .fetching)
    (hr : touchRead [((s.core c).streamAddr, 8 * (s.core c).streamLen)] s = (true, t)) :
    exec (.streamFetchComplete c) s = .next (stopCore c 0x11 (t.modCore c fun k => k.setStat 7)) := by
  show execStreamFetchComplete c s = _
  simp [execStreamFetchComplete, hm, hr]

end

/-- Settles O33. One queued launch is validated (`validate`); the cores that take part are changed once each (`State.modCores`), first by
their events, then by the fetch of their streams. -/
theorem launchStarts : Obligations.LaunchStarts := by
  refine ⟨fun s h h1 h64 ha hk hs hr ho => ⟨fun code x u hp hc => ?fails, fun x u hp hn => ?kept⟩,
    fun s h x ha hx hr h2 => ⟨fun hp => ?broadcast, fun hp => ?fetches⟩,
    fun s u c bad hm hread => ⟨fun hb => ?clean, fun hb => ?poisoned⟩⟩
  case fails => rw [exec_launchDequeue_one h1 h64 ha hk hs hr ho, validate_fails hp hc]
  case kept => rw [exec_launchDequeue_one h1 h64 ha hk hs hr ho, validate_accepts hp hn]
  case broadcast =>
    subst hx
    have primed := exec_startBroadcast ha hr h2 hp
    let u : State := { s with chipEvents := (s.handle h).events.foldl (fun l e => lset 0 e.1 e.2 l) s.chipEvents }
    have events : ∀ c ∈ (s.handle h).parts, c < s.cores.length → (u.modCores (s.handle h).parts (s.handle h).prime).core c = _ :=
      fun c hc hlen => core_modCores_same (s := u) parts_nodup hc hlen
    obtain ⟨k, cores⟩ := modCores_eq (s := u) (l := (s.handle h).parts) (f := (s.handle h).prime)
    rw [cores] at primed events
    exact ⟨_, primed, rfl, rfl, rfl, fun c hc hlen => congrArg Core.events (events c hc hlen),
      fun hlen => handle_modHandle_same (s := bindGroups (s.handle h) { u with cores := k }) hlen⟩
  case fetches =>
    subst hx
    obtain ⟨k, cores⟩ := modCores_eq (s := s) (l := (s.handle h).parts) (f := (s.handle h).fetch)
    refine ⟨_, exec_streamFetchStart ha hr h2 hp, ?_, fun c hc hlen => core_modCores_same parts_nodup hc hlen,
      fun c hc => core_modCores_other hc, fun hlen => ?_⟩
    · rw [cores]
      rfl
    · rw [cores]
      exact handle_modHandle_same (s := { s with cores := k }) hlen
  case clean =>
    subst hb
    exact exec_streamFetchComplete_clean hm hread
  case poisoned =>
    subst hb
    exact exec_streamFetchComplete_poisoned hm hread

end Sys2Proof.Machine


/-! SUPPORT. What traffic, operations that end and planes that stop leave of MRAM, of the reduction-store slots and of the number of groups
(R292, R322, R344, R455), and what the ends of handles change (R391, R412). -/

namespace Sys2Proof.Machine

/-- From `s` to `t` MRAM, the free store slots and the number of group records stand. -/
structure StoreStands (s t : State) : Prop where
  mram : t.mram = s.mram
  slotsFree : t.slotsFree = s.slotsFree
  groups : t.groups.length = s.groups.length

namespace StoreStands

variable {s t u : State}

theorem refl : StoreStands s s := ⟨rfl, rfl, rfl⟩

theorem trans (h : StoreStands s t) (k : StoreStands t u) : StoreStands s u :=
  ⟨k.mram.trans h.mram, k.slotsFree.trans h.slotsFree, k.groups.trans h.groups⟩

/-- The same, the later step first: from it the state between is known. -/
theorem after (k : StoreStands t u) (h : StoreStands s t) : StoreStands s u := h.trans k

theorem ite {c : Prop} [Decidable c] (h : StoreStands s t) (k : StoreStands s u) : StoreStands s (if c then t else u) := by
  split
  · exact h
  · exact k

theorem foldl {α : Type} {f : State → α → State} {l : List α} (h : ∀ t a, StoreStands t (f t a)) : StoreStands s (l.foldl f s) :=
  List.foldlRecOn l f (motive := StoreStands s) refl fun t ht a _ => ht.trans (h t a)

theorem modGroup {g : Nat} {f : Group → Group} : StoreStands s (s.modGroup g f) := ⟨rfl, rfl, List.length_modify ..⟩

end StoreStands

section
variable {s t : State} {g h p n st res : Nat} {k : Packet} {o : CollOp} {loud : Bool}

theorem Stands.storeStands (h : Stands s t) : StoreStands s t :=
  ⟨show t.standing.mram = s.standing.mram from congrArg State.mram h,
    show t.standing.slotsFree = s.standing.slotsFree from congrArg State.slotsFree h,
    show t.standing.groups.length = s.standing.groups.length from congrArg (fun u => u.groups.length) h⟩

theorem Reported.storeStands (h : Reported s t) : StoreStands s t := h.stands.storeStands

theorem Lasered.storeStands (h : Lasered s t) : StoreStands s t := by
  obtain ⟨r, rfl⟩ := h
  exact ⟨rfl, rfl, rfl⟩

/-! ## Groups and operations that end (R292, R344) -/

theorem endOp_storeStands : StoreStands s (endOp o n s) := by
  unfold endOp
  extract_lets s1 s2
  have ended : StoreStands s s1 := .after .modGroup ⟨rfl, rfl, rfl⟩
  have counted : StoreStands s s2 := odInc_reported.storeStands.after ended
  exact .ite (.ite counted (emcy_reported.storeStands.after (counted.trans .modGroup))) .refl

theorem settleForming_storeStands : StoreStands s (settleForming g s) := .ite .modGroup .refl

theorem groupReform_storeStands : StoreStands s (groupReform g s) := settleForming_storeStands.after .modGroup

theorem reformGroups_storeStands : StoreStands s (reformGroups s) :=
  .foldl fun _ _ => .ite .refl (groupReform_storeStands.after (.foldl fun _ _ => endOp_storeStands))

theorem sendE_storeStands {bulk : Bool} {addr : List Byte} {udp : Nat} : StoreStands s (sendE n bulk addr udp k s) :=
  .ite (.ite ⟨rfl, rfl, rfl⟩ ⟨rfl, rfl, rfl⟩) (.ite ⟨rfl, rfl, rfl⟩ (.after (.ite ⟨rfl, rfl, rfl⟩ ⟨rfl, rfl, rfl⟩) ⟨rfl, rfl, rfl⟩))

theorem memberSend_storeStands {rank bucket use : Nat} {permit : Bool} : StoreStands s (memberSend p g rank bucket use permit k s) :=
  .ite sendRaw_stands.storeStands (sendE_storeStands.after ⟨rfl, rfl, rfl⟩)

theorem sendAbort_storeStands {bucket use code rank : Nat} : StoreStands s (sendAbort g bucket use code rank s) := by
  unfold sendAbort
  split
  · exact .refl
  · exact .foldl fun _ _ => memberSend_storeStands

theorem failOp_storeStands : StoreStands s (failOp o n s) := .ite (sendAbort_storeStands.after endOp_storeStands) .refl

theorem endWork_storeStands {hit : Core → Bool} : StoreStands s (endWork hit s) := by
  have poisoned : ∀ t o, StoreStands t (poisonRest o t) := fun _ _ => .foldl fun _ _ => ⟨rfl, rfl, rfl⟩
  unfold endWork
  extract_lets s1
  have all : StoreStands s s1 := .foldl fun _ _ => (failOp_storeStands.trans (poisoned _ _)).trans ⟨rfl, rfl, rfl⟩
  exact all.trans ⟨rfl, rfl, rfl⟩

/-! ## The forwarding plane stops (R292, R296) -/

theorem linkDownAs_workStands {reason : Nat} : WorkStands s (linkDownAs p reason st s) := by
  obtain ⟨r, down⟩ := linkDownAs_stands (p := p) (s := s) (reason := reason) (st := st)
  exact down.workStands.after rfl

theorem linkDownAs_storeStands {reason : Nat} : StoreStands s (linkDownAs p reason st s) := by
  obtain ⟨r, down⟩ := linkDownAs_stands (p := p) (s := s) (reason := reason) (st := st)
  exact down.storeStands.after ⟨rfl, rfl, rfl⟩

theorem stopForwarding_workStands : WorkStands { s with fab := { s.fab with fwd := st } } (stopForwarding st loud s) :=
  reformGroups_workStands.after (dropFabric_workStands.after (.foldl fun _ _ => .ite (.ite linkDownAs_workStands .refl) rfl))

theorem stopForwarding_storeStands : StoreStands s (stopForwarding st loud s) := by
  have dropped : ∀ t, StoreStands t (dropFabric t) := fun _ => ⟨rfl, rfl, rfl⟩
  refine reformGroups_storeStands.after ((dropped _).after (.after (.foldl fun _ _ => .ite (.ite linkDownAs_storeStands .refl) ?_) ⟨rfl, rfl, rfl⟩))
  exact ⟨rfl, rfl, rfl⟩

/-- Groups that are absent do not form again. -/
theorem reformGroups_absent (hg : ∀ g < 16, (s.group g).state = 0) : reformGroups s = s :=
  List.foldlRecOn (List.range 16) _ (motive := (· = s)) rfl fun t ht g hm => by
    subst ht
    exact if_pos (hg g (List.mem_range.1 hm))

/-! ## The device leaves (R466) -/

theorem sendBeatNow_storeStands : StoreStands s (sendBeatNow p n s) := by
  induction n generalizing s with
  | zero => exact .refl
  | succ n ih => exact .ite (ih.after (drainPort_stands.storeStands.after ⟨rfl, rfl, rfl⟩)) .refl

theorem leave_storeStands : StoreStands s (leave s) := by
  have beats : ∀ t, StoreStands t (sendBeats t) := fun t => by
    have sent : StoreStands t (((List.range 32).filter (sending t)).foldl (fun u p => cwSend p 9 (beatBody u) u) t) :=
      .foldl fun _ _ => ⟨rfl, rfl, rfl⟩
    exact sent.trans ⟨rfl, rfl, rfl⟩
  exact .after (.foldl fun _ _ => sendBeatNow_storeStands) ((beats _).after ⟨rfl, rfl, rfl⟩)

/-! ## Handles that end -/

/-- From `s` to `t` handles, what is bound to a launch, the management state and the dictionary's counters alone have changed. -/
def HandlesEnd (s t : State) : Prop := ∃ m o x c, t = { s with mgmt := m, od := o, handles := x, chans := c }

theorem HandlesEnd.trans {u : State} (h : HandlesEnd s t) (k : HandlesEnd t u) : HandlesEnd s u := by
  obtain ⟨m, o, x, c, rfl⟩ := h
  obtain ⟨m', o', x', c', rfl⟩ := k
  exact ⟨m', o', x', c', rfl⟩

theorem HandlesEnd.refl : HandlesEnd s s := ⟨_, _, _, _, rfl⟩

theorem HandlesEnd.ite {u : State} {c : Prop} [Decidable c] (h : HandlesEnd s t) (k : HandlesEnd s u) : HandlesEnd s (if c then t else u) := by
  split
  · exact h
  · exact k

theorem HandlesEnd.foldl {α : Type} {f : State → α → State} {l : List α} (h : ∀ t a, HandlesEnd t (f t a)) : HandlesEnd s (l.foldl f s) :=
  List.foldlRecOn l f (motive := HandlesEnd s) .refl fun t ht a _ => ht.trans (h t a)

theorem setHandle_handlesEnd : HandlesEnd s (setHandle h st res s) := by
  obtain ⟨m, o, told⟩ := setHandle_reported (s := s) (h := h) (st := st) (res := res)
  exact ⟨m, o, _, _, told⟩

theorem endLaunch_handlesEnd : HandlesEnd s (endLaunch h st res s) := by
  have told : HandlesEnd s (s.modHandle h (Handle.ending s)) := ⟨_, _, _, _, rfl⟩
  exact (HandlesEnd.ite (told.trans ⟨_, _, _, _, rfl⟩) told).trans setHandle_handlesEnd

theorem failLaunches_handlesEnd : HandlesEnd s (failLaunches s) :=
  .foldl fun _ _ => .ite .refl (.ite endLaunch_handlesEnd (.ite endLaunch_handlesEnd .refl))

theorem abandonHandles_handlesEnd : HandlesEnd s (abandonHandles s) := .foldl fun _ _ => .ite setHandle_handlesEnd .refl

end

end Sys2Proof.Machine

/-! SUPPORT. The planes as they stop (R391, R422, R452 to R455): what each leaves. -/

namespace Sys2Proof.Machine

/-- From `s` to `t` memory, cores, handles, groups, forwarding state, MRAM, test mode and the EtherCAT state stand. -/
structure PlanesStand (s t : State) : Prop where
  mem : t.mem = s.mem
  cores : t.cores = s.cores
  handles : t.handles = s.handles
  groups : t.groups = s.groups
  fwd : t.fab.fwd = s.fab.fwd
  mram : t.mram = s.mram
  test : t.test = s.test
  al : t.mgmt.al = s.mgmt.al

namespace PlanesStand

variable {s t u : State}

theorem refl : PlanesStand s s := ⟨rfl, rfl, rfl, rfl, rfl, rfl, rfl, rfl⟩

theorem trans (h : PlanesStand s t) (k : PlanesStand t u) : PlanesStand s u :=
  ⟨k.mem.trans h.mem, k.cores.trans h.cores, k.handles.trans h.handles, k.groups.trans h.groups, k.fwd.trans h.fwd, k.mram.trans h.mram,
    k.test.trans h.test, k.al.trans h.al⟩

/-- The same, the later step first: from it the state between is known. -/
theorem after (k : PlanesStand t u) (h : PlanesStand s t) : PlanesStand s u := h.trans k

theorem foldl {α : Type} {f : State → α → State} {l : List α} (h : ∀ t a, PlanesStand t (f t a)) : PlanesStand s (l.foldl f s) :=
  List.foldlRecOn l f (motive := PlanesStand s) refl fun t ht a _ => ht.trans (h t a)

end PlanesStand

section
variable {s t : State} {st n code p kind : Nat} {keep on : Bool}

theorem Reported.planesStand (h : Reported s t) (k : MgmtStands s t) : PlanesStand s t := by
  have al := k.al
  obtain ⟨m, o, rfl⟩ := h
  exact ⟨rfl, rfl, rfl, rfl, rfl, rfl, rfl, al⟩

theorem Lasered.planesStand (h : Lasered s t) : PlanesStand s t := by
  obtain ⟨r, rfl⟩ := h
  exact ⟨rfl, rfl, rfl, rfl, rfl, rfl, rfl, rfl⟩

/-! ## The compute plane -/

theorem endCores_workStands : ∃ k, WorkStands { s with cores := k } (endCores n s) :=
  ⟨_, congrArg (fun w : List Host.Cell × List Core × List Handle × Fleet × Security × Nat × Power × Startup × Test =>
    (w.1, (endWork (fun k => k.mode != .off) s).cores.map (cancelCore n), w.2.2)) (endWork_workStands (hit := fun k => k.mode != .off))⟩

/-- HBM, the forwarding state, MRAM, test mode, the fleet's records and the number of groups stand; the start's progress stands but for the
plane that is down. -/
theorem stopCompute_leaves : (stopCompute s).mem = s.mem.filter (fun e => decide (e.1 < nearBase)) ∧
    (stopCompute s).startup = { s.startup with computeUp := false } ∧ (stopCompute s).fab.fwd = s.fab.fwd ∧ (stopCompute s).mram = s.mram ∧
    (stopCompute s).test = s.test ∧ (stopCompute s).fleet = s.fleet ∧ (stopCompute s).groups.length = s.groups.length := by
  obtain ⟨k, cancelled⟩ := endCores_workStands (s := s) (n := 0x10)
  have store : StoreStands s (endCores 0x10 s) := (endWork_storeStands (hit := fun k => k.mode != .off)).trans ⟨rfl, rfl, rfl⟩
  unfold stopCompute
  generalize endCores 0x10 s = u at cancelled store
  obtain ⟨m, o, x, c, ended⟩ := failLaunches_handlesEnd (s := u)
  rw [ended]
  exact ⟨congrArg (List.filter _) cancelled.mem, congrArg (fun y : Startup => { y with computeUp := false }) cancelled.startup, cancelled.fwd,
    store.mram, congrArg (fun w => w.2.2.2.2.2.2.2.2) cancelled, cancelled.fleet, store.groups⟩

theorem forceSafeOp_al : (forceSafeOp code s).mgmt.al ≠ 8 := by
  unfold forceSafeOp
  split
  · rw [emcy_mgmtStands.al]
    exact (by decide : 4 ≠ 8)
  · rename_i other
    exact fun h8 => other (.inl h8)

/-! ## The device awake, and the light of its ports -/

theorem awake_planesStand : PlanesStand s (awake s) := by
  have entered : PlanesStand s { s with power := { s.power with pstate := 1 } } := ⟨rfl, rfl, rfl, rfl, rfl, rfl, rfl, rfl⟩
  unfold awake setPState
  split
  · exact .refl
  · split
    · exact .refl
    · exact (emcy_reported.planesStand emcy_mgmtStands).after entered

theorem awake_startup : (awake s).startup = s.startup := by
  unfold awake
  split
  · rfl
  · exact setPState_reported.workStands.startup

theorem awake_power : ∃ n, (awake s).power = { s.power with pstate := n } := by
  unfold awake
  split
  · exact ⟨s.power.pstate, rfl⟩
  · exact ⟨1, setPState_reported.workStands.power⟩

theorem clearLoopbacks_planesStand : PlanesStand s (clearLoopbacks s) := by
  refine .foldl fun t p => ?_
  cases on : loopedBack t p with
  | false => rw [setLoopback_same on]; exact .refl
  | true => exact (setLoopback_off on).planesStand.after ⟨rfl, rfl, rfl, rfl, rfl, rfl, rfl, rfl⟩

/-! ## The forwarding plane, with no groups -/

/-- The ports of a plane that stops with its device read no state. -/
def quietLinks (s : State) : State := (List.range 32).foldl (fun t p => t.modPort p fun q => { q with pstate := 0 }) s

theorem quietLinks_planesStand : PlanesStand s (quietLinks s) := .foldl fun _ _ => ⟨rfl, rfl, rfl, rfl, rfl, rfl, rfl, rfl⟩

theorem dropFabric_planesStand : PlanesStand s (dropFabric s) := ⟨rfl, rfl, rfl, rfl, rfl, rfl, rfl, rfl⟩

theorem stopForwarding_quiet : stopForwarding st false s = reformGroups (dropFabric (quietLinks { s with fab := { s.fab with fwd := st } })) := rfl

theorem stopForwarding_quiet_planesStand (hg : ∀ g < 16, (s.group g).state = 0) :
    PlanesStand { s with fab := { s.fab with fwd := st } } (stopForwarding st false s) := by
  have dropped := (quietLinks_planesStand (s := { s with fab := { s.fab with fwd := st } })).trans dropFabric_planesStand
  rw [stopForwarding_quiet]
  generalize dropFabric (quietLinks { s with fab := { s.fab with fwd := st } }) = u at dropped
  rw [reformGroups_absent fun g hlt => by rw [State.group, dropped.groups]; exact hg g hlt]
  exact dropped

/-! ## What a reset of the chip stops -/

/-- The compute plane has stopped, MD starts again, and nothing of the job is left. -/
def chipCleared (s : State) : State := clearJob (restartMd (stopCompute s))

theorem chipCleared_leaves : (chipCleared s).mem = s.mem.filter (fun e => decide (e.1 < nearBase)) ∧ (chipCleared s).fab.fwd = s.fab.fwd ∧
    (chipCleared s).mram = s.mram ∧ (chipCleared s).power = s.power := by
  obtain ⟨mem, -, fwd, mram, -⟩ := stopCompute_leaves (s := s)
  have power := stopCompute_power (s := s)
  unfold chipCleared
  generalize stopCompute s = u at mem fwd mram power
  exact ⟨mem, fwd, mram, power⟩

theorem chipCleared_cleared : (chipCleared s).cores = List.replicate 160 {} ∧ (chipCleared s).handles = List.replicate 64 {} ∧
    (chipCleared s).groups = List.replicate 16 {} ∧ (chipCleared s).mgmt.al = 1 := by
  have cores := (stopCompute_stopped (s := s)).1
  unfold chipCleared
  generalize stopCompute s = u at cores
  exact ⟨cores, rfl, rfl, rfl⟩

theorem group_absent (hg : s.groups = List.replicate 16 {}) : ∀ g < 16, (s.group g).state = 0 := fun g hlt => by
  rw [State.group, hg, List.getD_replicate _ hlt]

/-- The XDs start afresh after the forwarding plane has stopped. -/
def xdsRestarted (keep : Bool) (s : State) : State := freshClock (restartXds keep (stopForwarding 0 false s))

theorem xdsRestarted_planesStand (hg : s.groups = List.replicate 16 {}) :
    PlanesStand { s with fab := { s.fab with fwd := 0 } } (xdsRestarted keep s) := by
  have stopped := stopForwarding_quiet_planesStand (st := 0) (group_absent hg)
  unfold xdsRestarted
  generalize stopForwarding 0 false s = u at stopped
  exact stopped.trans ⟨rfl, rfl, rfl, rfl, rfl, rfl, rfl, rfl⟩

theorem xdsRestarted_power : (xdsRestarted keep s).power = s.power := by
  have stopped := (stopForwarding_quiet_workStands (s := s) (st := 0)).power
  unfold xdsRestarted
  generalize stopForwarding 0 false s = u at stopped
  exact stopped

theorem setSteps_planesStand : PlanesStand s (setSteps kind s) := ⟨rfl, rfl, rfl, rfl, rfl, rfl, rfl, rfl⟩

end

end Sys2Proof.Machine


/-! SUPPORT. The resets (R39, R410, R450 to R453, R455): an accepted write of `reset` runs its kind where nothing deeper runs. -/

namespace Sys2Proof.Machine

section
variable {m : Master} {s : State} {a k : Nat}

/-! ## The write (R410) -/

/-- The two bytes of a write of `reset`. -/
def resetBytes (kind arg : Nat) : List Byte := leBytes 1 kind ++ leBytes 1 arg

theorem resetBytes_kind (hk : k < 256) : ofLE (resetBytes k a) % 256 = k := by
  simp [resetBytes, leBytes, ofLE]
  omega

theorem resetBytes_arg : ofLE (resetBytes k a) / 256 = ofLE (leBytes 1 a) := by
  simp [resetBytes, leBytes, ofLE]
  omega

theorem resetRow_accepted (hr : reaches m s = true) (hc : odCheck m 0x2100 0xC (resetBytes k a) s = 0) (hk : k < 256) :
    resetRow k m a s = resetNow k (ofLE (leBytes 1 a)) (setResp m 0 [] s) := by
  have written : resetRow k m a s = resetNow (ofLE (resetBytes k a) % 256) (ofLE (resetBytes k a) / 256) (setResp m 0 [] s) :=
    dictWrite_open (openIndex_mode _ (by decide)) rfl hr hc
  rw [written, resetBytes_kind hk, resetBytes_arg]

/-! ## The starts that a reset begins (R448, R450, R455) -/

/-- A start of the whole part takes the place of those of single planes. -/
def alone (s : State) : State := { s with startup := { s.startup with fpSteps := [], mgSteps := [] } }

/-- A start that keeps the forwarding plane takes the place of one of MD. -/
def mgAlone (s : State) : State := { s with startup := { s.startup with mgSteps := [] } }

theorem requestStart_chip (hv : coveredBy s 1 = false) : requestStart 1 s = beginStart 1 (alone s) :=
  if_neg (by rw [hv]; exact Bool.false_ne_true)

theorem requestStart_chipKept (hv : coveredBy s 2 = false) :
    requestStart 2 s = beginStart 2 (mgAlone s) :=
  if_neg (by rw [hv]; exact Bool.false_ne_true)

theorem resetNow_chipKept (hn : s.startup.needFull = false) (hv : coveredBy s 2 = false) : resetNow 2 a s = beginStart 2 (mgAlone s) := by
  rw [resetNow, if_neg (by decide), if_neg fun h => Bool.false_ne_true (hn.symm.trans h.2), requestStart_chipKept hv]

theorem requestStart_compute (hv : coveredBy s 3 = false) : requestStart 3 s = beginStart 3 s :=
  if_neg (by rw [hv]; exact Bool.false_ne_true)

theorem requestStart_forwarding (hv : restartsFwd s = false) (hs : s.startup.fpSteps = []) : requestStart 4 s = beginStart 4 s :=
  if_neg (by rw [hv, hs]; exact Bool.false_ne_true)

theorem requestStart_management (hv : restartsMd s = false) (hs : s.startup.mgSteps = []) : requestStart 6 s = beginStart 6 s :=
  if_neg (by rw [hv, hs]; exact Bool.false_ne_true)

theorem beginStart_chip : beginStart 1 s = setSteps 1 (awake (xdsRestarted true (chipCleared (leave (saveLife s))))) := rfl

theorem beginStart_chipKept : beginStart 2 s = setSteps 2 (clearLoopbacks (restartEngines (chipCleared (saveLife s)))) := rfl

theorem beginStart_compute : beginStart 3 s = setSteps 3 (forceSafeOp 0x8004 (dropNearWindows (stopCompute (saveLife s)))) := rfl

theorem beginStart_forwarding : beginStart 4 s =
    countStart { stopForwarding 2 true (saveLife s) with startup := { (saveLife s).startup with fpSteps := [10] } } := rfl

theorem beginStart_management : beginStart 6 s = countStart { restartMd (abandonHandles (saveLife s)) with
    startup := { (saveLife s).startup with mgSteps := [1, 2, 3], mgCause := 6, preopReady := false } } := rfl

/-! ## What each kind leaves -/

theorem mem_filter_hbm {l : List Host.Cell} : ∀ e ∈ l, e.1 < nearBase → e ∈ l.filter fun e => decide (e.1 < nearBase) :=
  fun _ he hb => List.mem_filter.2 ⟨he, decide_eq_true hb⟩

theorem beginStart_chip_fields : (beginStart 1 s).startup.steps = stepsOf 1 ∧ (beginStart 1 s).startup.kind = 1 ∧
    (beginStart 1 s).mgmt.al = 1 ∧ (beginStart 1 s).fab.fwd = 0 ∧ (beginStart 1 s).cores = List.replicate 160 {} ∧
    (beginStart 1 s).handles = List.replicate 64 {} ∧ (beginStart 1 s).groups = List.replicate 16 {} ∧
    (beginStart 1 s).mem = s.mem.filter (fun e => decide (e.1 < nearBase)) ∧ (beginStart 1 s).mram = s.mram := by
  have left := leave_workStands (s := saveLife s)
  have store := leave_storeStands (s := saveLife s)
  rw [beginStart_chip]
  generalize leave (saveLife s) = u at left store
  obtain ⟨cores, handles, groups, al⟩ := chipCleared_cleared (s := u)
  obtain ⟨mem, -, mram, -⟩ := chipCleared_leaves (s := u)
  generalize chipCleared u = v at cores handles groups al mem mram
  have on : PlanesStand _ (setSteps 1 (awake (xdsRestarted true v))) :=
    ((xdsRestarted_planesStand (keep := true) groups).trans awake_planesStand).trans setSteps_planesStand
  exact ⟨rfl, rfl, on.al.trans al, on.fwd, on.cores.trans cores, on.handles.trans handles, on.groups.trans groups,
    (on.mem.trans mem).trans (congrArg (List.filter _) left.mem), (on.mram.trans mram).trans store.mram⟩

theorem beginStart_chipKept_fields : (beginStart 2 s).startup.steps = stepsOf 2 ∧ (beginStart 2 s).startup.kind = 2 ∧
    (beginStart 2 s).mgmt.al = 1 ∧ (beginStart 2 s).fab.fwd = s.fab.fwd ∧
    (beginStart 2 s).cores = List.replicate 160 {} ∧ (beginStart 2 s).handles = List.replicate 64 {} ∧
    (beginStart 2 s).mem = s.mem.filter (fun e => decide (e.1 < nearBase)) := by
  obtain ⟨cores, handles, -, al⟩ := chipCleared_cleared (s := saveLife s)
  obtain ⟨mem, fwd, -, -⟩ := chipCleared_leaves (s := saveLife s)
  rw [beginStart_chipKept]
  generalize chipCleared (saveLife s) = v at cores handles al mem fwd
  have engines : PlanesStand v (restartEngines v) := ⟨rfl, rfl, rfl, rfl, rfl, rfl, rfl, rfl⟩
  have on := (engines.trans clearLoopbacks_planesStand).trans (setSteps_planesStand (kind := 2))
  exact ⟨rfl, rfl, on.al.trans al, on.fwd.trans fwd, on.cores.trans cores, on.handles.trans handles, on.mem.trans mem⟩

theorem beginStart_compute_fields : (beginStart 3 s).startup.steps = stepsOf 3 ∧ (beginStart 3 s).startup.kind = 3 ∧
    (beginStart 3 s).mgmt.al ≠ 8 ∧ (beginStart 3 s).cores = List.replicate 160 {} ∧
    (beginStart 3 s).fab.fwd = s.fab.fwd ∧ (beginStart 3 s).groups.length = s.groups.length ∧
    (beginStart 3 s).mem = s.mem.filter (fun e => decide (e.1 < nearBase)) := by
  obtain ⟨mem, -, fwd, -, -, -, groups⟩ := stopCompute_leaves (s := saveLife s)
  have cores := (stopCompute_stopped (s := saveLife s)).1
  rw [beginStart_compute]
  generalize stopCompute (saveLife s) = u at mem fwd groups cores
  have al := forceSafeOp_al (code := 0x8004) (s := dropNearWindows u)
  obtain ⟨md, o, forced⟩ := forceSafeOp_reported (n := 0x8004) (s := dropNearWindows u)
  refine ⟨rfl, rfl, al, ?_⟩
  rw [forced]
  exact ⟨cores, fwd, groups, mem⟩

theorem beginStart_forwarding_fields : (beginStart 4 s).fab.fwd = 2 ∧ (beginStart 4 s).startup = { s.startup with fpSteps := [10] } ∧
    (beginStart 4 s).mem = s.mem ∧ (beginStart 4 s).cores = s.cores ∧ (beginStart 4 s).handles = s.handles ∧
    (beginStart 4 s).slotsFree = s.slotsFree := by
  have stopped := stopForwarding_workStands (s := saveLife s) (st := 2) (loud := true)
  have store := stopForwarding_storeStands (s := saveLife s) (st := 2) (loud := true)
  rw [beginStart_forwarding]
  generalize stopForwarding 2 true (saveLife s) = u at stopped store
  exact ⟨stopped.fwd, rfl, stopped.mem, stopped.cores, stopped.handles, store.slotsFree⟩

theorem beginStart_management_fields : (beginStart 6 s).startup.mgSteps = [1, 2, 3] ∧ (beginStart 6 s).startup.preopReady = false ∧
    (beginStart 6 s).mgmt.al = 1 ∧ (beginStart 6 s).mem = s.mem ∧ (beginStart 6 s).cores = s.cores ∧ (beginStart 6 s).fab = s.fab ∧
    (beginStart 6 s).groups = s.groups := by
  obtain ⟨m, o, x, c, ended⟩ := abandonHandles_handlesEnd (s := saveLife s)
  rw [beginStart_management, ended]
  exact ⟨rfl, rfl, rfl, rfl, rfl, rfl, rfl⟩

/-- R455: the reset of a core clears its store and its state, all but its vector length; nothing else changes. -/
theorem coreReset_frame (c : Nat) (u : State) : (coreReset c u).fab = u.fab ∧ (coreReset c u).handles = u.handles ∧
    (∀ k, k ≠ c → (coreReset c u).core k = u.core k) ∧
    (c < u.cores.length → ((coreReset c u).core c).mode = .off ∧ ((coreReset c u).core c).events = 0 ∧
      ((coreReset c u).core c).vlmax = (u.core c).vlmax) ∧
    ∀ x, x ∈ (coreReset c u).mem ↔ x ∈ u.mem ∧ (x.1 < storeAddr c 0 ∨ storeAddr c 0 + storeSize ≤ x.1) := by
  refine ⟨rfl, rfl, fun k hk => core_modCore_other (Ne.symm hk), fun hc => ?_, fun x => ?_⟩
  · have own : (coreReset c u).core c = { ({} : Core) with
        vlmax := (u.core c).vlmax, slotGens := (u.core c).slots.foldl (fun l e => incAt e.1 1 l) (u.core c).slotGens } := core_modCore_same hc
    rw [own]
    exact ⟨rfl, rfl, rfl⟩
  · simp [coreReset, State.modCore]

end

/-- Settles O41. Each kind is an accepted write of `reset` that nothing deeper covers; what it stops and what it leaves are the fields of its
start. -/
theorem resets : Obligations.Resets := by
  intro m a s hr
  have firmware : firmwareUp s = true := by
    unfold reaches at hr
    exact (Bool.and_eq_true_iff.1 hr).1
  refine ⟨fun hc hv => ?_, fun hc hv hn => ?_, fun hc hv => ?_, fun hc hv hs => ?_, fun hc hv => ?_, coreReset_frame, fun hc hv hs => ?_,
    fun hv hs => ?_⟩
  · have fields := beginStart_chip_fields (s := alone (setResp m 0 [] s))
    have run : resetRow 1 m a s = beginStart 1 (alone (setResp m 0 [] s)) := (resetRow_accepted hr hc (by decide)).trans (requestStart_chip hv)
    rw [← run] at fields
    obtain ⟨steps, kind, al, fwd, cores, handles, groups, mem, mram⟩ := fields
    exact ⟨resetRow 1 m a s, rfl, steps, kind, al, fwd, cores, handles, groups, by rw [mem]; exact mem_filter_hbm, mram⟩
  · have run : resetRow 2 m a s = beginStart 2 (mgAlone (setResp m 0 [] s)) :=
      (resetRow_accepted hr hc (by decide)).trans (resetNow_chipKept hn hv)
    have fields := beginStart_chipKept_fields (s := mgAlone (setResp m 0 [] s))
    rw [← run] at fields
    obtain ⟨steps, kind, al, fwd, cores, handles, mem⟩ := fields
    exact ⟨resetRow 2 m a s, rfl, steps, kind, al, fwd, cores, handles, by rw [mem]; exact mem_filter_hbm⟩
  · have run : resetRow 3 m a s = beginStart 3 (setResp m 0 [] s) := (resetRow_accepted hr hc (by decide)).trans (requestStart_compute hv)
    have fields := beginStart_compute_fields (s := setResp m 0 [] s)
    rw [← run] at fields
    obtain ⟨steps, kind, al, cores, fwd, groups, mem⟩ := fields
    exact ⟨resetRow 3 m a s, rfl, steps, kind, al, cores, fwd, groups, by rw [mem]; exact mem_filter_hbm,
      by rw [mem]; exact fun e he => ⟨List.mem_of_mem_filter he, of_decide_eq_true (List.mem_filter.1 he).2⟩⟩
  · have run : resetRow 4 m a s = beginStart 4 (setResp m 0 [] s) := (resetRow_accepted hr hc (by decide)).trans (requestStart_forwarding hv hs)
    have fields := beginStart_forwarding_fields (s := setResp m 0 [] s)
    rw [← run] at fields
    exact ⟨resetRow 4 m a s, rfl, fields⟩
  · have run : resetRow 5 m a s = resetNow 5 (ofLE (leBytes 1 a)) (setResp m 0 [] s) := resetRow_accepted hr hc (by decide)
    have open5 : coveredBy (setResp m 0 [] s) 5 = false := hv
    show Host.Outcome.next (resetRow 5 m a s) = _
    rw [run, resetNow, if_pos rfl, if_neg (by rw [open5]; exact Bool.false_ne_true)]
  · have run : resetRow 6 m a s = beginStart 6 (setResp m 0 [] s) := (resetRow_accepted hr hc (by decide)).trans (requestStart_management hv hs)
    have fields := beginStart_management_fields (s := setResp m 0 [] s)
    rw [← run] at fields
    exact ⟨resetRow 6 m a s, rfl, fields⟩
  · have fields := beginStart_management_fields (s := s)
    rw [← requestStart_management hv hs] at fields
    exact ⟨requestStart 6 s, congrArg Host.Outcome.next (if_pos firmware), fields⟩

end Sys2Proof.Machine


/-! SUPPORT. Rails, the reference, power-on, RESET_N and the steps of a start (R33, R39, R421, R422, R445 to R450). -/

namespace Sys2Proof.Machine

section
variable {s t : State} {r d n p : Nat}

/-! ## Rails (R421, R422) -/

theorem railGood_returned (hw : bitAt s.power.railWasGood.toNat r = true) : exec (.railGood r) s = .next { s with power := { s.power with
    rails := s.power.rails ||| BitVec.ofNat 9 (2 ^ r), railWasGood := s.power.railWasGood ||| BitVec.ofNat 9 (2 ^ r) } } :=
  congrArg Host.Outcome.next (if_pos (by rw [hw]; rfl))

theorem railAbsentTimeout_reported (hr : bitAt s.power.rails.toNat r = false) (hw : bitAt s.power.railWasGood.toNat r = false) :
    exec (.railAbsentTimeout r) s =
      .next (emcy 0xFF26 [r, 0, 0, s.power.rails.toNat % 256, s.power.rails.toNat / 256] s) :=
  congrArg Host.Outcome.next (if_neg (by rw [hr, hw]; exact Bool.false_ne_true))

/-- What the loss of a rail of the compute dies starts from: the rail is off and the trip record is written. -/
def railLogged (r : Nat) (s : State) : State :=
  let s1 : State := { s with power := { s.power with rails := s.power.rails &&& ~~~(railBit r) } }
  let a := nextFreeWord s1
  let b := nextFreeWord a.2
  logTrip (tripRecord s (0x8000 + r) 3 (sx 16 a.1.toNat) (sx 16 b.1.toNat)) b.2

theorem railLogged_planesStand : PlanesStand s (railLogged r s) := ⟨rfl, rfl, rfl, rfl, rfl, rfl, rfl, rfl⟩

theorem railLogged_rails : (railLogged r s).power.rails = s.power.rails &&& ~~~(railBit r) := rfl

theorem railLost_logged (hr : r < 2) (hb : bitAt s.power.rails.toNat r = true) (hu : s.startup.computeUp = true) :
    exec (.railLost r) s = .next (railEvent r 1 (railStops r (railLogged r s))) := by
  have used : railUsed s r = true := (if_pos (by omega)).trans hu
  show execRailLost r s = _
  rw [execRailLost, hb, if_neg (by decide), if_neg (by omega), used]
  rfl

theorem railStops_compute (hr : r < 2) : ∃ u, PlanesStand s u ∧ u.power = s.power ∧ railStops r s = forceSafeOp 0x8004 (stopCompute u) := by
  obtain rfl | rfl : r = 0 ∨ r = 1 := by omega
  · refine ⟨unreadStraps [0, 1, 2, 3] s, ⟨rfl, rfl, rfl, rfl, rfl, rfl, rfl, rfl⟩, rfl, ?_⟩
    generalize hu : unreadStraps [0, 1, 2, 3] s = u
    simp [railStops, hu]
  · exact ⟨s, .refl, rfl, by simp [railStops]⟩

theorem railLost_compute (hr : r < 2) (hb : bitAt s.power.rails.toNat r = true) (hu : s.startup.computeUp = true) :
    ∃ t, exec (.railLost r) s = .next t ∧ t.power.rails = s.power.rails &&& ~~~(BitVec.ofNat 9 (2 ^ r)) ∧ t.startup.computeUp = false ∧
      t.cores = List.replicate 160 {} ∧ t.mgmt.al ≠ 8 ∧ t.fab.fwd = s.fab.fwd ∧ t.mem = s.mem.filter (fun e => decide (e.1 < nearBase)) := by
  have logged := railLogged_planesStand (r := r) (s := s)
  have rails := railLogged_rails (r := r) (s := s)
  refine ⟨_, railLost_logged hr hb hu, ?_⟩
  generalize railLogged r s = v at logged rails
  obtain ⟨u, stand, power, stops⟩ := railStops_compute (s := v) hr
  obtain ⟨mem, -, fwd, -⟩ := stopCompute_leaves (s := u)
  obtain ⟨cores, down⟩ := stopCompute_stopped (s := u)
  have kept := stopCompute_power (s := u)
  rw [stops]
  generalize stopCompute u = w at mem fwd cores down kept
  have told : Reported w (railEvent r 1 (forceSafeOp 0x8004 w)) := forceSafeOp_reported.trans emcy_reported
  have al : (railEvent r 1 (forceSafeOp 0x8004 w)).mgmt.al ≠ 8 := by
    rw [railEvent, emcy_mgmtStands.al]
    exact forceSafeOp_al
  have work := told.workStands
  refine ⟨?_, ?_, ?_, al, ?_, ?_⟩
  · rw [told.power, kept, power]
    exact rails
  · rw [work.startup]
    exact down
  · rw [work.cores]
    exact cores
  · rw [work.fwd, fwd, stand.fwd, logged.fwd]
  · rw [work.mem, mem, stand.mem, logged.mem]

theorem railLost_standby (hb : bitAt s.power.rails.toNat 8 = true) : ∃ t, exec (.railLost 8) s = .next t ∧ t.mem = [] ∧ t.startup.steps = [] ∧
    t.cores = List.replicate 160 {} ∧ t.mram = s.mram ∧ t.fleet.softMap = s.fleet.softMap ∧ t.power.tripLog = s.power.tripLog ∧
    t.sec.fused = s.sec.fused := by
  refine ⟨_, congrArg Host.Outcome.next ((if_neg (by rw [hb]; decide)).trans (if_pos rfl)), ?_⟩
  exact ⟨rfl, rfl, rfl, rfl, rfl, rfl, rfl⟩

/-! ## PLLs, and the links between the dies (R33, R39) -/

theorem pllLockLost_compute (hd : d < 4) (hl : s.startup.refLost = false) (hi : (s.dies.getD d { strap := 0 }).isolated = false) :
    exec (.pllLockLost d) s =
      .next (emcy 0xFF03 [d] { s with dies := s.dies.modify d fun x => { x with isolated := true, pllLocked := false } }) := by
  show execPllLockLost d s = _
  rw [execPllLockLost, if_neg (by rw [hl, hi]; simp; omega)]
  dsimp only
  rw [if_pos hd]

/-- The window of replays grows by at most the one that came. -/
theorem recentReplays_length (k g : Nat) (s : State) (h : (s.d2d.getD k {}).recent.length < 1000) :
    ¬ 1000 < (({ s with d2d := s.d2d.modify k fun d =>
      { d with recent := (s.now, g) :: d.recent.filter (fun e => decide (s.now < e.1 + 1000000)), counts := incAt g 1 d.counts } } :
      State).d2d.getD k {}).recent.length := by
  by_cases hk : k < s.d2d.length
  · rw [getD_modify_same hk]
    have filtered := List.length_filter_le (fun e : Nat × Nat => decide (s.now < e.1 + 1000000)) (s.d2d.getD k {}).recent
    simp only [List.length_cons]
    omega
  · rw [List.modify_eq_self (Nat.le_of_not_lt hk)]
    exact Nat.not_lt.2 (Nat.le_of_lt h)

theorem d2dCrcReplay_counted {l g : Nat} {rev : Bool} (h : (s.d2d.getD (2 * l + b2n rev) {}).recent.length < 1000) :
    exec (.d2dCrcReplay l rev g) s = .next { s with d2d := s.d2d.modify (2 * l + b2n rev) fun d =>
      { d with recent := (s.now, g) :: d.recent.filter (fun e => decide (s.now < e.1 + 1000000)), counts := incAt g 1 d.counts } } :=
  congrArg Host.Outcome.next (if_neg (recentReplays_length _ g s h))

/-! ## Power-on (R448) -/

theorem powerOn_cold (hl : s.startup.resetLow = false) : ∃ t, exec .powerOn s = .next t ∧
    t.startup.steps = [1, 2, 3, 4, 5, 6, 7, 8, 9, 10, 11] ∧ t.startup.kind = 0 ∧ t.mem = [] ∧ t.cores = List.replicate 160 {} ∧
    t.mgmt.al = 1 ∧ t.mram = s.mram ∧ t.sec.keys = s.sec.keys ∧ t.test.mode = false := by
  refine ⟨_, congrArg Host.Outcome.next (if_neg (by rw [hl]; exact Bool.false_ne_true)), ?_⟩
  exact ⟨rfl, rfl, rfl, rfl, rfl, rfl, rfl, rfl⟩

/-! ## The reference is lost (R33, R39) -/

/-- A port whose light has not gone for good goes dark with the reference. -/
def shutLit (t : State) (p : Nat) : State := if (t.port p).safety = 4 then t else shutdown p 2 t

/-- The port is shut down, or off for good. -/
def Dark (t : State) (p : Nat) : Prop := (t.port p).safety = 1 ∨ (t.port p).safety = 4

theorem shutdown_other {c q : Nat} (h : p ≠ q) : (shutdown p c t).port q = t.port q :=
  shutdown_reported.port.trans ((port_modPort_other h).trans lightsOff_lasered.port)

theorem shutLit_own (hp : p < t.ports.length) : Dark (shutLit t p) p := by
  unfold Dark shutLit
  split
  · rename_i off
    exact .inr off
  · rw [shutdown_port hp]
    exact .inl rfl

theorem shutLit_dark {q : Nat} (hp : p < t.ports.length) (hq : Dark t q) : Dark (shutLit t p) q := by
  by_cases h : p = q
  · subst h
    exact shutLit_own hp
  · unfold Dark shutLit
    split
    · exact hq
    · rw [shutdown_other h]
      exact hq

theorem shutLit_workStands : WorkStands t (shutLit t p) := .ite .refl shutdown_workStands

theorem shutLit_length : (shutLit t p).ports.length = t.ports.length := by
  unfold shutLit
  split
  · rfl
  · obtain ⟨m, o, told⟩ := shutdown_reported (p := p) (cause := 2) (s := t)
    obtain ⟨x, lit⟩ := lightsOff_lasered (mode := 1) (p := p) (s := t)
    rw [told, lit]
    exact modPort_length

theorem shutAll_dark {l : List Nat} (hl : ∀ p ∈ l, p < t.ports.length) : ∀ p, p ∈ l ∨ Dark t p → Dark (l.foldl shutLit t) p := by
  induction l generalizing t with
  | nil => exact fun p hp => hp.resolve_left List.not_mem_nil
  | cons a l ih =>
    intro p hp
    have own : a < t.ports.length := hl a List.mem_cons_self
    refine ih (fun q hq => shutLit_length.symm ▸ hl q (List.mem_cons_of_mem a hq)) p ?_
    obtain hp | dark := hp
    · obtain rfl | later := List.mem_cons.1 hp
      · exact .inr (shutLit_own own)
      · exact .inl later
    · exact .inr (shutLit_dark own dark)

theorem darkEports_port {l : List Nat} : (darkEports l t).port p = t.port p := by
  refine List.foldlRecOn l _ (motive := fun u : State => u.port p = t.port p) rfl fun u hu n _ => ?_
  show (eDown n 0xFF u).port p = t.port p
  unfold eDown
  split
  · exact emcy_reported.port.trans hu
  · exact hu

/-- The data planes as the reference goes: the compute plane stops, then the forwarding plane. -/
def clockLost (s : State) : State :=
  stopForwarding 0 false (forceSafeOp 0x8004 (stopCompute { s with startup := { s.startup with refLost := true, needFull := true } }))

theorem clockLost_fields : (clockLost s).startup.refLost = true ∧ (clockLost s).startup.needFull = true ∧ (clockLost s).fab.fwd = 0 ∧
    (clockLost s).cores = List.replicate 160 {} ∧ (clockLost s).mem = s.mem.filter (fun e => decide (e.1 < nearBase)) ∧
    (s.ports.length = 32 → (clockLost s).ports.length = 32) := by
  have stopped := stopCompute_leaves (s := { s with startup := { s.startup with refLost := true, needFull := true } })
  have cores := (stopCompute_stopped (s := { s with startup := { s.startup with refLost := true, needFull := true } })).1
  have ports := (stopForwarding_keeps (st := 0) (loud := false) (forceSafeOp_keeps (code := 0x8004) (stopCompute_keeps (ask := lasting .refclockLost)
    (Keeps.refl (s := { s with startup := { s.startup with refLost := true, needFull := true } }))))).ports
  obtain ⟨mem, startup, -⟩ := stopped
  unfold clockLost
  generalize stopCompute { s with startup := { s.startup with refLost := true, needFull := true } } = u at mem startup cores ports
  have safe := (forceSafeOp_reported (n := 0x8004) (s := u)).workStands
  generalize forceSafeOp 0x8004 u = v at safe ports
  have quiet := stopForwarding_quiet_workStands (s := v) (st := 0)
  generalize stopForwarding 0 false v = w at quiet ports
  have began : w.startup = { s.startup with refLost := true, needFull := true, computeUp := false } :=
    quiet.startup.trans (safe.startup.trans startup)
  refine ⟨by rw [began], by rw [began], quiet.fwd, quiet.cores.trans (safe.cores.trans cores), quiet.mem.trans (safe.mem.trans mem), ports⟩

theorem refclockLost_dark (hl : s.startup.refLost = false) (hp : s.ports.length = 32) : ∃ t, exec .refclockLost s = .next t ∧
    t.startup.refLost = true ∧ t.startup.needFull = true ∧ t.fab.fwd = 0 ∧ t.cores = List.replicate 160 {} ∧
    (∀ p < 32, (t.port p).safety = 1 ∨ (t.port p).safety = 4) ∧ t.mem = s.mem.filter (fun e => decide (e.1 < nearBase)) := by
  have run : exec .refclockLost s = .next (emcy 0xFF02 [] (darkEports [0, 1, 2, 3] ((List.range 32).foldl shutLit (clockLost s)))) :=
    congrArg Host.Outcome.next (if_neg (by rw [hl]; exact Bool.false_ne_true))
  obtain ⟨refLost, needFull, fwd, cores, mem, ports⟩ := clockLost_fields (s := s)
  refine ⟨_, run, ?_⟩
  generalize clockLost s = w at refLost needFull fwd cores mem ports
  have dark : ∀ p < 32, Dark ((List.range 32).foldl shutLit w) p := fun p h =>
    shutAll_dark (fun q hq => ports hp ▸ List.mem_range.1 hq) p (.inl (List.mem_range.2 h))
  have off : WorkStands w ((List.range 32).foldl shutLit w) := .foldl fun _ _ => shutLit_workStands
  generalize (List.range 32).foldl shutLit w = x at dark off
  have told : WorkStands w (emcy 0xFF02 [] (darkEports [0, 1, 2, 3] x)) := emcy_reported.workStands.after (darkEports_workStands.after off)
  refine ⟨by rw [told.startup, refLost], by rw [told.startup, needFull], told.fwd.trans fwd, told.cores.trans cores, fun p h => ?_,
    told.mem.trans mem⟩
  rw [emcy_reported.port, darkEports_port]
  exact dark p h

/-! ## RESET_N (R449) -/

/-- What RESET_N stops before the device is awake again: HBM and near memory, the job, MD, the forwarding plane and the XDs. -/
def pinHeld (s : State) : State := xdsRestarted false (cutHbm (chipCleared s))

/-- The records of the run that RESET_N clears. -/
def pinBlank (s : State) : State :=
  { odKeep (fun l => l == .stored) s with
    corrTimes := [], corrOver := [], lanes := [], flagged := [], margin := []
    mgmt := { s.mgmt with emcyTimes := [], coalesced := 0, heldEmcy := [], checkLog := [], saves := [] }
    d2d := List.replicate 24 {}
    fleet := { s.fleet with suspect := false }
    power := { s.power with capCeil := 16, slewCeil := 16, pinCeil := 16, pin := false, clamp := false, limiterFault := false, stepUpAt := none,
                            stepDownAt := none, demand := 0, ballast := 0, releaseSince := none }
    startup := { s.startup with steps := [], fpSteps := [], mgSteps := [], heldLinks := [] } }

theorem pinStop_held : pinStop s = awake (pinBlank (pinHeld s)) := by
  unfold pinStop
  extract_lets held keep
  have named : pinHeld s = held := rfl
  rw [named]
  clear_value held
  rfl

theorem pinBlank_planesStand : PlanesStand s (pinBlank s) := ⟨rfl, rfl, rfl, rfl, rfl, rfl, rfl, rfl⟩

theorem xdsRestarted_resetLow {keep : Bool} : (xdsRestarted keep s).startup.resetLow = s.startup.resetLow := by
  have stopped := (stopForwarding_quiet_workStands (s := s) (st := 0)).startup
  unfold xdsRestarted
  generalize stopForwarding 0 false s = u at stopped
  show u.startup.resetLow = s.startup.resetLow
  rw [stopped]

theorem chipCleared_resetLow : (chipCleared s).startup.resetLow = s.startup.resetLow := by
  have startup := (stopCompute_leaves (s := s)).2.1
  unfold chipCleared
  generalize stopCompute s = u at startup
  show u.startup.resetLow = s.startup.resetLow
  rw [startup]

theorem pinHeld_fields : (pinHeld s).cores = List.replicate 160 {} ∧ (pinHeld s).fab.fwd = 0 ∧ (pinHeld s).mram = s.mram ∧
    (pinHeld s).mem = (s.mem.filter fun e => decide (e.1 < nearBase)).filter (fun e => decide (hbmTop ≤ e.1)) ∧
    (pinHeld s).power = s.power ∧ (pinHeld s).startup.resetLow = s.startup.resetLow := by
  obtain ⟨mem, -, mram, power⟩ := chipCleared_leaves (s := s)
  obtain ⟨cores, -, groups, -⟩ := chipCleared_cleared (s := s)
  have low := chipCleared_resetLow (s := s)
  unfold pinHeld
  generalize chipCleared s = u at mem mram power cores groups low
  have on := xdsRestarted_planesStand (keep := false) (s := cutHbm u) groups
  exact ⟨on.cores.trans cores, on.fwd, on.mram.trans mram, on.mem.trans (congrArg (List.filter _) mem), xdsRestarted_power.trans power,
    xdsRestarted_resetLow.trans low⟩

theorem pinStop_fields : (pinStop s).cores = List.replicate 160 {} ∧ (pinStop s).fab.fwd = 0 ∧ (pinStop s).mram = s.mram ∧
    (pinStop s).mem = (s.mem.filter fun e => decide (e.1 < nearBase)).filter (fun e => decide (hbmTop ≤ e.1)) ∧
    (pinStop s).power.tripped = s.power.tripped ∧ (pinStop s).power.tripping = s.power.tripping ∧ (pinStop s).startup.steps = [] ∧
    (pinStop s).startup.resetLow = s.startup.resetLow := by
  obtain ⟨cores, fwd, mram, mem, power, low⟩ := pinHeld_fields (s := s)
  rw [pinStop_held]
  generalize pinHeld s = u at cores fwd mram mem power low
  have on : PlanesStand u (awake (pinBlank u)) := awake_planesStand.after pinBlank_planesStand
  obtain ⟨n, woken⟩ := awake_power (s := pinBlank u)
  have startup := awake_startup (s := pinBlank u)
  refine ⟨on.cores.trans cores, on.fwd.trans fwd, on.mram.trans mram, on.mem.trans mem, ?_, ?_, ?_, ?_⟩
  · rw [woken]
    show u.power.tripped = s.power.tripped
    rw [power]
  · rw [woken]
    show u.power.tripping = s.power.tripping
    rw [power]
  · rw [startup]
    rfl
  · rw [startup]
    exact low

theorem resetNAssert_stopped (hl : s.startup.resetLow = false) : ∃ t, exec .resetNAssert s = .next t ∧ t.startup.resetLow = true ∧
    t.startup.steps = [] ∧ t.cores = List.replicate 160 {} ∧ t.fab.fwd = 0 ∧ t.test.mode = false ∧ t.mram = s.mram ∧
    ∀ e ∈ t.mem, hbmTop ≤ e.1 ∧ e.1 < nearBase := by
  obtain ⟨cores, fwd, mram, mem, -, -, steps, -⟩ := pinStop_fields (s := s)
  refine ⟨_, congrArg Host.Outcome.next (if_neg (by rw [hl]; exact Bool.false_ne_true)), ?_⟩
  generalize pinStop s = u at cores fwd mram mem steps
  refine ⟨rfl, steps, cores, fwd, rfl, mram, fun e he => ?_⟩
  have held : e ∈ u.mem := he
  rw [mem] at held
  obtain ⟨near, top⟩ := List.mem_filter.1 held
  exact ⟨of_decide_eq_true top, of_decide_eq_true (List.mem_filter.1 near).2⟩

/-- A start from the pin, by what the pin leaves: all steps, or those of MD alone while a trip lasts. -/
def pinStarted (t : State) : State :=
  if t.power.tripped || t.power.tripping then countStart { t with startup := { t.startup with mgSteps := [1, 2, 3], mgCause := 7 } }
  else setSteps 7 t

theorem beginStart_pin : beginStart 7 s = pinStarted (endTest (pinStop (saveLife s))) := rfl

theorem pinStarted_all (ht : t.power.tripped = false) (hg : t.power.tripping = false) : pinStarted t = setSteps 7 t :=
  if_neg (by rw [ht, hg]; exact Bool.false_ne_true)

theorem pinStarted_tripped (ht : t.power.tripped = true) : pinStarted t =
    countStart { t with startup := { t.startup with mgSteps := [1, 2, 3], mgCause := 7 } } :=
  if_pos (by rw [ht]; rfl)

theorem pinStarted_resetLow : (pinStarted t).startup.resetLow = t.startup.resetLow := by
  unfold pinStarted
  split
  · rfl
  · rfl

theorem resetNRelease_started (hl : s.startup.resetLow = true) : ∃ t, exec .resetNRelease s = .next t ∧ t.startup.resetLow = false ∧
    (s.power.tripped = false → s.power.tripping = false → t.startup.steps = [1, 2, 3, 4, 5, 6, 7, 8, 9, 10, 11] ∧ t.startup.kind = 7) ∧
    (s.power.tripped = true → t.startup.mgSteps = [1, 2, 3] ∧ t.startup.steps = [] ∧ t.power.tripped = true) := by
  have run : exec .resetNRelease s = .next (beginStart 7 { s with startup := { s.startup with resetLow := false } }) :=
    congrArg Host.Outcome.next (if_pos hl)
  obtain ⟨-, -, -, -, tripped, tripping, steps, low⟩ := pinStop_fields (s := saveLife { s with startup := { s.startup with resetLow := false } })
  refine ⟨_, run, ?_⟩
  rw [beginStart_pin]
  generalize pinStop (saveLife { s with startup := { s.startup with resetLow := false } }) = u at tripped tripping steps low
  refine ⟨pinStarted_resetLow.trans low, fun ht hg => ?_, fun ht => ?_⟩
  · rw [pinStarted_all (t := endTest u) (tripped.trans ht) (tripping.trans hg)]
    exact ⟨rfl, rfl⟩
  · rw [pinStarted_tripped (t := endTest u) (tripped.trans ht)]
    exact ⟨rfl, steps, tripped.trans ht⟩

/-! ## The steps of a start (R445 to R447) -/

variable {rep : StepReport} {l : List Nat}

/-- The main start goes on: step `n` has its effect, with the steps `l` still to come. -/
def stepped (rep : StepReport) (n : Nat) (l : List Nat) (s : State) : State :=
  stepEffect n s.startup.kind rep { s with startup := { s.startup with steps := l } }

theorem startUpStepDone_main (hm : s.startup.mgSteps = []) (hf : s.startup.fpSteps = []) :
    exec (.startUpStepDone rep) s = .next (mainStep rep s) := by
  show execStartUpStepDone rep s = _
  rw [execStartUpStepDone, hm, hf]
  rfl

theorem mainStep_between (hs : s.startup.steps = n :: l) (hn : n ≠ 2) (hl : l ≠ []) : mainStep rep s = stepped rep n l s := by
  unfold mainStep
  rw [hs]
  dsimp only
  rw [if_neg fun h => hn h.2, if_neg fun h => hl (List.isEmpty_iff.1 h)]
  rfl

theorem mainStep_bootstrap (hs : s.startup.steps = 2 :: l) (ho : mramOk s = false) : mainStep rep s =
    { s with mgmt := { s.mgmt with al := 3 }, startup := { s.startup with steps := [], preopReady := false } } := by
  have failed : verifyImage { s with startup := { s.startup with steps := l } } =
      { s with mgmt := { s.mgmt with al := 3 }, startup := { s.startup with steps := l, preopReady := false } } :=
    if_neg fun h => Bool.false_ne_true (ho.symm.trans h)
  have effect : stepEffect 2 s.startup.kind rep { s with startup := { s.startup with steps := l } } =
      { s with mgmt := { s.mgmt with al := 3 }, startup := { s.startup with steps := l, preopReady := false } } := failed
  unfold mainStep
  rw [hs]
  dsimp only
  rw [effect, if_pos ⟨rfl, rfl⟩]

theorem mainStep_last (hs : s.startup.steps = [n]) (hn : n ≠ 2) (hk : s.startup.kind ≠ 10) :
    mainStep rep s = startReport (stepped rep n [] s).startup.cause rep.ms (reachPreop (stepped rep n [] s)) := by
  unfold mainStep
  rw [hs]
  dsimp only
  rw [if_neg fun h => hn h.2, if_pos List.isEmpty_nil, if_neg hk]
  rfl

theorem readStraps_dies {k : List Nat} : ∃ x, readStraps k s = { s with dies := x } := by
  unfold readStraps
  split
  · exact ⟨s.dies, rfl⟩
  · exact ⟨_, rfl⟩

theorem pinCheck_reported : ∃ b c, Reported { s with power := { s.power with pin := b, pinCeil := c } } (pinCheck s) := by
  unfold pinCheck
  split
  · exact ⟨true, 4, emcy_reported⟩
  · exact ⟨s.power.pin, s.power.pinCeil, .refl⟩

theorem stepped_near (ho : computeMay s = true) : (stepped rep 7 l s).startup.steps = l ∧
    (stepped rep 7 l s).mem = s.mem.filter (fun e => decide (e.1 < nearBase)) ∧ (stepped rep 7 l s).power.refresh = List.replicate 4 8 := by
  obtain ⟨x, read⟩ := readStraps_dies (s := { s with startup := { s.startup with steps := l } }) (k := rep.straps)
  have effect : stepped rep 7 l s = pinCheck (startNear (readStraps rep.straps { s with startup := { s.startup with steps := l } })) := rfl
  have near : startNear { s with startup := { s.startup with steps := l }, dies := x } = _ := if_pos ho
  rw [effect, read, near]
  generalize hv : ({ cutCompute { s with startup := { s.startup with steps := l }, dies := x } with power := _ } : State) = v
  obtain ⟨b, c, told⟩ := pinCheck_reported (s := v)
  have work := told.workStands
  rw [work.startup, work.mem, work.power]
  subst hv
  exact ⟨rfl, rfl, rfl⟩

theorem startReport_reported {cause ms : Nat} : Reported s (startReport cause ms s) := by
  unfold startReport
  dsimp only
  split
  · exact ⟨_, _, rfl⟩
  · exact emcy_reported

theorem startUp_ended (hs : s.startup.steps = [11]) (hk : s.startup.kind ≠ 10) : (mainStep rep s).startup.steps = [] ∧
    (mainStep rep s).startup.preopReady = true ∧ (mainStep rep s).mem = s.mem ∧ (mainStep rep s).cores = s.cores := by
  obtain ⟨x, read⟩ := readStraps_dies (s := { s with startup := { s.startup with steps := [] } }) (k := rep.straps)
  have effect : stepped rep 11 [] s = { s with startup := { s.startup with steps := [] }, dies := x } := read
  have told := (startReport_reported (s := reachPreop (stepped rep 11 [] s)) (cause := (stepped rep 11 [] s).startup.cause)
    (ms := rep.ms)).workStands
  rw [mainStep_last hs (by decide) hk, told.startup, told.mem, told.cores, effect]
  exact ⟨rfl, rfl, rfl, rfl⟩

end

/-- Settles O57. Rails, the reference and the PLLs by what each stops; power-on and RESET_N by the steps that they begin; and the main start by
the effect of the step that ends. -/
theorem railsAndStarts : Obligations.RailsAndStarts := by
  refine ⟨fun _ _ => railGood_returned, fun _ _ => railAbsentTimeout_reported, fun s r hr hb hu => ?_, fun _ => railLost_standby,
    fun s hl hp => ?_, fun _ => rfl, fun _ _ => pllLockLost_compute, fun _ _ _ _ => d2dCrcReplay_counted, fun _ => powerOn_cold,
    fun _ => resetNAssert_stopped, fun _ => resetNRelease_started, fun s r n l hm hf hs => ?_⟩
  · obtain ⟨t, run, rails, down, cores, al, fwd, mem⟩ := railLost_compute hr hb hu
    exact ⟨t, run, rails, down, cores, al, fwd, by rw [mem]; exact mem_filter_hbm,
      by rw [mem]; exact fun e he => of_decide_eq_true (List.mem_filter.1 he).2⟩
  · obtain ⟨t, run, refLost, needFull, fwd, cores, dark, mem⟩ := refclockLost_dark hl hp
    exact ⟨t, run, refLost, needFull, fwd, cores, dark, by rw [mem]; exact mem_filter_hbm⟩
  · rw [startUpStepDone_main hm hf]
    refine ⟨fun hn hl => ?_, fun hn ho => ?_, fun hn hl ho => ?_, fun hn hl hk => ?_⟩
    · subst hn
      rw [mainStep_between hs (by decide) hl]
      rfl
    · subst hn
      rw [mainStep_bootstrap hs ho]
      exact ⟨_, rfl, rfl, rfl, rfl⟩
    · subst hn
      obtain ⟨steps, mem, refresh⟩ := stepped_near (rep := r) (l := l) ho
      rw [mainStep_between hs (by decide) hl]
      exact ⟨_, rfl, steps, by rw [mem]; exact fun e he => of_decide_eq_true (List.mem_filter.1 he).2, refresh⟩
    · subst hn hl
      exact ⟨_, rfl, startUp_ended hs hk⟩

end Sys2Proof.Machine
